-- ==== Sys2Proof/Word.lean ====
section
/-! DEFINITION. The words of the machine: bytes, registers, lane masks (R3, R4), and the plainest operations on them. -/

namespace Sys2Proof

/-- One byte of any store. -/
abbrev Byte := BitVec 8
/-- One 32-bit register of one lane, or one registered memory word (R82, R118). -/
abbrev W32 := BitVec 32
/-- One s-register, one instruction word, one address (R82, R101, R264). -/
abbrev W64 := BitVec 64
/-- A set of the 32 lanes of a skein (R20): bit l is lane l. -/
abbrev Mask := BitVec 32

/-- The lanes of a mask in ascending order (R8). -/
def Mask.lanes (m : Mask) : List Nat := (List.range 32).filter fun l => m.getLsbD l
/-- The mask that holds lane `l` alone. -/
def Mask.lane (l : Nat) : Mask := 1#32 <<< l
/-- The mask of the lanes of a list. -/
def Mask.ofLanes (ls : List Nat) : Mask := ls.foldl (fun m l => m ||| Mask.lane l) 0#32
/-- Lanes of `a` that are not in `b`. -/
def Mask.diff (a b : Mask) : Mask := a &&& ~~~b
/-- The lowest lane of a mask; 0 when it holds none. -/
def Mask.lowest (m : Mask) : Nat := (Mask.lanes m).headD 0
/-- The number of lanes of a mask. -/
def Mask.count (m : Mask) : Nat := (Mask.lanes m).length

/-- `Bits(x, hi, lo)` of R8 on an unbounded natural. -/
def bitsNat (x hi lo : Nat) : Nat := (x / 2 ^ lo) % 2 ^ (hi + 1 - lo)
/-- `SExt(x, ·)` of R8 as an integer: the low `n` bits of `x` read as two's complement. -/
def sextInt (n x : Nat) : Int :=
  let y := x % 2 ^ n
  if y < 2 ^ (n - 1) then (y : Int) else (y : Int) - (2 ^ n : Nat)
/-- An integer modulo 2^n, as a natural (R9). -/
def wrapNat (n : Nat) (x : Int) : Nat := (x % (2 ^ n : Nat)).toNat

/-- Little-endian value of bytes (R4): the byte at the lowest address holds bits [7:0]. -/
def ofBytesLE : List Byte → Nat
  | [] => 0
  | b :: bs => b.toNat + 256 * ofBytesLE bs
/-- The `n` bytes of a value, lowest first (R4). -/
def toBytesLE : Nat → Nat → List Byte
  | 0, _ => []
  | n + 1, x => BitVec.ofNat 8 x :: toBytesLE n (x / 256)

end Sys2Proof
end

