-- ==== Sys2Proof/Machine/Digest.lean ====
section
/-! DEFINITION. The digest and the signature that R247, R261, R262 and R289 name: SHAKE256 with 64 bytes of output (FIPS 202) and the check of an
ML-DSA-65 signature with an empty context (FIPS 204). The specification gives the two names; the algorithms are those standards' (log 116). -/

namespace Sys2Proof.Machine

/-! ## Keccak-f[1600] and the sponge -/

/-- The rotation of each lane of step ρ, by x + 5y. -/
def keccakRot : List Nat := [0, 1, 62, 28, 27, 36, 44, 6, 55, 20, 3, 10, 43, 25, 39, 41, 45, 15, 21, 8, 18, 2, 61, 56, 14]
/-- The round constants of step ι. -/
def keccakRc : List W64 :=
  [0x0000000000000001, 0x0000000000008082, 0x800000000000808A, 0x8000000080008000, 0x000000000000808B, 0x0000000080000001,
   0x8000000080008081, 0x8000000000008009, 0x000000000000008A, 0x0000000000000088, 0x0000000080008009, 0x000000008000000A]
  ++ [0x000000008000808B, 0x800000000000008B, 0x8000000000008089, 0x8000000000008003, 0x8000000000008002, 0x8000000000000080,
   0x000000000000800A, 0x800000008000000A, 0x8000000080008081, 0x8000000000008080, 0x0000000080000001, 0x8000000080008008]
/-- One round on the 25 lanes, lane x + 5y at that index. -/
def keccakRound (a : List W64) (rc : W64) : List W64 :=
  let col := (List.range 5).map fun x => (List.range 5).foldl (fun (v : W64) y => v ^^^ a.getD (x + 5 * y) 0) 0
  let theta := (List.range 5).map fun x => col.getD ((x + 4) % 5) 0 ^^^ (col.getD ((x + 1) % 5) 0).rotateLeft 1
  let b := (List.range 25).map fun i =>
    let src := (i % 5 + 3 * (i / 5)) % 5 + 5 * (i % 5)
    (a.getD src 0 ^^^ theta.getD (src % 5) 0).rotateLeft (keccakRot.getD src 0)
  (List.range 25).map fun i =>
    let at_ (d : Nat) : W64 := b.getD ((i + d) % 5 + 5 * (i / 5)) 0
    let v := b.getD i 0 ^^^ (~~~(at_ 1) &&& at_ 2)
    if i == 0 then v ^^^ rc else v
def keccakF (a : List W64) : List W64 := keccakRc.foldl keccakRound a

/-- The eight-byte lanes of some bytes. -/
def lanesLE (n : Nat) (bs : List Byte) : List W64 := (List.range n).map fun i => BitVec.ofNat 64 (ofBytesLE ((bs.drop (8 * i)).take 8))
/-- Blocks of `rate` bytes are absorbed in turn. -/
def absorb (rate : Nat) : Nat → List W64 → List Byte → List W64
  | 0, a, _ => a
  | n + 1, a, bs => absorb rate n (keccakF (a.zipWith (· ^^^ ·) (lanesLE (rate / 8) bs ++ List.replicate (25 - rate / 8) 0))) (bs.drop rate)
/-- `n` blocks of output. -/
def squeeze (rate : Nat) : Nat → List W64 → List Byte
  | 0, _ => []
  | n + 1, a => ((a.take (rate / 8)).flatMap fun x => toBytesLE 8 x.toNat) ++ squeeze rate n (keccakF a)
/-- SHAKE of a rate (136 for SHAKE256, 168 for SHAKE128) with `n` bytes of output. -/
def shake (rate : Nat) (bs : List Byte) (n : Nat) : List Byte :=
  let gap := rate - bs.length % rate
  let pad : List Byte := if gap == 1 then [0x9F] else [0x1F] ++ List.replicate (gap - 2) 0 ++ [0x80]
  (squeeze rate ((n + rate - 1) / rate) (absorb rate (bs.length / rate + 1) (List.replicate 25 0) (bs ++ pad))).take n
/-- SHAKE256 with 64 bytes of output. -/
def shake256 (bs : List Byte) : List Byte := shake 136 bs 64

/-! ## ML-DSA-65: polynomials of 256 coefficients modulo q -/

def mldsaQ : Nat := 8380417
/-- Bits of `n` values of `w` bits each, packed from the lowest bit up. -/
def unpackBits (w n : Nat) (bs : List Byte) : List Nat :=
  let x := ofBytesLE bs
  (List.range n).map fun i => x / 2 ^ (w * i) % 2 ^ w
def polyAdd (a b : List Nat) : List Nat := a.zipWith (fun x y => (x + y) % mldsaQ) b
def polySub (a b : List Nat) : List Nat := a.zipWith (fun x y => (x + mldsaQ - y) % mldsaQ) b
def polyMul (a b : List Nat) : List Nat := a.zipWith (fun x y => x * y % mldsaQ) b
/-- The eight bits of a number reversed. -/
def brv8 (k : Nat) : Nat := (List.range 8).foldl (fun r i => 2 * r + k / 2 ^ i % 2) 0
/-- ζ to a power, by squaring, modulo q. -/
def powQ (x : Nat) : Nat → Nat → Nat
  | 0, _ => 1
  | n + 1, e => (if e % 2 == 1 then x else 1) * powQ (x * x % mldsaQ) n (e / 2) % mldsaQ
def zetaQ (k : Nat) : Nat := powQ 1753 8 (brv8 k)
/-- A layer of the transform that works on blocks of `2 · len` coefficients, with a butterfly for each block. -/
def nttLayer (len : Nat) (fly : Nat → List Nat → List Nat → List Nat) (a : List Nat) : List Nat :=
  (List.range (128 / len)).flatMap fun b => fly b ((a.drop (2 * len * b)).take len) ((a.drop (2 * len * b + len)).take len)
def ntt (a : List Nat) : List Nat :=
  [128, 64, 32, 16, 8, 4, 2, 1].foldl (fun a len => nttLayer len (fun b lo hi =>
    let z := zetaQ (128 / len + b)
    let t := hi.map fun x => z * x % mldsaQ
    polyAdd lo t ++ polySub lo t) a) a
def nttInv (a : List Nat) : List Nat :=
  ([1, 2, 4, 8, 16, 32, 64, 128].foldl (fun a len => nttLayer len (fun b lo hi =>
    let z := mldsaQ - zetaQ (256 / len - 1 - b)
    polyAdd lo hi ++ (polySub lo hi).map fun x => z * x % mldsaQ) a) a).map fun x => x * 8347681 % mldsaQ
/-- The coefficients below q among the 23-bit values of a stream's three-byte groups. -/
def rejNtt : Nat → List Byte → List Nat
  | 0, _ => []
  | n + 1, bs =>
    let z := ofBytesLE (bs.take 3) % 2 ^ 23
    (if z < mldsaQ then [z] else []) ++ rejNtt n (bs.drop 3)
/-- Entry (r, s) of the matrix, in the transformed domain. -/
def expandA (rho : List Byte) (r s : Nat) : List Nat :=
  (rejNtt 448 (shake 168 (rho ++ [BitVec.ofNat 8 s, BitVec.ofNat 8 r]) 1344)).take 256
/-- The challenge: from coefficient `i` on, each byte not above `i` of the stream takes a sign. -/
def sampleBall (signs : Nat) : Nat → List Byte → List Nat → List Nat
  | _, [], c => c
  | i, b :: bs, c =>
    if 256 ≤ i then c
    else if i < b.toNat then sampleBall signs i bs c
    else
      let x := if signs / 2 ^ (i + 49 - 256) % 2 == 1 then mldsaQ - 1 else 1
      sampleBall signs (i + 1) bs ((c.set i (c.getD b.toNat 0)).set b.toNat x)
def challenge (seed : List Byte) : List Nat :=
  let h := shake 136 seed 544
  sampleBall (ofBytesLE (h.take 8)) 207 (h.drop 8) (List.replicate 256 0)

/-! ## The signature's parts -/

/-- The hint: for each of the six polynomials its positions, rising; none where the bytes are no hint. -/
def hints (y : List Byte) : Option (List (List Nat)) :=
  let ends := (List.range 6).map fun i => (y.getD (55 + i) 0).toNat
  let starts := 0 :: ends
  let pos (i : Nat) : List Nat := ((y.drop (starts.getD i 0)).take (ends.getD i 0 - starts.getD i 0)).map (·.toNat)
  let rises (l : List Nat) : Bool := (l.zip (l.drop 1)).all fun (a, b) => a < b
  if (List.range 6).all (fun i => starts.getD i 0 ≤ ends.getD i 0 && ends.getD i 0 ≤ 55 && rises (pos i))
      && ((y.take 55).drop (ends.getD 5 0)).all (· == 0)
  then some ((List.range 6).map pos) else none
/-- The high part of a coefficient, corrected by its hint: γ2 is (q − 1) / 32. -/
def useHint (hint : Bool) (r : Nat) : Nat :=
  let g := 261888
  let low := r % (2 * g)
  let r0 : Int := if low > g then (low : Int) - (2 * g : Nat) else low
  let top : Bool := (r : Int) - r0 == ((mldsaQ - 1 : Nat) : Int)
  let r1 : Nat := if top then 0 else (((r : Int) - r0) / (2 * g : Nat)).toNat
  let r0 := if top then r0 - 1 else r0
  if !hint then r1 else if r0 > 0 then (r1 + 1) % 16 else (r1 + 15) % 16
/-- Is this an ML-DSA-65 signature of a message under a public key, with an empty context? -/
def mldsaValid (key msg sig : List Byte) : Bool :=
  let rho := key.take 32
  let t1 := (List.range 6).map fun i => unpackBits 10 256 ((key.drop (32 + 320 * i)).take 320)
  let seed := sig.take 48
  let zs : List (List Int) := (List.range 5).map fun i => (unpackBits 20 256 ((sig.drop (48 + 640 * i)).take 640)).map fun (v : Nat) => (2 ^ 19 : Int) - (v : Int)
  match hints ((sig.drop 3248).take 61) with
  | none => false
  | some hs =>
    let c := ntt (challenge seed)
    let zn := zs.map fun z => ntt (z.map fun (x : Int) => (x % mldsaQ).toNat)
    let mu := shake 136 (shake 136 key 64 ++ [0, 0] ++ msg) 64
    let w1 := (List.range 6).flatMap fun r =>
      let az := (List.range 5).foldl (fun acc s => polyAdd acc (polyMul (expandA rho r s) (zn.getD s []))) (List.replicate 256 0)
      let w := nttInv (polySub az (polyMul c (ntt ((t1.getD r []).map fun x => x * 2 ^ 13 % mldsaQ))))
      (w.zipIdx).map fun (x, i) => useHint ((hs.getD r []).contains i) x
    let enc := (List.range 768).map fun i => BitVec.ofNat 8 (w1.getD (2 * i) 0 + 16 * w1.getD (2 * i + 1) 0)
    key.length == 1952 && sig.length == 3309
      && (zs.all fun (z : List Int) => z.all fun (x : Int) => x.natAbs < 2 ^ 19 - 196)
      && shake 136 (mu ++ enc) 48 == seed

end Sys2Proof.Machine
end

