-- ==== Sys2Proof/Config.lean ====
section
/-! DEFINITION. What the manual leaves open or to a fixed secret: constants with no body, so that nothing can be proved of
their values. Each has a row of the assumption log. -/

namespace Sys2Proof

/-- An undefined value of R7 (R149, R240): fresh at each reading of the counter `State.freeCtr` (log 3). -/
opaque Config.freeW64 : Nat → BitVec 64
/-- The 3,309 bytes the device key signs a message with (R255, R262; log 5). -/
opaque Config.deviceSign : List (BitVec 8) → List (BitVec 8)
/-- The device certificate (R262; log 5). -/
opaque Config.deviceCertificate : List (BitVec 8)
/-- Key against which the boot ROM checks the firmware image (R261; log 5). -/
opaque Config.firmwareKey : List (BitVec 8)
/-- The signature part and the version of a flash image, whose layout the manual does not give (R261; log 5). -/
opaque Config.imageSignature : List (BitVec 8) → List (BitVec 8)
/-- The version of a flash image (R261; log 5). -/
opaque Config.imageVersion : List (BitVec 8) → Nat
/-- The fused rollback counter (R261; log 5). -/
opaque Config.rollbackFuse : Nat
/-- The 64 B measurements of boot ROM and fuse state (R262; log 5). -/
opaque Config.measurement : Nat → List (BitVec 8)
/-- VA of the firmware library that registration writes into the header page (R287, R290; log 5). -/
opaque Config.libVa : BitVec 64
/-- SR_NANOS of another package as the clock-query service finds it, at a tick of this one (R86, R246; log 5). -/
opaque Config.otherNanos : Nat → Nat → BitVec 64
/-- What a sensor or monitor that has reported nothing reads: die, kind, index, tick (R254, R263; log 11). -/
opaque Config.reading : Nat → Nat → Nat → Nat → BitVec 64
/-- AES-256-XTS under the data key of a key ID: tweak, then the bytes of the data unit (R170; log 75). -/
opaque Config.aesXts : Nat → Nat → List (BitVec 8) → List (BitVec 8)
/-- AES-256 of one block under the integrity key of a key ID (R171; log 75). -/
opaque Config.aesBlock : Nat → List (BitVec 8) → List (BitVec 8)

end Sys2Proof
end

