-- ==== Sys2Proof/Syntax.lean ====
section
/-! DEFINITION. The instructions and events of the package: one constructor of `Instr` per row of spec/opcode_table.json.
Instruction words keep every field of their format (R264 to R278), so that encoding loses nothing; events carry what
reaches the package from outside or names the agent that acts. -/

namespace Sys2Proof

/-- A skein slot: core number 128 · die + core of the package, and the slot 0–31 (R11, R51). -/
structure SkId where
  core : Nat
  slot : Nat
  deriving DecidableEq, Repr, Inhabited

/-- A launch: job, graph and launch index (R20). -/
structure LaunchId where
  job : Nat
  graph : Nat
  index : Nat
  deriving DecidableEq, Repr, Inhabited

/-- The class counters of R175. -/
inductive Cls where
  | load | store | copy | matrix
  deriving DecidableEq, Repr, Inhabited

/-- An end of a registration message (R117, R120): an agent by its 32-bit agent ID, or the home slice of a package. -/
inductive Node where
  | agent (id : BitVec 32)
  | home (pkg slice : Nat)
  deriving DecidableEq, Repr, Inhabited

/-- A master that can be frozen (R260): core, engine agent, or service core of a package slice. -/
inductive MasterId where
  | core (c : Nat)
  | engine (agent : Nat)
  | service (slice : Nat)
  deriving DecidableEq, Repr, Inhabited

/-- Feature bits of R250 that a driver may accept. -/
inductive VirtioFeature where
  | version1 | ringPacked | accessPlatform | ringEventIdx | seqpacket | blkSize | segMax | flush | mq | other
  deriving DecidableEq, Repr, Inhabited

/-- A register with field access codes of R6 and no row of its own in the table. -/
inductive RegName where
  /-- A device-specific CSR of the service core of a slice (R259). -/
  | csr (slice num : Nat)
  /-- An entry of an address space's home map (R102). -/
  | homeMap (asid index : Nat)
  /-- An indirection entry (R157). -/
  | indirection (slice dfn piece : Nat)
  deriving DecidableEq, Repr, Inhabited

/-- A host record (R251): its 32 B header and the body that follows. -/
structure HostRec where
  typ : Nat
  flags : Nat
  len : Nat
  tag : BitVec 64
  job : Nat
  status : Nat
  arg : BitVec 64
  body : List (BitVec 8)
  deriving DecidableEq, Repr, Inhabited

/-- A flit on the wire (R216). -/
structure Flit where
  payload : List (BitVec 8)
  seq : Nat
  vc : Nat
  rsp : Bool
  ack : Nat
  ctl : Nat
  crc : BitVec 32
  deriving DecidableEq, Repr, Inhabited

/-- Format H (R267). -/
structure HFmt where
  len : BitVec 8
  live : BitVec 16
  join : BitVec 16
  pfh : BitVec 8
  s : Bool
  e : Bool
  h16 : Bool
  rsv : BitVec 3
  isarev : BitVec 4
  deriving DecidableEq, Repr, Inhabited

/-- Format R (R270). -/
structure RFmt where
  g : BitVec 3
  gn : Bool
  u : Bool
  d : BitVec 9
  a : BitVec 9
  b : BitVec 9
  c : BitVec 9
  bk : BitVec 2
  t : BitVec 4
  m : BitVec 3
  f : BitVec 4
  deriving DecidableEq, Repr, Inhabited

/-- Format W (R273). -/
structure WFmt where
  g : BitVec 3
  gn : Bool
  u : Bool
  d : BitVec 9
  t : BitVec 4
  rsv : BitVec 4
  imm : BitVec 32
  deriving DecidableEq, Repr, Inhabited

/-- Format M (R274). -/
structure MFmt where
  g : BitVec 3
  gn : Bool
  u : Bool
  d : BitVec 9
  a : BitVec 9
  sb : BitVec 6
  sz : BitVec 3
  am : BitVec 2
  ch : BitVec 2
  sc : BitVec 2
  imm : BitVec 16
  deriving DecidableEq, Repr, Inhabited

/-- Format C (R276). -/
structure CFmt where
  g : BitVec 3
  gn : Bool
  u : Bool
  rj : BitVec 3
  sx : BitVec 6
  off : BitVec 24
  imm : BitVec 16
  deriving DecidableEq, Repr, Inhabited

/-- Format S (R277); `mask` and `imm` together hold WAITC's counter fields (R177). -/
structure SFmt where
  g : BitVec 3
  gn : Bool
  u : Bool
  d : BitVec 9
  sa : BitVec 6
  sc : BitVec 2
  mask : BitVec 16
  imm : BitVec 16
  deriving DecidableEq, Repr, Inhabited

/-- Format E (R278). -/
structure EFmt where
  g : BitVec 3
  gn : Bool
  u : Bool
  hd : BitVec 4
  hv : Bool
  sd : BitVec 6
  sx : BitVec 6
  sy : BitVec 6
  n : BitVec 10
  imm : BitVec 16
  deriving DecidableEq, Repr, Inhabited

/-- The rows of spec/opcode_table.json. The twelve that carry nothing stand last: the runtime numbers constructors with
fields only up to 243. -/
inductive Instr where
  /-- BLOCK_HEADER (R67) -/
  | blockHeader (h : HFmt)
  /-- BRA (R311) -/
  | bra (f : CFmt)
  /-- BRC (R312) -/
  | brc (f : CFmt)
  /-- BRU (R313) -/
  | bru (f : CFmt)
  /-- BRX (R314) -/
  | brx (f : CFmt)
  /-- CALL (R315) -/
  | call (f : CFmt)
  /-- CALLX (R315) -/
  | callx (f : CFmt)
  /-- RET (R376) -/
  | ret (f : CFmt)
  /-- EXIT (R321) -/
  | exitOp (f : CFmt)
  /-- LAST_EXIT_RELEASE (R321) -/
  | lastExitRelease (id : SkId) (st : Nat)
  /-- YIELD (R395) -/
  | yield (f : CFmt)
  /-- NOP (R364) -/
  | nop (f : CFmt)
  /-- RJSET (R74) -/
  | rjset (f : CFmt)
  /-- RJOIN (R74) -/
  | rjoin (f : CFmt)
  /-- RJDROP (R74) -/
  | rjdrop (f : CFmt)
  /-- SVC (R243) -/
  | svc (f : CFmt)
  /-- SVC_POST (R243) -/
  | svcPost (id : SkId) (st : Nat)
  /-- TRAP (R388) -/
  | trapOp (f : CFmt)
  /-- BKPT (R308) -/
  | bkpt (f : CFmt)
  /-- RTE (R239) -/
  | rte (f : CFmt)
  /-- RDSR (R374) -/
  | rdsr (f : RFmt)
  /-- WRSR (R374) -/
  | wrsr (f : RFmt)
  /-- IADD (R344) -/
  | iadd (f : RFmt)
  /-- ISUB (R344) -/
  | isub (f : RFmt)
  /-- IADDC (R345) -/
  | iaddc (f : RFmt)
  /-- IMIN (R344) -/
  | imin (f : RFmt)
  /-- IMAX (R344) -/
  | imax (f : RFmt)
  /-- IABS (R344) -/
  | iabs (f : RFmt)
  /-- ISAD (R344) -/
  | isad (f : RFmt)
  /-- IMUL (R347) -/
  | imul (f : RFmt)
  /-- IMULH (R347) -/
  | imulh (f : RFmt)
  /-- IMAD (R347) -/
  | imad (f : RFmt)
  /-- IMADW (R347) -/
  | imadw (f : RFmt)
  /-- AND (R301) -/
  | andOp (f : RFmt)
  /-- OR (R365) -/
  | orOp (f : RFmt)
  /-- XOR (R394) -/
  | xorOp (f : RFmt)
  /-- ANDN (R301) -/
  | andn (f : RFmt)
  /-- NOT (R365) -/
  | notOp (f : RFmt)
  /-- LMIX (R357) -/
  | lmix (f : RFmt)
  /-- SHL (R378) -/
  | shl (f : RFmt)
  /-- SHR (R378) -/
  | shr (f : RFmt)
  /-- SAR (R378) -/
  | sar (f : RFmt)
  /-- ROT (R378) -/
  | rot (f : RFmt)
  /-- FSHL (R335) -/
  | fshl (f : RFmt)
  /-- BFE (R307) -/
  | bfe (f : RFmt)
  /-- BFI (R307) -/
  | bfi (f : RFmt)
  /-- POPC (R371) -/
  | popc (f : RFmt)
  /-- CLZ (R309) -/
  | clz (f : RFmt)
  /-- BREV (R309) -/
  | brev (f : RFmt)
  /-- RBYTE (R373) -/
  | rbyte (f : RFmt)
  /-- ICMP (R346) -/
  | icmp (f : RFmt)
  /-- SEL (R380) -/
  | sel (f : RFmt)
  /-- MOV (R359) -/
  | mov (f : RFmt)
  /-- LEA (R356) -/
  | lea (f : RFmt)
  /-- MOVI (R360) -/
  | movi (f : WFmt)
  /-- PLOP (R369) -/
  | plop (f : RFmt)
  /-- PMOV (R370) -/
  | pmov (f : RFmt)
  /-- BALLOT (R305) -/
  | ballot (f : RFmt)
  /-- VCHK (R390) -/
  | vchk (f : RFmt)
  /-- FADD (R329) -/
  | fadd (f : RFmt)
  /-- FSUB (R329) -/
  | fsub (f : RFmt)
  /-- FMUL (R329) -/
  | fmul (f : RFmt)
  /-- FMIN (R329) -/
  | fmin (f : RFmt)
  /-- FMAX (R329) -/
  | fmax (f : RFmt)
  /-- FFMA (R333) -/
  | ffma (f : RFmt)
  /-- FDOT2 (R333) -/
  | fdot2 (f : RFmt)
  /-- FDOT4 (R333) -/
  | fdot4 (f : RFmt)
  /-- FCMP (R330) -/
  | fcmp (f : RFmt)
  /-- FCLASS (R331) -/
  | fclass (f : RFmt)
  /-- FRCP (R332) -/
  | frcp (f : RFmt)
  /-- FRSQ (R332) -/
  | frsq (f : RFmt)
  /-- FSQRT (R332) -/
  | fsqrt (f : RFmt)
  /-- FEXP2 (R332) -/
  | fexp2 (f : RFmt)
  /-- FLOG2 (R332) -/
  | flog2 (f : RFmt)
  /-- FSIN (R332) -/
  | fsin (f : RFmt)
  /-- FCOS (R332) -/
  | fcos (f : RFmt)
  /-- FTANH (R332) -/
  | ftanh (f : RFmt)
  /-- FCVT (R324) -/
  | fcvt (f : RFmt)
  /-- F2I (R325) -/
  | f2i (f : RFmt)
  /-- I2F (R343) -/
  | i2f (f : RFmt)
  /-- FPACK (R326) -/
  | fpack (f : RFmt)
  /-- FUNPK (R327) -/
  | funpk (f : RFmt)
  /-- FRND (R328) -/
  | frnd (f : RFmt)
  /-- HADD2 (R338) -/
  | hadd2 (f : RFmt)
  /-- HMUL2 (R338) -/
  | hmul2 (f : RFmt)
  /-- HFMA2 (R338) -/
  | hfma2 (f : RFmt)
  /-- SLX (R381) -/
  | slx (f : RFmt)
  /-- LRED (R349) -/
  | lred (f : RFmt)
  /-- LSCAN (R350) -/
  | lscan (f : RFmt)
  /-- LCNT (R351) -/
  | lcnt (f : RFmt)
  /-- LD (R353) -/
  | ldOp (f : MFmt)
  /-- LDA (R354) -/
  | lda (f : MFmt)
  /-- EXPLD (R323) -/
  | expld (f : MFmt)
  /-- PRF (R372) -/
  | prf (f : MFmt)
  /-- ST (R383) -/
  | stOp (f : MFmt)
  /-- STR (R384) -/
  | str (f : MFmt)
  /-- CMPST (R316) -/
  | cmpst (f : MFmt)
  /-- LDS (R355) -/
  | lds (f : MFmt)
  /-- STS (R385) -/
  | sts (f : MFmt)
  /-- ATOM (R303) -/
  | atom (op : BitVec 4) (f : MFmt)
  /-- ATOMS (R304) -/
  | atoms (op : BitVec 4) (f : MFmt)
  /-- BAR (R196) -/
  | bar (f : SFmt)
  /-- BARARV (R196) -/
  | bararv (f : SFmt)
  /-- BARWT (R196) -/
  | barwt (f : SFmt)
  /-- TBINIT (R193) -/
  | tbinit (f : SFmt)
  /-- TBARV (R193) -/
  | tbarv (f : SFmt)
  /-- TBWAIT (R193) -/
  | tbwait (f : SFmt)
  /-- TBTEST (R193) -/
  | tbtest (f : SFmt)
  /-- FENCE (R334) -/
  | fence (f : SFmt)
  /-- ACQ (R299) -/
  | acq (f : SFmt)
  /-- REL (R375) -/
  | rel (f : SFmt)
  /-- OFENCE (R366) -/
  | ofence (f : SFmt)
  /-- WAITC (R391) -/
  | waitc (f : SFmt)
  /-- CLASS_COUNTER_FALL (R176) -/
  | classCounterFall (id : SkId) (c : Cls)
  /-- WAITH (R392) -/
  | waith (f : SFmt)
  /-- HTEST (R341) -/
  | htest (f : SFmt)
  /-- HCANCEL (R339) -/
  | hcancel (f : SFmt)
  /-- HSAVE (R340) -/
  | hsave (f : SFmt)
  /-- HLOAD (R340) -/
  | hload (f : SFmt)
  /-- CPY (R317) -/
  | cpy (f : EFmt)
  /-- CPYT (R319) -/
  | cpyt (f : EFmt)
  /-- CPYR (R318) -/
  | cpyr (f : EFmt)
  /-- ADVST (R40) -/
  | advst (f : EFmt)
  /-- MLOOP (R358) -/
  | mloop (f : EFmt)
  /-- MLOOPL (R358) -/
  | mloopl (f : EFmt)
  /-- MZERO (R363) -/
  | mzero (f : EFmt)
  /-- MRD (R361) -/
  | mrd (f : EFmt)
  /-- MWR (R361) -/
  | mwr (f : EFmt)
  /-- MTWIN (R362) -/
  | mtwin (f : EFmt)
  /-- GMV (R336) -/
  | gmv (f : EFmt)
  /-- GMVL (R336) -/
  | gmvl (f : EFmt)
  /-- PLEAT (R368) -/
  | pleat (f : EFmt)
  /-- PATLD (R367) -/
  | patld (f : EFmt)
  /-- UDF (R389) -/
  | udf (rest : BitVec 54)
  /-- ADDRESS_BREAKPOINT (R249) -/
  | addressBreakpoint (id : SkId) (st : Nat)
  /-- CODE_PAGE_VERIFY (R247) -/
  | codePageVerify (asid page : Nat)
  /-- SKEIN_UNPARK (R54) -/
  | skeinUnpark (id : SkId)
  /-- PAGE_FAULT_RESOLVED (R163) -/
  | pageFaultResolved (asid va : Nat)
  /-- PIECE_MIGRATION_START (R159) -/
  | pieceMigrationStart (slice dfn piece alt : Nat)
  /-- PIECE_MIGRATION_SWING (R159) -/
  | pieceMigrationSwing (slice dfn piece : Nat)
  /-- DISCARD_RECLAIM (R169) -/
  | discardReclaim (asid page : Nat)
  /-- REG (R122) -/
  | regMsg (src dst : Node) (victim : Option Nat)
  /-- SEAL (R123) -/
  | seal (src dst : Node)
  /-- RDQ (R127) -/
  | rdq (src dst : Node) (victim : Option Nat)
  /-- FWD (R127) -/
  | fwd (src dst : Node)
  /-- RECALL (R125) -/
  | recall (src dst : Node)
  /-- WB (R124) -/
  | wb (src dst : Node)
  /-- RACE (R130) -/
  | race (src dst : Node)
  /-- REGACK (R122) -/
  | regack (src dst : Node)
  /-- SEALACK (R123) -/
  | sealack (src dst : Node)
  /-- DATA (R127) -/
  | dataMsg (src dst : Node) (victim : Option Nat)
  /-- GONE (R121) -/
  | gone (src dst : Node)
  /-- SHUTTLE_SECTOR_LANDED (R189) -/
  | shuttleSectorLanded (op : Nat)
  /-- SHUTTLE_COMPLETE (R148) -/
  | shuttleComplete (op : Nat)
  /-- ENGINE_FAULT_RESUME (R166) -/
  | engineFaultResume (op : Nat)
  /-- ENGINE_UNRESOLVABLE_FAULT (R167) -/
  | engineUnresolvableFault (op : Nat)
  /-- ENGINE_CANCEL_STOP (R181) -/
  | engineCancelStop (op : Nat)
  /-- PREFETCH_COMPLETE (R39) -/
  | prefetchComplete (op : Nat)
  /-- MATRIX_K_STEP (R202) -/
  | matrixKStep (op : Nat)
  /-- MATRIX_OP_COMPLETE (R148) -/
  | matrixOpComplete (op : Nat)
  /-- TWIN_MLOOP_START (R206) -/
  | twinMloopStart (op : Nat)
  /-- GEYSER_ROW_GROUP (R210) -/
  | geyserRowGroup (op : Nat)
  /-- GEYSER_COMPLETE (R210) -/
  | geyserComplete (op : Nat)
  /-- PLEAT_COMPLETE (R232) -/
  | pleatComplete (op : Nat)
  /-- PLEAT_TIMEOUT (R233) -/
  | pleatTimeout (op : Nat)
  /-- PLACEMENT_STEP (R45) -/
  | placementStep (die : Nat)
  /-- PLACEMENT_RESERVATION (R48) -/
  | placementReservation (die : Nat)
  /-- RESERVATION_PREEMPT (R60) -/
  | reservationPreempt (die : Nat)
  /-- PREEMPTION_SAVE_COMPLETE (R63) -/
  | preemptionSaveComplete (group : Nat)
  /-- GROUP_END (R28) -/
  | groupEnd (group : Nat)
  /-- COPY_SCHEDULE_READ (R38) -/
  | copyScheduleRead (launch : LaunchId)
  /-- COPY_ENTRY_UNRESOLVABLE_FAULT (R41) -/
  | copyEntryUnresolvableFault (op : Nat)
  /-- GOVERNOR_WINDOW (R56) -/
  | governorWindow (core gated : Nat)
  /-- DIE_TEMPERATURE_THROTTLE (R263) -/
  | dieTemperatureThrottle (die sensor : Nat) (milliC : Int)
  /-- DIE_TEMPERATURE_SHUTDOWN (R263) -/
  | dieTemperatureShutdown (die sensor : Nat) (milliC : Int)
  /-- DRAM_STACK_TEMPERATURE (R263) -/
  | dramStackTemperature (slice : Nat) (milliC : Int)
  /-- DROOP_EVENT (R263) -/
  | droopEvent (die monitor : Nat) (reading : Int)
  /-- MASTER_FREEZE (R260) -/
  | masterFreeze (m : MasterId) (va : Nat)
  /-- JOB_OPEN (R415) -/
  | jobOpen (r : HostRec)
  /-- JOB_CLOSE (R252) -/
  | jobClose (r : HostRec)
  /-- PHASE_OPEN (R252) -/
  | phaseOpen (r : HostRec)
  /-- PHASE_CLOSE (R26) -/
  | phaseClose (r : HostRec)
  /-- GRAPH_OPEN (R252) -/
  | graphOpen (r : HostRec)
  /-- GRAPH_CLOSE (R25) -/
  | graphClose (r : HostRec)
  /-- LAUNCH (R23) -/
  | launch (r : HostRec)
  /-- CANCEL (R30) -/
  | cancel (r : HostRec)
  /-- MAP_PAGES (R253) -/
  | mapPages (r : HostRec)
  /-- MAP_UNMAP (R156) -/
  | mapUnmap (r : HostRec)
  /-- MAP_REGISTER_OBJECT (R290) -/
  | mapRegisterObject (r : HostRec)
  /-- STORAGE_REPLY (R258) -/
  | storageReply (r : HostRec)
  /-- SENSOR_READ (R254) -/
  | sensorRead (r : HostRec)
  /-- THRESHOLD_SET (R254) -/
  | thresholdSet (r : HostRec)
  /-- DIE_DRAIN (R60) -/
  | dieDrain (r : HostRec)
  /-- DEBUGGER_STOP (R80) -/
  | debuggerStop (r : HostRec)
  /-- SINGLE_STEP (R81) -/
  | singleStep (r : HostRec)
  /-- RESUME (R254) -/
  | resume (r : HostRec)
  /-- RACE_LOG_READ (R130) -/
  | raceLogRead (r : HostRec)
  /-- MASTER_RELEASE (R260) -/
  | masterRelease (r : HostRec)
  /-- CODE_KEY_ENROL (R289) -/
  | codeKeyEnrol (r : HostRec)
  /-- WEIGHT_VOLUME_CREATE (R256) -/
  | weightVolumeCreate (r : HostRec)
  /-- WEIGHT_VOLUME_DELETE (R254) -/
  | weightVolumeDelete (r : HostRec)
  /-- FABRIC_SEND (R221) -/
  | fabricSend (r : HostRec)
  /-- DEBUGGER_DETACH (R254) -/
  | debuggerDetach (r : HostRec)
  /-- ATTEST (R262) -/
  | attest (r : HostRec)
  /-- IMAGE (R261) -/
  | image (r : HostRec)
  /-- VIRTIO_BLK_WRITE (R256) -/
  | virtioBlkWrite (vol offset : Nat) (data : List (BitVec 8))
  /-- VIRTIO_BLK_READ (R256) -/
  | virtioBlkRead (vol offset bytes : Nat)
  /-- VIRTIO_BLK_FLUSH (R256) -/
  | virtioBlkFlush (vol : Nat)
  /-- FEATURES_OK (R250) -/
  | featuresOk (device : Nat) (features : List VirtioFeature)
  /-- REGISTER_WRITE (R6) -/
  | registerWrite (r : RegName) (v : BitVec 64)
  /-- SVC_PAGE_IN (R246) -/
  | svcPageIn (id : SkId)
  /-- SVC_CANCEL (R246) -/
  | svcCancel (id : SkId)
  /-- SVC_LAUNCH (R246) -/
  | svcLaunch (id : SkId)
  /-- SVC_REGION (R132) -/
  | svcRegion (id : SkId)
  /-- SVC_STORAGE (R257) -/
  | svcStorage (id : SkId)
  /-- SVC_DISCARD (R169) -/
  | svcDiscard (id : SkId)
  /-- SVC_CLOCK_QUERY (R246) -/
  | svcClockQuery (id : SkId)
  /-- SVC_REPLY_RESPAWN (R245) -/
  | svcReplyRespawn (id : SkId)
  /-- VECTOR_READ (R222) -/
  | vectorRead (spkg : Nat)
  /-- VECTOR_WRITE (R222) -/
  | vectorWrite (spkg : Nat)
  /-- VECTOR_ATOMIC (R222) -/
  | vectorAtomic (spkg : Nat)
  /-- REPLY (R220) -/
  | reply (spkg : Nat)
  /-- NACK (R223) -/
  | nack (spkg : Nat)
  /-- BULK_COPY_DATA (R220) -/
  | bulkCopyData (spkg : Nat)
  /-- PLEAT_READY (R232) -/
  | pleatReady (spkg : Nat)
  /-- PLEAT_DATA (R232) -/
  | pleatData (spkg : Nat)
  /-- PLEAT_ABORT (R233) -/
  | pleatAbort (spkg : Nat)
  /-- END_TO_END_ACK (R219) -/
  | endToEndAck (spkg : Nat)
  /-- ASSIGN (R221) -/
  | assign (port : Nat)
  /-- ROUTE (R213) -/
  | route (port : Nat)
  /-- QUERY (R221) -/
  | query (port : Nat)
  /-- THRESH (R226) -/
  | thresh (port : Nat)
  /-- RETRAIN (R226) -/
  | retrain (port : Nat)
  /-- FLIT_RECEIVE (R225) -/
  | flitReceive (port : Nat) (flit : Flit)
  /-- LINK_ACK (R225) -/
  | linkAck (port ack : Nat)
  /-- LINK_NAK (R225) -/
  | linkNak (port seq : Nat)
  /-- CREDIT_UPDATE (R216) -/
  | creditUpdate (port vc credits : Nat)
  /-- LINK_RETRAIN_COMPLETE (R225) -/
  | linkRetrainComplete (port width : Nat)
  /-- LANE_ERROR_THRESHOLD (R226) -/
  | laneErrorThreshold (port lane : Nat)
  /-- GROUP_RESTORE_COMPLETE (R65) -/
  | groupRestoreComplete (group : Nat)
  /-- THROTTLE_RECOVERY (R263) -/
  | throttleRecovery (die : Nat) (milliC : Int) (watts : Nat)
  /-- LINK_UP (R214) -/
  | linkUp (port width : Nat)
  /-- RETIRED_B5_OPERATION (R241) -/
  | retiredB5Operation (w : BitVec 64)
  /-- ILLEGAL_INSTRUCTION_WORD (R292) -/
  | illegalInstructionWord (w : BitVec 64)
  /-- YIELD_DELAY_END (R395) -/
  | yieldDelayEnd
  /-- PLEAT_HELD_MESSAGE_TIMEOUT (R368) -/
  | pleatHeldMessageTimeout
  /-- HELD_SUBMISSION_ACCEPT (R43) -/
  | heldSubmissionAccept
  /-- THROTTLE_CLOCK_STEP (R263) -/
  | throttleClockStep
  /-- PACKAGE_POWER_THRESHOLD (R263) -/
  | packagePowerThreshold
  /-- POWER_ON_RESET (R261) -/
  | powerOnReset
  /-- CONSOLE_INPUT (R250) -/
  | consoleInput
  /-- END_TO_END_ACK_SEND (R219) -/
  | endToEndAckSend
  /-- PACKET_RETRANSMIT_TIMEOUT (R219) -/
  | packetRetransmitTimeout
  /-- REMOTE_TIMEOUT (R224) -/
  | remoteTimeout
  /-- TARGET_HOLD_TIMEOUT (R223) -/
  | targetHoldTimeout
  /-- MGMT_PACKET_FORWARD (R215) -/
  | mgmtPacketForward
  deriving DecidableEq, Repr, Inhabited

end Sys2Proof
end

