-- ==== Sys2Proof/WellFormed.lean ====
section
/-! DEFINITION. Which instruction words the field checks of their format and entry accept (check 6 of R294). The register
checks of R83 depend on the skein's allocation and are made when the word issues. -/

namespace Sys2Proof

/-- How an R-format entry uses its B operand (R270): not at all, every BK but 11, or registers only. -/
inductive BUse where
  | unused | any | regsOnly
  deriving DecidableEq, Repr

/-- The field limits of one R-format entry: whether it has a uniform form, its T codes, its M codes, the flags of F it
lists, its use of B, and whether C must be 0. -/
structure RSpec where
  uni : Bool
  ts : List Nat
  ms : List Nat
  fs : Nat
  bUse : BUse
  cZero : Bool

def BUse.ok (k : BUse) (f : RFmt) : Bool :=
  match k with
  | .unused => f.b == 0 && f.bk == 0
  | .any => f.bk != 3
  | .regsOnly => f.bk.toNat ≤ 1

def RSpec.ok (s : RSpec) (f : RFmt) : Bool :=
  (s.uni || !f.u) && s.ts.contains f.t.toNat && s.ms.contains f.m.toNat
    && (f.f.toNat &&& (15 - s.fs)) == 0 && s.bUse.ok f && (!s.cZero || f.c == 0)

/-- The eight integer types, the four 32- and 64-bit integer types, the four scalar floating types (R88). -/
def intTs : List Nat := [0, 1, 2, 3, 4, 5, 6, 7]
def wideTs : List Nat := [0, 1, 6, 7]
def floatTs : List Nat := [14, 8, 9, 10]
def cvtTs : List Nat := [14, 8, 9, 10, 11, 12, 13, 15]
def allTs : List Nat := List.range 16
/-- Rounding modes 000 to 100 (R90). -/
def roundMs : List Nat := [0, 1, 2, 3, 4]

/-- Bits [8:3] of a 9-bit field are 0: the field names a predicate. -/
def predField (x : BitVec 9) : Bool := x.toNat < 8

namespace RSpec
def int2 : RSpec := ⟨true, intTs, [0], 14, .any, true⟩
def minMax : RSpec := ⟨true, intTs, [0], 6, .any, true⟩
def bit2 : RSpec := ⟨true, wideTs, [0], 0, .any, true⟩
def unary : RSpec := ⟨true, wideTs, [0], 0, .unused, true⟩
def fp2 : RSpec := ⟨true, floatTs, roundMs, 14, .any, true⟩
def fpMinMax : RSpec := ⟨true, floatTs, [0, 1], 6, .any, true⟩
def fdot (ts : List Nat) : RSpec := ⟨false, ts, roundMs, 15, .regsOnly, false⟩
def special (ts : List Nat) : RSpec := ⟨false, ts, [0], 4, .unused, true⟩
def half2 (fs : Nat) (c : Bool) : RSpec := ⟨false, [9, 10], roundMs, fs, .any, c⟩
end RSpec

/-- Rounding modes FCVT accepts for a destination T: 101 only toward 16 bits or fewer (R90, R324). -/
def fcvtMs (t : Nat) : List Nat := if [9, 10, 11, 12, 13, 15].contains t then roundMs ++ [5] else roundMs

/-- Highest position of FPACK and highest element of FUNPK for a narrow type (R326, R327). -/
def elemsOf (t : Nat) : Nat := if t == 13 then 8 else if [11, 12, 15].contains t then 4 else 2

/-- Collective operations and the types they take (R349). -/
def redOk (f : RFmt) : Bool :=
  let m := f.m.toNat
  let t := f.t.toNat
  (if m ≤ 2 then [0, 1, 6, 7, 8, 14].contains t else m ≤ 5 && wideTs.contains t)
    && (!f.f.getLsbD 3 || (m == 0 && wideTs.contains t)) && !f.f.getLsbD 1
    && !f.u && f.b == 0 && f.c == 0 && f.bk == 0

def MFmt.amOk (f : MFmt) : Bool := f.am != 3 || (f.sb == 0 && (f.u || f.a.toNat % 2 == 0))
/-- Loads and stores with the sizes of R352 and R382. -/
def MFmt.plainOk (f : MFmt) : Bool := f.sz.toNat ≤ 4 && !(f.u && f.sz == 4) && f.ch != 3 && f.amOk
/-- EXPLD and CMPST (R316, R323). -/
def MFmt.rankOk (f : MFmt) : Bool := !f.u && f.a == 0 && f.am == 0 && f.sz.toNat ≤ 3 && f.sc == 0 && f.ch != 3
/-- ATOM and ATOMS (R297, R302, R303). -/
def MFmt.atomOk (op : BitVec 4) (f : MFmt) : Bool :=
  op.toNat ≤ 10 && !f.u && f.a.toNat % 2 == 0 && f.amOk && f.ch.toNat ≤ 1 && (f.ch != 1 || f.d == 0)
    && (f.sz == 2 || (f.sz == 3 && op != 10))

def CFmt.noGuard (f : CFmt) : Bool := f.g == 7 && !f.gn && !f.u
def CFmt.bare (f : CFmt) : Bool := !f.u && f.rj == 0 && f.sx == 0 && f.off == 0
/-- The indirect target field of R310. -/
def CFmt.indirectOk (f : CFmt) : Bool :=
  f.imm.toNat < 1024 && (if f.imm.getLsbD 9 then f.imm.toNat % 2 == 0 else f.imm.toNat < 64)

def SFmt.sOk (f : SFmt) : Bool := !f.u && f.d.toNat < 64 && f.sc == 0
def EFmt.eOk (f : EFmt) : Bool := f.u && (f.hv || f.hd == 0)

/-- The field checks of check 6 of R294, for every instruction word; an event is no word and passes. -/
def WellFormed (i : Instr) : Bool :=
  match i with
  | .blockHeader h => h.len != 0 && h.rsv == 0 && (h.isarev == 1 || h.isarev == 2)
  | .retiredB5Operation w => (w.toNat / 2 ^ 58) == 0x16 || (w.toNat / 2 ^ 58) == 0x17
  | .rdsr f => RSpec.ok ⟨true, [0], [0], 0, .unused, true⟩ f && f.a.toNat < 64
  | .wrsr f => RSpec.ok ⟨true, [0], [0], 0, .any, true⟩ f && f.bk == 0 && f.a.toNat < 64 && f.d == 0
  | .iadd f | .isub f => RSpec.int2.ok f
  | .iaddc f => RSpec.ok ⟨false, [0, 6], [0], 1, .any, false⟩ f && predField f.c
  | .imin f | .imax f => RSpec.minMax.ok f
  | .iabs f => RSpec.ok ⟨true, [1, 3, 5, 7], [0], 8, .unused, true⟩ f
  | .isad f => RSpec.ok ⟨true, intTs, [0], 8, .any, false⟩ f
  | .imul f => RSpec.int2.ok f
  | .imulh f => RSpec.ok ⟨true, wideTs, [0], 6, .any, true⟩ f
  | .imad f => RSpec.ok ⟨true, intTs, [0], 15, .any, false⟩ f
  | .imadw f => RSpec.ok ⟨true, [0, 1], [0], 15, .any, false⟩ f
  | .andOp f | .orOp f | .xorOp f | .andn f => RSpec.bit2.ok f
  | .notOp f => RSpec.unary.ok f
  | .lmix f => RSpec.ok ⟨true, allTs, [0], 15, .any, false⟩ f
  | .shl f | .shr f | .sar f | .rot f => RSpec.bit2.ok f
  | .fshl f => RSpec.ok ⟨true, [0, 6], [0], 0, .any, false⟩ f
  | .bfe f => RSpec.ok ⟨true, wideTs, [0], 0, .regsOnly, true⟩ f
  | .bfi f => RSpec.ok ⟨true, wideTs, [0], 0, .regsOnly, false⟩ f
  | .popc f | .clz f | .brev f => RSpec.unary.ok f
  | .rbyte f => RSpec.ok ⟨true, [0], [0], 0, .any, false⟩ f
  | .icmp f => RSpec.ok ⟨false, intTs, [0, 1, 2, 3, 4, 5], 0, .any, true⟩ f && predField f.d
  | .sel f => RSpec.ok ⟨true, [0, 1, 8, 6, 7, 14], [0], 1, .any, false⟩ f && predField f.c
  | .mov f => RSpec.bit2.ok f && f.a == 0
  | .lea f => RSpec.ok ⟨true, wideTs, [0], 0, .any, false⟩ f && predField f.c
  | .movi f => [0, 1, 8, 6, 7, 14].contains f.t.toNat && f.rsv == 0
  | .plop f => RSpec.ok ⟨false, allTs, [0], 15, .any, false⟩ f && f.bk == 0
      && predField f.d && predField f.a && predField f.b && predField f.c
  | .pmov f => RSpec.ok ⟨false, [0], [0], 1, .unused, false⟩ f
      && (if f.f == 0 then f.a == 0 && f.c == 0 else f.d == 0 && f.c.toNat < 128)
  | .ballot f => RSpec.ok ⟨true, [0], [0], 4, .unused, true⟩ f && predField f.a
  | .vchk f => RSpec.ok ⟨true, [0], [0], 4, .unused, false⟩ f && predField f.a && f.c.toNat < 4 && (f.u || predField f.d)
  | .fadd f | .fsub f | .fmul f => RSpec.fp2.ok f
  | .fmin f | .fmax f => RSpec.fpMinMax.ok f
  | .ffma f => RSpec.ok ⟨true, floatTs, roundMs, 15, .any, false⟩ f
  | .fdot2 f => (RSpec.fdot [9, 10]).ok f
  | .fdot4 f => (RSpec.fdot [11, 12]).ok f
  | .fcmp f => RSpec.ok ⟨false, floatTs, [0, 1, 2, 3, 4, 5, 6, 7], 6, .any, true⟩ f && predField f.d
  | .fclass f => RSpec.ok ⟨true, [14, 8, 9, 10, 11, 12], [0], 0, .unused, true⟩ f
  | .frcp f | .frsq f | .fsqrt f => (RSpec.special [8, 9, 14]).ok f
  | .fexp2 f | .flog2 f | .fsin f | .fcos f | .ftanh f => (RSpec.special [8, 9]).ok f
  | .fcvt f => RSpec.ok ⟨true, cvtTs, fcvtMs f.t.toNat, 12, .unused, false⟩ f && cvtTs.contains f.c.toNat
  | .f2i f => RSpec.ok ⟨true, intTs, roundMs, 12, .unused, false⟩ f && [14, 8, 9, 10, 11, 12].contains f.c.toNat
  | .i2f f => RSpec.ok ⟨true, floatTs, roundMs, 8, .unused, false⟩ f && f.c.toNat < 8
  | .fpack f => RSpec.ok ⟨false, [9, 10, 11, 12, 13], [0, 1, 2, 3, 4, 5], 14, .any, false⟩ f
      && f.c.toNat % 16 == 8 && f.c.toNat / 16 < elemsOf f.t.toNat / 2
  | .funpk f => RSpec.ok ⟨false, [8], [0], 0, .unused, false⟩ f
      && [9, 10, 11, 12, 13, 15].contains (f.c.toNat % 16) && f.c.toNat / 16 < elemsOf (f.c.toNat % 16)
  | .frnd f => RSpec.ok ⟨true, floatTs, roundMs, 4, .unused, true⟩ f
  | .hadd2 f | .hmul2 f => (RSpec.half2 14 true).ok f
  | .hfma2 f => (RSpec.half2 15 false).ok f
  | .slx f => RSpec.ok ⟨false, [0], [0, 1, 2, 3], 0, .any, true⟩ f
  | .lred f => redOk f && (!f.f.getLsbD 0 || f.d.toNat < 64)
  | .lscan f => redOk f
  | .lcnt f => RSpec.ok ⟨false, [0], [0], 5, .unused, true⟩ f && predField f.a && (!f.f.getLsbD 0 || f.d.toNat < 64)
  | .ldOp f | .stOp f => f.plainOk && f.sc == 0
  | .lda f | .str f => f.plainOk
  | .prf f => f.d == 0 && f.sz == 0 && f.ch != 3 && f.sc == 0 && f.amOk
  | .lds f | .sts f => f.plainOk && f.ch == 0 && f.sc == 0
  | .expld f | .cmpst f => f.rankOk
  | .atom op f => f.atomOk op
  | .atoms op f => f.atomOk op && f.sc == 0
  | .bra f => f.noGuard && f.rj == 0 && f.sx == 0 && f.imm == 0
  | .brc f => !f.u && f.rj == 0 && f.sx == 0 && f.imm == 0
  | .bru f => f.noGuard && f.rj == 0 && f.imm.toNat ≤ 5
  | .brx f => f.noGuard && f.rj == 0 && f.sx == 0 && f.off == 0 && f.indirectOk
  | .call f => f.noGuard && f.rj == 0 && f.imm == 0
  | .callx f => f.noGuard && f.rj == 0 && f.off == 0 && f.indirectOk
  | .ret f => f.noGuard && f.rj == 0 && f.off == 0 && f.imm == 0
  | .exitOp f | .nop f => f.bare && f.imm == 0
  | .yield f => f.bare && f.imm.toNat < 4096
  | .rjset f => !f.u && f.off == 0 && (f.imm == 0 || (f.imm == 1 && f.sx == 0))
  | .rjoin f | .rjdrop f => !f.u && f.off == 0 && f.sx == 0 && f.imm == 0
  | .svc f | .trapOp f | .bkpt f => f.bare
  | .rte f => f.bare && f.g == 7 && !f.gn && f.imm == 0
  | .bar f => f.sOk && f.d == 0 && f.imm != 0
  | .bararv f => f.sOk && f.imm != 0
  | .barwt f => f.sOk && f.imm == 0
  | .tbinit f => f.sOk && f.d == 0 && f.mask == 0 && f.imm != 0 && f.imm.toNat < 4096
  | .tbarv f => f.sOk && f.mask == 0
  | .tbwait f => f.sOk && f.mask == 0 && f.imm.toNat < 256
  | .tbtest f => f.sOk && f.mask == 0 && f.imm == 0
  | .fence f | .rel f => !f.u && f.d == 0 && f.sa == 0 && f.mask == 0 && f.imm == 0
  | .acq f => !f.u && f.d == 0 && f.sa == 0 && f.imm == 0
  | .ofence f => f.sOk && f.d == 0 && f.sa == 0 && f.mask == 0 && f.imm == 0
  | .waitc f => f.sOk && f.d == 0 && f.sa == 0 && f.imm.toNat % 256 == 0
  | .waith f => f.sOk && f.d == 0 && f.sa == 0 && f.imm == 0 && f.mask != 0
  | .htest f => f.sOk && f.sa == 0 && f.imm == 0
  | .hcancel f => f.sOk && f.d == 0 && f.sa == 0 && f.imm == 0
  | .hsave f | .hload f => f.sOk && f.d.toNat < 16 && f.mask == 0
  | .cpy f => f.eOk && f.sx == 0 && f.sy == 0 && f.n == 0 && f.imm == 0
  | .cpyt f | .cpyr f => f.eOk && f.n == 0 && f.imm == 0
  | .advst f => f.u && f.hd == 0 && !f.hv && f.sd == 0 && f.sy == 0 && f.n == 0
  | .mloop f | .mloopl f => f.eOk && f.n != 0 && f.imm.toNat < 2048
  | .mzero f => f.eOk && f.sd == 0 && f.sx == 0 && f.sy == 0 && f.n != 0 && f.n.toNat ≤ 128 && f.imm.toNat < 128
  | .mrd f => f.eOk && f.sd == 0 && f.n == 0 && f.imm.toNat < 2 ^ 14 && !f.imm.getLsbD 7
      && (f.imm.toNat / 256) % 4 != 3 && (f.imm.toNat / 1024) % 8 ≤ 4
      && ((f.imm.toNat / 256) % 4 != 0 || f.imm.toNat / 1024 == 0)
  | .mwr f => f.eOk && f.sd == 0 && f.n == 0 && f.imm.toNat < 1024 && !f.imm.getLsbD 7
  | .mtwin f => f.eOk && f.sd == 0 && f.sx == 0 && f.sy == 0 && f.n == 0
  | .gmv f | .gmvl f => f.eOk && f.n == 0 && f.imm == 0
  | .pleat f => f.eOk && f.sd == 0 && f.sy == 0 && f.imm.toNat < 8
  | .patld f => f.u && f.hd == 0 && !f.hv && f.sx == 0 && f.sy == 0 && f.n == 0 && f.imm.toNat < 8
  | _ => true

end Sys2Proof
end

