-- ==== Sys2Proof/Decode.lean ====
section
/-! DEFINITION. The decoder (R264 to R278, R291 to R293), total on any bytes, and after it the encoder, written from the same
tables. -/

namespace Sys2Proof

/-- Bits [lo + n − 1 : lo] of a word. -/
def fld (w : BitVec 64) (lo n : Nat) : BitVec n := BitVec.ofNat n (w.toNat / 2 ^ lo)
/-- Bit `i` of a word. -/
def flag (w : BitVec 64) (i : Nat) : Bool := (w.toNat / 2 ^ i) % 2 == 1

/-- Format H (R267). -/
def decH (w : BitVec 64) : HFmt :=
  ⟨fld w 50 8, fld w 34 16, fld w 18 16, fld w 10 8, flag w 9, flag w 8, flag w 7, fld w 4 3, fld w 0 4⟩
/-- Format R (R270). -/
def decR (w : BitVec 64) : RFmt :=
  ⟨fld w 51 3, flag w 50, flag w 49, fld w 40 9, fld w 31 9, fld w 22 9, fld w 13 9, fld w 11 2, fld w 7 4, fld w 4 3, fld w 0 4⟩
/-- Format W (R273). -/
def decW (w : BitVec 64) : WFmt :=
  ⟨fld w 51 3, flag w 50, flag w 49, fld w 40 9, fld w 36 4, fld w 32 4, fld w 0 32⟩
/-- Format M (R274). -/
def decM (w : BitVec 64) : MFmt :=
  ⟨fld w 51 3, flag w 50, flag w 49, fld w 40 9, fld w 31 9, fld w 25 6, fld w 22 3, fld w 20 2, fld w 18 2, fld w 16 2, fld w 0 16⟩
/-- Format C (R276). -/
def decC (w : BitVec 64) : CFmt :=
  ⟨fld w 51 3, flag w 50, flag w 49, fld w 46 3, fld w 40 6, fld w 16 24, fld w 0 16⟩
/-- Format S (R277). -/
def decS (w : BitVec 64) : SFmt :=
  ⟨fld w 51 3, flag w 50, flag w 49, fld w 40 9, fld w 34 6, fld w 32 2, fld w 16 16, fld w 0 16⟩
/-- Format E (R278). -/
def decE (w : BitVec 64) : EFmt :=
  ⟨fld w 51 3, flag w 50, flag w 49, fld w 45 4, flag w 44, fld w 38 6, fld w 32 6, fld w 26 6, fld w 16 10, fld w 0 16⟩

/-- Why a word is no instruction of R291 (R292). -/
inductive Reject where
  | unassignedMajor | unassignedSub | retired | never | illegalField | outOfPlaceBytes
  deriving DecidableEq, Repr

/-- Major 0x01 (R291): the mnemonic its SUB names. -/
def major01 (sub : Nat) (w : BitVec 64) : Option Instr :=
  match sub with
  | 0 => some (.bra (decC w))
  | 1 => some (.brc (decC w))
  | 2 => some (.bru (decC w))
  | 3 => some (.brx (decC w))
  | 4 => some (.call (decC w))
  | 5 => some (.callx (decC w))
  | 6 => some (.ret (decC w))
  | 7 => some (.exitOp (decC w))
  | 8 => some (.yield (decC w))
  | 9 => some (.nop (decC w))
  | _ => none

/-- Major 0x02 (R291): the mnemonic its SUB names. -/
def major02 (sub : Nat) (w : BitVec 64) : Option Instr :=
  match sub with
  | 0 => some (.rjset (decC w))
  | 1 => some (.rjoin (decC w))
  | 2 => some (.rjdrop (decC w))
  | _ => none

/-- Major 0x03 (R291): the mnemonic its SUB names. -/
def major03 (sub : Nat) (w : BitVec 64) : Option Instr :=
  match sub with
  | 0 => some (.svc (decC w))
  | 1 => some (.trapOp (decC w))
  | 2 => some (.bkpt (decC w))
  | 3 => some (.rte (decC w))
  | _ => none

/-- Major 0x04 (R291): the mnemonic its SUB names. -/
def major04 (sub : Nat) (w : BitVec 64) : Option Instr :=
  match sub with
  | 0 => some (.rdsr (decR w))
  | 1 => some (.wrsr (decR w))
  | _ => none

/-- Major 0x08 (R291): the mnemonic its SUB names. -/
def major08 (sub : Nat) (w : BitVec 64) : Option Instr :=
  match sub with
  | 0 => some (.iadd (decR w))
  | 1 => some (.isub (decR w))
  | 2 => some (.iaddc (decR w))
  | 3 => some (.imin (decR w))
  | 4 => some (.imax (decR w))
  | 5 => some (.iabs (decR w))
  | 6 => some (.isad (decR w))
  | _ => none

/-- Major 0x09 (R291): the mnemonic its SUB names. -/
def major09 (sub : Nat) (w : BitVec 64) : Option Instr :=
  match sub with
  | 0 => some (.imul (decR w))
  | 1 => some (.imulh (decR w))
  | 2 => some (.imad (decR w))
  | 3 => some (.imadw (decR w))
  | _ => none

/-- Major 0x0A (R291): the mnemonic its SUB names. -/
def major0A (sub : Nat) (w : BitVec 64) : Option Instr :=
  match sub with
  | 0 => some (.andOp (decR w))
  | 1 => some (.orOp (decR w))
  | 2 => some (.xorOp (decR w))
  | 3 => some (.andn (decR w))
  | 4 => some (.notOp (decR w))
  | 5 => some (.lmix (decR w))
  | _ => none

/-- Major 0x0B (R291): the mnemonic its SUB names. -/
def major0B (sub : Nat) (w : BitVec 64) : Option Instr :=
  match sub with
  | 0 => some (.shl (decR w))
  | 1 => some (.shr (decR w))
  | 2 => some (.sar (decR w))
  | 3 => some (.rot (decR w))
  | 4 => some (.fshl (decR w))
  | _ => none

/-- Major 0x0C (R291): the mnemonic its SUB names. -/
def major0C (sub : Nat) (w : BitVec 64) : Option Instr :=
  match sub with
  | 0 => some (.bfe (decR w))
  | 1 => some (.bfi (decR w))
  | 2 => some (.popc (decR w))
  | 3 => some (.clz (decR w))
  | 4 => some (.brev (decR w))
  | 5 => some (.rbyte (decR w))
  | _ => none

/-- Major 0x0D (R291): the mnemonic its SUB names. -/
def major0D (sub : Nat) (w : BitVec 64) : Option Instr :=
  match sub with
  | 0 => some (.icmp (decR w))
  | 1 => some (.sel (decR w))
  | 2 => some (.mov (decR w))
  | 3 => some (.lea (decR w))
  | _ => none

/-- Major 0x0E (R291): the mnemonic its SUB names. -/
def major0E (sub : Nat) (w : BitVec 64) : Option Instr :=
  match sub with
  | 0 => some (.movi (decW w))
  | _ => none

/-- Major 0x0F (R291): the mnemonic its SUB names. -/
def major0F (sub : Nat) (w : BitVec 64) : Option Instr :=
  match sub with
  | 0 => some (.plop (decR w))
  | 1 => some (.pmov (decR w))
  | 2 => some (.ballot (decR w))
  | 3 => some (.vchk (decR w))
  | _ => none

/-- Major 0x10 (R291): the mnemonic its SUB names. -/
def major10 (sub : Nat) (w : BitVec 64) : Option Instr :=
  match sub with
  | 0 => some (.fadd (decR w))
  | 1 => some (.fsub (decR w))
  | 2 => some (.fmul (decR w))
  | 3 => some (.fmin (decR w))
  | 4 => some (.fmax (decR w))
  | _ => none

/-- Major 0x11 (R291): the mnemonic its SUB names. -/
def major11 (sub : Nat) (w : BitVec 64) : Option Instr :=
  match sub with
  | 0 => some (.ffma (decR w))
  | 1 => some (.fdot2 (decR w))
  | 2 => some (.fdot4 (decR w))
  | _ => none

/-- Major 0x12 (R291): the mnemonic its SUB names. -/
def major12 (sub : Nat) (w : BitVec 64) : Option Instr :=
  match sub with
  | 0 => some (.fcmp (decR w))
  | 1 => some (.fclass (decR w))
  | _ => none

/-- Major 0x13 (R291): the mnemonic its SUB names. -/
def major13 (sub : Nat) (w : BitVec 64) : Option Instr :=
  match sub with
  | 0 => some (.frcp (decR w))
  | 1 => some (.frsq (decR w))
  | 2 => some (.fsqrt (decR w))
  | 3 => some (.fexp2 (decR w))
  | 4 => some (.flog2 (decR w))
  | 5 => some (.fsin (decR w))
  | 6 => some (.fcos (decR w))
  | 7 => some (.ftanh (decR w))
  | _ => none

/-- Major 0x14 (R291): the mnemonic its SUB names. -/
def major14 (sub : Nat) (w : BitVec 64) : Option Instr :=
  match sub with
  | 0 => some (.fcvt (decR w))
  | 1 => some (.f2i (decR w))
  | 2 => some (.i2f (decR w))
  | 3 => some (.fpack (decR w))
  | 4 => some (.funpk (decR w))
  | 5 => some (.frnd (decR w))
  | _ => none

/-- Major 0x15 (R291): the mnemonic its SUB names. -/
def major15 (sub : Nat) (w : BitVec 64) : Option Instr :=
  match sub with
  | 0 => some (.hadd2 (decR w))
  | 1 => some (.hmul2 (decR w))
  | 2 => some (.hfma2 (decR w))
  | _ => none

/-- Major 0x18 (R291): the mnemonic its SUB names. -/
def major18 (sub : Nat) (w : BitVec 64) : Option Instr :=
  match sub with
  | 0 => some (.slx (decR w))
  | 1 => some (.lred (decR w))
  | 2 => some (.lscan (decR w))
  | 3 => some (.lcnt (decR w))
  | _ => none

/-- Major 0x20 (R291): the mnemonic its SUB names. -/
def major20 (sub : Nat) (w : BitVec 64) : Option Instr :=
  match sub with
  | 0 => some (.ldOp (decM w))
  | 1 => some (.lda (decM w))
  | 2 => some (.expld (decM w))
  | 3 => some (.prf (decM w))
  | _ => none

/-- Major 0x21 (R291): the mnemonic its SUB names. -/
def major21 (sub : Nat) (w : BitVec 64) : Option Instr :=
  match sub with
  | 0 => some (.stOp (decM w))
  | 1 => some (.str (decM w))
  | 2 => some (.cmpst (decM w))
  | _ => none

/-- Major 0x22 (R291): the mnemonic its SUB names. -/
def major22 (sub : Nat) (w : BitVec 64) : Option Instr :=
  match sub with
  | 0 => some (.lds (decM w))
  | 1 => some (.sts (decM w))
  | _ => none

/-- Major 0x25 (R291): the mnemonic its SUB names. -/
def major25 (sub : Nat) (w : BitVec 64) : Option Instr :=
  match sub with
  | 0 => some (.bar (decS w))
  | 1 => some (.bararv (decS w))
  | 2 => some (.barwt (decS w))
  | _ => none

/-- Major 0x26 (R291): the mnemonic its SUB names. -/
def major26 (sub : Nat) (w : BitVec 64) : Option Instr :=
  match sub with
  | 0 => some (.tbinit (decS w))
  | 1 => some (.tbarv (decS w))
  | 2 => some (.tbwait (decS w))
  | 3 => some (.tbtest (decS w))
  | _ => none

/-- Major 0x27 (R291): the mnemonic its SUB names. -/
def major27 (sub : Nat) (w : BitVec 64) : Option Instr :=
  match sub with
  | 0 => some (.fence (decS w))
  | 1 => some (.acq (decS w))
  | 2 => some (.rel (decS w))
  | 3 => some (.ofence (decS w))
  | 4 => some (.waitc (decS w))
  | _ => none

/-- Major 0x28 (R291): the mnemonic its SUB names. -/
def major28 (sub : Nat) (w : BitVec 64) : Option Instr :=
  match sub with
  | 0 => some (.waith (decS w))
  | 1 => some (.htest (decS w))
  | 2 => some (.hcancel (decS w))
  | 3 => some (.hsave (decS w))
  | 4 => some (.hload (decS w))
  | _ => none

/-- Major 0x30 (R291): the mnemonic its SUB names. -/
def major30 (sub : Nat) (w : BitVec 64) : Option Instr :=
  match sub with
  | 0 => some (.cpy (decE w))
  | 1 => some (.cpyt (decE w))
  | 2 => some (.cpyr (decE w))
  | 3 => some (.advst (decE w))
  | _ => none

/-- Major 0x31 (R291): the mnemonic its SUB names. -/
def major31 (sub : Nat) (w : BitVec 64) : Option Instr :=
  match sub with
  | 0 => some (.mloop (decE w))
  | 1 => some (.mloopl (decE w))
  | 2 => some (.mzero (decE w))
  | 3 => some (.mrd (decE w))
  | 4 => some (.mwr (decE w))
  | 5 => some (.mtwin (decE w))
  | _ => none

/-- Major 0x32 (R291): the mnemonic its SUB names. -/
def major32 (sub : Nat) (w : BitVec 64) : Option Instr :=
  match sub with
  | 0 => some (.gmv (decE w))
  | 1 => some (.gmvl (decE w))
  | _ => none

/-- Major 0x33 (R291): the mnemonic its SUB names. -/
def major33 (sub : Nat) (w : BitVec 64) : Option Instr :=
  match sub with
  | 0 => some (.pleat (decE w))
  | 1 => some (.patld (decE w))
  | _ => none

/-- Majors 0x23 and 0x24 (R291, R297): SUB is the operation. -/
def majorAtom (k : BitVec 4 → MFmt → Instr) (sub : Nat) (w : BitVec 64) : Option Instr :=
  if sub ≤ 10 then some (k (BitVec.ofNat 4 sub) (decM w)) else none

/-- OP and SUB of a word pick its mnemonic (R291); fields are not checked here. -/
def decodeRaw (w : BitVec 64) : Except Reject Instr :=
  let op := w.toNat / 2 ^ 58
  let sub := (w.toNat / 2 ^ 54) % 16
  let some' (o : Option Instr) : Except Reject Instr := match o with | some i => .ok i | none => .error .unassignedSub
  match op with
  | 0x00 => .ok (.blockHeader (decH w))
  | 0x01 => some' (major01 sub w)
  | 0x02 => some' (major02 sub w)
  | 0x03 => some' (major03 sub w)
  | 0x04 => some' (major04 sub w)
  | 0x08 => some' (major08 sub w)
  | 0x09 => some' (major09 sub w)
  | 0x0A => some' (major0A sub w)
  | 0x0B => some' (major0B sub w)
  | 0x0C => some' (major0C sub w)
  | 0x0D => some' (major0D sub w)
  | 0x0E => some' (major0E sub w)
  | 0x0F => some' (major0F sub w)
  | 0x10 => some' (major10 sub w)
  | 0x11 => some' (major11 sub w)
  | 0x12 => some' (major12 sub w)
  | 0x13 => some' (major13 sub w)
  | 0x14 => some' (major14 sub w)
  | 0x15 => some' (major15 sub w)
  | 0x18 => some' (major18 sub w)
  | 0x20 => some' (major20 sub w)
  | 0x21 => some' (major21 sub w)
  | 0x22 => some' (major22 sub w)
  | 0x25 => some' (major25 sub w)
  | 0x26 => some' (major26 sub w)
  | 0x27 => some' (major27 sub w)
  | 0x28 => some' (major28 sub w)
  | 0x30 => some' (major30 sub w)
  | 0x31 => some' (major31 sub w)
  | 0x32 => some' (major32 sub w)
  | 0x33 => some' (major33 sub w)
  | 0x16 | 0x17 => .error .retired
  | 0x23 => some' (majorAtom .atom sub w)
  | 0x24 => some' (majorAtom .atoms sub w)
  | 0x3F => if sub == 15 then .ok (.udf (fld w 0 54)) else .error .never
  | _ => .error .unassignedMajor

/-- The decoder with its reason for every word that is no instruction (checks 3 to 6 of R294). A block header passes
whatever its fields: header faults are taken where it issues (R68). -/
def decodeChecked (w : BitVec 64) : Except Reject Instr :=
  match decodeRaw w with
  | .ok (.blockHeader h) => .ok (.blockHeader h)
  | .ok i => if WellFormed i then .ok i else .error .illegalField
  | .error r => .error r

/-- What the word does when it issues: its instruction, the retired operation, or the illegal word (R292). -/
def decode (w : BitVec 64) : Instr :=
  match decodeChecked w with
  | .ok i => i
  | .error .retired => .retiredB5Operation w
  | .error _ => .illegalInstructionWord w

/-- The decoder on bytes as memory holds them (R4, R264): one word, and the bytes that follow it. -/
def decodeBytes : List (BitVec 8) → Except Reject (Instr × List (BitVec 8))
  | b0 :: b1 :: b2 :: b3 :: b4 :: b5 :: b6 :: b7 :: rest =>
      .ok (decode (BitVec.ofNat 64 (ofBytesLE [b0, b1, b2, b3, b4, b5, b6, b7])), rest)
  | _ => .error .outOfPlaceBytes

/-- The instruction the decoder reads from a word whose low `nbits` bits are `w` (an instruction is one 64-bit word, R264). -/
def decodeTableWord (nbits w : Nat) : Option Instr :=
  match decodeBytes (toBytesLE 8 (w % 2 ^ min nbits 64)) with
  | .ok (i, _) => some i
  | .error _ => none

/-! ## The encoder -/

/-- Fields from the lowest bit up, each with its width. -/
def pack : List (Nat × Nat) → Nat
  | [] => 0
  | (n, v) :: r => v % 2 ^ n + 2 ^ n * pack r

def bit (b : Bool) : Nat × Nat := (1, if b then 1 else 0)

def encH (h : HFmt) : Nat :=
  pack [(4, h.isarev.toNat), (3, h.rsv.toNat), bit h.h16, bit h.e, bit h.s, (8, h.pfh.toNat), (16, h.join.toNat),
    (16, h.live.toNat), (8, h.len.toNat), (6, 0)]
def encR (op sub : Nat) (f : RFmt) : Nat :=
  pack [(4, f.f.toNat), (3, f.m.toNat), (4, f.t.toNat), (2, f.bk.toNat), (9, f.c.toNat), (9, f.b.toNat), (9, f.a.toNat),
    (9, f.d.toNat), bit f.u, bit f.gn, (3, f.g.toNat), (4, sub), (6, op)]
def encW (op sub : Nat) (f : WFmt) : Nat :=
  pack [(32, f.imm.toNat), (4, f.rsv.toNat), (4, f.t.toNat), (9, f.d.toNat), bit f.u, bit f.gn, (3, f.g.toNat), (4, sub), (6, op)]
def encM (op sub : Nat) (f : MFmt) : Nat :=
  pack [(16, f.imm.toNat), (2, f.sc.toNat), (2, f.ch.toNat), (2, f.am.toNat), (3, f.sz.toNat), (6, f.sb.toNat), (9, f.a.toNat),
    (9, f.d.toNat), bit f.u, bit f.gn, (3, f.g.toNat), (4, sub), (6, op)]
def encC (op sub : Nat) (f : CFmt) : Nat :=
  pack [(16, f.imm.toNat), (24, f.off.toNat), (6, f.sx.toNat), (3, f.rj.toNat), bit f.u, bit f.gn, (3, f.g.toNat), (4, sub), (6, op)]
def encS (op sub : Nat) (f : SFmt) : Nat :=
  pack [(16, f.imm.toNat), (16, f.mask.toNat), (2, f.sc.toNat), (6, f.sa.toNat), (9, f.d.toNat), bit f.u, bit f.gn,
    (3, f.g.toNat), (4, sub), (6, op)]
def encE (op sub : Nat) (f : EFmt) : Nat :=
  pack [(16, f.imm.toNat), (10, f.n.toNat), (6, f.sy.toNat), (6, f.sx.toNat), (6, f.sd.toNat), bit f.hv, (4, f.hd.toNat),
    bit f.u, bit f.gn, (3, f.g.toNat), (4, sub), (6, op)]

/-- The 64-bit word of an instruction (R264 to R278, R291); an event has none. -/
def encodeNat (i : Instr) : Option Nat :=
  match i with
  | .blockHeader h => some (encH h)
  | .retiredB5Operation w | .illegalInstructionWord w => some w.toNat
  | .udf rest => some (pack [(54, rest.toNat), (4, 15), (6, 0x3F)])
  | .atom op f => some (encM 0x23 op.toNat f)
  | .atoms op f => some (encM 0x24 op.toNat f)
  | .bra f => some (encC 0x01 0 f)
  | .brc f => some (encC 0x01 1 f)
  | .bru f => some (encC 0x01 2 f)
  | .brx f => some (encC 0x01 3 f)
  | .call f => some (encC 0x01 4 f)
  | .callx f => some (encC 0x01 5 f)
  | .ret f => some (encC 0x01 6 f)
  | .exitOp f => some (encC 0x01 7 f)
  | .yield f => some (encC 0x01 8 f)
  | .nop f => some (encC 0x01 9 f)
  | .rjset f => some (encC 0x02 0 f)
  | .rjoin f => some (encC 0x02 1 f)
  | .rjdrop f => some (encC 0x02 2 f)
  | .svc f => some (encC 0x03 0 f)
  | .trapOp f => some (encC 0x03 1 f)
  | .bkpt f => some (encC 0x03 2 f)
  | .rte f => some (encC 0x03 3 f)
  | .rdsr f => some (encR 0x04 0 f)
  | .wrsr f => some (encR 0x04 1 f)
  | .iadd f => some (encR 0x08 0 f)
  | .isub f => some (encR 0x08 1 f)
  | .iaddc f => some (encR 0x08 2 f)
  | .imin f => some (encR 0x08 3 f)
  | .imax f => some (encR 0x08 4 f)
  | .iabs f => some (encR 0x08 5 f)
  | .isad f => some (encR 0x08 6 f)
  | .imul f => some (encR 0x09 0 f)
  | .imulh f => some (encR 0x09 1 f)
  | .imad f => some (encR 0x09 2 f)
  | .imadw f => some (encR 0x09 3 f)
  | .andOp f => some (encR 0x0A 0 f)
  | .orOp f => some (encR 0x0A 1 f)
  | .xorOp f => some (encR 0x0A 2 f)
  | .andn f => some (encR 0x0A 3 f)
  | .notOp f => some (encR 0x0A 4 f)
  | .lmix f => some (encR 0x0A 5 f)
  | .shl f => some (encR 0x0B 0 f)
  | .shr f => some (encR 0x0B 1 f)
  | .sar f => some (encR 0x0B 2 f)
  | .rot f => some (encR 0x0B 3 f)
  | .fshl f => some (encR 0x0B 4 f)
  | .bfe f => some (encR 0x0C 0 f)
  | .bfi f => some (encR 0x0C 1 f)
  | .popc f => some (encR 0x0C 2 f)
  | .clz f => some (encR 0x0C 3 f)
  | .brev f => some (encR 0x0C 4 f)
  | .rbyte f => some (encR 0x0C 5 f)
  | .icmp f => some (encR 0x0D 0 f)
  | .sel f => some (encR 0x0D 1 f)
  | .mov f => some (encR 0x0D 2 f)
  | .lea f => some (encR 0x0D 3 f)
  | .movi f => some (encW 0x0E 0 f)
  | .plop f => some (encR 0x0F 0 f)
  | .pmov f => some (encR 0x0F 1 f)
  | .ballot f => some (encR 0x0F 2 f)
  | .vchk f => some (encR 0x0F 3 f)
  | .fadd f => some (encR 0x10 0 f)
  | .fsub f => some (encR 0x10 1 f)
  | .fmul f => some (encR 0x10 2 f)
  | .fmin f => some (encR 0x10 3 f)
  | .fmax f => some (encR 0x10 4 f)
  | .ffma f => some (encR 0x11 0 f)
  | .fdot2 f => some (encR 0x11 1 f)
  | .fdot4 f => some (encR 0x11 2 f)
  | .fcmp f => some (encR 0x12 0 f)
  | .fclass f => some (encR 0x12 1 f)
  | .frcp f => some (encR 0x13 0 f)
  | .frsq f => some (encR 0x13 1 f)
  | .fsqrt f => some (encR 0x13 2 f)
  | .fexp2 f => some (encR 0x13 3 f)
  | .flog2 f => some (encR 0x13 4 f)
  | .fsin f => some (encR 0x13 5 f)
  | .fcos f => some (encR 0x13 6 f)
  | .ftanh f => some (encR 0x13 7 f)
  | .fcvt f => some (encR 0x14 0 f)
  | .f2i f => some (encR 0x14 1 f)
  | .i2f f => some (encR 0x14 2 f)
  | .fpack f => some (encR 0x14 3 f)
  | .funpk f => some (encR 0x14 4 f)
  | .frnd f => some (encR 0x14 5 f)
  | .hadd2 f => some (encR 0x15 0 f)
  | .hmul2 f => some (encR 0x15 1 f)
  | .hfma2 f => some (encR 0x15 2 f)
  | .slx f => some (encR 0x18 0 f)
  | .lred f => some (encR 0x18 1 f)
  | .lscan f => some (encR 0x18 2 f)
  | .lcnt f => some (encR 0x18 3 f)
  | .ldOp f => some (encM 0x20 0 f)
  | .lda f => some (encM 0x20 1 f)
  | .expld f => some (encM 0x20 2 f)
  | .prf f => some (encM 0x20 3 f)
  | .stOp f => some (encM 0x21 0 f)
  | .str f => some (encM 0x21 1 f)
  | .cmpst f => some (encM 0x21 2 f)
  | .lds f => some (encM 0x22 0 f)
  | .sts f => some (encM 0x22 1 f)
  | .bar f => some (encS 0x25 0 f)
  | .bararv f => some (encS 0x25 1 f)
  | .barwt f => some (encS 0x25 2 f)
  | .tbinit f => some (encS 0x26 0 f)
  | .tbarv f => some (encS 0x26 1 f)
  | .tbwait f => some (encS 0x26 2 f)
  | .tbtest f => some (encS 0x26 3 f)
  | .fence f => some (encS 0x27 0 f)
  | .acq f => some (encS 0x27 1 f)
  | .rel f => some (encS 0x27 2 f)
  | .ofence f => some (encS 0x27 3 f)
  | .waitc f => some (encS 0x27 4 f)
  | .waith f => some (encS 0x28 0 f)
  | .htest f => some (encS 0x28 1 f)
  | .hcancel f => some (encS 0x28 2 f)
  | .hsave f => some (encS 0x28 3 f)
  | .hload f => some (encS 0x28 4 f)
  | .cpy f => some (encE 0x30 0 f)
  | .cpyt f => some (encE 0x30 1 f)
  | .cpyr f => some (encE 0x30 2 f)
  | .advst f => some (encE 0x30 3 f)
  | .mloop f => some (encE 0x31 0 f)
  | .mloopl f => some (encE 0x31 1 f)
  | .mzero f => some (encE 0x31 2 f)
  | .mrd f => some (encE 0x31 3 f)
  | .mwr f => some (encE 0x31 4 f)
  | .mtwin f => some (encE 0x31 5 f)
  | .gmv f => some (encE 0x32 0 f)
  | .gmvl f => some (encE 0x32 1 f)
  | .pleat f => some (encE 0x33 0 f)
  | .patld f => some (encE 0x33 1 f)
  | _ => none

/-- The word of a well-formed instruction. -/
def encode (i : Instr) : Option (BitVec 64) := (encodeNat i).map (BitVec.ofNat 64)

end Sys2Proof
end

