-- ==== Sys2Proof/Machine/Num.lean ====
section
/-! DEFINITION. Element types and formats (R88, R89), exact values, the one rounding (R90 to R94), and exact sums and products
(R96, R97). Values are exact dyadics; nothing changes a value but `roundTo`. -/

namespace Sys2Proof.Arith

/-- Width of a T code (R88). -/
def tBits (t : Nat) : Nat :=
  if [6, 7, 14].contains t then 64
  else if [0, 1, 8].contains t then 32
  else if [2, 3, 9, 10].contains t then 16
  else if t == 13 then 4 else 8

/-- Signedness of an integer T code (R88). -/
def tSigned (t : Nat) : Bool := t % 2 == 1

/-- A floating-point layout (R88, R89): exponent and mantissa widths and bias; whether it has infinities; whether it has NaN
codes. -/
structure FFmt where
  eb : Nat
  mb : Nat
  bias : Int
  hasInf : Bool
  hasNan : Bool
  deriving DecidableEq, Repr

def f32 : FFmt := ⟨8, 23, 127, true, true⟩
def f16 : FFmt := ⟨5, 10, 15, true, true⟩
def bf16 : FFmt := ⟨8, 7, 127, true, true⟩
def e4m3 : FFmt := ⟨4, 3, 7, false, true⟩
def e5m2 : FFmt := ⟨5, 2, 15, true, true⟩
def e2m1 : FFmt := ⟨2, 1, 1, false, false⟩
def f64 : FFmt := ⟨11, 52, 1023, true, true⟩
def e2m3 : FFmt := ⟨2, 3, 1, false, false⟩
def e3m2 : FFmt := ⟨3, 2, 3, false, false⟩

/-- The layout a T code or a format code names (R88, R89); E8M0 and the integer codes are read apart. -/
def fmtOf (t : Nat) : FFmt :=
  match t with
  | 9 => f16 | 10 => bf16 | 11 => e4m3 | 12 => e5m2 | 13 => e2m1 | 14 => f64 | 16 => e2m3 | 17 => e3m2 | _ => f32

/-- An exact floating-point value: NaN, an infinity, or (−1)^neg · m · 2^e with the sign of a zero kept. -/
inductive FVal where
  | nan
  | inf (neg : Bool)
  | fin (neg : Bool) (m : Nat) (e : Int)
  deriving DecidableEq, Repr

namespace FVal
def isNan : FVal → Bool | .nan => true | _ => false
def isInf : FVal → Bool | .inf _ => true | _ => false
def isNeg : FVal → Bool | .nan => false | .inf n => n | .fin n _ _ => n
def isZero : FVal → Bool | .fin _ 0 _ => true | _ => false
def negate : FVal → FVal | .nan => .nan | .inf n => .inf (!n) | .fin n m e => .fin (!n) m e
def negIf (b : Bool) (x : FVal) : FVal := if b then x.negate else x
def zero (neg : Bool) : FVal := .fin neg 0 0
def ofInt (x : Int) : FVal := .fin (x < 0) x.natAbs 0
end FVal

/-- Exponent code of all ones. -/
def FFmt.emax (f : FFmt) : Nat := 2 ^ f.eb - 1

/-- Mantissa and exponent of the largest finite value (R88). -/
def FFmt.maxFin (f : FFmt) : Nat × Int :=
  if f.hasInf then (2 ^ (f.mb + 1) - 1, (f.emax : Int) - 1 - f.bias - f.mb)
  else if f.hasNan then (2 ^ (f.mb + 1) - 2, (f.emax : Int) - f.bias - f.mb)
  else (2 ^ (f.mb + 1) - 1, (f.emax : Int) - f.bias - f.mb)

def FFmt.signBit (f : FFmt) (neg : Bool) : Nat := if neg then 2 ^ (f.eb + f.mb) else 0
/-- Code of ±max. -/
def FFmt.maxCode (f : FFmt) (neg : Bool) : Nat :=
  f.signBit neg + (if f.hasInf then f.emax * 2 ^ f.mb - 1 else if f.hasNan then f.emax * 2 ^ f.mb + 2 ^ f.mb - 2
    else f.emax * 2 ^ f.mb + 2 ^ f.mb - 1)
/-- The canonical NaN of R91; a type without NaN gives +0. -/
def FFmt.nanCode (f : FFmt) : Nat :=
  if f.hasInf then f.emax * 2 ^ f.mb + 2 ^ (f.mb - 1)
  else if f.hasNan then f.emax * 2 ^ f.mb + 2 ^ f.mb - 1 else 0
/-- ±∞ as a destination code: a type without infinity gives NaN (E4M3) or ±max (R90). -/
def FFmt.infCode (f : FFmt) (neg : Bool) : Nat :=
  if f.hasInf then f.signBit neg + f.emax * 2 ^ f.mb else if f.hasNan then f.nanCode else f.maxCode neg

/-- The value of a code (R88). -/
def FFmt.value (f : FFmt) (x : Nat) : FVal :=
  let neg := (x / 2 ^ (f.eb + f.mb)) % 2 == 1
  let e := (x / 2 ^ f.mb) % 2 ^ f.eb
  let m := x % 2 ^ f.mb
  if e == f.emax && f.hasInf then (if m == 0 then .inf neg else .nan)
  else if e == f.emax && f.hasNan && m == 2 ^ f.mb - 1 then .nan
  else if e == 0 then .fin neg m (1 - f.bias - f.mb)
  else .fin neg (m + 2 ^ f.mb) ((e : Int) - f.bias - f.mb)

/-- Value of an E8M0 code (R88): 2^(e − 127), 0xFF is NaN. -/
def e8m0Value (x : Nat) : FVal := if x % 256 == 255 then .nan else .fin false 1 ((x % 256 : Nat) - 127 : Int)

/-- The value of a register's bits under a floating T or format code, E8M0 among them. -/
def valueOf (t x : Nat) : FVal := if t == 15 then e8m0Value x else (fmtOf t).value x

/-- Rounding modes of R90. -/
inductive Mode where
  | rne | rtz | rdn | rup | rna | sr
  deriving DecidableEq, Repr

def modeOf : Nat → Mode
  | 0 => .rne | 1 => .rtz | 2 => .rdn | 3 => .rup | 4 => .rna | _ => .sr

/-- Does |x| = (hi + lo/2^s + sticky) ulp round away from zero? `u` is the stream value of R94. -/
def roundsUp (mode : Mode) (neg : Bool) (hi lo s : Nat) (sticky : Bool) (u : Nat) : Bool :=
  let inexact := lo != 0 || sticky
  match mode with
  | .rne => 2 * lo > 2 ^ s || (2 * lo == 2 ^ s && (sticky || hi % 2 == 1))
  | .rtz => false
  | .rdn => neg && inexact
  | .rup => !neg && inexact
  | .rna => s != 0 && 2 * lo ≥ 2 ^ s
  | .sr => lo * 2 ^ 32 + u * 2 ^ s ≥ 2 ^ (s + 32)

/-- Overflow without the saturate flag gives ±max (true) or ±∞ (false) (R90). -/
def overflowToMax (mode : Mode) (neg : Bool) : Bool :=
  match mode with
  | .rtz => true
  | .rdn => !neg
  | .rup => neg
  | _ => false

/-- Compare m1·2^e1 with m2·2^e2. -/
def magLt (m1 : Nat) (e1 : Int) (m2 : Nat) (e2 : Int) : Bool :=
  if e1 ≤ e2 then decide (m1 < m2 * 2 ^ (e2 - e1).toNat) else decide (m1 * 2 ^ (e1 - e2).toNat < m2)

/-- Round (m + sticky)·2^e, of sign `neg`, to a format. Where `sticky` stands, `m` holds more bits than the format. -/
def roundFin (f : FFmt) (mode : Mode) (sat neg : Bool) (m : Nat) (e : Int) (sticky : Bool) (u : Nat) : Nat :=
  if m == 0 && !sticky then f.signBit neg
  else
    let q : Int := max (e + Nat.log2 m) (1 - f.bias) - f.mb
    let s : Nat := (q - e).toNat
    let m' := if q < e then m * 2 ^ (e - q).toNat else m
    let hi := m' / 2 ^ s
    let up := roundsUp mode neg hi (m' % 2 ^ s) s sticky u
    let r := if up then hi + 1 else hi
    let (r, q) := if r == 2 ^ (f.mb + 1) then (2 ^ f.mb, q + 1) else (r, q)
    let (mm, me) := f.maxFin
    if magLt mm me r q then
      if sat || overflowToMax mode neg then f.maxCode neg else f.infCode neg
    else if r < 2 ^ f.mb then f.signBit neg + r
    else f.signBit neg + (q + f.mb + f.bias).toNat * 2 ^ f.mb + (r - 2 ^ f.mb)

/-- `Round(x, type, mode, sat)` of R8 and R90. -/
def roundTo (f : FFmt) (mode : Mode) (sat : Bool) (x : FVal) (u : Nat := 0) : Nat :=
  match x with
  | .nan => f.nanCode
  | .inf neg => if sat then f.maxCode neg else f.infCode neg
  | .fin neg m e => roundFin f mode sat neg m e false u

/-- Conversion to E8M0 (R93): a power of two, the sign ignored. -/
def toE8m0 (mode : Mode) (x : FVal) (u : Nat) : Nat :=
  match x with
  | .nan | .inf _ => 255
  | .fin _ 0 _ => 0
  | .fin _ m e =>
    let k := Nat.log2 m
    let frac := m - 2 ^ k
    let up := match mode with
      | .rtz | .rdn => false
      | .rup => frac != 0
      | .rne | .rna => 2 * frac ≥ 2 ^ k
      | .sr => frac * 2 ^ 32 + u * 2 ^ k ≥ 2 ^ (k + 32)
    let p : Int := e + k + (if up then 1 else 0)
    (min 254 (max 0 (p + 127))).toNat

/-- Round to the type a T or format code names. -/
def roundT (t : Nat) (mode : Mode) (sat : Bool) (x : FVal) (u : Nat := 0) : Nat :=
  if t == 15 then toE8m0 mode x u else roundTo (fmtOf t) mode sat x u

/-! ## Exact arithmetic (R9, R96) -/

/-- A product with the special cases of R91 and R96; the sign of a zero product is the exclusive-or of the signs. -/
def mul (a b : FVal) : FVal :=
  match a, b with
  | .nan, _ | _, .nan => .nan
  | .inf n, y => if y.isZero then .nan else .inf (n != y.isNeg)
  | x, .inf n => if x.isZero then .nan else .inf (n != x.isNeg)
  | .fin n m e, .fin n' m' e' => .fin (n != n') (m * m') (e + e')

/-- Signed integer of a finite value at the exponent `e0`, which is no larger than its own. -/
def atExp (e0 : Int) : FVal → Int
  | .fin neg m e => let v : Int := (m * 2 ^ (e - e0).toNat : Nat); if neg then -v else v
  | _ => 0

def minExp : List FVal → Int
  | [] => 0
  | [.fin _ _ e] => e
  | .fin _ _ e :: r => min e (minExp r)
  | _ :: r => minExp r

/-- `ExactSum` of R8 with the special cases of R96 in their order; an exact zero from terms of opposite signs is +0, under RDN
−0 (R90). -/
def exactSum (mode : Mode) (xs : List FVal) : FVal :=
  if xs.any FVal.isNan then .nan
  else if xs.any (fun x => x.isInf && x.isNeg) && xs.any (fun x => x.isInf && !x.isNeg) then .nan
  else match xs.find? FVal.isInf with
  | some x => x
  | none =>
    let e := minExp xs
    let v : Int := (xs.map (atExp e)).foldl (· + ·) 0
    if v == 0 then
      if xs.all FVal.isNeg && !xs.isEmpty then FVal.zero true
      else if xs.all (fun x => !x.isNeg) then FVal.zero false
      else FVal.zero (mode == .rdn)
    else .fin (v < 0) v.natAbs e

/-- Compare two values that are no NaN; −0 equals +0. -/
def ltVal (a b : FVal) : Bool :=
  match a, b with
  | .inf true, .inf true => false
  | .inf true, _ => true
  | _, .inf true => false
  | .inf false, _ => false
  | _, .inf false => true
  | x, y => let e := min (minExp [x]) (minExp [y]); atExp e x < atExp e y
def eqVal (a b : FVal) : Bool := !ltVal a b && !ltVal b a

/-- FMIN and FMAX order: −0 below +0 (R91). -/
def ltMin (a b : FVal) : Bool := ltVal a b || (a.isZero && b.isZero && a.isNeg && !b.isNeg)

/-- The bits FMIN (`mx` false) or FMAX returns of two operands' bits; `prop` is M = 001 (R91, R329). -/
def minMaxBits (t : Nat) (mx prop : Bool) (a b : Nat) : Nat :=
  let va := valueOf t a
  let vb := valueOf t b
  let nan := (fmtOf t).nanCode
  if va.isNan && vb.isNan then nan
  else if va.isNan then (if prop then nan else b)
  else if vb.isNan then (if prop then nan else a)
  else if mx then (if ltMin va vb then b else a) else (if ltMin vb va then b else a)

/-- A finite value rounded to an integer by a mode (R93, R328). -/
def roundInt (mode : Mode) (neg : Bool) (m : Nat) (e : Int) : Int :=
  let s := (-e).toNat
  let m' := if e ≥ 0 then m * 2 ^ e.toNat else m
  let hi := m' / 2 ^ s
  let r := if roundsUp mode neg hi (m' % 2 ^ s) s false 0 then hi + 1 else hi
  if neg then -(r : Int) else r

/-- Range of an integer T (R88). -/
def intMin (t : Nat) : Int := if tSigned t then -(2 ^ (tBits t - 1) : Nat) else 0
def intMax (t : Nat) : Int := if tSigned t then (2 ^ (tBits t - 1) : Nat) - 1 else (2 ^ tBits t : Nat) - 1
def clampInt (t : Nat) (x : Int) : Int := max (intMin t) (min (intMax t) x)

/-- F2I of R93: always clamped, NaN gives 0. -/
def toIntClamped (t : Nat) (mode : Mode) : FVal → Int
  | .nan => 0
  | .inf neg => if neg then intMin t else intMax t
  | .fin neg m e => clampInt t (roundInt mode neg m e)

/-- The 64-bit register value that holds an exact integer under an integer T: wrapped or clamped, then extended by its
signedness (R84, R93, R266, R342). -/
def fitInt (t : Nat) (sat : Bool) (r : Int) : BitVec 64 :=
  let x := if sat then clampInt t r else r
  let w := tBits t
  if tSigned t then BitVec.ofInt 64 (sextInt w (wrapNat w x)) else BitVec.ofNat 64 (wrapNat w x)

/-- The exact integer an operand's bits hold under an integer T (R342). -/
def intOf (t : Nat) (x : BitVec 64) : Int :=
  if tSigned t then sextInt (tBits t) x.toNat else (x.toNat % 2 ^ tBits t : Nat)

/-- Negation under F[2], F[1] or F[0]: (0 − x) mod 2^w, read again by signedness (R272, R342). -/
def negInt (t : Nat) (neg : Bool) (x : Int) : Int :=
  if neg then intOf t (BitVec.ofNat 64 (wrapNat (tBits t) (-x))) else x

/-! ## Stochastic rounding (R94) -/

/-- Seed of lane l: (seed XOR ((l + 1) · 0x9E37_79B9)) mod 2^32, a 0 replaced by 1. -/
def seedLane (seed : BitVec 32) (l : Nat) : BitVec 32 :=
  let x := seed ^^^ BitVec.ofNat 32 ((l + 1) * 0x9E3779B9)
  if x == 0 then 1 else x
/-- The advance of a stream state. -/
def advanceStream (x : BitVec 32) : BitVec 32 :=
  let x := x ^^^ (x <<< 13)
  let x := x ^^^ (x >>> 17)
  x ^^^ (x <<< 5)

end Sys2Proof.Arith
end

