-- ==== Sys2Proof/Machine/Store.lean ====
section
/-! DEFINITION. Sparse stores: a list of (key, value) pairs in one canonical form, keys strictly rising and no entry equal to
what an unlisted key reads as; and small tables keyed by any comparable name. -/

namespace Sys2Proof

namespace Sparse
variable {ν : Type} [DecidableEq ν]

/-- The value at a key; an unlisted key reads as `d`. -/
def get (d : ν) : List (Nat × ν) → Nat → ν
  | [], _ => d
  | (k, v) :: m, a => if a < k then d else if a = k then v else get d m a

/-- Write one key, keeping the canonical form. -/
def put (d : ν) : List (Nat × ν) → Nat → ν → List (Nat × ν)
  | [], a, v => if v = d then [] else [(a, v)]
  | (k, w) :: m, a, v =>
    if a < k then (if v = d then (k, w) :: m else (a, v) :: (k, w) :: m)
    else if a = k then (if v = d then m.dropWhile (fun p => p.1 ≤ a) else (a, v) :: m)
    else (k, w) :: put d m a v

/-- Every key is above `lo` and no value is `d`; keys rise strictly. -/
def wfFrom (d : ν) : Option Nat → List (Nat × ν) → Bool
  | _, [] => true
  | lo, (k, v) :: m => (match lo with | none => true | some b => b < k) && v != d && wfFrom d (some k) m
/-- The canonical form. -/
def wf (d : ν) (m : List (Nat × ν)) : Bool := wfFrom d none m

/-- Write several values at consecutive keys. -/
def putList (d : ν) (m : List (Nat × ν)) : Nat → List ν → List (Nat × ν)
  | _, [] => m
  | a, v :: vs => putList d (put d m a v) (a + 1) vs
/-- Write the values of a whole run of keys from `lo`. -/
def putBlock (d : ν) (m : List (Nat × ν)) (lo : Nat) (vs : List ν) : List (Nat × ν) :=
  m.filter (fun p => p.1 < lo) ++ (vs.zipIdx lo).filterMap (fun (v, k) => if v = d then none else some (k, v))
    ++ m.filter fun p => lo + vs.length ≤ p.1
/-- Read `n` consecutive keys. -/
def getList (d : ν) (m : List (Nat × ν)) (a n : Nat) : List ν := (List.range n).map fun i => get d m (a + i)
/-- Forget every key in [lo, hi). -/
def dropRange (m : List (Nat × ν)) (lo hi : Nat) : List (Nat × ν) := m.filter fun p => p.1 < lo || hi ≤ p.1
end Sparse

namespace Tab
variable {κ ν : Type} [DecidableEq κ]

/-- The entry of a name. -/
def get? : List (κ × ν) → κ → Option ν
  | [], _ => none
  | (k, v) :: m, a => if a = k then some v else get? m a
/-- The entry of a name, or a default. -/
def getD (m : List (κ × ν)) (a : κ) (d : ν) : ν := (get? m a).getD d
/-- Replace the entry of a name, or append it. -/
def set : List (κ × ν) → κ → ν → List (κ × ν)
  | [], a, v => [(a, v)]
  | (k, w) :: m, a, v => if a = k then (a, v) :: m else (k, w) :: set m a v
/-- Remove a name. -/
def erase : List (κ × ν) → κ → List (κ × ν)
  | [], _ => []
  | (k, w) :: m, a => if a = k then erase m a else (k, w) :: erase m a
/-- Change the entry of a name, where there is one. -/
def modify (m : List (κ × ν)) (a : κ) (f : ν → ν) : List (κ × ν) :=
  match get? m a with
  | some v => set m a (f v)
  | none => m
/-- Change the entry of a name, taking a default where there is none. -/
def update (m : List (κ × ν)) (a : κ) (d : ν) (f : ν → ν) : List (κ × ν) := set m a (f (getD m a d))
end Tab

/-- Replace element `i` of a list that reads as `d` beyond its end. -/
def setAt {α : Type} (d : α) : List α → Nat → α → List α
  | [], 0, y => [y]
  | [], i + 1, y => d :: setAt d [] i y
  | _ :: xs, 0, y => y :: xs
  | x :: xs, i + 1, y => x :: setAt d xs i y

end Sys2Proof
end

