-- ==== Sys2Proof/Machine/State.lean ====
section
/-! DEFINITION. The state of one package, as plain data, and the state right after reset. Each field names the rule that gives
it; INVENTORY.md lists them all with their reset values. -/

namespace Sys2Proof.Machine

/-- Why a step can stop. The manual gives the package no halt of its own (R7, R234), so only the model's own use of `exec`
can stop. -/
inductive Fault where
  /-- Raised by the meaning of an instruction word where `exec` is asked to run it with no strand issuing (`State.cur` is
  none, or names no strand of the state); `step` never does. Safe: the machine stops where the manual has no such event. -/
  | noStrand
  deriving DecidableEq, Repr

/-- Why an instruction has no meaning. -/
inductive Refusal where
  /-- Raised by an arm of `exec` for an instruction that has no meaning yet, by its mnemonic. Safe: the machine stops. -/
  | notModelled (mnemonic : String)
  deriving DecidableEq, Repr

/-! ## Strands and skeins -/

/-- A reconvergence-stack entry (R71); addresses are VAs, `none` is a reconvergence PC of "none". -/
structure StackEnt where
  full : Mask
  pending : Mask
  pendPc : W64
  rpc : Option W64
  deriving DecidableEq, Repr, Inhabited

/-- An item of a strand's nest, newest first in `Strand.nest` (R414): a join record by its name, a stack entry held on chip, or
a stack entry spilled to private memory (R72). -/
inductive NestItem where
  | join (rid : Nat)
  | stack (e : StackEnt)
  | spilled
  deriving DecidableEq, Repr, Inhabited

/-- What a strand waits for with its word not completed; the word issues again when the wait is over (R52, R140, R177, R180,
R193, R196, R205, R243, R321, R395). -/
inductive Wait where
  | none
  /-- at the join PC of its innermost record (R70) -/
  | join
  /-- on rejoin register k, carrying pass lanes (R74) -/
  | rjoin (k : Nat)
  /-- BAR or BARARV reached: offset, n, and the halves whose arrival has been counted with the generation each met (R196) -/
  | arrive (off n : Nat) (counted : List (Nat × Nat))
  /-- BAR: the generation has to move past each g (R196) -/
  | barGen (off : Nat) (gs : List Nat)
  | barwt (off g : Nat)
  | tbwait (off e : Nat)
  | waitc (l s c m : Nat)
  | waith (hs : List Nat)
  /-- MTWIN rendezvous by its name (R205) -/
  | mtwin (rid : Nat)
  /-- a list of memory operations to be performed, then the rest of a fence or of an LDA or STR (R140, R142) -/
  | memops (ops : List Nat) (stage : Nat)
  | lastExit
  | svc
  | delay (till : Nat)
  deriving DecidableEq, Repr, Inhabited

/-- The block a strand is in: its header's VA and fields, and how many of its words have not issued (R67). -/
structure Block where
  va : W64
  hdr : HFmt
  left : Nat
  deriving DecidableEq, Repr, Inhabited

/-- An entry of the split table (R69). -/
structure Strand where
  pc : W64
  mask : Mask
  /-- the block that holds the next word; none where the next word must be a header (R67) -/
  blk : Option Block
  /-- safe-point count (R58) -/
  count : Nat
  wait : Wait
  nest : List NestItem
  /-- cycle of the last issue (R52) -/
  lastIssue : Nat
  /-- the next issue is a replay for these lanes: of a parked word, which counts nothing (true), or by RTE (false) (R58, R164,
  R239) -/
  replay : Option (Bool × Mask)
  /-- Active() at the first issue of the word, once lanes of it have been performed (R316, R323) -/
  act0 : Option Mask
  /-- the name of the memory instruction whose lanes are performed in parts, once the first part is (R175, R176) -/
  part : Option Nat
  /-- the address breakpoint at the next word has fired (R249) -/
  brkPassed : Bool
  /-- released from the join header that is its next word, which it issues whatever names it (R76) -/
  passNamed : Bool
  /-- stopped at a safe point for a cancel or a pre-emption (R30, R61) -/
  atSafe : Bool
  /-- writes of scratch bytes by the strand since its last OFENCE, oldest first: key, the value before, the cycle (R147) -/
  ownScr : List (Nat × Byte × Nat)
  /-- cycle of its last OFENCE, and the vector registers as they stood then (R147) -/
  fencedAt : Nat
  seenRegs : List (Nat × W32)
  deriving DecidableEq, Repr, Inhabited

/-- A join record (R70). -/
structure JoinRec where
  rid : Nat
  mask : Mask
  joinPc : Option W64
  /-- lanes that have left the record (R75, R76) -/
  gone : Mask
  deriving DecidableEq, Repr, Inhabited

/-- A handle register (R178). -/
inductive HReg where
  | none
  /-- names an entry of the core's engine entry table -/
  | entry (e gen : Nat)
  | done (canc : Bool)
  /-- an error that an image brings with its cause, where no ended operation of the entry named has one (R180) -/
  | err (cause : Nat)
  deriving DecidableEq, Repr, Inhabited

/-- A trap before it is entered (R234, R235). `next` says that the frame PC is the next word. -/
structure TrapInfo where
  cause : Nat
  pc : W64
  unfin : Mask
  fva : W64
  info : W64
  next : Bool
  strand : Nat
  deriving DecidableEq, Repr, Inhabited

/-- Trap mode of a skein (R237). -/
structure TrapMode where
  entryPc : W64
  strand : Nat
  cause : Nat
  /-- the first header of the trap vector, once issued -/
  vecHdr : Option HFmt
  /-- the block the strand was in -/
  blk : Option Block
  /-- the strand's mask at entry -/
  mask : Mask
  /-- what the strand had passed at that word: an address breakpoint, a join header it was released from (R76, R249) -/
  brk : Bool
  pass : Bool
  deriving DecidableEq, Repr, Inhabited

/-- An error without a handle, a race or a report of lost reconvergence, to be trapped (R76, R130, R176): the cause and fault VA, the
lowest lane of its instruction, and for a race the name under which that instruction is counted. -/
structure PendErr where
  cause : Nat
  fva : W64
  lane : Nat
  name : Nat
  deriving DecidableEq, Repr, Inhabited

/-- Why a skein is parked (R54). -/
inductive ParkReason where
  /-- translation faults at these addresses, each with the slice that resolves it (R164) -/
  | fault (vas : List W64)
  /-- a remote access, by its memory operation (R222) -/
  | remote (op : Nat)
  /-- the group's spill ring (R190) -/
  | ring (va : W64)
  deriving DecidableEq, Repr, Inhabited

/-- Registers an engine operation reads until the matching wait (R149): first, count, place of their undefined values, and the
operation with its entry. -/
structure Hazard where
  first : Nat
  count : Nat
  nonce : Nat
  op : Nat
  entry : Option Nat
  deriving DecidableEq, Repr, Inhabited

/-- A register word that holds an uncorrectable error (R174): a vector register of a lane by 32·r + l, a uniform, predicate or rejoin
register by its number. -/
inductive SoftReg where
  | v (key : Nat)
  | s (r : Nat)
  | p (i : Nat)
  | rj (i : Nat)
  deriving DecidableEq, Repr, Inhabited

/-- Two strands of a skein issue in one cycle (R52): the vector registers as that cycle finds them (R381), and whether the cycle has lost
reconvergence (R87). -/
structure PairSt where
  vregs : List (Nat × W32)
  lost : Bool
  deriving DecidableEq, Repr, Inhabited

/-- A skein (R20, R34, R51). -/
structure Skein where
  group : Nat
  index : Nat
  /-- v registers: key 32·r + l (R82) -/
  vregs : List (Nat × W32)
  /-- s1 to s63 (R82) -/
  sregs : List (Nat × W64)
  /-- p0 to p6 (R82) -/
  preds : List Mask
  rj : List Mask
  handles : List HReg
  /-- class counters L, S, C, M (R175) -/
  cntL : Nat
  cntS : Nat
  cntC : Nat
  cntM : Nat
  /-- operations counted per class, in issue order, each with "finished" (R176) -/
  fifoL : List (Nat × Bool)
  fifoS : List (Nat × Bool)
  fifoC : List (Nat × Bool)
  fifoM : List (Nat × Bool)
  joinLost : Bool
  raceTrap : Bool
  raceReport : Bool
  seed : W32
  streams : List W32
  trapFrame : W64
  privBase : W64
  /-- the four entries of the split table (R69) -/
  strands : List (Option Strand)
  records : List JoinRec
  exited : Mask
  park : Option (Nat × ParkReason)
  trap : Option TrapMode
  /-- traps held pending with their frames' contents: entered in order once no trap mode and no wait of an SVC stands (R235) -/
  pendTraps : List (TrapInfo × List Byte)
  pendErrs : List PendErr
  /-- two of its strands issue in this cycle, which is not over (R52, R73) -/
  paired : Option PairSt
  /-- stopped by the debugger (R80) -/
  stopped : Bool
  /-- strand being single-stepped, and whether its word has issued (R81) -/
  stepping : Option (Nat × Bool)
  /-- stopped in an SVC: its strand and service number, once the wait has begun (R243) -/
  svcWait : Option (Nat × Nat)
  /-- stopped for pre-emption (R61) -/
  yielded : Bool
  /-- engine operations issued, with or without a handle, not yet forgotten (R181, R321) -/
  ops : List Nat
  /-- operations with a handle that failed and are not reported, in issue order (R181, R321): operation, cause, address -/
  failed : List (Nat × Nat × W64)
  exitedAll : Bool
  /-- it has fetched at the entry VA (R24) -/
  started : Bool
  /-- per barrier word (core and offset): lanes that passed a BAR or BARARV with a false guard (R306) -/
  passed : List ((Nat × Nat) × Mask)
  hazards : List Hazard
  /-- register words with an uncorrectable error (R174) -/
  soft : List SoftReg
  deriving DecidableEq, Repr, Inhabited

/-! ## Memory operations, caches and messages -/

/-- What a memory operation of a strand does when its words are there. -/
inductive MemKind where
  | load (sx : Bool)
  | store
  | prefetch
  deriving DecidableEq, Repr, Inhabited

/-- A lane of a memory operation: lane, address, destination register (or data source), and for a store its bytes. -/
structure LaneAcc where
  lane : Nat
  va : W64
  reg : Nat
  deriving DecidableEq, Repr, Inhabited

/-- A memory operation in flight (R140, R175). -/
structure MemOp where
  id : Nat
  /-- the name under which its instruction is counted: the first of its parts (R175) -/
  cnt : Nat
  sk : SkId
  /-- the strands that it precedes in program order: its own, those that divided from it since, and the one it has merged into (R77, R78,
  R137) -/
  strands : List Nat
  kind : MemKind
  /-- bytes per lane -/
  size : Nat
  /-- result to s-registers -/
  uniform : Bool
  cls : Option Cls
  lanes : List LaneAcc
  /-- words still to come or to be acknowledged, by `wkey` of ASID and VA/4 -/
  need : List Nat
  /-- words that came, by the same key, with their values -/
  got : List (Nat × W32)
  /-- words that DATA has brought for the L1, installed when every part has come (R127) -/
  fill : List (Nat × W32)
  /-- lowest lane of the instruction whose access met a race (R130) -/
  raced : Option (Nat × W64)
  /-- acts as ACQ when the value has returned (R142) -/
  lda : Bool
  /-- race flags of the skein sampled at issue (R130) -/
  report : Bool
  onRace : Bool
  /-- regions an ACQ has named since the RDQ was sent (R141) -/
  stale : BitVec 16
  /-- words that an engine's completion has invalidated since, or that the core has written, by ASID and VA/4: nothing is installed there
  (R137, R148) -/
  noFill : List (Nat × Nat)
  /-- lowest lane whose word failed its check after the issue (R173, R174) -/
  failed : Option (Nat × W64)
  /-- registers that a later word of the strand has written meanwhile, by number, vector registers as 32·r + lane: the load writes them no
  more (R52) -/
  dead : List Nat
  deriving DecidableEq, Repr, Inhabited

/-- States of a word in a cache (R118). -/
inductive CSt where
  | valid | owned | ownedSealed
  deriving DecidableEq, Repr, Inhabited

/-- Name of a word of a cache or of an engine agent: agent ID, address space, VA/4. -/
structure CKey where
  agent : Nat
  asid : Nat
  wa : Nat
  deriving DecidableEq, Repr, Inhabited

/-- What an agent's registration of a word stands for, as FWD and RECALL ask for it (R121, R125, R127): nothing, since no REG has been
applied yet or a WB has been sent; the word as it is here; or bytes that were registered before stores whose REG is on its way: the
value, its byte mask, and the bytes written since. -/
inductive Claim where
  | none | live
  | old (x : W32) (m fresh : BitVec 4)
  deriving DecidableEq, Repr, Inhabited

/-- A word of a cache (R118, R122, R132). -/
structure CWord where
  st : CSt
  data : W32
  /-- bytes written here that the home does not hold -/
  wmask : BitVec 4
  region : Nat
  /-- its REGACK has not come (R122); a Valid word that awaits one is Invalid to every reader (R125) -/
  awaiting : Bool
  claim : Claim
  deriving DecidableEq, Repr, Inhabited

/-- State of a word at its home (R118); an unlisted word is Unfilled. -/
inductive WSt where
  | valid | registered (agent : Nat) | sealed (agent : Nat)
  deriving DecidableEq, Repr, Inhabited

/-- Name of a word at its home. -/
structure HKey where
  asid : Nat
  wa : Nat
  deriving DecidableEq, Repr, Inhabited

/-- Kinds of registration messages (R120, R121, R220). -/
inductive MsgKind where
  | reg | seal | rdq | fwd | recall | wb | race | regack | sealack | data | gone
  deriving DecidableEq, Repr, Inhabited

/-- Race kinds (R130). -/
inductive RaceKind where
  | read | register | atomic
  deriving DecidableEq, Repr, Inhabited

/-- A registration message (R120): words of one 128 B sector. `words` holds word number, value and byte mask where it carries
bytes; `rmask` holds the words that an RDQ's load reads (R127), those for which a REG asks the home's bytes (R122), and those for
which a home's DATA brings nothing (R127); `other` is the reader of a FWD or the second agent of a RACE; `raced` marks a REG that met a
race and its REGACK; `op` is the memory operation served. -/
structure Msg where
  src : Node
  dst : Node
  kind : MsgKind
  asid : Nat
  /-- VA of the sector -/
  sva : Nat
  mask : W32
  rmask : W32
  words : List (Nat × W32 × BitVec 4)
  other : Nat
  rkind : RaceKind
  raced : Bool
  sealIt : Bool
  op : Nat
  deriving DecidableEq, Repr, Inhabited

/-- A home request that waits for recalls (R122, R125), or a line that is to be evicted after them (R119). -/
inductive HomePend where
  | request (m : Msg)
  | evict (asid line : Nat)
  deriving DecidableEq, Repr, Inhabited

/-! ## Engines -/

/-- The CPY descriptor (R184), checked. -/
structure CpyDesc where
  dst : Nat
  src : Nat
  len : Nat
  ds : Bool
  ss : Bool
  regTo : Option Nat
  tb : Option Nat
  deriving DecidableEq, Repr, Inhabited

/-- The tile descriptor (R186), adjusted (R182) and checked. -/
structure TileDesc where
  gbase : Nat
  strides : List Nat
  extents : List Nat
  edge : Bool
  coords : List Int
  boxes : List Nat
  soff : Nat
  pitches : List Nat
  lesz : Nat
  rank : Nat
  dir : Bool
  redOp : Nat
  fill : W32
  tb : Option Nat
  deriving DecidableEq, Repr, Inhabited

/-- The matrix descriptor (R199), adjusted and checked. -/
structure MatDesc where
  aOff : Nat
  bOff : Nat
  bVa : Nat
  aInc : Int
  bInc : Int
  aPitch : Nat
  bPitch : Nat
  saOff : Option Nat
  sbOff : Option Nat
  saInc : Int
  sbInc : Int
  aFmt : Nat
  bFmt : Nat
  acc : Nat
  bGlobal : Bool
  twin : Bool
  transB : Bool
  overwrite : Bool
  joint : Bool
  jtag : Nat
  steps : Nat
  lookup : Bool
  deriving DecidableEq, Repr, Inhabited

/-- The Geyser descriptor (R209), adjusted and checked. -/
structure GeyDesc where
  wVa : Nat
  y : Nat
  xOff : Nat
  rows : Nat
  cols : Nat
  wPitch : Nat
  wFmt : Nat
  xFmt : Nat
  yScratch : Bool
  tb : Option Nat
  slice : Nat
  lookup : Bool
  deriving DecidableEq, Repr, Inhabited

/-- What an engine operation does. -/
inductive OpKind where
  | cpy (d : CpyDesc)
  | cpyt (d : TileDesc)
  | cpyr (d : TileDesc)
  | prefetch (d : TileDesc) (tb : Option Nat)
  | mat (d : MatDesc)
  | mzero (first count : Nat)
  | mrd (tile form mode : Nat) (sat : Bool) (off pitch : Nat)
  | mwr (tile form : Nat) (off pitch : Nat)
  | gey (d : GeyDesc)
  | pleat (slot : Nat) (pattern : List Byte) (rank cid : Nat)
  deriving DecidableEq, Repr, Inhabited

/-- Where an engine operation stands (R166, R167, R181). -/
inductive OpStat where
  | queued
  /-- spilled to this slot of the group's ring (R190) -/
  | spilled (slot : Nat)
  | running
  /-- paused at a restart boundary by a parkable fault at this address (R166) -/
  | paused (va : W64)
  /-- stopped for a pre-emption, with its slot where it is an entry of its group's ring (R62) -/
  | preempted (slot : Option Nat)
  /-- met an unresolvable fault or another error: cause and address (R167) -/
  | bad (cause : Nat) (fva : W64)
  deriving DecidableEq, Repr, Inhabited

/-- Member of a joint set (R204): its skein, register base, entry or count, and the lowest lane of its instruction. -/
structure JointMember where
  sk : SkId
  quarter : Nat
  vb : Nat
  op : Nat
  entry : Option Nat
  lane : Nat
  /-- the checked descriptor, adjusted (R199, R204) -/
  desc : MatDesc
  /-- the operand registers at issue, by 32·r + l, and the values they had at the strand's last OFENCE (R147, R149) -/
  regs : List (Nat × W32)
  oldRegs : List (Nat × W32)
  ownScr : List (Nat × Byte × Nat)
  fencedAt : Nat
  report : Bool
  deriving DecidableEq, Repr, Inhabited

/-- An engine operation (R166, R178, R190, R197, R211, R231). -/
structure EngOp where
  id : Nat
  kind : OpKind
  core : Nat
  group : Nat
  /-- issuing skein; none for a copy schedule entry (R39) -/
  sk : Option SkId
  lane : Nat
  /-- entry of the core's engine entry table, when issued with a handle -/
  entry : Option Nat
  cls : Cls
  stat : OpStat
  /-- units done: sectors, K-steps, row groups -/
  progress : Nat
  /-- landing units credited (R189) -/
  credited : Nat
  cancelReq : Bool
  members : List JointMember
  /-- pairing of a twin MLOOP (R205) -/
  pairing : Option Nat
  /-- words registered to the engine's agent, sealed at completion (R129): asid and VA/4 -/
  written : List (Nat × Nat)
  report : Bool
  /-- packets of a remote bulk copy still unanswered: destination package, ESEQ, time sent, which unit -/
  remote : List (Nat × Nat × Nat × Nat)
  /-- Geyser's x, read whole at the start (R211) -/
  xBytes : List Byte
  /-- scratch bytes that lanes have written since the issue (R149), and bytes read as before the strand's own writes (R147) -/
  tainted : List Nat
  stale : List (Nat × Byte)
  deriving DecidableEq, Repr, Inhabited

/-- An entry of an engine entry table (R178, R179). -/
structure EngEntry where
  gen : Nat
  live : Bool
  /-- 1 pending, 2 done, 3 error (R179) -/
  st : Nat
  canc : Bool
  cause : Nat
  fva : W64
  /-- MTWIN and engine operations behind it -/
  op : Nat
  pleat : Bool
  deriving DecidableEq, Repr, Inhabited

/-- An MTWIN rendezvous (R205). -/
structure Rendezvous where
  rid : Nat
  sk : SkId
  group : Nat
  tag : Nat
  entry : Option Nat
  /-- the partner's rendezvous, once matched -/
  mate : Option Nat
  failed : Bool
  /-- its pairing has been used by a twin MLOOP -/
  used : Bool
  deriving DecidableEq, Repr, Inhabited

/-- An open joint set (R204). -/
structure JointSet where
  core : Nat
  group : Nat
  jtag : Nat
  members : List JointMember
  /-- scratch bytes that lanes have written since a member issued, with the skein that wrote each (R149) -/
  tainted : List (Nat × SkId)
  deriving DecidableEq, Repr, Inhabited

/-- A core (R11, R51, R56, R116). -/
structure Core where
  /-- physical granules and tiles claimed, and register banks claimed (R46) -/
  granules : List Nat
  tiles : List Nat
  banks : Nat
  entries : List (Nat × EngEntry)
  /-- vector clock step k and the limit on it (R56) -/
  k : Nat
  kLimit : Nat
  /-- cycles in which its governor's window and the one before began (R56, R263) -/
  winAt : Nat
  winPrev : Nat
  frozen : Bool
  lastTileType : List (Nat × Bool)
  /-- lines of its L1 marked evict-first, ASID and VA/512 (R275, R372) -/
  evictFirst : List (Nat × Nat)
  deriving DecidableEq, Repr, Inhabited

/-! ## Work -/

/-- A launch record (R22). -/
structure LRec where
  entry : W64
  gx : Nat
  gy : Nat
  gz : Nat
  skeins : Nat
  banks : Nat
  twin : Bool
  coop : Bool
  raceTrap : Bool
  joinTrap : Bool
  scratch : Nat
  tiles : Nat
  priv : Nat
  args : W64
  sched : W64
  entries : Nat
  priority : Nat
  dies : Nat
  index : Nat
  trapvec : W64
  preds : List Nat
  graph : Nat
  phase : Nat
  job : Nat
  deriving DecidableEq, Repr, Inhabited

/-- A copy schedule entry, read and checked (R37, R38): stage and operation; the tile forms keep their coordinate flags. -/
structure SchedEnt where
  stage : Nat
  kind : OpKind
  cx : Bool
  cy : Bool
  cz : Bool
  deriving DecidableEq, Repr, Inhabited

/-- Unit status (R29): not ended, or the status of R251. -/
abbrev Status := Option Nat

/-- A launch (R22, R27, R44). -/
structure Launch where
  lid : LaunchId
  lrec : LRec
  queue : Nat
  counter : Nat
  eligible : Option Nat
  lastPlaced : Nat
  next : Nat
  status : Status
  /-- the status it will report when its counter reaches zero: cancelled or failed -/
  ending : Status
  cause : Nat
  failPc : W64
  failVa : W64
  failGroup : Nat
  failSkein : Nat
  failCore : Nat
  /-- none until the schedule has been read (R38) -/
  sched : Option (List SchedEnt)
  tag : W64
  /-- placed at least once, for a cooperative launch (R33) -/
  placedAll : Bool
  /-- first cycle in which it was first in order and fitted nowhere, per die (R48) -/
  noFit : List (Nat × Nat)
  deriving DecidableEq, Repr, Inhabited

/-- A word of an on-chip store that holds an uncorrectable error (R174): 4 B of scratch by their key / 4, an accumulator element by
its key, or the newest copy of a word of memory (in the L1 that owns it, else in the LLC) by ASID and VA/4. -/
inductive SoftPlace where
  | scratch (w : Nat)
  | tile (key : Nat)
  | word (asid wa : Nat)
  deriving DecidableEq, Repr, Inhabited

/-- Pre-emption state of a group (R60 to R65). -/
inductive GState where
  | running | stopping | saving | saved | restoring
  deriving DecidableEq, Repr, Inhabited

/-- Where a group's claims lie: core, granule and tile maps, slots (R109, R116). -/
structure Place where
  core : Nat
  gmap : List Nat
  gmap2 : List Nat
  tmap : List Nat
  tmap2 : List Nat
  slots : List Nat
  deriving DecidableEq, Repr, Inhabited

/-- A group (R20, R21, R39, R109, R116, R230). -/
structure Group where
  launch : LaunchId
  lin : Nat
  /-- core it runs on; the even core of a twin group -/
  core : Nat
  twin : Bool
  st : GState
  stage : Nat
  /-- next copy schedule entry to release, and released entries unfinished (R28, R39) -/
  schedPos : Nat
  released : List Nat
  /-- the rises of the stage counter by ADVST: the stage reached, and bit 1 of the skein's SR_RACECTL (R40, R130) -/
  raises : List (Nat × Bool)
  /-- granule map and tile map, of the core and of the odd core (R109, R116) -/
  gmap : List Nat
  gmap2 : List Nat
  tmap : List Nat
  tmap2 : List Nat
  /-- skein slots, in skein order (R51), and the skeins that have exited or been discarded (R28) -/
  slots : List Nat
  exited : List Nat
  /-- pattern slots (R230) and the open PLEAT of each -/
  patterns : List (Nat × List Byte)
  openPleat : List (Nat × Nat)
  privBase : W64
  privBytes : Nat
  /-- entry header seen at the first fetch: ISAREV and H16 (R24, R68) -/
  entryHdr : Option (BitVec 4 × Bool)
  /-- the first fetch at the entry VA found no header that R24 takes -/
  entryBad : Bool
  cancelled : Bool
  placedAt : Nat
  restoredAt : Option Nat
  /-- skeins that have issued an S header since the restore (R60) -/
  sSeen : List Nat
  /-- saved skeins, scratch and tiles (R63) -/
  saved : List (Nat × Skein)
  savedScratch : List (Nat × Byte)
  savedScratch2 : List (Nat × Byte)
  savedTiles : List (Nat × W32)
  savedTiles2 : List (Nat × W32)
  savedTypes : List (Nat × Bool)
  /-- entries of the cores' engine entry tables that its operations hold: 1 for the odd core, and index -/
  savedEntries : List ((Nat × Nat) × EngEntry)
  preOrder : Nat
  /-- its place before the save, until its restore is complete (R65) -/
  prev : Option Place
  /-- the name under which its cores' write-sets were sealed before a save or its end; 0 for none (R125) -/
  sealOp : Nat
  /-- transaction-barrier arrivals held until the next epoch step: offset with partner bit, epoch they wait on (R193) -/
  heldArr : List (Nat × Nat)
  /-- pieces of its save area in the slice of its launch's queue (R61, R64) -/
  saveArea : List Nat
  /-- errors of its scratch windows and tiles, by the keys of the place it was saved from (R174) -/
  savedSoft : List SoftPlace
  deriving DecidableEq, Repr, Inhabited

/-- A job (R102, R132, R252, R415). -/
structure Job where
  id : Nat
  asid : Nat
  key : Nat
  homeMap : List W64
  timeoutMs : Nat
  closed : Bool
  cancelled : Bool
  counter : Nat
  status : Status
  debugger : Bool
  tag : W64
  /-- regions 1–15: EN, BASE, LAST in granules of 64 KiB (R132) -/
  regions : List (Nat × Nat × Nat)
  /-- pages a MAP covers: first page, pages, perm, source, arg (R154, R253) -/
  maps : List (Nat × Nat × Nat × Nat × Nat)
  deriving DecidableEq, Repr, Inhabited

/-- A phase (R26, R27). -/
structure Phase where
  job : Nat
  id : Nat
  closed : Bool
  cancelled : Bool
  counter : Nat
  status : Status
  tag : W64
  order : Nat
  deriving DecidableEq, Repr, Inhabited

/-- A graph (R25, R27). -/
structure Graph where
  job : Nat
  id : Nat
  phase : Nat
  closed : Bool
  cancelled : Bool
  counter : Nat
  status : Status
  tag : W64
  /-- indices of the launches that it held when it closed (R25) -/
  present : List Nat
  deriving DecidableEq, Repr, Inhabited

/-- A registered kernel object (R287 to R290): job, load VA, code pages with their digests, data pages, measurement. -/
structure KObj where
  job : Nat
  loadVa : Nat
  codePages : Nat
  dataPages : Nat
  digests : List (Nat × List Byte)
  measure : List Byte
  deriving DecidableEq, Repr, Inhabited

/-- Who waits for the end of a unit named by a cancel (R32): the host's tag and job, or a skein by group and index. -/
inductive Waiter where
  | host (tag : W64) (job : Nat)
  | skein (group index : Nat)
  deriving DecidableEq, Repr, Inhabited

/-- An SVC whose reply has not come (R243 to R245): the record, the service and its state. -/
structure SvcReq where
  group : Nat
  index : Nat
  slot : SkId
  service : Nat
  args : List W64
  /-- the continuation record -/
  cont : Skein
  reply : Option W64
  /-- pages awaited by service 0, or request number of service 4 -/
  pages : List Nat
  request : Option Nat
  posted : Bool
  deriving DecidableEq, Repr, Inhabited

/-! ## Slices -/

/-- An indirection entry (R157). -/
structure Indir where
  kind : Nat
  mig : Bool
  alt : Nat
  ver : Nat
  loc : Nat
  deriving DecidableEq, Repr, Inhabited

/-- A compressed-block record of a slice (R161): the block's place, as pieces of the stack, and its length in bytes; the first piece that it
expands to (DFN · 16 + k) and how many; the failed mark. -/
structure CBlock where
  place : List Nat
  len : Nat
  first : Nat
  pieces : Nat
  failed : Bool
  deriving DecidableEq, Repr, Inhabited

/-- What a paging token names (R162, R253): nothing, a weight-volume chunk, or a host token. -/
inductive Token where
  | volume (vol chunk : Nat)
  | host (token : Nat) (job : Nat)
  deriving DecidableEq, Repr, Inhabited

/-- A memory slice (R12, R130, R151 to R173, R259). -/
structure Slice where
  /-- root DFN and key ID per ASID (R151) -/
  asids : List (Nat × Nat × Nat)
  /-- cached leaf PTEs: ASID and page to PTE and whether it is large (R155) -/
  tlb : List ((Nat × Nat) × (W64 × Bool))
  /-- indirection entries by DFN · 16 + k (R157) -/
  indir : List (Nat × Indir)
  blocks : List (Nat × CBlock)
  tokens : List (Nat × Token)
  /-- loaded key IDs (R154, R170) -/
  keys : List Nat
  /-- symbol errors of DRAM sectors, by piece · 32 + sector (R172) -/
  errs : List (Nat × Nat)
  corrected : Nat
  /-- race log per job (R130) -/
  raceLog : List (Nat × List (List Byte))
  raceDrop : List (Nat × Nat)
  refresh2 : Bool
  /-- jxfrz (R259) -/
  frz : W64
  nextPiece : Nat
  freePieces : List Nat
  frozenService : Bool
  /-- page-table frames that the slice stores, by DFN: the root of their address space and their sixteen pieces (R152) -/
  tables : List (Nat × Nat × List Nat)
  /-- failed sectors that the host has been told of (R254) -/
  told : List Nat
  /-- lines of the LLC slice, ASID and VA/512, the least recently used first (R115, R119) -/
  lines : List (Nat × Nat)
  /-- starts of the service core's kernel instance (R260, R261) -/
  starts : Nat
  deriving DecidableEq, Repr, Inhabited

/-! ## Fabric -/

/-- A packet: its flit payloads of 56 B each (R216, R217). -/
abbrev Packet := List (List Byte)

/-- A fabric port (R14, R214 to R216, R225, R226). -/
structure Port where
  up : Bool
  width : Nat
  spare : Bool
  thr : List (Nat × Nat)
  txSeq : Nat
  rxSeq : Nat
  buf : List Flit
  /-- consecutive failed replays of the oldest flit, and its SEQ -/
  fails : Nat × Nat
  /-- NAKs of that flit still due from flits that were behind it on the link when its last replay began -/
  naks : Nat
  retraining : Option Nat
  /-- credits per virtual channel (class 2·vc + rsp) -/
  credits : List (Nat × Nat)
  /-- flits received of a packet not yet whole, per class -/
  asm : List (Nat × List (List Byte))
  /-- data lanes whose repair waits for replays, oldest first (R226) -/
  repair : List Nat
  /-- packets held for credits, or the rest of one begun (R215): class, the input it came by, its flits still to send -/
  txq : List (Nat × Nat × List (List Byte))
  /-- the input that each class served last (R215) -/
  turn : List (Nat × Nat)
  /-- flits put on the wire, oldest first -/
  wire : List Flit
  deriving DecidableEq, Repr, Inhabited

/-- A packet sent and not acknowledged (R219). -/
structure Unacked where
  dst : Nat
  eseq : Nat
  sentAt : Nat
  packet : Packet
  rsp : Bool
  deriving DecidableEq, Repr, Inhabited

/-- A packet of a remote access (R222 to R224), or the part of it that has one outcome (0 none, 1 answered, 2 refused, 3 timed
out): destination, ESEQ, those lanes, every lane of the packet in order, and time sent. -/
structure RemPkt where
  dst : Nat
  eseq : Nat
  lanes : List Nat
  all : List Nat
  sentAt : Nat
  outcome : Nat
  fva : W64
  deriving DecidableEq, Repr, Inhabited

structure Remote where
  op : Nat
  /-- the name under which its instruction is counted (R175) -/
  cnt : Nat
  sk : SkId
  strand : Nat
  /-- lanes of the word not yet performed, for whatever reason -/
  undone : Mask
  pkts : List RemPkt
  /-- per lane: address and destination register -/
  lanes : List LaneAcc
  size : Nat
  uniform : Bool
  /-- the reply carries bytes for D -/
  isLoad : Bool
  lda : Bool
  cls : Option Cls
  /-- HLOAD: the handle register it writes, with the bytes come so far (R340) -/
  handle : Option Nat
  got : List Byte
  raced : Option (Nat × W64)
  report : Bool
  onRace : Bool
  deriving DecidableEq, Repr, Inhabited

/-- A request held at its target for a parkable fault (R223). -/
structure Held where
  spkg : Nat
  eseq : Nat
  packet : Packet
  since : Nat
  va : W64
  deriving DecidableEq, Repr, Inhabited

/-- The fabric interface (R213 to R226). -/
structure Fabric where
  routes : List (Nat × W64)
  counters : List (Nat × Nat)
  ports : List (Nat × Port)
  /-- next ESEQ per destination package; next ESEQ to deliver per source package -/
  txEseq : List (Nat × Nat)
  rxEseq : List (Nat × Nat)
  unacked : List Unacked
  /-- packets held because 1024 of their destination are unacknowledged (R219): destination, response, packet -/
  waiting : List (Nat × Bool × Packet)
  /-- packets that came out of order, per source; packets in order and not yet served, per source; unacknowledged count -/
  early : List (Nat × Packet)
  inbox : List (Nat × Packet)
  toAck : List (Nat × Nat)
  /-- management store: port of arrival and packet (R215) -/
  store : List (Nat × List Byte)
  mgmtDropped : Nat
  mseqSeen : List (Nat × List Nat)
  mseqNext : Nat
  token : Option Nat
  remotes : List Remote
  held : List Held
  lost : Nat
  /-- package of the fabric manager's session, and the port its messages came by -/
  manager : Option (Nat × Nat)
  deriving DecidableEq, Repr, Inhabited

/-- A Pleat exchange open on a die's engine (R231 to R233). -/
structure Exchange where
  op : Nat
  die : Nat
  cid : Nat
  pattern : List Byte
  rank : Nat
  group : Nat
  slot : Nat
  issued : Nat
  /-- rank table entries, once read: package, die, base -/
  rtab : Option (List (Nat × Nat × Nat))
  tag : Nat
  /-- participants whose READY has come, and the tags of those that came before this one's own was known (R368) -/
  ready : List Nat
  early : List Nat
  /-- receivers fully served; the receiver in progress with the elements sent to it -/
  sent : List Nat
  current : Option (Nat × Nat)
  /-- bytes written of the destination block -/
  received : Nat
  /-- address space of its job -/
  asid : Nat
  /-- it failed with this cause before its rank table could be read: each READY is answered with ABORT (R233) -/
  failed : Option Nat
  /-- data that has come and waits while a fault pauses the engine: address and bytes, oldest first (R166, R233) -/
  incoming : List (Nat × List Byte)
  deriving DecidableEq, Repr, Inhabited

/-! ## Host side, dies, package -/

/-- A storage request in progress (R255, R257, R258). -/
structure StoreReq where
  num : Nat
  job : Nat
  group : Nat
  index : Nat
  op : Nat
  obj : W64
  bytes : Nat
  buf : W64
  /-- mapping generation of each page at posting -/
  gens : List (Nat × Nat)
  got : List Byte
  chunk : Nat
  /-- MAP of a kernel object that awaits its file: slot, length, host tag (R253) -/
  kobj : Option (Nat × Nat × W64)
  /-- page-in of a piece: slice, DFN · 16 + k, ASID, page (R162) -/
  piece : Option (Nat × Nat × Nat × Nat)
  /-- slice whose service core copies the buffer, and bit 1 of the issuing skein's SR_RACECTL (R13, R130) -/
  slice : Nat
  report : Bool
  deriving DecidableEq, Repr, Inhabited

/-- Where a written chunk of 64 KiB of a weight volume lies in DRAM (R256): slice, pieces in order, and bytes as they came. -/
structure VChunk where
  slice : Nat
  pieces : List Nat
  len : Nat
  deriving DecidableEq, Repr, Inhabited

/-- A weight volume (R256): LZ4 mode, capacity, the mask of its slices, and the chunks written, by number. -/
structure Volume where
  lz4 : Bool
  capacity : Nat
  slices : Nat
  chunks : List (Nat × VChunk)
  deriving DecidableEq, Repr, Inhabited

/-- Host interface (R250 to R258). -/
structure HostIf where
  out : List HostRec
  consoles : List (Nat × List Byte)
  volumes : List (Nat × Volume)
  blkStatus : List (Nat × Bool × List Byte)
  codeKeys : List (Nat × List Byte)
  storage : List StoreReq
  nextReq : Nat
  featuresOk : List (Nat × Bool)
  needsReset : List Nat
  waiters : List ((Nat × Nat × Nat × Nat) × Waiter)
  imgParts : List Byte
  imgNext : Nat
  flash : List Byte
  /-- an image that is being written to flash, and the cycle in which that began (R261) -/
  flashing : Option (Nat × List Byte)
  /-- mapping generation per ASID and page (R258) -/
  gens : List ((Nat × Nat) × Nat)
  drains : List (Nat × W64)
  /-- debugger stop and single-step replies owed: skein and the request's tag (R254) -/
  dbg : List (SkId × W64)
  deriving DecidableEq, Repr, Inhabited

/-- A die (R48, R56, R60, R263). -/
structure Die where
  clockKHz : Nat
  throttled : Bool
  powerThrottled : Bool
  /-- cycle of the last droop: k_limit is 0 for the two governor windows that begin next (R263) -/
  droopAt : Option Nat
  /-- cycle from which throttling next lowers the arithmetic clock (R263) -/
  slowAt : Nat
  shutdown : Bool
  /-- reservations: launch, core, and the cycle in which it was made (R48) -/
  reserve : List (LaunchId × Nat × Nat)
  threshold : Int
  droops : List (Nat × Int)
  readings : List ((Nat × Nat) × Int)
  lastStep : Nat
  deriving DecidableEq, Repr, Inhabited

/-- Boot state (R261). -/
inductive Boot where
  | off | recovery | running
  deriving DecidableEq, Repr, Inhabited

/-- What moves next (log 1): an event, or the issue of a strand's word. -/
inductive Choice where
  | event (i : Instr)
  | issue (id : SkId) (st : Nat)
  /-- two strands of one skein issue in one cycle (R52) -/
  | pair (id : SkId) (a b : Nat)
  deriving DecidableEq, Repr, Inhabited

/-- The strand that is issuing, its word, and whether this issue replays a word that already counted (R58). -/
structure Cur where
  sk : SkId
  st : Nat
  iw : W64
  replay : Bool
  deriving DecidableEq, Repr, Inhabited

/-- Work in the package (R20 to R49). -/
structure Work where
  jobs : List Job
  phases : List Phase
  graphs : List Graph
  launches : List Launch
  held : List (Nat × LRec × W64 × Option (Nat × Nat))
  objects : List KObj
  svcs : List SvcReq
  nextJob : Nat
  nextOrder : Nat
  deriving DecidableEq, Repr, Inhabited

/-- What the service cores log (R165, R220, R223, R224; log 101), with the cycle. -/
inductive LogEvent where
  /-- an unresolvable fault: its class, the address space and the address -/
  | fault (cls asid va at_ : Nat)
  /-- a NACK sent, or taken: the other package, the class, the ESEQ of the request -/
  | nackSent (pkg cls rseq at_ : Nat)
  | nackTaken (pkg cls rseq at_ : Nat)
  /-- a reply that nothing waits for -/
  | lateReply (pkg rseq at_ : Nat)
  /-- a packet of a kind that is not listed, discarded -/
  | unknownKind (pkg kind at_ : Nat)
  deriving DecidableEq, Repr

/-- Package-wide registers (R15, R261, R263). -/
structure Pkg where
  id : Nat
  assigned : Bool
  boot : Boot
  powerLimit : Nat
  dramLimit : List (Nat × Int)
  /-- engine agents that are frozen (R260) -/
  frozenEngines : List Nat
  dramTemps : List (Nat × Int)
  /-- the log of the service cores, oldest first (R165, R223) -/
  svcLog : List LogEvent
  deriving DecidableEq, Repr, Inhabited

/-- The state of the package. -/
structure State where
  clock : Nat
  cur : Option Cur
  agenda : List Choice
  freeCtr : Nat
  /-- DRAM of every slice, pages and page tables alike, key (slice · 2^24 + piece) · 4096 + offset; an unlisted byte reads 0 (R152, R261) -/
  mem : List Host.Cell
  nextDfn : Nat
  /-- code pages verified and failed, by ASID and page (R247, R248) -/
  verified : List (Nat × Nat)
  badPages : List (Nat × Nat)
  skeins : List (SkId × Skein)
  groups : List (Nat × Group)
  cores : List (Nat × Core)
  /-- scratch bytes: key core · 2^21 + physical byte (R109) -/
  scratch : List (Nat × Byte)
  /-- tile elements: key core · 2^21 + physical tile · 16384 + 128 · i + j (R116) -/
  tiles : List (Nat × W32)
  caches : List (CKey × CWord)
  homeWords : List (HKey × WSt)
  homePend : List HomePend
  /-- faults reported to the service cores and not resolved: ASID and the VA of the 4 KiB piece (R163) -/
  faults : List (Nat × Nat)
  slices : List (Nat × Slice)
  net : List Msg
  memops : List MemOp
  ops : List EngOp
  /-- operations that are done, whose matching wait may still come (R149; log 100) -/
  past : List EngOp
  rendezvous : List Rendezvous
  jointSets : List JointSet
  exchanges : List Exchange
  work : Work
  host : HostIf
  fab : Fabric
  dies : List (Nat × Die)
  pkg : Pkg
  /-- names given so far to groups, operations, records (log 4) -/
  nextName : Nat
  nextPriv : Nat
  /-- words of on-chip stores with an uncorrectable error (R174) -/
  soft : List SoftPlace
  deriving DecidableEq, Repr

/-! ## Reset -/

def Core.empty : Core := ⟨[], [], 0, [], 0, 8, 0, 0, false, [], []⟩
def Slice.empty : Slice := ⟨[], [], [], [], [], [0], [], 0, [], [], false, 0, 0, [], false, [], [], [], 0⟩
def Port.empty : Port := ⟨false, 8, false, [], 0, 0, [], (0, 0), 0, none, [], [], [], [], [], []⟩
def Die.empty : Die := ⟨1250000, false, false, none, 0, false, [], 95000, [], [], 0⟩
def Fabric.empty : Fabric := ⟨[], [], [], [], [], [], [], [], [], [], [], 0, [], 0, none, [], [], 0, none⟩
def HostIf.empty : HostIf := ⟨[], [], [], [], [], [], 1, [], [], [], [], 0, [], none, [], [], []⟩

/-- The package right after power-on reset, before the boot ROM runs (R261): no ID, no job, every store empty. -/
def State.reset : State :=
  { clock := 0, cur := none, agenda := [], freeCtr := 0, mem := [], nextDfn := 1, verified := [], badPages := []
    skeins := [], groups := [], cores := [], scratch := [], tiles := [], caches := [], homeWords := [], homePend := [], faults := []
    slices := [], net := [], memops := [], ops := [], past := [], rendezvous := [], jointSets := [], exchanges := []
    work := ⟨[], [], [], [], [], [], [], 1, 0⟩
    host := HostIf.empty, fab := Fabric.empty, dies := []
    pkg := ⟨0, false, .off, 6000, [], [], [], []⟩
    nextName := 1, nextPriv := 0, soft := [] }

end Sys2Proof.Machine
end

