-- ==== Sys2Proof/Machine/Access.lean ====
section
/-! DEFINITION. Reading and changing the parts of the state by their names. -/

namespace Sys2Proof.Machine

abbrev Out := Host.Outcome State Fault Refusal

def State.skein? (s : State) (id : SkId) : Option Skein := Tab.get? s.skeins id
def State.setSkein (s : State) (id : SkId) (k : Skein) : State := { s with skeins := Tab.set s.skeins id k }
def State.dropSkein (s : State) (id : SkId) : State := { s with skeins := Tab.erase s.skeins id }
def State.modSkein (s : State) (id : SkId) (f : Skein → Skein) : State := { s with skeins := Tab.modify s.skeins id f }
def State.group? (s : State) (g : Nat) : Option Group := Tab.get? s.groups g
def State.modGroup (s : State) (g : Nat) (f : Group → Group) : State := { s with groups := Tab.modify s.groups g f }
def State.core (s : State) (c : Nat) : Core := Tab.getD s.cores c Core.empty
def State.modCore (s : State) (c : Nat) (f : Core → Core) : State := { s with cores := Tab.update s.cores c Core.empty f }
def State.slice (s : State) (n : Nat) : Slice := Tab.getD s.slices n Slice.empty
def State.modSlice (s : State) (n : Nat) (f : Slice → Slice) : State := { s with slices := Tab.update s.slices n Slice.empty f }
def State.die (s : State) (d : Nat) : Die := Tab.getD s.dies d Die.empty
def State.modDie (s : State) (d : Nat) (f : Die → Die) : State := { s with dies := Tab.update s.dies d Die.empty f }
def State.port (s : State) (p : Nat) : Port := Tab.getD s.fab.ports p Port.empty
def State.modPort (s : State) (p : Nat) (f : Port → Port) : State :=
  { s with fab := { s.fab with ports := Tab.update s.fab.ports p Port.empty f } }
def State.modFab (s : State) (f : Fabric → Fabric) : State := { s with fab := f s.fab }
def State.modHost (s : State) (f : HostIf → HostIf) : State := { s with host := f s.host }
def State.modWork (s : State) (f : Work → Work) : State := { s with work := f s.work }

def State.job? (s : State) (j : Nat) : Option Job := s.work.jobs.find? (·.id == j)
/-- The open job that holds an ASID (R415). -/
def State.jobOfAsid? (s : State) (a : Nat) : Option Job := s.work.jobs.find? fun j => j.asid == a && j.status.isNone
def State.modJob (s : State) (j : Nat) (f : Job → Job) : State :=
  s.modWork fun w => { w with jobs := w.jobs.map fun x => if x.id == j then f x else x }
def State.launch? (s : State) (l : LaunchId) : Option Launch := s.work.launches.find? (·.lid == l)
def State.modLaunch (s : State) (l : LaunchId) (f : Launch → Launch) : State :=
  s.modWork fun w => { w with launches := w.launches.map fun x => if x.lid == l then f x else x }
def State.graph? (s : State) (j g : Nat) : Option Graph := s.work.graphs.find? fun x => x.job == j && x.id == g
def State.modGraph (s : State) (j g : Nat) (f : Graph → Graph) : State :=
  s.modWork fun w => { w with graphs := w.graphs.map fun x => if x.job == j && x.id == g then f x else x }
def State.phase? (s : State) (j p : Nat) : Option Phase := s.work.phases.find? fun x => x.job == j && x.id == p
def State.modPhase (s : State) (j p : Nat) (f : Phase → Phase) : State :=
  s.modWork fun w => { w with phases := w.phases.map fun x => if x.job == j && x.id == p then f x else x }

def State.op? (s : State) (o : Nat) : Option EngOp := s.ops.find? (·.id == o)
def State.modOp (s : State) (o : Nat) (f : EngOp → EngOp) : State :=
  { s with ops := s.ops.map fun x => if x.id == o then f x else x }
def State.dropOp (s : State) (o : Nat) : State := { s with ops := s.ops.filter (·.id != o) }
def State.memop? (s : State) (o : Nat) : Option MemOp := s.memops.find? (·.id == o)
def State.modMemop (s : State) (o : Nat) (f : MemOp → MemOp) : State :=
  { s with memops := s.memops.map fun x => if x.id == o then f x else x }

/-- A name not used before (log 4). -/
def State.fresh (s : State) : State × Nat := ({ s with nextName := s.nextName + 1 }, s.nextName)
/-- An undefined value of R7 (log 3). -/
def State.free (s : State) : State × W64 := ({ s with freeCtr := s.freeCtr + 1 }, Config.freeW64 s.freeCtr)

/-- Die of a core number 128·die + core (R11). -/
def dieOf (core : Nat) : Nat := core / 128
/-- The other core of the twin (R11). -/
def twinOf (core : Nat) : Nat := if core % 2 == 0 then core + 1 else core - 1

/-- Launch record of a skein's group. -/
def State.lrecOf (s : State) (k : Skein) : LRec :=
  match s.group? k.group with
  | some g => match s.launch? g.launch with
    | some l => l.lrec
    | none => default
  | none => default
def State.jobOf (s : State) (k : Skein) : Job :=
  match s.group? k.group with
  | some g => (s.job? g.launch.job).getD default
  | none => default
def State.asidOf (s : State) (k : Skein) : Nat := (s.jobOf k).asid

/-! ## On-chip errors (R174) -/

/-- Does the newest copy of a word hold an error? -/
def State.wordSoft (s : State) (asid wa : Nat) : Bool := s.soft.contains (.word asid wa)
/-- The lowest word of some bytes that holds an error. -/
def State.softIn (s : State) (asid va n : Nat) : Option Nat :=
  s.soft.foldl (fun (acc : Option Nat) (p : SoftPlace) => match p with
    | .word a w =>
      if a == asid && va / 4 ≤ w && 4 * w < va + n && (match acc with | some x => w < x | none => true) then some w else acc
    | _ => acc) none
/-- Words written whole hold good check bits again. -/
def State.cleanWords (s : State) (asid : Nat) (ws : List Nat) : State :=
  { s with soft := s.soft.filter fun p => match p with | .word a w => !(a == asid && ws.contains w) | _ => true }
/-- The words that some bytes cover whole. -/
def wholeWords (va n : Nat) : List Nat :=
  ((List.range (n / 4 + 1)).map fun i => (va + 3) / 4 + i).filter fun w => 4 * w + 4 ≤ va + n
/-- A page has gone, and its words with it. -/
def State.cleanPage (s : State) (asid va : Nat) : State :=
  { s with soft := s.soft.filter fun p => match p with | .word a w => !(a == asid && w / 16384 == va / 65536) | _ => true }

/-! ## Strands -/

def Skein.strand? (k : Skein) (st : Nat) : Option Strand := (k.strands.getD st none)
def Skein.setStrand (k : Skein) (st : Nat) (x : Option Strand) : Skein := { k with strands := setAt none k.strands st x }
def Skein.modStrand (k : Skein) (st : Nat) (f : Strand → Strand) : Skein :=
  match k.strand? st with
  | some x => k.setStrand st (some (f x))
  | none => k
def State.modStrand (s : State) (id : SkId) (st : Nat) (f : Strand → Strand) : State := s.modSkein id (·.modStrand st f)
/-- The strands of a skein with their IDs, in ascending ID. -/
def Skein.live (k : Skein) : List (Nat × Strand) :=
  (List.range 4).filterMap fun i => (k.strand? i).map fun x => (i, x)
/-- The lowest free entry of the split table (R69). -/
def Skein.freeEntry (k : Skein) : Option Nat := (List.range 4).find? fun i => (k.strand? i).isNone

/-- H16 in force for a skein: of the entry header, or in trap mode of the vector's first header (R79, R237). -/
def State.h16 (s : State) (k : Skein) : Bool :=
  match k.trap with
  | some t => match t.vecHdr with
    | some h => h.h16
    | none => false
  | none => match s.group? k.group with
    | some g => match g.entryHdr with
      | some (_, b) => b
      | none => false
    | none => false

/-! ## Registers (R82 to R84) -/

/-- Register r of lane l as it is stored. -/
def Skein.raw (k : Skein) (r l : Nat) : W32 := Sparse.get 0 k.vregs (32 * r + l)
/-- The engine operation that still reads register r, where there is one (R149). -/
def Skein.hazard (k : Skein) (r : Nat) : Option Hazard := k.hazards.find? fun h => h.first ≤ r && r < h.first + h.count
/-- V(r, l): register r of lane l. An operand register of an engine operation reads as an undefined value before the matching
wait (R149; log 3). -/
def Skein.v (k : Skein) (r l : Nat) : W32 :=
  match k.hazard r with
  | some h => (Config.freeW64 (h.nonce + 32 * (r - h.first) + l)).truncate 32
  | none => k.raw r l
def Skein.setV (k : Skein) (r l : Nat) (x : W32) : Skein := { k with vregs := Sparse.put 0 k.vregs (32 * r + l) x }
/-- S(r): s0 reads 0. -/
def Skein.s (k : Skein) (r : Nat) : W64 := if r == 0 then 0 else Sparse.get 0 k.sregs r
/-- A write to s0 is discarded. -/
def Skein.setS (k : Skein) (r : Nat) (x : W64) : Skein := if r == 0 then k else { k with sregs := Sparse.put 0 k.sregs r x }
/-- The lane mask of a predicate; p7 is true in every lane. -/
def Skein.p (k : Skein) (i : Nat) : Mask := if i == 7 then 0xFFFFFFFF else k.preds.getD i 0
/-- A write to p7 is discarded. -/
def Skein.setP (k : Skein) (i : Nat) (m : Mask) : Skein := if i == 7 then k else { k with preds := setAt 0 k.preds i m }
/-- Write the bits of predicate `i` in the lanes of `ls` as `m` has them. -/
def Skein.setPIn (k : Skein) (i : Nat) (ls m : Mask) : Skein := k.setP i (Mask.diff (k.p i) ls ||| (m &&& ls))
def Skein.rejoin (k : Skein) (i : Nat) : Mask := k.rj.getD i 0
def Skein.setRejoin (k : Skein) (i : Nat) (m : Mask) : Skein := { k with rj := setAt 0 k.rj i m }
def Skein.handle (k : Skein) (i : Nat) : HReg := k.handles.getD i .none
def Skein.setHandle (k : Skein) (i : Nat) (h : HReg) : Skein := { k with handles := setAt .none k.handles i h }

/-- A 64-bit value in the pair (r, r + 1) (R84). -/
def Skein.v64 (k : Skein) (r l : Nat) : W64 := (k.v (r + 1) l) ++ (k.v r l)
def Skein.setV64 (k : Skein) (r l : Nat) (x : W64) : Skein :=
  (k.setV r l (x.truncate 32)).setV (r + 1) l ((x >>> 32).truncate 32)
/-- A vector register or pair, by the width of the element (R83). -/
def Skein.vw (k : Skein) (wide : Bool) (r l : Nat) : W64 := if wide then k.v64 r l else (k.v r l).zeroExtend 64
def Skein.setVw (k : Skein) (wide : Bool) (r l : Nat) (x : W64) : Skein :=
  if wide then k.setV64 r l x else k.setV r l (x.truncate 32)

/-- Vector registers a skein may name: 32 · banks (R82). -/
def State.vlimit (s : State) (k : Skein) : Nat := 32 * (s.lrecOf k).banks

/-- Class counters (R175). -/
def Skein.cnt (k : Skein) : Cls → Nat
  | .load => k.cntL | .store => k.cntS | .copy => k.cntC | .matrix => k.cntM
def Skein.fifo (k : Skein) : Cls → List (Nat × Bool)
  | .load => k.fifoL | .store => k.fifoS | .copy => k.fifoC | .matrix => k.fifoM
def Skein.setFifo (k : Skein) (c : Cls) (q : List (Nat × Bool)) : Skein :=
  match c with
  | .load => { k with fifoL := q, cntL := q.length }
  | .store => { k with fifoS := q, cntS := q.length }
  | .copy => { k with fifoC := q, cntC := q.length }
  | .matrix => { k with fifoM := q, cntM := q.length }
/-- An operation is counted at its issue (R175). -/
def Skein.count (k : Skein) (c : Cls) (op : Nat) : Skein := k.setFifo c (k.fifo c ++ [(op, false)])
/-- A counted operation has finished; the counter falls in issue order (R176). -/
def Skein.finish (k : Skein) (c : Cls) (op : Nat) : Skein :=
  k.setFifo c ((k.fifo c).map fun x => if x.1 == op then (op, true) else x)

/-- Agent IDs of this package (R117). -/
def State.agent (s : State) (die n : Nat) : Nat := s.pkg.id * 2 ^ 22 + die * 2 ^ 20 + n
def State.l1 (s : State) (core : Nat) : Nat := s.agent (core / 128) (core % 128)
def State.shuttle (s : State) (core : Nat) : Nat := s.agent (core / 128) (128 + core % 128)
def State.serviceAgent (s : State) (slice : Nat) : Nat := s.agent (slice / 8) (256 + slice % 8)
def State.geyser (s : State) (slice : Nat) : Nat := s.agent (slice / 8) (264 + slice % 8)
def State.pleatAgent (s : State) (die : Nat) : Nat := s.agent die 272
/-- Core number of an L1 agent of this package. -/
def coreOfAgent (a : Nat) : Nat := 128 * ((a / 2 ^ 20) % 4) + a % 2 ^ 20

/-- A line in the log of the service cores (R165, R223). -/
def State.logEvent (s : State) (e : LogEvent) : State := { s with pkg := { s.pkg with svcLog := s.pkg.svcLog ++ [e] } }

/-- A record sent to the host (R251). -/
def State.send (s : State) (r : HostRec) : State := s.modHost fun h => { h with out := h.out ++ [r] }

end Sys2Proof.Machine
end

