-- ==== Sys2Proof/Machine/Translate.lean ====
section
/-! DEFINITION. Homes, page tables, indirection, the compressed tier, sector checks and DRAM bytes (R101 to R107, R151 to R174). -/

namespace Sys2Proof.Machine

/-- Where an address is homed (R103). -/
inductive Home where
  | here (slice : Nat)
  | there (pkg slice : Nat)
  /-- bits [63:57] set, or kind 000 (class table of R163) -/
  | nowhere
  deriving DecidableEq, Repr

/-- Exclusive-or of `cnt` fields of `w` bits from bit 0 (R103). -/
def foldBits (w : Nat) : Nat → Nat → Nat
  | 0, _ => 0
  | n + 1, k => (k % 2 ^ w) ^^^ foldBits w n (k / 2 ^ w)
def f5 (va : Nat) : Nat := foldBits 5 8 (bitsNat va 47 12)
def f3 (va : Nat) : Nat := foldBits 3 12 (bitsNat va 47 12)

/-- The home map entry of a window (R102); entry 63 is kind 101 whatever the list holds. -/
def homeEntry (j : Job) (va : Nat) : Nat :=
  let i := bitsNat va 56 51
  if i == 63 then 5 else (j.homeMap.getD i 0).toNat
def entryKind (e : Nat) : Nat := e % 8

/-- The home of a VA (R101, R103); `die` is the die that runs the owning group. -/
def State.home (s : State) (j : Job) (die va : Nat) : Home :=
  if va / 2 ^ 57 != 0 then .nowhere
  else
    let e := homeEntry j va
    match entryKind e with
    | 1 => .here (f5 va)
    | 2 => .here (8 * bitsNat e 8 7 + f3 va)
    | 3 => .here (bitsNat e 13 9)
    | 4 => if bitsNat e 23 14 == s.pkg.id then .here (f5 va) else .there (bitsNat e 23 14) (f5 va)
    | 5 => .here (8 * die + f3 va)
    | _ => .nowhere

/-! ## Page-table entries (R153) -/

def pteV (p : W64) : Bool := p.getLsbD 0
def pteLeaf (p : W64) : Bool := p.getLsbD 1
def pteDfn (p : W64) : Nat := bitsNat p.toNat 55 24
def pteKey (p : W64) : Nat := bitsNat p.toNat 23 16
def pteDisc (p : W64) : Bool := p.getLsbD 7
def pteGl (p : W64) : Bool := p.getLsbD 6
def pteReservedZero (p : W64) : Bool := bitsNat p.toNat 63 56 == 0 && bitsNat p.toNat 15 8 == 0 && !p.getLsbD 2
/-- A table entry uses V, LEAF and DFN only. -/
def tablePte (dfn : Nat) : W64 := BitVec.ofNat 64 (dfn * 2 ^ 24 + 1)
def tableOk (p : W64) : Bool := p == tablePte (pteDfn p)
/-- perm: bit 0 R, bit 1 W, bit 2 X, bit 3 GL (R253). -/
def leafPte (dfn key perm : Nat) (disc : Bool) : W64 :=
  BitVec.ofNat 64 (dfn * 2 ^ 24 + key * 2 ^ 16 + (if disc then 128 else 0) + (perm % 16) * 8 + 3)

/-- What an access needs (R153). -/
inductive Acc where
  | read | write | fetch
  deriving DecidableEq, Repr
def Acc.allowed (a : Acc) (p : W64) : Bool :=
  match a with
  | .read => p.getLsbD 3
  | .write => p.getLsbD 4
  | .fetch => p.getLsbD 5

/-- Classes of unresolvable faults, by their NACK number (R163, R220). -/
def clsPermission : Nat := 2
def clsTable : Nat := 3
def clsNoBacking : Nat := 4
def clsSector : Nat := 5

/-! ## Pieces and sectors of a stack (R157, R172, R173) -/

/-- Frame number of the page of `va` under a leaf (R152). -/
def leafFrame (p : W64) (large : Bool) (va : Nat) : Nat := if large then pteDfn p + bitsNat va 28 16 else pteDfn p
/-- Indirection key of the piece of `va` in a frame: DFN · 16 + k (R157). -/
def pieceKey (dfn va : Nat) : Nat := dfn * 16 + bitsNat va 15 12
def Slice.entry (sl : Slice) (pk : Nat) : Indir := Tab.getD sl.indir pk ⟨0, false, 0, 0, 0⟩
def Slice.setEntry (sl : Slice) (pk : Nat) (e : Indir) : Slice := { sl with indir := Tab.set sl.indir pk e }

/-- Pieces of a stack of 48 GiB (R12, R157): indexes 0 to 12,582,911. -/
def stackPieces : Nat := 12582912
/-- Physical key of a byte of a piece. -/
def physKey (slice piece off : Nat) : Nat := (slice * 2 ^ 24 + piece) * 4096 + off
/-- Number of the sector that holds a physical byte, and the piece of a sector. -/
def sectorOf (key : Nat) : Nat := key / 128
def sectorPiece (sector : Nat) : Nat := sector / 32 % 2 ^ 24

/-- Sectors that hold fresh bytes under fresh tags have no error any more (R173). -/
def Slice.clearErrs (x : Slice) (fresh : Nat → Bool) : Slice :=
  { x with errs := x.errs.filter fun e => !fresh e.1, told := x.told.filter fun n => !fresh n }
/-- Pieces are given back to the stack. -/
def Slice.free (x : Slice) (ps : List Nat) : Slice := { x with freePieces := x.freePieces ++ ps }
/-- What an indirection entry names is given back: its piece with the place it migrates to, its paging token, or its compressed
block (R169). -/
def Slice.release (x : Slice) (e : Indir) : Slice :=
  match e.kind with
  | 0 => { x with tokens := Tab.erase x.tokens e.loc }
  | 1 => x.free (e.loc :: if e.mig then [e.alt] else [])
  | 2 => { x.free (match Tab.get? x.blocks e.loc with | some b => b.place | none => []) with blocks := Tab.erase x.blocks e.loc }
  | _ => x

/-- Pieces that the service core allocates at once, freed ones first, each holding zeros under fresh tags (R157; log 6); none where its
stack is full. -/
def State.allocPieces (s : State) (slice n : Nat) : Option (State × List Nat) :=
  let sl := s.slice slice
  let old := sl.freePieces.take n
  let more := n - old.length
  let ps := old ++ (List.range more).map (sl.nextPiece + ·)
  if sl.nextPiece + more > stackPieces then none
  else some ({ (s.modSlice slice fun x =>
      { x with freePieces := x.freePieces.drop n, nextPiece := x.nextPiece + more }.clearErrs fun y => ps.contains (sectorPiece y)) with
    mem := old.foldl (fun m p => Sparse.dropRange m (physKey slice p 0) (physKey slice p 4096)) s.mem }, ps)
/-- One piece. -/
def State.allocPiece (s : State) (slice : Nat) : State × Option Nat :=
  match s.allocPieces slice 1 with
  | some (s, p :: _) => (s, some p)
  | _ => (s, none)

/-- A HEALTH record (R254). -/
def State.health (s : State) (event die slice source : Nat) (addr value : Nat) (job : Nat) (tail : List Byte) : State :=
  let body := toBytesLE 2 event ++ toBytesLE 1 die ++ toBytesLE 1 slice ++ toBytesLE 4 source ++ toBytesLE 8 addr
    ++ toBytesLE 8 s.clock ++ toBytesLE 8 value ++ toBytesLE 4 job ++ List.replicate 12 0 ++ tail
  s.send ⟨0x0D, 0, 32 + body.length, 0, job, 0, 0, body⟩

/-- The frame that a piece of a stack belongs to: a page's, a page table's, or that of a compressed block's pieces; 0 where there is none. -/
def Slice.frameOf (x : Slice) (piece : Nat) : Nat :=
  match x.indir.find? fun (_, e) => e.kind == 1 && (e.loc == piece || (e.mig && e.alt == piece)) with
  | some (pk, _) => pk / 16
  | none => match x.tables.find? fun (_, _, ps) => ps.contains piece with
    | some (dfn, _) => dfn
    | none => match x.blocks.find? fun (_, b) => b.place.contains piece with
      | some (_, b) => b.first / 16
      | none => 0
/-- Does the sector fail its integrity check (R172, R173)? -/
def State.sectorFailed (s : State) (slice key : Nat) : Bool := Tab.getD (s.slice slice).errs (sectorOf key) 0 > 2
/-- The integrity unit on a DRAM read (R172): at most two symbol errors are corrected, written back and counted; a sector that fails is
reported to the host, once while it stays failed, with its DFN (R254; log 89). -/
def State.checkSector (s : State) (slice key : Nat) : State :=
  let n := Tab.getD (s.slice slice).errs (sectorOf key) 0
  if n == 0 then s
  else if n ≤ 2 then
    let s := s.modSlice slice fun x => { x with errs := Tab.erase x.errs (sectorOf key), corrected := x.corrected + 1 }
    s.health 2 (slice / 8) (slice % 8) 0 0 (s.slice slice).corrected 0 []
  else if (s.slice slice).told.contains (sectorOf key) then s
  else (s.modSlice slice fun x => { x with told := x.told ++ [sectorOf key] }).health
    3 (slice / 8) (slice % 8) 0 ((s.slice slice).frameOf (sectorPiece (sectorOf key))) 0 0 []

/-! ## Walks (R151, R152, R154, R155) -/

/-- Outcome of a walk (R152, R154): a leaf of the page and whether it is large, not present, or a walk error. -/
inductive Walk where
  | leaf (p : W64) (large : Bool)
  | absent
  | error
  /-- a table entry lies in a sector that failed its check (R173; log 89) -/
  | failed
  deriving DecidableEq, Repr

/-- The slice that stores a table frame whole (R152). -/
def tableSlice (dfn : Nat) : Nat := dfn % 32
/-- Where a table frame's entry lies in its slice's DRAM; none where the frame holds no table. -/
def State.pteKey? (s : State) (dfn i : Nat) : Option Nat :=
  (Tab.get? (s.slice (tableSlice dfn)).tables dfn).map fun (_, ps) => physKey (tableSlice dfn) (ps.getD (i / 512) 0) (i % 512 * 8)
/-- Entry `i` of a table frame. -/
def State.pte (s : State) (dfn i : Nat) : W64 :=
  match s.pteKey? dfn i with
  | some k => BitVec.ofNat 64 (ofBytesLE (Sparse.getList 0 s.mem k 8))
  | none => 0
def State.putPte (s : State) (dfn i : Nat) (p : W64) : State :=
  match s.pteKey? dfn i with
  | some k => { s with mem := Sparse.putList 0 s.mem k (toBytesLE 8 p.toNat) }
  | none => s
/-- A new frame that holds a page table of zeros, its sixteen pieces in one slice (R152; log 6); none where that stack is full. The root
of its address space is its own where none is given. -/
def State.newTable (s : State) (root : Option Nat) : Option (State × Nat) :=
  let n := s.nextDfn
  (s.allocPieces (tableSlice n) 16).map fun (s, ps) =>
    ({ s with nextDfn := n + 1 }.modSlice (tableSlice n) fun x => { x with tables := Tab.set x.tables n (root.getD n, ps) }, n)
/-- An address space has gone, and its tables with it. -/
def State.dropTables (s : State) (root : Nat) : State :=
  { s with slices := s.slices.map fun ((n, x) : Nat × Slice) =>
      (n, ({ x with tables := x.tables.filter fun e => e.2.1 != root } : Slice).free ((x.tables.filter fun e => e.2.1 == root).flatMap fun e => e.2.2)) }
/-- An address space is set up: its root table, and its entry in every slice's ASID and key tables (R151, R154); none where no stack piece
is left for the root. -/
def State.newSpace (s : State) (asid key : Nat) : Option State :=
  (s.newTable none).map fun (s, root) =>
    (List.range 32).foldl (fun (s : State) n => s.modSlice n fun x =>
      { x with asids := Tab.set x.asids asid (root, key), keys := if x.keys.contains key then x.keys else x.keys ++ [key] }) s

/-- The index of a level (R152). -/
def levelIndex (lv va : Nat) : Nat :=
  match lv with
  | 0 => bitsNat va 56 55
  | 1 => bitsNat va 54 42
  | 2 => bitsNat va 41 29
  | _ => bitsNat va 28 16

/-- The walk from a table of level `lv`. Each entry is read from the DRAM of the slice that stores its table, under that slice's check. -/
def State.walkFrom (va : Nat) : Nat → Nat → Nat → State → State × Walk
  | 0, _, _, s => (s, .error)
  | n + 1, lv, dfn, s =>
    let i := levelIndex lv va
    let p := s.pte dfn i
    let k := s.pteKey? dfn i
    let s1 := match k with | some k => s.checkSector (tableSlice dfn) k | none => s
    if k.any (s.sectorFailed (tableSlice dfn)) then (s1, .failed)
    else if !pteV p then (s1, .absent)
    else if !pteReservedZero p then (s1, .error)
    else if pteLeaf p then
      if lv == 3 then (s1, .leaf p false)
      else if lv == 2 then (s1, if pteDfn p % 8192 == 0 then .leaf p true else .error)
      else (s1, .error)
    else if lv == 3 || !tableOk p then (s1, .error)
    else State.walkFrom va n (lv + 1) (pteDfn p) s1
def State.walk (s : State) (root va : Nat) : State × Walk := State.walkFrom va 4 0 root s

/-- Does a MAP of the job cover a page (R154, R253)? -/
def covered (j : Job) (page : Nat) : Bool := j.maps.any fun (first, n, _, _, _) => first ≤ page && page < first + n

/-- TLB key of a leaf (R155). -/
def tlbKey (asid va : Nat) (large : Bool) : Nat × Nat :=
  if large then (asid, 2 * (va / 2 ^ 29) + 1) else (asid, 2 * (va / 2 ^ 16))

/-- A leaf comes into a channel TLB of 32,768 entries for 64 KiB pages and 2,048 large ones; the oldest of a full set goes (R12, R155;
log 24). -/
def tlbFill (tlb : List ((Nat × Nat) × (W64 × Bool))) (k : Nat × Nat) (p : W64) (large : Bool) : List ((Nat × Nat) × (W64 × Bool)) :=
  let tlb := Tab.set tlb k (p, large)
  let same := tlb.filter fun e => e.2.2 == large
  if same.length ≤ (if large then 2048 else 32768) then tlb else match same with | e :: _ => Tab.erase tlb e.1 | [] => tlb
/-- The leaf a slice's channel TLB or walker gives, filling the TLB (R155). -/
def State.leaf (s : State) (slice asid va : Nat) : State × Walk :=
  let sl := s.slice slice
  match Tab.get? sl.asids asid with
  | none => (s, .error)
  | some (root, _) =>
    match Tab.get? sl.tlb (tlbKey asid va false), Tab.get? sl.tlb (tlbKey asid va true) with
    | some (p, l), _ => (s, .leaf p l)
    | none, some (p, l) => (s, .leaf p l)
    | none, none =>
      match s.walk root va with
      | (s, .leaf p l) => (s.modSlice slice fun x => { x with tlb := tlbFill x.tlb (tlbKey asid va l) p l }, .leaf p l)
      | r => r

/-! ## LZ4 block format (R161) -/

/-- Bytes of a length that continues with 255s. -/
def lz4Len : List Byte → Nat → Option (Nat × List Byte)
  | [], _ => none
  | b :: r, n => if b == 255 then lz4Len r (n + 255) else some (n + b.toNat, r)

/-- Copy `n` bytes from `off` back, one at a time; `out` is reversed. -/
def lz4Copy : Nat → Nat → List Byte → List Byte
  | 0, _, out => out
  | n + 1, off, out => lz4Copy n off (out.getD (off - 1) 0 :: out)

/-- Sequences of an LZ4 block; `out` is the output so far, reversed; `limit` is the most it may hold. -/
def lz4Go : Nat → Nat → List Byte → List Byte → Option (List Byte)
  | 0, _, _, _ => none
  | fuel + 1, limit, inp, out =>
    match inp with
    | [] => none
    | t :: r =>
      let lit := if t.toNat / 16 == 15 then lz4Len r 15 else some (t.toNat / 16, r)
      match lit with
      | none => none
      | some (n, r) =>
        if r.length < n || out.length + n > limit then none
        else
          let out := (r.take n).reverse ++ out
          match r.drop n with
          | [] => some out.reverse
          | [_] => none
          | o0 :: o1 :: r2 =>
            let off := o0.toNat + 256 * o1.toNat
            let ml := if t.toNat % 16 == 15 then lz4Len r2 15 else some (t.toNat % 16, r2)
            match ml with
            | none => none
            | some (m, r3) =>
              if off == 0 || off > out.length || out.length + m + 4 > limit then none
              else lz4Go fuel limit r3 (lz4Copy (m + 4) off out)

/-- A block that expands to exactly `size` bytes. -/
def lz4Expand (size : Nat) (inp : List Byte) : Option (List Byte) :=
  match lz4Go (inp.length + 1) size inp [] with
  | some out => if out.length == size then some out else none
  | none => none

/-- Write the bytes of consecutive pieces of one frame run, as an expansion or a page-in installs them: each piece is allocated,
its VER rises by 1, in an expansion too (log 113), and its entry becomes KIND 01; a paging token is done with (R161, R162). -/
def State.installPieces (s : State) (slice : Nat) : Nat → Nat → List Byte → Option State
  | 0, _, _ => some s
  | n + 1, pk, bytes =>
    match s.allocPiece slice with
    | (_, none) => none
    | (s, some p) =>
      let s := { s with mem := Sparse.putList 0 s.mem (physKey slice p 0) (bytes.take 4096) }
      let s := s.modSlice slice fun x =>
        (if (x.entry pk).kind == 0 then x.release (x.entry pk) else x).setEntry pk ⟨1, false, 0, ((x.entry pk).ver + 1) % 256, p⟩
      s.installPieces slice n (pk + 1) (bytes.drop 4096)

/-- Is a block's run of pieces within one frame, and so within 64 KiB (R161)? -/
def CBlock.fits (b : CBlock) : Bool := 1 ≤ b.pieces && b.first % 16 + b.pieces ≤ 16
/-- Sectors of a block's place, by key. -/
def CBlock.sectors (b : CBlock) (slice : Nat) : List Nat :=
  (List.range ((b.len + 127) / 128)).map fun i => physKey slice (b.place.getD (i / 32) 0) (i % 32 * 128)
/-- Does a sector of a compressed block fail its check (R172)? -/
def State.blockFails (s : State) (slice rec : Nat) : Bool :=
  match Tab.get? (s.slice slice).blocks rec with
  | some b => !b.failed && (b.sectors slice).any (s.sectorFailed slice)
  | none => false
/-- The bytes of a block as DRAM holds them. -/
def State.blockBytes (s : State) (slice : Nat) (b : CBlock) : List Byte :=
  (b.place.flatMap fun p => Sparse.getList 0 s.mem (physKey slice p 0) 4096).take b.len
/-- First access to a compressed piece: read the block, each sector under its check, and expand it whole, or mark it failed and report its
DFN (R161, R172). -/
def State.expand (s : State) (slice pk rec : Nat) : State :=
  match Tab.get? (s.slice slice).blocks rec with
  | none => s
  | some b =>
    if b.failed then s
    else if s.blockFails slice rec then (b.sectors slice).foldl (fun (s : State) k => s.checkSector slice k) s
    else
      let s := (b.sectors slice).foldl (fun (s : State) k => s.checkSector slice k) s
      match if b.fits then lz4Expand (4096 * b.pieces) (s.blockBytes slice b) else none with
      | some out =>
        match s.installPieces slice b.pieces b.first out with
        | some s' => s'.modSlice slice fun x => { x.free b.place with blocks := Tab.erase x.blocks rec }
        | none => s
      | none =>
        (s.modSlice slice fun x => { x with blocks := Tab.set x.blocks rec { b with failed := true } }).health
          7 (slice / 8) (slice % 8) 0 (pk / 16) 0 0 []

/-- Where the bytes of an address lie once translated. -/
inductive Xl where
  /-- physical key of the byte, in a slice -/
  | at (slice key : Nat)
  /-- reads as zero (KIND 11, or a discarded page) -/
  | zero (slice : Nat)
  /-- not present, the service core will resolve it (R163) -/
  | park (slice : Nat)
  /-- unresolvable, with its class -/
  | bad (cls : Nat)
  /-- homed at another package -/
  | remote (pkg : Nat)
  deriving DecidableEq, Repr

/-- Drop a page's TLB entries in every slice (R155, R156). -/
def State.tlbDrop (s : State) (asid page : Nat) : State :=
  { s with slices := s.slices.map fun (n, x) =>
      (n, { x with tlb := x.tlb.filter fun e => e.1 != (asid, 2 * page) && e.1 != (asid, 2 * (page / 8192) + 1) }) }

/-- The table frame under an entry, allocating one where there is none (log 6); none where no stack piece is left for it. -/
def State.tableUnder (s : State) (root dfn i : Nat) : Option (State × Nat) :=
  let p := s.pte dfn i
  if pteV p then some (s, pteDfn p) else (s.newTable (some root)).map fun (s, n) => (s.putPte dfn i (tablePte n), n)

/-- The level 3 table of a 64 KiB page (R152), with the tables above it installed. -/
def State.leafTable (s : State) (root va : Nat) : Option (State × Nat) :=
  match s.tableUnder root root (levelIndex 0 va) with
  | none => none
  | some (s, d1) => match s.tableUnder root d1 (levelIndex 1 va) with
    | none => none
    | some (s, d2) => s.tableUnder root d2 (levelIndex 2 va)

/-- Write the leaf PTE of a page and invalidate the TLBs (steps 3 and 4 of R156). Where no piece is left for a table the page stays
unmapped (log 6). -/
def State.writeLeaf (s : State) (asid va : Nat) (p : W64) : State :=
  match Tab.get? (s.slice 0).asids asid with
  | none => s
  | some (root, _) => match s.leafTable root va with
    | none => s
    | some (s, d) =>
      let s := s.putPte d (levelIndex 3 va) p
      ({ s with verified := s.verified.filter (· != (asid, va / 65536)), badPages := s.badPages.filter (· != (asid, va / 65536)) }).tlbDrop
        asid (va / 65536)

/-- Put the entries of the sixteen pieces of a frame in the slices that home them. -/
def State.setPieces (s : State) (j : Job) (die va dfn : Nat) (f : Nat → Indir → Indir) : Nat → State
  | 0 => s
  | n + 1 =>
    let s := s.setPieces j die va dfn f n
    match s.home j die (va + 4096 * n) with
    | .here sl => s.modSlice sl fun x => x.setEntry (dfn * 16 + n) (f n (x.entry (dfn * 16 + n)))
    | _ => s

/-- The pieces of a frame but `skip` come to KIND 11, and what their entries named is given back; VER stays (R169). -/
def State.zeroPieces (s : State) (j : Job) (die va dfn : Nat) (skip : Option Nat) : Nat → State
  | 0 => s
  | n + 1 =>
    let s := s.zeroPieces j die va dfn skip n
    match s.home j die (va + 4096 * n) with
    | .here sl =>
      if skip == some (dfn * 16 + n) then s
      else s.modSlice sl fun x =>
        let e := x.entry (dfn * 16 + n)
        (x.release e).setEntry (dfn * 16 + n) { e with kind := 3, mig := false }
    | _ => s

/-- The physical place for an access at its home slice (R151 to R157, R161, R163, R169). A write to a zero or discarded piece
allocates it; one that finds no free piece, and an access whose block finds none to expand into, has no backing (log 6). An access to a
frame of key ID 0 is not performed: no master that translates reaches those frames, and its master is frozen (R260). -/
def State.place (s : State) (j : Job) (die asid va : Nat) (acc : Acc) : State × Xl :=
  match s.home j die va with
  | .nowhere => (s, .bad clsTable)
  | .there p _ => (s, .remote p)
  | .here sl =>
    match s.leaf sl asid va with
    | (s, .error) => (s, .bad clsTable)
    | (s, .failed) => (s, .bad clsSector)
    | (s, .absent) => (s, if covered j (va / 65536) then .park sl else .bad clsNoBacking)
    | (s, .leaf p large) =>
      let kind := entryKind (homeEntry j va)
      if !pteReservedZero p || !((s.slice sl).keys.contains (pteKey p)) || (pteGl p && kind != 3) then (s, .bad clsTable)
      else if !acc.allowed p then (s, .bad clsPermission)
      else
        let dfn := leafFrame p large va
        let pk := pieceKey dfn va
        let e := (s.slice sl).entry pk
        let zeroLike := pteDisc p || e.kind == 3
        if pteKey p == 0 then (s, .park sl)
        else if zeroLike then
          if acc != .write then (s, .zero sl)
          else match s.allocPiece sl with
            | (s, none) => (s, .bad clsNoBacking)
            | (s, some q) =>
              let s := s.modSlice sl fun x => (x.release e).setEntry pk ⟨1, false, 0, (e.ver + 1) % 256, q⟩
              let s := if pteDisc p then (s.zeroPieces j die (va / 65536 * 65536) dfn (some pk) 16).writeLeaf asid va (p &&& ~~~128#64) else s
              (s, .at sl (physKey sl q (va % 4096)))
        else match e.kind with
          | 1 => (s, .at sl (physKey sl e.loc (va % 4096)))
          | 2 =>
            let s := s.expand sl pk e.loc
            let e := (s.slice sl).entry pk
            if e.kind == 1 then (s, .at sl (physKey sl e.loc (va % 4096)))
            else (s, .bad (if s.blockFails sl e.loc then clsSector else clsNoBacking))
          | _ => if (Tab.get? (s.slice sl).tokens e.loc).isSome then (s, .park sl) else (s, .bad clsNoBacking)

/-- The place of a byte whatever its page's permissions: first as a read finds it, else as a fetch or a write does. -/
def State.placeAny (s : State) (j : Job) (die asid va : Nat) : State × Xl :=
  let orElse (r : State × Xl) (acc : Acc) : State × Xl := if r.2 == .bad clsPermission then r.1.place j die asid va acc else r
  orElse (orElse (s.place j die asid va .read) .fetch) .write

/-! ## DRAM bytes -/

/-- The byte at the home: DRAM and LLC hold one value of it (R118). -/
def State.byteAt (s : State) : Xl → Byte
  | .at _ k => Sparse.get 0 s.mem k
  | _ => 0
def State.wordAt (s : State) : Xl → W32
  | .at _ k => BitVec.ofNat 32 (ofBytesLE (Sparse.getList 0 s.mem k 4))
  | _ => 0

/-- The second place of a byte whose piece is being migrated (R159). -/
def State.altKey (s : State) (slice key : Nat) : Option Nat :=
  let piece := key / 4096 % 2 ^ 24
  match (s.slice slice).indir.find? fun (_, e) => e.kind == 1 && e.loc == piece && e.mig with
  | some (_, e) => some (physKey slice e.alt (key % 4096))
  | none => none

/-- Write bytes where a byte mask names them, at both places of a migrating piece (R124, R159). -/
def putMasked (m : List Host.Cell) (k : Nat) (x : W32) (mask : BitVec 4) : List Host.Cell :=
  [0, 1, 2, 3].foldl (fun m i => if mask.getLsbD i then Sparse.put 0 m (k + i) ((x >>> (8 * i)).truncate 8) else m) m
def State.putWord (s : State) (slice k : Nat) (x : W32) (mask : BitVec 4) : State :=
  let s1 := { s with mem := putMasked s.mem k x mask }
  match s.altKey slice k with
  | some k2 => { s1 with mem := putMasked s1.mem k2 x mask }
  | none => s1

/-! ## Private memory (R105 to R107) -/

/-- First address of window 63. -/
def window63 : Nat := 63 * 2 ^ 51
/-- Does an address lie in window 63? -/
def isPrivate (va : Nat) : Bool := bitsNat va 63 51 == 63

/-- Bytes of a skein's own area (R105). -/
def privSize (r : LRec) (index : Nat) : Nat := 32 * r.priv + 1024 + (if index == 0 then 4096 else 0)
/-- Is an access inside the skein's own area or its trap frame (R105, R236)? -/
def State.ownPrivate (s : State) (k : Skein) (va n : Nat) : Bool :=
  let b := k.privBase.toNat
  let f := k.trapFrame.toNat
  (b ≤ va && va + n ≤ b + privSize (s.lrecOf k) k.index) || (f ≤ va && va + n ≤ f + 2048)

/-- The integrity check of the sectors that hold some bytes of a skein's own private memory (R172). -/
def State.privCheck (s : State) (j : Job) (die va n : Nat) : State :=
  (List.range ((va % 128 + n + 127) / 128)).foldl (fun (s : State) i =>
    match s.place j die j.asid (va / 128 * 128 + 128 * i) .read with
    | (s, .at sl k) => s.checkSector sl k
    | (s, _) => s) s
/-- Bytes at consecutive addresses of one page, read as the skein's own private memory; none where one does not translate. -/
def State.privRead (s : State) (j : Job) (die va n : Nat) : Option (List Byte) :=
  (List.range n).foldr (fun i acc =>
    match acc, (s.place j die j.asid (va + i) .read).2 with
    | some l, .at sl k => if s.sectorFailed sl k || s.wordSoft j.asid ((va + i) / 4) then none else some (s.byteAt (.at sl k) :: l)
    | some l, .zero _ => if s.wordSoft j.asid ((va + i) / 4) then none else some (0 :: l)
    | _, _ => none) (some [])

/-- Sectors of private memory that some bytes cover whole hold fresh bytes under fresh tags (R173). -/
def State.renewPriv (s : State) (j : Job) (die : Nat) (bytes : List Nat) : State :=
  if s.slices.all fun (_, x) => x.errs.isEmpty then s
  else ((bytes.map (· / 128)).eraseDups.filter fun n => (List.range 128).all fun i => bytes.contains (128 * n + i)).foldl (fun (s : State) n =>
    match s.place j die j.asid (128 * n) .write with
    | (s, .at sl k) => s.modSlice sl (·.clearErrs (· == sectorOf k))
    | _ => s) s
/-- Bytes of a sector that fails its check are lost: the service core reports the frame and the job (R173). -/
def State.reportLoss (s : State) (job sl k : Nat) : State :=
  s.health 5 (sl / 8) (sl % 8) 0 ((s.slice sl).frameOf (sectorPiece (sectorOf k))) 0 job []
/-- Write bytes of private memory, one by one; the first outcome that is no place ends it. Bytes for a sector that fails its check are
dropped, and the loss is reported once for each run of them (R173). -/
def State.privBytes (s : State) (j : Job) (die : Nat) : Nat → List Byte → Except Xl State
  | _, [] => .ok s
  | va, b :: bs =>
    match s.place j die j.asid va .write with
    | (s, .at sl k) =>
      let s := if s.sectorFailed sl k then (if bs.isEmpty || (va + 1) % 128 == 0 then s.reportLoss j.id sl k else s)
        else s.putWord sl (k / 4 * 4) ((b.zeroExtend 32) <<< (8 * (k % 4))) (1#4 <<< (k % 4))
      s.privBytes j die (va + 1) bs
    | (_, x) => .error x
/-- Write bytes of private memory at consecutive addresses (R106, R173). -/
def State.privWrite (s : State) (j : Job) (die va : Nat) (bs : List Byte) : Except Xl State :=
  (s.renewPriv j die ((List.range bs.length).map (va + ·))).privBytes j die va bs

/-! ## Service-core memory management -/

/-- The lowest number not in a list. -/
def firstFree (used : List Nat) : Nat := ((List.range (used.length + 1)).find? fun n => !used.contains n).getD 0
/-- The indirection entries of a page's sixteen pieces for a MAP's source: zero, a volume's blocks, or host tokens (R157, R162, R253),
each token in a free index of its slice. The last index names no source, which a piece gets
where all others of its slice are taken (log 6). -/
def State.pageEntries (s : State) (j : Job) (page src arg : Nat) : State × List Indir :=
  (List.range 16).foldl (fun ((s, acc) : State × List Indir) k =>
    if src == 0 then (s, acc ++ [⟨3, false, 0, 0, 0⟩])
    else
      let tok : Token := if src == 1 then .volume (arg / 2 ^ 56) (arg % 2 ^ 56 / 4096 + k) else .host (arg + k) j.id
      match s.home j 0 (page * 65536 + 4096 * k) with
      | .here sl =>
        let n := firstFree ((s.slice sl).tokens.map (·.1))
        if n < 2 ^ 24 - 1 then (s.modSlice sl fun x => { x with tokens := Tab.set x.tokens n tok }, acc ++ [⟨0, false, 0, 0, n⟩])
        else (s, acc ++ [⟨0, false, 0, 0, 2 ^ 24 - 1⟩])
      | _ => (s, acc ++ [⟨0, false, 0, 0, 2 ^ 24 - 1⟩])) (s, [])
/-- Install a 64 KiB page over a new frame whose pieces all have entries as `f` gives them (log 6). -/
def State.installPage (s : State) (j : Job) (die va perm : Nat) (f : Nat → Indir) : State :=
  let n := s.nextDfn
  let s := { s with nextDfn := n + 1 }
  let s := s.setPieces j die va n (fun i e => { f i with ver := e.ver }) 16
  s.writeLeaf j.asid va (leafPte n j.key perm false)

/-- How far a MAP's arg goes on from one page to the next (R253): bytes of a volume, or tokens. -/
def mapStep (src : Nat) : Nat := if src == 1 then 65536 else if src == 2 then 16 else 0
/-- Install one page of a MAP (R154, R253). -/
def State.mapOne (s : State) (j : Job) (die page perm src arg : Nat) : State :=
  let (s, es) := s.pageEntries j page src arg
  s.installPage j die (page * 65536) perm fun k => es.getD k ⟨0, false, 0, 0, 2 ^ 24 - 1⟩
/-- The leaf PTE of a page as the tables hold it. -/
def State.leafOf (s : State) (asid va : Nat) : Option (W64 × Bool) :=
  match Tab.get? (s.slice 0).asids asid with
  | none => none
  | some (root, _) =>
    match (s.walk root va).2 with
    | .leaf p l => some (p, l)
    | _ => none

/-- Does an address lie in a frame of key ID 0 (R260)? -/
def State.keyZero (s : State) (asid va : Nat) : Bool :=
  match s.leafOf asid va with
  | some (p, _) => pteKey p == 0
  | none => false

/-- Take a page's pieces out of the slices that home them; their frames' bytes are forgotten (R156, R173). -/
def State.freePieces (s : State) (j : Job) (die va dfn : Nat) : Nat → State
  | 0 => s
  | n + 1 =>
    let s := s.freePieces j die va dfn n
    match s.home j die (va + 4096 * n) with
    | .here sl => s.modSlice sl fun x =>
      let x := x.release (x.entry (dfn * 16 + n))
      { x with indir := Tab.erase x.indir (dfn * 16 + n) }
    | _ => s
def State.unmapPage (s : State) (j : Job) (die va : Nat) : State :=
  match s.leafOf j.asid va with
  | some (p, false) => ((s.freePieces j die va (pteDfn p) 16).writeLeaf j.asid va 0).cleanPage j.asid va
  | _ => s

/-- The pages of an ended job's MAPs and its page tables go back to the stacks (R152, R157). -/
def State.dropSpace (s : State) (j : Job) : State :=
  let s := j.maps.foldl (fun (s : State) ((first, n, _) : Nat × Nat × Nat × Nat × Nat) =>
    (List.range n).foldl (fun (s : State) i =>
      let va := (first + i) * 65536
      match s.leafOf j.asid va with
      | some (p, large) => s.freePieces j 0 va (leafFrame p large va) 16
      | none => s) s) s
  match Tab.get? (s.slice 0).asids j.asid with
  | some (root, _) => s.dropTables root
  | none => s

end Sys2Proof.Machine
end

