-- ==== Sys2Proof/Machine/Coherence.lean ====
section
/-! DEFINITION. Registration: caches, homes, messages, and the accesses of engines and of the atomic unit (R117 to R133). -/

namespace Sys2Proof.Machine

/-! ## Words -/

def State.cword? (s : State) (agent asid wa : Nat) : Option CWord := Tab.get? s.caches ⟨agent, asid, wa⟩
def State.setCword (s : State) (agent asid wa : Nat) (w : CWord) : State :=
  { s with caches := Tab.set s.caches ⟨agent, asid, wa⟩ w }
def State.dropCword (s : State) (agent asid wa : Nat) : State := { s with caches := Tab.erase s.caches ⟨agent, asid, wa⟩ }
def State.hword (s : State) (asid wa : Nat) : Option WSt := Tab.get? s.homeWords ⟨asid, wa⟩
def State.setHword (s : State) (asid wa : Nat) (w : WSt) : State := { s with homeWords := Tab.set s.homeWords ⟨asid, wa⟩ w }

/-- Region of a VA (R132): the lowest-numbered enabled region that holds it. -/
def regionOf (j : Job) (va : Nat) : Nat :=
  match (List.range 15).find? fun i =>
      let (en, b, l) := j.regions.getD i (0, 0, 0)
      en == 1 && b ≤ va / 65536 && va / 65536 ≤ l with
  | some i => i + 1
  | none => 0

def sectorVa (va : Nat) : Nat := va / 128 * 128
/-- Words of a mask of a sector, by VA/4. -/
def maskWords (sva : Nat) (m : W32) : List Nat := (Mask.lanes m).map fun i => sva / 4 + i
/-- Mask of a sector's words. -/
def wordsMask (sva : Nat) (ws : List Nat) : W32 := Mask.ofLanes (ws.map fun w => w - sva / 4)
/-- Bytes of `new` where the mask has them, of `old` elsewhere (R122, R124). -/
def mergeWord (old new : W32) (m : BitVec 4) : W32 :=
  [0, 1, 2, 3].foldl (fun acc i =>
    if m.getLsbD i then (acc &&& ~~~(0xFF#32 <<< (8 * i))) ||| (new &&& (0xFF#32 <<< (8 * i))) else acc) old

/-- Bits of an element of a format (R89); a 6-bit one takes 8 (R204). -/
def elemWidth (f : Nat) : Nat := if f == 9 || f == 10 then 16 else if f == 13 || f == 18 then 4 else if f == 8 then 32 else 8
/-- Bytes of a register that are new where each element of a format is old or new (R147, R150). -/
def pickMask (fmt : Nat) (x : W64) : BitVec 4 :=
  let bit (i : Nat) : Bool := x.getLsbD (8 * i / max 8 (elemWidth fmt))
  BitVec.ofBoolListLE [bit 0, bit 1, bit 2, bit 3]

/-- The physical place of a word at its home for the registration protocol: the leaf is looked up whatever its permissions,
since the check was the access's own (log 17). -/
def State.homePlace (s : State) (asid va : Nat) : State × Xl :=
  match s.jobOfAsid? asid with
  | none => (s, .bad clsTable)
  | some j =>
    match s.place j 0 asid va .write with
    | (s, .bad _) => s.placeAny j 0 asid va
    | r => r
def State.homeSlice (s : State) (asid va : Nat) : Nat :=
  match s.jobOfAsid? asid with
  | some j => match s.home j 0 va with
    | .here n => n
    | .there _ n => n
    | .nowhere => 0
  | none => 0
def State.homeNode (s : State) (asid va : Nat) : Node := .home s.pkg.id (s.homeSlice asid va)

/-- The word's bytes at its home. -/
def State.homeWord (s : State) (asid wa : Nat) : W32 :=
  match s.jobOfAsid? asid with
  | none => 0
  | some j => let (s, x) := s.placeAny j 0 asid (4 * wa); s.wordAt x

/-- Does an indirection entry of a slice name the piece of a physical key? -/
def Slice.inUse (x : Slice) (k : Nat) : Bool := x.indir.any fun (_, e) => e.kind == 1 && e.loc == sectorPiece (sectorOf k)
/-- The word at its home, fetched from DRAM on its first use (R118, R172): none where its sector fails its check (R173) or the word
holds an on-chip error (R174). A read gives no piece to a page that has none (R169). -/
def State.homeRead (s : State) (asid wa : Nat) : State × Option W32 :=
  if s.wordSoft asid wa then (s, none)
  else if (s.hword asid wa).isSome then (s, some (s.homeWord asid wa))
  else match s.jobOfAsid? asid with
    | none => (s, some 0)
    | some j => match s.placeAny j 0 asid (4 * wa) with
      | (s1, .at sl k) =>
        if (s.slice sl).inUse k then (s1.checkSector sl k, if s1.sectorFailed sl k then none else some (s1.wordAt (.at sl k)))
        else (s, some 0)
      | (s1, x) => (s1, some (s1.wordAt x))

/-- Merge written bytes into the home copy, at both places of a migrating piece (R159). Bytes of a sector that fails its check are dropped
and reported with its DFN, unless the whole sector is written (R124, R173). -/
def State.mergeHome (s : State) (asid wa : Nat) (x : W32) (m : BitVec 4) (wholeSector : Bool) : State :=
  match s.homePlace asid (4 * wa) with
  | (s, .at sl k) =>
    if s.sectorFailed sl k && !wholeSector then
      s.reportLoss (((s.jobOfAsid? asid).map (·.id)).getD 0) sl k
    else
      let fresh := sectorOf k :: ((s.altKey sl k).map sectorOf).toList
      let s := if wholeSector then s.modSlice sl (·.clearErrs fresh.contains) else s
      s.putWord sl k x m
  | (s, _) => s

/-! ## Races (R130) -/

/-- A 32 B race record: VA, the two agents, the kind, SR_CLOCK (log 16). -/
def raceRecord (va a b : Nat) (k : RaceKind) (clock : Nat) : List Byte :=
  let kind := match k with | .read => 0 | .register => 1 | .atomic => 2
  toBytesLE 8 va ++ toBytesLE 4 a ++ toBytesLE 4 b ++ toBytesLE 8 kind ++ toBytesLE 8 clock
/-- Append to the job's race log of a slice, or count a drop. -/
def State.logRace (s : State) (asid va a b : Nat) (k : RaceKind) : State :=
  match s.jobOfAsid? asid with
  | none => s
  | some j =>
    s.modSlice (s.homeSlice asid va) fun x =>
      let log := Tab.getD x.raceLog j.id []
      if log.length < 4096 then { x with raceLog := Tab.set x.raceLog j.id (log ++ [raceRecord va a b k s.clock]) }
      else { x with raceDrop := Tab.update x.raceDrop j.id 0 fun n => (n + 1) % 2 ^ 64 }

/-! ## Sending -/

def blankMsg : Msg := ⟨.agent 0, .agent 0, .reg, 0, 0, 0, 0, [], 0, .read, false, false, 0⟩
def agentNode (a : Nat) : Node := .agent (BitVec.ofNat 32 a)
def State.post (s : State) (m : Msg) : State := { s with net := s.net ++ [m] }

/-- Words grouped by the sector that holds them: sector VA and mask. -/
def bySector (ws : List Nat) : List (Nat × W32) :=
  ws.foldl (fun acc w => Tab.update acc (w / 32 * 128) 0 fun m => m ||| Mask.lane (w % 32)) []

/-- The first message from one end to another (R120). -/
def State.firstMsg (s : State) (src dst : Node) : Option Msg := s.net.find? fun m => m.src == src && m.dst == dst
def removeFirst (src dst : Node) : List Msg → List Msg
  | [] => []
  | m :: r => if m.src == src && m.dst == dst then r else m :: removeFirst src dst r
/-- Deliver the first message of a pair when it is of the kind the event names; otherwise the event does not occur. -/
def State.deliver (s : State) (src dst : Node) (k : MsgKind) (f : State → Msg → State) : State :=
  match s.firstMsg src dst with
  | some m => if m.kind == k then f { s with net := removeFirst src dst s.net } m else s
  | none => s

/-! ## The home's side -/

/-- A message restricted to one word. -/
def Msg.only (m : Msg) (w : Nat) : Msg :=
  { m with mask := Mask.lane w, rmask := m.rmask &&& Mask.lane w, words := m.words.filter (·.1 == w) }
def Msg.wa (m : Msg) (w : Nat) : Nat := m.sva / 4 + w
/-- Does a message name a word? -/
def Msg.names (m : Msg) (asid wa : Nat) : Bool := m.asid == asid && (maskWords m.sva m.mask).contains wa
/-- Is a request already waiting for this word (R121)? -/
def State.pendingFor (s : State) (asid wa : Nat) : Bool :=
  s.homePend.any fun p => match p with
    | .request m => m.names asid wa
    | .evict _ _ => false
/-- Does a REG of the same sender wait for this word? Then the sender's SEAL or WB comes after it (R120, R121). -/
def State.regWaits (s : State) (src : Node) (asid wa : Nat) : Bool :=
  s.homePend.any fun p => match p with
    | .request m => m.kind == .reg && m.src == src && m.names asid wa
    | .evict _ _ => false
/-- Is a REG of an agent for a word on its way, or waiting at the home? -/
def State.regComing (s : State) (agent asid wa : Nat) : Bool :=
  let me := agentNode agent
  s.regWaits me asid wa || s.net.any fun m => m.kind == .reg && m.src == me && m.names asid wa
/-- A REG's acknowledgement, for a plain store or for a store-release (R122, R142). -/
def Msg.acksReg (m : Msg) : Bool := m.kind == .regack || (m.kind == .sealack && m.sealIt)
/-- Is a REG of an agent for a word, or its acknowledgement, still on its way? An L1 sends no other for the word before that comes, nor
evicts the word (log 105). -/
def State.regFlies (s : State) (agent asid wa : Nat) : Bool :=
  s.regComing agent asid wa || s.net.any fun m => m.acksReg && m.dst == agentNode agent && m.names asid wa
/-- Is a WB of an agent for a word on its way, or waiting at the home? -/
def State.wbComing (s : State) (agent asid wa : Nat) : Bool :=
  let mine (m : Msg) : Bool := m.kind == .wb && m.src == agentNode agent && m.names asid wa
  s.net.any mine || s.homePend.any fun p => match p with
    | .request m => mine m
    | .evict _ _ => false

/-! ## What a cache's registration stands for -/

/-- The bytes that its registration stands for at FWD and RECALL, with their mask; none where the home has them (R121). -/
def CWord.held (c : CWord) : Option (W32 × BitVec 4) :=
  match c.claim with
  | .none => none
  | .live => if c.st == CSt.valid then none else some (c.data, c.wmask)
  | .old x m _ => some (x, m)
/-- The word once its registered bytes have gone home by a recall (R125): Valid, or, where a REG for later stores is on its way, what those
stores have written. -/
def CWord.surrendered (c : CWord) : CWord :=
  match c.claim with
  | .none => c
  | .live => { c with st := .valid, wmask := 0, claim := .none }
  | .old _ _ fresh => { c with wmask := fresh, awaiting := c.awaiting || fresh != 0xF#4, claim := .none }
/-- An Owned-sealed word whose bytes the home has taken at a FWD, and names no owner for (R127). -/
def CWord.givenBack (c : CWord) : Bool := c.st == .ownedSealed && c.claim == .none
/-- The home takes a write of another agent for a word. A copy that was given back goes: an eviction, which R127 leaves to the replacement
and R145 asks for (log 8). Where a store's REG for it is on its way it waits for that REGACK. -/
def State.dropGiven (s : State) (asid wa agent : Nat) : State :=
  { s with caches := s.caches.filterMap fun ((k, c) : CKey × CWord) =>
      if k.asid != asid || k.wa != wa || k.agent == agent || c.claim != .none || c.st == .valid then some (k, c)
      else if s.regFlies k.agent asid wa then some (k, { c with awaiting := c.awaiting || c.wmask != 0xF#4 })
      else if c.givenBack then none else some (k, c) }

def nodeAgent : Node → Nat
  | .agent a => a.toNat
  | .home _ _ => 0

/-- The owner of a word and whether it is unpublished. -/
def State.owner (s : State) (asid wa : Nat) : Option (Nat × Bool) :=
  match s.hword asid wa with
  | some (.registered a) => some (a, true)
  | some (.sealed a) => some (a, false)
  | _ => none

/-- Recall one word from its owner (R125). -/
def State.sendRecall (s : State) (home : Node) (asid wa owner : Nat) : State :=
  s.post { blankMsg with src := home, dst := agentNode owner, kind := .recall, asid := asid, sva := wa / 32 * 128, mask := Mask.lane (wa % 32) }
/-- A word has come home: it is Valid there, or Unfilled where its sector fails its check, which its next use then meets (R173). -/
def State.comeHome (s : State) (asid wa : Nat) : State :=
  match s.homePlace asid (4 * wa) with
  | (_, .at sl k) => if s.sectorFailed sl k then { s with homeWords := Tab.erase s.homeWords ⟨asid, wa⟩ } else s.setHword asid wa .valid
  | _ => s.setHword asid wa .valid
def State.sendRace (s : State) (home : Node) (m : Msg) (wa other : Nat) (k : RaceKind) : State :=
  s.post { blankMsg with src := home, dst := m.src, kind := .race, asid := m.asid, sva := wa / 32 * 128, mask := Mask.lane (wa % 32)
                         other := other, rkind := k, op := m.op }

/-- Take one word's bytes out of the WBs of `a` among some messages; the bytes are answered in the order of the messages. -/
def takeWb (a asid wa : Nat) (ms : List Msg) : List Msg × List (W32 × BitVec 4) :=
  let mine (m : Msg) : Bool := m.kind == .wb && m.src == agentNode a && m.names asid wa
  (ms.map fun m => if mine m then { m with mask := Mask.diff m.mask (Mask.lane (wa % 32)), words := m.words.filter (·.1 != wa % 32) } else m,
    (ms.filter mine).flatMap fun m => (m.words.filter (·.1 == wa % 32)).map (·.2))
/-- WBs of `a` for a word that wait at the home behind its REG. -/
def takeQueuedWb (a asid wa : Nat) (ps : List HomePend) : List HomePend × List (W32 × BitVec 4) :=
  let mine (p : HomePend) : Bool := match p with
    | .request m => m.kind == .wb && m.src == agentNode a && m.names asid wa
    | .evict _ _ => false
  (ps.filter (!mine ·), (ps.filter mine).flatMap fun p => match p with
    | .request m => m.words.map (·.2)
    | .evict _ _ => [])
/-- The home takes the bytes that the owner has sent it already, the oldest first; whether there were any. -/
def State.takeSent (s : State) (a asid wa : Nat) (flying : Bool) : State × Bool :=
  let (ps, b1) := takeQueuedWb a asid wa s.homePend
  let (net, b2) := if flying then takeWb a asid wa s.net else (s.net, [])
  ((b1 ++ b2).foldl (fun (s : State) ((x, b) : W32 × BitVec 4) => s.mergeHome asid wa x b false) { s with homePend := ps, net := net },
    !(b1 ++ b2).isEmpty)

/-- A REG is applied: the word is registered (or sealed, for a store-release) to its sender and acknowledged, with the home's bytes where
the REG asks for them and the home has them (R122, R142). Bytes that fail their check go to no cache: the word is held as failed (R173,
R174). -/
def State.regApply (s : State) (m : Msg) (w : Nat) : State :=
  let wa := m.wa w
  let me := nodeAgent m.src
  let s := s.dropGiven m.asid wa me
  let (s, bytes) :=
    if m.rmask.getLsbD w && (s.owner m.asid wa).map (·.1) != some me then
      match s.homeRead m.asid wa with
      | (s, some x) => (s, [(w, x, 0xF#4)])
      | (s, none) =>
        let (s, x) := s.free
        ({ s with soft := if s.wordSoft m.asid wa then s.soft else s.soft ++ [.word m.asid wa] }, [(w, x.truncate 32, 0xF#4)])
    else (s, [])
  (s.setHword m.asid wa (if m.sealIt then .sealed me else .registered me)).post
    { blankMsg with src := m.dst, dst := m.src, kind := if m.sealIt then .sealack else .regack, asid := m.asid, sva := m.sva
                    mask := Mask.lane w, words := bytes, op := m.op, sealIt := m.sealIt, raced := m.raced }
/-- One word of a REG at the home, no earlier request for it waiting (R122, R142): applied, or the recall that it waits for begun and
the REG that waits, which remembers its race. A WB of the owner that waits behind the owner's REG answers the recall. -/
def State.regWord (s : State) (m : Msg) (w : Nat) : State × Option Msg :=
  let wa := m.wa w
  match s.owner m.asid wa with
  | some (a, unpub) =>
    if a == nodeAgent m.src then (s.regApply m w, none)
    else
      let s := if unpub then s.sendRace m.dst m wa a .register else s
      let m' := { m.only w with raced := m.raced || unpub }
      match s.takeSent a m.asid wa false with
      | (s, true) => (s.regApply m' w, none)
      | (s, false) => (s.sendRecall m.dst m.asid wa a, some m')
  | none => (s.regApply m w, none)

/-- What the home does with one word of an RDQ (R127): bytes to return (with "install it"), a FWD, or nothing. -/
structure RdqPart where
  ret : List (Nat × W32 × BitVec 4)
  refused : W32
/-- One word of an RDQ that the home itself serves: a word that fails its check is returned only to a load that reads it, as an
undefined value that no cache keeps (R173, R174; log 17). -/
def State.rdqHere (s : State) (m : Msg) (w : Nat) : State × RdqPart :=
  let wa := m.wa w
  match s.homeRead m.asid wa with
  | (s, some x) => (if (s.hword m.asid wa).isNone then s.setHword m.asid wa .valid else s, ⟨[(w, x, 0xF#4)], 0⟩)
  | (s, none) =>
    if m.rmask.getLsbD w then let (s, x) := s.free; (s, ⟨[(w, x.truncate 32, 0xF#4)], Mask.lane w⟩)
    else (s, ⟨[], Mask.lane w⟩)
/-- One word of an RDQ at the home, no earlier request for it waiting (R127). -/
def State.rdqWord (s : State) (m : Msg) (w : Nat) : State × RdqPart :=
  let wa := m.wa w
  let me := nodeAgent m.src
  let fwd (s : State) (a : Nat) : State × RdqPart :=
    (s.post { blankMsg with src := m.dst, dst := agentNode a, kind := .fwd, asid := m.asid, sva := m.sva, mask := Mask.lane w
                            other := me, op := m.op }, ⟨[], 0⟩)
  match s.owner m.asid wa with
  | some (a, unpub) =>
    if a == me then s.rdqHere m w
    else if !unpub then fwd s a
    else if m.rmask.getLsbD w then fwd (s.sendRace m.dst m wa a .read) a
    else (s, ⟨[], Mask.lane w⟩)
  | none => s.rdqHere m w

/-- DATA to a reader; `refused` are words for which nothing more comes or that no cache may keep. -/
def State.sendData (s : State) (src dst : Node) (m : Msg) (ws : List (Nat × W32 × BitVec 4)) (refused : W32 := 0) : State :=
  if ws.isEmpty && refused == 0 then s
  else s.post { blankMsg with src := src, dst := dst, kind := .data, asid := m.asid, sva := m.sva
                              mask := Mask.ofLanes (ws.map (·.1)), rmask := refused, words := ws, op := m.op }
/-- SEAL of one word (R123): of a word that is not registered to the sender it has no effect (R121). -/
def State.sealWord (s : State) (m : Msg) (w : Nat) : State :=
  let me := nodeAgent m.src
  if s.hword m.asid (m.wa w) == some (.registered me) then s.setHword m.asid (m.wa w) (.sealed me) else s
def State.sealAck (s : State) (m : Msg) (mask : W32) : State :=
  if mask == 0 then s
  else s.post { blankMsg with src := m.dst, dst := m.src, kind := .sealack, asid := m.asid, sva := m.sva, mask := mask, op := m.op }
/-- Is a word registered to the sender of a message? -/
def State.ownedBy (s : State) (m : Msg) (w : Nat) : Bool := (s.owner m.asid (m.wa w)).map (·.1) == some (nodeAgent m.src)
/-- WB of one word: of a word that is not registered to the sender it has no effect (R121, R124). -/
def State.wbWord (s : State) (m : Msg) (whole : Bool) (w : Nat) : State :=
  if !s.ownedBy m w then s
  else ((m.words.filter (·.1 == w)).foldl (fun (s : State) ((_, x, b) : Nat × W32 × BitVec 4) =>
    s.mergeHome m.asid (m.wa w) x b whole) s).comeHome m.asid (m.wa w)

/-- Apply a request for one word whose turn has come (R121): what of it still has to wait. -/
def State.turn (s : State) (m : Msg) (w : Nat) : State × Option Msg :=
  match m.kind with
  | .reg => s.regWord m w
  | .rdq =>
    let (s, r) := s.rdqWord m w
    (s.sendData m.dst m.src m r.ret r.refused, none)
  | .seal => ((s.sealWord m w).sealAck m (Mask.lane w), none)
  | .wb => (s.wbWord m false w, none)
  | _ => (s, none)
/-- The first request that waits for a word. -/
def State.waitingFor (s : State) (asid wa : Nat) : Option Msg :=
  s.homePend.findSome? fun p => match p with
    | .request m => if m.names asid wa then some m else none
    | .evict _ _ => none
/-- After a word has come home, requests that waited for it go on in arrival order, until one waits again. -/
def State.homeResume (s : State) (asid wa : Nat) : Nat → State
  | 0 => s
  | n + 1 =>
    match s.waitingFor asid wa with
    | none => s
    | some m =>
      match ({ s with homePend := s.homePend.erase (.request m) }).turn m (wa % 32) with
      | (s, some m') => { s with homePend := .request m' :: s.homePend }
      | (s, none) => s.homeResume asid wa n

/-- Apply a REG or an RDQ at the home word by word (R121); a word for which an earlier request waits is queued. -/
def State.homeApply (s : State) (m : Msg) : State :=
  let queue (s : State) (m : Msg) : State := { s with homePend := s.homePend ++ [.request m] }
  if m.kind == .rdq then
    let (s, ws, no) := (Mask.lanes m.mask).foldl (fun ((s, ws, no) : State × List (Nat × W32 × BitVec 4) × W32) w =>
      if s.pendingFor m.asid (m.wa w) then (queue s (m.only w), ws, no)
      else
        let (s, r) := s.rdqWord m w
        (s, ws ++ r.ret, no ||| r.refused)) (s, [], 0)
    s.sendData m.dst m.src m ws no
  else (Mask.lanes m.mask).foldl (fun (s : State) w =>
    if s.pendingFor m.asid (m.wa w) then queue s (m.only w)
    else match s.regWord m w with
      | (s, some m') => queue s m'
      | (s, none) => s) s

/-- A line whose registered words have all come home is evicted (R119): its words are Unfilled again. -/
def State.evictDone (s : State) : State :=
  s.homePend.foldl (fun s p =>
    match p with
    | HomePend.evict asid line =>
      if s.homeWords.any fun (k, w) => k.asid == asid && k.wa / 128 == line && w != .valid then s
      else { s with homeWords := s.homeWords.filter (fun (k, _) => !(k.asid == asid && k.wa / 128 == line))
                    homePend := s.homePend.erase (HomePend.evict asid line) }
    | .request _ => s) s
/-- An LLC line (512 B, by VA/512) is chosen as victim: its owners are recalled first (R119). -/
def State.evictLine (s : State) (home : Node) (asid line : Nat) : State :=
  let owned := s.homeWords.filter fun (k, w) => k.asid == asid && k.wa / 128 == line && w != .valid
  let s := owned.foldl (fun s (k, w) =>
    match w with
    | .registered a | .sealed a => s.sendRecall home asid k.wa a
    | .valid => s) s
  ({ s with homePend := s.homePend ++ [HomePend.evict asid line] }).evictDone

/-- Lines of an LLC slice in the set of a line, the least recently used first (R115; the index is VA[20:9], log 24). -/
def Slice.llcSet (x : Slice) (line : Nat) : List (Nat × Nat) := x.lines.filter fun l => l.2 % 4096 == line % 4096
/-- A home works on a word: its line is the most recently used of its set. Where it comes new into a set of 16 ways that are all taken,
another line goes: the least recently used without a registered word, or else the least recently used, whose owners are recalled (R119). -/
def State.touchLine (s : State) (asid wa : Nat) : State :=
  let n := s.homeSlice asid (4 * wa)
  let l := (asid, wa / 128)
  let set := (s.slice n).llcSet l.2
  let s1 := s.modSlice n fun x => { x with lines := x.lines.filter (· != l) ++ [l] }
  if set.contains l || set.length < 16 then s1
  else
    let free := set.find? fun v => !s.homeWords.any fun (k, w) => k.asid == v.1 && k.wa / 128 == v.2 && w != .valid
    match free.or set.head? with
    | some v => (s1.modSlice n fun x => { x with lines := x.lines.filter (· != v) }).evictLine (.home s.pkg.id n) v.1 v.2
    | none => s1

/-- WB at the home (R121, R124, R125): a word that comes home lets the requests that waited for it go on. -/
def State.wbArrive (s : State) (m : Msg) : State :=
  let whole := m.words.length == 32 && m.words.all fun x => x.2.2 == 0xF#4
  ((Mask.lanes m.mask).foldl (fun (s : State) w =>
    if s.regWaits m.src m.asid (m.wa w) && !s.ownedBy m w then { s with homePend := s.homePend ++ [.request (m.only w)] }
    else if s.ownedBy m w then (s.wbWord m whole w).homeResume m.asid (m.wa w) (s.homePend.length + 1)
    else s) s).evictDone
/-- SEAL at the home (R121, R123). -/
def State.sealArrive (s : State) (m : Msg) : State :=
  let late := (Mask.lanes m.mask).filter fun w => s.regWaits m.src m.asid (m.wa w)
  let now := (Mask.lanes m.mask).filter fun w => !s.regWaits m.src m.asid (m.wa w)
  let s := { s with homePend := s.homePend ++ late.map fun w => .request (m.only w) }
  (now.foldl (fun (s : State) w => s.sealWord m w) s).sealAck m (Mask.ofLanes now)

/-! ## Recall, for accesses that the home carries out at once (R125, R128, R129) -/

/-- A RECALL on its way for a word is void: the word has come home. -/
def State.dropRecall (s : State) (asid wa : Nat) : State :=
  { s with net := s.net.map fun (m : Msg) =>
      if m.kind == .recall && m.names asid wa then { m with mask := Mask.diff m.mask (Mask.lane (wa % 32)) } else m }
/-- The bytes that a REGACK on its way brings an agent for a word, which it no longer brings. -/
def State.takeAck (s : State) (a asid wa : Nat) : State × Option W32 :=
  let mine (m : Msg) : Bool := (m.kind == .regack || m.kind == .sealack) && m.dst == agentNode a && m.names asid wa
  ({ s with net := s.net.map fun (m : Msg) => if mine m then { m with words := m.words.filter (·.1 != wa % 32) } else m },
    (s.net.filter mine).findSome? fun m => (m.words.find? (·.1 == wa % 32)).map (·.2.1))
/-- The bytes that the owner's L1 holds for its registration now, where it has sent no WB: those from before its stores whose REG is still
on its way, else all that it holds. -/
def State.heldNow (s : State) (a asid wa : Nat) : Option (W32 × BitVec 4) :=
  match s.cword? a asid wa with
  | none => none
  | some c =>
    if s.regComing a asid wa then c.held
    else if c.st == CSt.valid then none else some (c.data, c.wmask)
/-- The owner's word after its bytes have gone home at once. One that awaits its REGACK stays with its bytes for the loads that wait for
it, Invalid to all others. -/
def State.surrenderNow (s : State) (a asid wa : Nat) : State :=
  match s.cword? a asid wa with
  | none => s
  | some c =>
    if s.regComing a asid wa then s.setCword a asid wa c.surrendered
    else if c.st == CSt.valid then s
    else if c.awaiting then
      let (s, x) := s.takeAck a asid wa
      s.setCword a asid wa { c with st := .valid, claim := .none, data := match x with | some x => mergeWord x c.data c.wmask | none => c.data }
    else s.setCword a asid wa { c with st := .valid, wmask := 0, claim := .none }
/-- Bring the owner's bytes home and set the word Valid. What the owner has sent home by WB comes first; what its L1 holds after that
belongs to a later REG. -/
def State.recallNow (s : State) (asid wa : Nat) : State :=
  match s.owner asid wa with
  | none => s.comeHome asid wa
  | some (a, _) =>
    match s.takeSent a asid wa true with
    | (s, true) => (s.dropRecall asid wa).comeHome asid wa
    | (s, false) =>
      let s := match s.heldNow a asid wa with
        | some (x, m) => (s.mergeHome asid wa x m false).surrenderNow a asid wa
        | none => s
      (s.dropRecall asid wa).comeHome asid wa

/-- Requests that arrived earlier for a word are applied before an access that the home carries out at once (R121). -/
def State.drain (s : State) (asid wa : Nat) : Nat → State
  | 0 => s
  | n + 1 =>
    match s.waitingFor asid wa with
    | none => s
    | some m =>
      let s : State := { s with homePend := s.homePend.erase (.request m) }
      match m.kind, s.owner asid wa with
      | .reg, some (a, unpub) =>
        if a == nodeAgent m.src then (s.turn m (wa % 32)).1.drain asid wa n
        else
          let s := (if unpub && !m.raced then s.sendRace m.dst m wa a .register else s).recallNow asid wa
          (s.turn { m with raced := m.raced || unpub } (wa % 32)).1.drain asid wa n
      | _, _ => (s.turn m (wa % 32)).1.drain asid wa n
def State.drained (s : State) (asid wa : Nat) : State := s.drain asid wa s.homePend.length
/-- An access that the home carries out at once reaches it. -/
def State.reach (s : State) (asid wa : Nat) : State := (s.touchLine asid wa).drained asid wa

/-- An access of the atomic unit reaches a word: recall, and log a race where it is Registered to another agent (R128). -/
def State.atomicReach (s : State) (asid wa agent : Nat) (report : Bool) : State × Bool :=
  let s := (s.reach asid wa).dropGiven asid wa agent
  match s.owner asid wa with
  | some (a, true) =>
    let s1 := if a != agent && report then s.logRace asid (4 * wa) agent a .atomic else s
    (s1.recallNow asid wa, a != agent)
  | _ => (s.recallNow asid wa, false)

/-- An engine agent's read of one word, as an RDQ that the home and the owner answer at once (R127, R129). -/
def State.engineWord (s : State) (asid wa agent : Nat) (report : Bool) : State × W32 :=
  let s := s.reach asid wa
  match s.owner asid wa with
  | some (a, true) =>
    if a == agent then (s, s.homeWord asid wa)
    else
      let s := if report then s.logRace asid (4 * wa) agent a .read else s
      let sent := (takeQueuedWb a asid wa s.homePend).2 ++ (takeWb a asid wa s.net).2
      let h := sent.foldl (fun h (x, b) => mergeWord h x b) (s.homeWord asid wa)
      (s, match s.heldNow a asid wa with
        | some (x, m) => if sent.isEmpty then mergeWord h x m else h
        | none => h)
  | some (a, false) =>
    let s := match s.takeSent a asid wa true with
      | (s, true) => s
      | (s, false) => match s.heldNow a asid wa, s.cword? a asid wa with
        | some (x, m), some c =>
          let s := s.mergeHome asid wa x m false
          s.setCword a asid wa (if s.regComing a asid wa then c.surrendered else { c with wmask := if c.awaiting then c.wmask else 0, claim := .none })
        | _, _ => s
    let s := s.comeHome asid wa
    (s, s.homeWord asid wa)
  | none => (s.comeHome asid wa, s.homeWord asid wa)

/-- An engine agent's write of bytes of one word: registered to the engine (R129); its bytes stand at the home at once. -/
def State.engineStore (s : State) (asid wa agent : Nat) (x : W32) (m : BitVec 4) (whole report : Bool) : State :=
  let s := (s.reach asid wa).dropGiven asid wa agent
  let s := match s.owner asid wa with
    | some (a, unpub) =>
      if a == agent then s
      else
        let s := if unpub && report then s.logRace asid (4 * wa) agent a .register else s
        s.recallNow asid wa
    | none => s
  let s := if m == 0xF#4 then s.cleanWords asid [wa] else s
  (s.mergeHome asid wa x m whole).setHword asid wa (.registered agent)

/-- The engine seals words it registered (R129). -/
def State.engineSeal (s : State) (agent : Nat) (ws : List (Nat × Nat)) : State :=
  ws.foldl (fun s (asid, wa) =>
    if s.hword asid wa == some (.registered agent) then s.setHword asid wa (.sealed agent) else s) s

/-! ## Invalidations -/

/-- A copy that an invalidation drops: Valid (R132, R133). One that awaits its REGACK is dropped when that comes. -/
def CWord.stale (w : CWord) : Bool := !w.awaiting && w.st == .valid
/-- Drop the Valid copies of words in the L1s (R132, R133, R148). -/
def State.dropValid (s : State) (keep : CKey → Bool) : State :=
  { s with caches := s.caches.filter fun (k, w) => keep k || !w.stale }
/-- Fills in flight of a core's loads install nothing of some words, by ASID and VA/4 (R137, R148). -/
def State.noFills (s : State) (agent : Nat) (ws : List (Nat × Nat)) : State :=
  { s with memops := s.memops.map fun (o : MemOp) =>
      if s.l1 o.sk.core == agent then { o with noFill := o.noFill ++ ws } else o }
/-- Invalidate an L1's Valid copies of the sectors of some words; fills in flight install nothing there (R148). -/
def State.dropSectors (s : State) (agent : Nat) (ws : List (Nat × Nat)) : State :=
  let secs := (ws.map fun (a, w) => (a, w / 32)).eraseDups
  (s.dropValid fun k => !(k.agent == agent && secs.contains (k.asid, k.wa / 32))).noFills agent
    (secs.flatMap fun (a, n) => (List.range 32).map fun i => (a, 32 * n + i))

/-! ## Whole caches -/

/-- SEAL for every word of a core's write-set (R123), for a waiting operation `op` (0 for none); the words become Owned-sealed.
The words sealed are answered. -/
def State.sealSet (s : State) (agent op : Nat) : State × List (Nat × Nat) :=
  let ws := s.caches.filter fun (k, w) => k.agent == agent && w.st == .owned
  let s1 := { s with caches := s.caches.map fun (k, w) =>
    if k.agent == agent && w.st == .owned then (k, { w with st := .ownedSealed }) else (k, w) }
  let asids := (ws.map fun x => x.1.asid).eraseDups
  (asids.foldl (fun s a =>
    (bySector ((ws.filter fun x => x.1.asid == a).map fun x => x.1.wa)).foldl (fun s (sva, m) =>
      s.post { blankMsg with src := agentNode agent, dst := s.homeNode a sva, kind := .seal, asid := a, sva := sva, mask := m, op := op }) s) s1,
    ws.map fun x => (x.1.asid, x.1.wa))

/-- ACQ's invalidation (R133): every Valid word of the L1 whose region the mask names; loads in flight install nothing there (R141). -/
def State.selfInvalidate (s : State) (agent : Nat) (regions : BitVec 16) : State :=
  { s with caches := s.caches.filter fun (k, w) => !(k.agent == agent && w.stale && regions.getLsbD w.region)
           memops := s.memops.map fun o => if s.l1 o.sk.core == agent then { o with stale := o.stale ||| regions } else o }

/-- A word that the replacement leaves where it is: its registration is on its way (log 105). -/
def State.busyWord (s : State) (k : CKey) (c : CWord) : Bool :=
  c.awaiting || (match c.claim with | .old .. => true | _ => false) || s.regFlies k.agent k.asid k.wa
/-- Evict the sector of `sva` from an L1: its written bytes go home by WB (R124). -/
def State.evictSector (s : State) (agent asid sva : Nat) : State :=
  let goes (k : CKey) (w : CWord) : Bool := k.agent == agent && k.asid == asid && k.wa / 32 == sva / 128 && !s.busyWord k w
  let dirty := s.caches.filter fun (k, w) => goes k w && w.st != .valid && !w.givenBack
  let s1 := { s with caches := s.caches.filter fun (k, w) => !goes k w }
  if dirty.isEmpty then s1
  else s1.post { blankMsg with src := agentNode agent, dst := s.homeNode asid sva, kind := .wb, asid := asid, sva := sectorVa sva
                               mask := wordsMask (sectorVa sva) (dirty.map fun x => x.1.wa)
                               words := dirty.map fun (k, w) => (k.wa % 32, w.data, w.wmask) }

/-- Lines, ASID and VA/512, that an L1 holds in the set of a word, in the order in which they came: 64 sets by VA[14:9] (R115). -/
def State.l1Set (s : State) (agent wa : Nat) : List (Nat × Nat) :=
  ((s.caches.filter fun (k, _) => k.agent == agent && k.wa / 128 % 64 == wa / 128 % 64).map fun (k, _) => (k.asid, k.wa / 128)).eraseDups
/-- Does a line of an L1 hold a word that stays where it is? -/
def State.busyLine (s : State) (agent : Nat) (l : Nat × Nat) : Bool :=
  s.caches.any fun (k, c) => k.agent == agent && k.asid == l.1 && k.wa / 128 == l.2 && s.busyWord k c
/-- Is there a way for the line of a word in its set of 8, beside some lines that stay (R115)? -/
def State.l1Fits (s : State) (agent asid wa : Nat) (stay : List (Nat × Nat)) : Bool :=
  let set := s.l1Set agent wa
  let l := (asid, wa / 128)
  let others := stay.filter fun x => x != l && x.2 % 64 == l.2 % 64 && !set.contains x
  set.contains l || (set.filter fun x => stay.contains x || s.busyLine agent x).length + others.length < 8
/-- The line of a set that goes for another: one marked evict-first (R275), else the one that came first, but none with a word whose
registration is on its way (log 24). -/
def State.l1Victim (s : State) (agent : Nat) (set : List (Nat × Nat)) : Option (Nat × Nat) :=
  let free := set.filter fun l => !s.busyLine agent l
  (free.find? fun l => (s.core (coreOfAgent agent)).evictFirst.contains l).or free.head?
/-- Room for the line of a word in its set of 8 ways (R115): a victim goes home by R124. -/
def State.l1Room (s : State) (agent asid wa : Nat) : State :=
  let set := s.l1Set agent wa
  if set.contains (asid, wa / 128) || set.length < 8 then s
  else match s.l1Victim agent set with
    | some (a, l) =>
      ([0, 128, 256, 384].foldl (fun (s : State) o => s.evictSector agent a (512 * l + o)) s).modCore (coreOfAgent agent) fun c =>
        { c with evictFirst := c.evictFirst.filter (· != (a, l)) }
    | none => s
/-- An access with CH = 01 marks the lines that it names (R275, R372). -/
def State.markFirst (s : State) (core asid : Nat) (vas : List Nat) : State :=
  s.modCore core fun c => { c with evictFirst := (c.evictFirst ++ vas.map fun va => (asid, va / 512)).eraseDups }

/-! ## The agent's side -/

/-- An L1 of this package. -/
def isL1 (a : Nat) : Bool := a % 2 ^ 20 < 128

/-- Is an end the home of this package? -/
def State.homeHere (s : State) : Node → Bool
  | .home p _ => p == s.pkg.id
  | .agent _ => false
/-- FWD at the owner (R121, R127): DATA to the reader from the bytes that its registration stands for, and WB where the word is sealed;
"gone" where it has sent its WB already. An engine agent's bytes stand at the home already, so it answers with those, or "gone" where that
home is another package's. -/
def State.fwdArrive (s : State) (m : Msg) : State :=
  let me := nodeAgent m.dst
  let gone (s : State) (w : Nat) : State :=
    s.post { blankMsg with src := m.dst, dst := m.src, kind := .gone, asid := m.asid, sva := m.sva, mask := Mask.lane w, other := m.other, op := m.op }
  let wb (s : State) (w : Nat) (x : W32) (b : BitVec 4) : State :=
    s.post { blankMsg with src := m.dst, dst := m.src, kind := .wb, asid := m.asid, sva := m.sva, mask := Mask.lane w, words := [(w, x, b)] }
  (Mask.lanes m.mask).foldl (fun s w =>
    let wa := m.wa w
    match s.cword? me m.asid wa with
    | some c => match c.held with
      | some (x, b) =>
        let s := s.sendData m.dst (agentNode m.other) m [(w, x, 0xF#4)]
        if c.st == .ownedSealed && c.claim == .live then wb (s.setCword me m.asid wa { c with wmask := 0, claim := .none }) w x b else s
      | none => gone s w
    | none =>
      if isL1 me || !s.homeHere m.src then gone s w
      else
        let s := s.sendData m.dst (agentNode m.other) m [(w, s.homeWord m.asid wa, 0xF#4)]
        if s.hword m.asid wa == some (.sealed me) then wb s w 0 0 else s) s

/-- RECALL at the owner (R125): the bytes that its registration stands for go home. A word that the owner has sent home already, or has no
registration of, is named with no bytes where no message of its own for it is on its way (log 105). -/
def State.recallArrive (s : State) (m : Msg) : State :=
  let me := nodeAgent m.dst
  let wb (s : State) (w : Nat) (x : W32) (b : BitVec 4) : State :=
    s.post { blankMsg with src := m.dst, dst := m.src, kind := .wb, asid := m.asid, sva := m.sva, mask := Mask.lane w, words := [(w, x, b)] }
  (Mask.lanes m.mask).foldl (fun s w =>
    let wa := m.wa w
    match s.cword? me m.asid wa, (s.cword? me m.asid wa).bind (·.held) with
    | some c, some (x, b) => wb (s.setCword me m.asid wa c.surrendered) w x b
    | _, _ => if s.regFlies me m.asid wa || s.wbComing me m.asid wa then s else wb s w 0 0) s

/-- GONE at the home: the WB came first, so the home serves the reader (R121). -/
def State.goneArrive (s : State) (m : Msg) : State :=
  let (s, r) := (Mask.lanes m.mask).foldl (fun ((s, r) : State × RdqPart) w =>
    let (s, x) := s.rdqHere { m with rmask := m.mask } w
    (s, ⟨r.ret ++ x.ret, r.refused ||| x.refused⟩)) (s, ⟨[], 0⟩)
  s.sendData m.dst (agentNode m.other) m r.ret r.refused

end Sys2Proof.Machine
end

