-- ==== Sys2Proof/Machine/Work.lean ====
section
/-! DEFINITION. Units of work: ends, cancels, failures, their counters and their reports (R20 to R36, R243, R253). -/

namespace Sys2Proof.Machine

def stCompleted : Nat := 0
def stCancelled : Nat := 1
def stFailed : Nat := 2
def stRejected : Nat := 3
def stUnknown : Nat := 4

/-- Skeins of a twin group on its even core (R35). -/
def share (r : LRec) : Nat := (r.skeins + 1) / 2
/-- Core of skein `i` of a group (R35). -/
def Group.coreOf (g : Group) (r : LRec) (i : Nat) : Nat := if g.twin && share r ≤ i then g.core + 1 else g.core
def Group.skId (g : Group) (r : LRec) (i : Nat) : SkId := ⟨g.coreOf r i, g.slots.getD i 0⟩
def State.lrecOfGroup (s : State) (g : Group) : LRec := ((s.launch? g.launch).map (·.lrec)).getD default
/-- The die whose slices hold its private memory: that of its old place until a restore is complete (R65). -/
def Group.homeDie (g : Group) : Nat := match g.prev with | some p => dieOf p.core | none => dieOf g.core
def Group.cores (g : Group) : List Nat := if g.twin then [g.core, g.core + 1] else [g.core]

/-! ## Reports (R253) -/

/-- A STATUS record: kind, its unit, and the place of a failure. -/
def State.statusRec (s : State) (kind : Nat) (tag : W64) (job status cause graph phase index : Nat) (pc fva : W64)
    (group skein core : Nat) : State :=
  let body := toBytesLE 1 kind ++ toBytesLE 1 cause ++ toBytesLE 2 0 ++ toBytesLE 4 graph ++ toBytesLE 4 phase ++ toBytesLE 4 index
    ++ toBytesLE 8 pc.toNat ++ toBytesLE 8 fva.toNat ++ toBytesLE 8 group ++ toBytesLE 2 skein ++ toBytesLE 1 (dieOf core)
    ++ toBytesLE 1 (core % 128) ++ toBytesLE 4 0 ++ toBytesLE 8 s.clock ++ toBytesLE 8 0
  s.send ⟨0x09, 0, 96, tag, job, status, 0, body⟩

/-- A reply to a host record: its type and tag echoed, flag bit 0 set (R251). -/
def replyTo (r : HostRec) (job status : Nat) (arg : W64) (body : List Byte) : HostRec :=
  ⟨r.typ, 1, 32 + (body.length + 7) / 8 * 8, r.tag, job, status, arg, body ++ List.replicate ((8 - body.length % 8) % 8) 0⟩
def State.reply (s : State) (r : HostRec) (status : Nat) (arg : W64 := 0) (body : List Byte := []) : State :=
  s.send (replyTo r r.job status arg body)

/-- The reply of an SVC is kept with its request until respawn (R245). -/
def State.svcReply (s : State) (group index : Nat) (x : W64) : State :=
  s.modWork fun w => { w with svcs := w.svcs.map fun q =>
    if q.group == group && q.index == index && q.reply.isNone then { q with reply := some x } else q }

/-- Tell whoever cancelled a unit how it ended (R32). -/
def State.tellWaiters (s : State) (unit : Nat × Nat × Nat × Nat) (status : Nat) : State :=
  let mine := s.host.waiters.filter (·.1 == unit)
  let s := s.modHost fun h => { h with waiters := h.waiters.filter (·.1 != unit) }
  mine.foldl (fun s (_, w) =>
    match w with
    | .host tag job => s.send ⟨0x08, 1, 32, tag, job, status, 0, []⟩
    | .skein g i => s.svcReply g i (BitVec.ofNat 64 status)) s

/-! ## Ends of graphs, phases and jobs (R26 to R29) -/

/-- A job that has closed and whose counter is zero ends; its ASID and key ID become free (R415). -/
def State.endJob (s : State) (j : Nat) : State :=
  match s.job? j with
  | none => s
  | some job =>
    if job.closed && job.counter == 0 && job.status.isNone then
      let st := if job.cancelled then stCancelled else stCompleted
      let s := (s.dropSpace job).modJob j fun x => { x with status := some st }
      let s := { s with
        caches := s.caches.filter fun (k, _) => k.asid != job.asid
        homeWords := s.homeWords.filter fun (k, _) => k.asid != job.asid
        verified := s.verified.filter fun (a, _) => a != job.asid
        badPages := s.badPages.filter fun (a, _) => a != job.asid
        soft := s.soft.filter fun p => match p with | .word a _ => a != job.asid | _ => true
        slices := s.slices.map fun ((n, x) : Nat × Slice) => (n, { x with
          asids := Tab.erase x.asids job.asid
          tlb := x.tlb.filter fun e => e.1.1 != job.asid
          keys := x.keys.filter (· != job.key) }) }
      let s := s.modWork fun w => { w with objects := w.objects.filter (·.job != j) }
      (s.statusRec 3 job.tag j st 0 0 0 0 0 0 0 0 0).tellWaiters (3, j, 0, 0) st
    else s
def State.endPhase (s : State) (j p : Nat) : State :=
  match s.phase? j p with
  | none => s
  | some ph =>
    if ph.closed && ph.counter == 0 && ph.status.isNone then
      let st := if ph.cancelled then stCancelled else stCompleted
      let s := s.modPhase j p fun x => { x with status := some st }
      let s := (s.statusRec 2 ph.tag j st 0 0 p 0 0 0 0 0 0).tellWaiters (2, j, p, 0) st
      (s.modJob j fun x => { x with counter := x.counter - 1 }).endJob j
    else s
def State.endGraph (s : State) (j g : Nat) : State :=
  match s.graph? j g with
  | none => s
  | some gr =>
    -- a graph does not end while submissions to it are held (R43; log 85)
    if gr.closed && gr.counter == 0 && gr.status.isNone && !(s.work.held.any fun (_, r, _) => r.job == j && r.graph == g) then
      let st := if gr.cancelled then stCancelled else stCompleted
      let s := s.modGraph j g fun x => { x with status := some st }
      let s := (s.statusRec 1 gr.tag j st 0 g gr.phase 0 0 0 0 0 0).tellWaiters (1, j, g, 0) st
      (s.modPhase j gr.phase fun x => { x with counter := x.counter - 1 }).endPhase j gr.phase
    else s

/-! ## Skeins and groups going away (R28, R30, R63) -/

/-- Forget the entries of the engine entry table that no handle register names and whose operation is done (R178). -/
def State.freeEntries (s : State) (core : Nat) : State :=
  let named (e gen : Nat) : Bool :=
    s.skeins.any fun (id, k) => id.core == core && k.handles.any (· == .entry e gen)
  s.modCore core fun c => { c with entries := c.entries.map fun (i, x) =>
    if x.live && x.st != 1 && !named i x.gen then (i, { x with live := false }) else (i, x) }

/-- The error of an operation has been reported: no skein of its core reports it again (R321, R340). -/
def State.noteReported (s : State) (core op : Nat) : State :=
  { s with skeins := s.skeins.map fun (id, k) => if id.core == core then (id, { k with failed := k.failed.filter (·.1 != op) }) else (id, k) }
/-- Does a handle register name the entry of this operation? -/
def State.names (s : State) (core op : Nat) (h : HReg) : Bool :=
  match h with
  | .entry e gen => let x := Tab.getD (s.core core).entries e default; x.live && x.gen == gen && x.op == op
  | _ => false
/-- Every handle register that names an operation reads as done (R321). -/
def State.endHandles (s : State) (core op : Nat) : State :=
  { s with skeins := s.skeins.map fun (id, k) =>
      if id.core == core then (id, { k with handles := k.handles.map fun h => if s.names core op h then HReg.done false else h }) else (id, k) }

/-- Operations of a group are asked to stop (R30). -/
def State.stopOps (s : State) (group : Nat) : State :=
  { s with ops := s.ops.map fun o => if o.group == group then { o with cancelReq := true } else o }

/-- A Pleat packet to another participant: the KIND's own bytes follow the common header (R217, R220). -/
def pleatHeader (dst spkg kind agent asid : Nat) (rest : List Byte) : List Byte :=
  let h := toBytesLE 2 dst ++ toBytesLE 2 spkg ++ toBytesLE 1 kind ++ [0] ++ toBytesLE 2 0 ++ toBytesLE 4 agent ++ toBytesLE 2 asid ++ [0, 0] ++ rest
  h ++ List.replicate (56 - h.length) 0

/-- A skein leaves its slot: its operations in flight go on without it (R178, R224). -/
def State.removeSkein (s : State) (id : SkId) : State :=
  match s.skein? id with
  | none => s
  | some k =>
    let s := { (s.dropSkein id) with memops := s.memops.filter fun o => o.sk != id || o.kind == MemKind.store }
    let s := s.modFab fun f => { f with remotes := f.remotes.filter (·.sk != id) }
    let s := s.modGroup k.group fun g => { g with exited := if g.exited.contains k.index then g.exited else g.exited ++ [k.index] }
    s.freeEntries id.core

/-- Members of joint sets that can no longer be completed, and rendezvous whose other core's skeins have all exited: their
operations and entries end with error 0x12 (R204, R205). `fail` says how an entry or a count is told. -/
def State.failEntry (s : State) (core e : Nat) (cause : Nat) (fva : W64) : State :=
  s.modCore core fun c => { c with entries := Tab.modify c.entries e fun x => { x with st := 3, cause := cause, fva := fva } }

/-- An error without a handle, for the strand that holds lane `lane` of the issuing skein (R167, R176). -/
def Skein.addErr (k : Skein) (cause : Nat) (fva : W64) (lane : Nat) : Skein := { k with pendErrs := k.pendErrs ++ [⟨cause, fva, lane, 0⟩] }

/-- Is a live entry named by some handle register (R178)? -/
def State.entryNamed (s : State) (core e gen : Nat) : Bool :=
  s.skeins.any fun (id, k) => id.core == core && k.handles.any (· == .entry e gen)

/-- How an operation reports its end: by its handle, or by its class counter and, on error, as an error without a handle
(R167, R176, R178). -/
def State.reportEnd (s : State) (core : Nat) (sk : Option SkId) (entry : Option Nat) (cls : Cls) (op lane : Nat) (err : Option (Nat × W64))
    (canc : Bool) : State :=
  let s := match entry with
    | some e =>
      let gen := (Tab.getD (s.core core).entries e ⟨0, false, 0, false, 0, 0, 0, false⟩).gen
      let named := s.entryNamed core e gen
      let s := s.modCore core fun c => { c with entries := Tab.modify c.entries e fun x =>
        match err with
        | some (cause, fva) => { x with st := 3, cause := cause, fva := fva }
        | none => { x with st := 2, canc := canc } }
      match err, sk with
      | some (cause, fva), some id =>
        if named then s.modSkein id fun (k : Skein) =>
          { k with failed := k.failed.filter (fun (y : Nat × Nat × W64) => y.1 < op) ++ [(op, cause, fva)] ++ k.failed.filter (fun (y : Nat × Nat × W64) => y.1 > op) }
        else s.modSkein id (·.addErr cause fva lane)
      | _, _ => s
    | none =>
      match sk with
      | some id =>
        let s := s.modSkein id (·.finish cls op)
        match err with
        | some (cause, fva) => s.modSkein id (·.addErr cause fva lane)
        | none => s
      | none => s
  let s := match sk with
    | some id => s.modSkein id fun k => { k with ops := k.ops.filter (· != op) }
    | none => s
  s.freeEntries core

/-- Skeins of a group on a core that have not exited; one that waits for the reply to an SVC has not (R243). -/
def State.alive (s : State) (gid core : Nat) : List SkId :=
  (s.skeins.filter fun (id, k) => id.core == core && k.group == gid && !k.exitedAll).map (·.1)
    ++ (s.work.svcs.filter fun q => q.group == gid && q.slot.core == core).map (·.slot)
/-- Those of them that are outside a joint set (R204); a twin group's skeins on the other core are not (log 114). -/
def State.outsiders (s : State) (gid core : Nat) (members : List SkId) : List SkId := (s.alive gid core).filter fun id => !members.contains id
/-- Joint sets that can no more be whole, and rendezvous with no one left to meet, fail (R204, R205). -/
def State.settleExits (s : State) (gid : Nat) : State :=
  match s.group? gid with
  | none => s
  | some g =>
    let s := s.jointSets.foldl (fun s js =>
      if js.group != gid then s
      else
        if (s.outsiders gid js.core (js.members.map (·.sk))).length < 4 - js.members.length then
          let s := { s with jointSets := s.jointSets.filter (· != js) }
          js.members.foldl (fun s m => s.reportEnd js.core (some m.sk) m.entry .matrix m.op m.lane (some (0x12, 0)) false) s
        else s) s
    if !g.twin then s
    else s.rendezvous.foldl (fun s v =>
        if v.group != gid || v.mate.isSome || v.failed then s
        else if (s.alive gid (twinOf v.sk.core)).isEmpty then
          let s := { s with rendezvous := s.rendezvous.map fun x => if x.rid == v.rid then { x with failed := true } else x }
          match v.entry with
          | some e => s.reportEnd v.sk.core (some v.sk) (some e) .matrix v.rid 0 (some (0x12, 0)) false
          | none => s
        else s) s

/-- Discard a skein at once (R30). -/
def State.discardSkein (s : State) (id : SkId) : State :=
  match s.skein? id with
  | none => s
  | some k => (s.removeSkein id).settleExits k.group

/-- Does a wait make a cancelled skein be discarded at once (R30)? -/
def Wait.discards : Wait → Bool
  | .none | .join | .memops _ _ | .lastExit => false
  | _ => true
def Skein.discardsAtOnce (k : Skein) : Bool :=
  k.park.isSome || k.stopped || k.trap.isSome || k.svcWait.isSome || k.live.any fun (_, x) => x.wait.discards

/-- The slice whose service core allocates a group's save area (R42, R61). -/
def State.queueSlice (s : State) (g : Group) : Nat := ((s.launch? g.launch).map (·.queue / 2)).getD 0
/-- A save area is freed (R64). -/
def State.freeArea (s : State) (gid : Nat) : State :=
  match s.group? gid with
  | none => s
  | some g =>
    if g.saveArea.isEmpty then s
    else (s.modSlice (s.queueSlice g) fun x => x.free g.saveArea).modGroup gid fun g => { g with saveArea := [] }

/-- A group of a cancelled unit: skeins that discard at once go, the others run to safe points (R30); its save area is freed (R64). -/
def State.cancelGroup (s : State) (gid : Nat) : State :=
  match s.group? gid with
  | none => s
  | some g =>
    let s := s.freeArea gid
    let s := s.modGroup gid fun x => { x with cancelled := true, st := if x.st == .saved then .saved else .running }
    let s := s.modWork fun w => { w with svcs := w.svcs.filter (·.group != gid) }
    let r := s.lrecOfGroup g
    -- skeins held by an SVC are discarded with their record
    let held := (List.range r.skeins).filter fun i => (s.skein? (g.skId r i)).isNone && !g.exited.contains i
    let s := s.modGroup gid fun x => { x with exited := x.exited ++ held }
    let s := s.stopOps gid
    let mine := s.skeins.filter fun (_, k) => k.group == gid
    mine.foldl (fun s (id, k) =>
      if k.discardsAtOnce then s.discardSkein id else s.modSkein id fun k => { k with yielded := false }) s

/-! ## Launches -/

def State.launchStatus (s : State) (l : Launch) (st : Nat) : State :=
  let s := s.modLaunch l.lid fun x => { x with status := some st }
  let r := l.lrec
  (s.statusRec 0 l.tag l.lid.job st l.cause r.graph r.phase r.index l.failPc l.failVa l.failGroup l.failSkein l.failCore).tellWaiters
    (0, l.lid.job, l.lid.graph, l.lid.index) st

/-- A graph closes (R25): the launches that it holds now are those that a predecessor index can name from then on. -/
def State.closeGraph (s : State) (job g : Nat) : State :=
  let ls := s.work.launches.filter fun l => l.lid.job == job && l.lid.graph == g
  s.modGraph job g fun x => { x with closed := true, present := if x.closed then x.present else ls.map (·.lid.index) }
/-- Does a launch depend on the launch of an index of its graph? A predecessor index that named none when the graph closed counts as
completed, also where a submission held then has been accepted under it since (R25, R43). -/
def State.dependsOn (s : State) (r : LRec) (p : Nat) : Bool :=
  p != 255 && r.preds.contains p && !(s.graph? r.job r.graph).any fun g => g.closed && !g.present.contains p
/-- A launch whose counter is zero ends; its graph's counter falls; launches that depend on one cancelled or failed are
cancelled in turn (R27, R30, R31). The first argument bounds the chain of dependent launches of a graph. -/
def State.settleLaunch : Nat → State → LaunchId → State
  | 0, s, _ => s
  | n + 1, s, lid =>
    match s.launch? lid with
    | none => s
    | some l =>
      if l.counter != 0 || l.status.isSome then s
      else
        let st := l.ending.getD stCompleted
        let s : State := s.launchStatus l st
        let s : State := { s with dies := s.dies.map fun ((d, x) : Nat × Die) => (d, { x with reserve := x.reserve.filter (·.1 != lid) }) }
        let s := s.modGraph lid.job lid.graph fun x => { x with counter := x.counter - 1 }
        let s := if st == stCompleted then s
          else
            let deps := s.work.launches.filter fun (x : Launch) =>
              x.lid.job == lid.job && x.lid.graph == lid.graph && x.status.isNone && x.ending.isNone && s.dependsOn x.lrec lid.index
            deps.foldl (fun (s : State) (d : Launch) =>
              State.settleLaunch n (s.modLaunch d.lid fun x => { x with ending := some stCancelled, counter := 0 }) d.lid) s
        s.endGraph lid.job lid.graph

/-- Groups of a launch that are placed, saved ones among them. -/
def State.groupsOf (s : State) (lid : LaunchId) : List Nat := (s.groups.filter fun (_, g) => g.launch == lid).map (·.1)

/-- Free what a group holds on its cores (R28, R50). -/
def State.freeClaims (s : State) (g : Group) : State :=
  let r := s.lrecOfGroup g
  let one (s : State) (c : Nat) (gm tm : List Nat) (n : Nat) : State :=
    s.modCore c fun x => { x with granules := x.granules.filter (! gm.contains ·), tiles := x.tiles.filter (! tm.contains ·), banks := x.banks - n * r.banks }
  if g.twin then one (one s g.core g.gmap g.tmap (share r)) (g.core + 1) g.gmap2 g.tmap2 (r.skeins - share r)
  else one s g.core g.gmap g.tmap r.skeins

/-- The group is gone: private memory is dropped without write-back, resources return, the launch's counter falls (R28). -/
def State.dropGroup (s : State) (gid : Nat) : State :=
  match s.group? gid with
  | none => s
  | some g =>
    let s := if g.st == .saved then s.freeArea gid else (s.freeArea gid).freeClaims g
    let s := match s.job? g.launch.job with
      | some j => (List.range ((g.privBytes + 65535) / 65536)).foldl (fun (s : State) i =>
          s.unmapPage j g.homeDie (g.privBase.toNat + 65536 * i)) s
      | none => s
    let s := { s with groups := Tab.erase s.groups gid
                      ops := s.ops.filter (·.group != gid)
                      rendezvous := s.rendezvous.filter (·.group != gid)
                      jointSets := s.jointSets.filter (·.group != gid) }
    let s := s.modLaunch g.launch fun l => { l with counter := l.counter - 1 }
    State.settleLaunch 256 s g.launch

/-- A launch stops placing; its placed groups are handled under R30 and it will report `st`. -/
def State.stopLaunch (s : State) (lid : LaunchId) (st : Nat) : State :=
  match s.launch? lid with
  | none => s
  | some l =>
    if l.status.isSome || l.ending.isSome then s
    else
      let gs := s.groupsOf lid
      let s := s.modLaunch lid fun x => { x with ending := some st, counter := gs.length }
      let s := gs.foldl (fun s g => s.cancelGroup g) s
      -- a saved group is discarded without restore (R66)
      let s := (gs.filter fun g => ((s.group? g).map (·.st)) == some GState.saved).foldl (fun s g => s.dropGroup g) s
      State.settleLaunch 256 s lid

/-- The launch fails with the place of its failure (R29, R239). -/
def State.failLaunch (s : State) (lid : LaunchId) (cause : Nat) (pc fva : W64) (group skein core : Nat) : State :=
  match s.launch? lid with
  | none => s
  | some l =>
    if l.status.isSome || l.ending.isSome then s
    else
      let s := s.modLaunch lid fun x =>
        { x with cause := cause, failPc := pc, failVa := fva, failGroup := group, failSkein := skein, failCore := core }
      s.stopLaunch lid stFailed

/-- Cancel a unit of a job: kind 0 launch, 1 graph, 2 phase, 3 job (R30, R31); answers its status where it has ended already,
and "unknown" where there is none (R32). -/
def State.cancelUnit (s : State) (job kind a b : Nat) : State × Option Nat :=
  let graphCancel (s : State) (g : Nat) : State :=
    let s := (s.closeGraph job g).modGraph job g fun x => { x with cancelled := true }
    let ls := s.work.launches.filter fun l => l.lid.job == job && l.lid.graph == g
    (ls.foldl (fun s l => s.stopLaunch l.lid stCancelled) s).endGraph job g
  let phaseCancel (s : State) (p : Nat) : State :=
    let s := s.modPhase job p fun x => { x with cancelled := true, closed := true }
    let gs := s.work.graphs.filter fun g => g.job == job && g.phase == p && g.status.isNone
    (gs.foldl (fun s g => graphCancel s g.id) s).endPhase job p
  match kind with
  | 0 => match s.launch? ⟨job, a, b⟩ with
    | none => (s, some stUnknown)
    | some l => match l.status with
      | some st => (s, some st)
      | none => (s.stopLaunch l.lid stCancelled, none)
  | 1 => match s.graph? job a with
    | none => (s, some stUnknown)
    | some g => match g.status with
      | some st => (s, some st)
      | none => (graphCancel s a, none)
  | 2 => match s.phase? job a with
    | none => (s, some stUnknown)
    | some p => match p.status with
      | some st => (s, some st)
      | none => (phaseCancel s a, none)
  | 3 => match s.job? a with
    | none => (s, some stUnknown)
    | some j => match j.status with
      | some st => (s, some st)
      | none =>
        let s := s.modJob a fun x => { x with cancelled := true, closed := true }
        let ps := s.work.phases.filter fun p => p.job == a && p.status.isNone
        ((ps.foldl (fun s p => phaseCancel s p.id) s).endJob a, none)
  | _ => (s, some stUnknown)

/-! ## Eligibility (R25, R26, R33) -/

/-- Has every predecessor of a launch completed, and its phase begun? The phases of a job follow in the order of their PHASE_OPEN records
(R26; log 86). -/
def State.launchReady (s : State) (l : Launch) : Bool :=
  let preds := l.lrec.preds.all fun p =>
    !s.dependsOn l.lrec p || (s.launch? ⟨l.lid.job, l.lid.graph, p⟩).any fun x => x.status == some stCompleted
  let myOrder := ((s.phase? l.lid.job l.lrec.phase).map (·.order)).getD 0
  let phases := s.work.phases.all fun p => p.job != l.lid.job || p.order ≥ myOrder || p.status.isSome
  preds && phases && l.status.isNone && l.ending.isNone
/-- Launches that have become eligible now. -/
def State.markEligible (s : State) : State :=
  s.modWork fun w => { w with launches := w.launches.map fun l =>
    if l.eligible.isNone && s.launchReady l then { l with eligible := some s.clock, lastPlaced := s.clock } else l }

end Sys2Proof.Machine
end

