-- ==== Sys2Proof/Machine/Reconv.lean ====
section
/-! DEFINITION. Strands dividing, waiting and merging: join records, reconvergence stacks, rejoin registers (R67 to R78, R414). -/

namespace Sys2Proof.Machine

/-- Is the strand between blocks, so that its next word must be a header (R67)? -/
def Strand.atHeader (x : Strand) : Bool := match x.blk with | none => true | some b => b.left == 0

/-- Stack entries of a nest, in number (R72). -/
def stackDepth (n : List NestItem) : Nat := (n.filter fun i => match i with | .join _ => false | _ => true).length
def joinsOf (n : List NestItem) : List NestItem := n.filter fun i => match i with | .join _ => true | _ => false

/-- VA of a spill slot (R72). -/
def State.spillVa (s : State) (k : Skein) (st n : Nat) : Nat :=
  k.privBase.toNat + 32 * (s.lrecOf k).priv + 256 * st + 16 * (n - 16)
/-- A PC as a signed word offset from the launch's entry VA (R72). -/
def pcOffset (entry pc : W64) : Nat := wrapNat 32 ((sextInt 64 (pc - entry).toNat) / 8)
def offsetPc (entry : W64) (o : Nat) : W64 := entry + BitVec.ofInt 64 (8 * sextInt 32 o)
def spillBytes (entry : W64) (e : StackEnt) : List Byte :=
  toBytesLE 4 e.full.toNat ++ toBytesLE 4 e.pending.toNat
    ++ toBytesLE 4 (match e.rpc with | some p => pcOffset entry p | none => 0x80000000) ++ toBytesLE 4 (pcOffset entry e.pendPc)
def spillEnt (entry : W64) (bs : List Byte) : StackEnt :=
  let w (i : Nat) : Nat := ofBytesLE ((bs.drop (4 * i)).take 4)
  { full := BitVec.ofNat 32 (w 0), pending := BitVec.ofNat 32 (w 1)
    rpc := if w 2 == 0x80000000 then none else some (offsetPc entry (w 2)), pendPc := offsetPc entry (w 3) }

/-- Private memory of a skein, read or written by its core (R72, R106). Bytes that fail a check read as undefined values (R173; log 3). -/
def State.skRead (s : State) (id : SkId) (k : Skein) (va n : Nat) : List Byte :=
  (s.privRead (s.jobOf k) (dieOf id.core) va n).getD ((List.range n).map fun i => (Config.freeW64 (s.freeCtr + i)).truncate 8)
def State.skWrite (s : State) (id : SkId) (k : Skein) (va : Nat) (bs : List Byte) : State :=
  match s.privWrite (s.jobOf k) (dieOf id.core) va bs with
  | .ok s' =>
    -- a prefetched copy of a word goes with the word's write (R372; log 25)
    { s'.cleanWords (s.asidOf k) (wholeWords va bs.length) with
      caches := s'.caches.filter fun ((x, _) : CKey × CWord) => !(isPrivate (4 * x.wa) && x.asid == s.asidOf k && va / 4 ≤ x.wa && x.wa ≤ (va + bs.length - 1) / 4) }
  | .error _ => s

/-- A spilled top entry is read: its sectors are checked, and where they, or a word of the L1, fail, the strand takes trap 0x07 before its
next word (R172 to R174; log 3). -/
def State.readSpill (s : State) (id : SkId) (k : Skein) (st : Nat) (n : List NestItem) (lane : Nat) : State :=
  match n with
  | .spilled :: _ =>
    let va := s.spillVa k st (stackDepth n - 1)
    let j := s.jobOf k
    let s1 := s.privCheck j (dieOf id.core) va 16
    let told := k.pendErrs.any fun e => e.cause == 0x07 && e.fva == BitVec.ofNat 64 va
    if told || (s.privRead j (dieOf id.core) va 16).isSome then s1 else s1.modSkein id (·.addErr 0x07 (BitVec.ofNat 64 va) lane)
  | _ => s
/-- Can a spilled top entry be read? -/
def State.spillReads (s : State) (id : SkId) (k : Skein) (st : Nat) (n : List NestItem) : Bool :=
  match n with
  | .spilled :: _ => (s.privRead (s.jobOf k) (dieOf id.core) (s.spillVa k st (stackDepth n - 1)) 16).isSome
  | _ => true
/-- The top stack entry where it is innermost in the nest (R414). -/
def State.topEntry (s : State) (id : SkId) (k : Skein) (st : Nat) (n : List NestItem) : Option StackEnt :=
  match n with
  | .stack e :: _ => some e
  | .spilled :: _ => some (spillEnt (s.lrecOf k).entry (s.skRead id k (s.spillVa k st (stackDepth n - 1)) 16))
  | _ => none
/-- Put a changed top entry back. -/
def State.putTop (s : State) (id : SkId) (st : Nat) (e : StackEnt) : State :=
  match s.skein? id with
  | none => s
  | some k => match k.strand? st with
    | none => s
    | some x => match x.nest with
      | .stack _ :: r => s.modStrand id st fun x => { x with nest := .stack e :: r }
      | .spilled :: _ => s.skWrite id k (s.spillVa k st (stackDepth x.nest - 1)) (spillBytes (s.lrecOf k).entry e)
      | _ => s
/-- Push an entry; entries 16 to 30 spill (R71, R72). -/
def State.pushEntry (s : State) (id : SkId) (st : Nat) (e : StackEnt) : State :=
  match s.skein? id with
  | none => s
  | some k => match k.strand? st with
    | none => s
    | some x =>
      let n := stackDepth x.nest
      if n < 16 then s.modStrand id st fun x => { x with nest := .stack e :: x.nest }
      else (s.skWrite id k (s.spillVa k st n) (spillBytes (s.lrecOf k).entry e)).modStrand id st fun x => { x with nest := .spilled :: x.nest }

/-- A strand divides: what precedes it precedes the new strand as well (R77). -/
def State.forkOps (s : State) (id : SkId) (st new : Nat) : State :=
  { s with memops := s.memops.map fun (o : MemOp) =>
      if o.sk == id && o.strands.contains st && !o.strands.contains new then { o with strands := o.strands ++ [new] } else o }
/-- A strand has gone: a later one in its entry is another. -/
def State.endOps (s : State) (id : SkId) (st : Nat) : State :=
  { s with memops := s.memops.map fun (o : MemOp) => if o.sk == id then { o with strands := o.strands.filter (· != st) } else o }
/-- What precedes one of some strands precedes each strand of `goal` (R78); those that are not in it have gone. -/
def State.joinOps (s : State) (id : SkId) (ids goal : List Nat) : State :=
  { s with memops := s.memops.map fun (o : MemOp) =>
      if o.sk == id && o.strands.any ids.contains then { o with strands := o.strands.filter (!ids.contains ·) ++ goal } else o }
/-- Lanes of a record that have not exited and have not left it (R70). -/
def Skein.liveOf (k : Skein) (r : JoinRec) : Mask := Mask.diff (Mask.diff r.mask k.exited) r.gone
/-- The lanes that a strand holds inside a record: its own, and those of the stack entries it has pushed since (R414). -/
def Strand.within (x : Strand) (rid : Nat) : Mask :=
  (x.nest.takeWhile (· != .join rid)).foldl (fun m i => match i with | .stack e => m ||| e.full | _ => m) x.mask
/-- The split of a record is no longer live in the table (R70): one strand holds all of its lanes, or a record nested inside it does. -/
def Skein.splitOver (k : Skein) (r : JoinRec) : Bool :=
  (k.live.any fun (_, x) => x.nest.contains (.join r.rid) && Mask.diff (k.liveOf r) (x.within r.rid) == 0)
    || ((k.records.dropWhile fun q => q.rid != r.rid).drop 1).any fun q => Mask.diff (k.liveOf r) (k.liveOf q) == 0
/-- Remove a record from every nest and from the skein. -/
def Skein.dropRecord (k : Skein) (rid : Nat) : Skein :=
  { k with records := k.records.filter (·.rid != rid)
           strands := k.strands.map fun o => o.map fun x => { x with nest := x.nest.filter (· != .join rid) } }
/-- Room for a record of a new split: a skein holds at most three, of which one whose split is no longer live goes first (R70). -/
def Skein.recordRoom (k : Skein) : Skein :=
  if k.records.length < 3 then k
  else match k.records.find? k.splitOver with
    | some r => k.dropRecord r.rid
    | none => k

/-- Divide a strand: the lanes of `taken` go to `target` in the lowest free entry, or on the stack (R69 to R71). The strand's
own lanes are those left; `join` is the join PC of the block. -/
def State.diverge (s : State) (id : SkId) (st : Nat) (taken : Mask) (target : W64) (join : Option W64) : State :=
  match s.skein? id with
  | none => s
  | some k => match k.strand? st with
    | none => s
    | some x =>
      match k.freeEntry with
      | some f =>
        let (s, rid) := s.fresh
        (s.forkOps id st f).modSkein id fun k =>
          let k := k.recordRoom
          let x := (k.strand? st).getD x
          let new : Strand := { x with pc := target, mask := taken, blk := none, nest := .join rid :: joinsOf x.nest, wait := .none
                                       lastIssue := s.clock, replay := none, act0 := none, part := none, brkPassed := false, passNamed := false
                                       atSafe := false }
          let k := k.setStrand f (some new)
          let k := k.modStrand st fun y => { y with mask := Mask.diff x.mask taken, nest := .join rid :: x.nest }
          { k with records := k.records ++ [⟨rid, x.mask, join, 0⟩] }
      | none =>
        (s.pushEntry id st ⟨x.mask, taken, target, join⟩).modStrand id st fun y => { y with mask := Mask.diff x.mask taken }

/-- The strand completes its word and stands at the next one. -/
def Strand.retired (x : Strand) : Strand :=
  { x with pc := x.pc + 8, wait := .none, replay := none, act0 := none, part := none, brkPassed := false, passNamed := false
           blk := x.blk.map fun b => { b with left := b.left - 1 } }
/-- The strand goes to a header (R67). -/
def Strand.jumped (x : Strand) (target : W64) : Strand :=
  { x with pc := target, blk := none, wait := .none, replay := none, act0 := none, part := none, brkPassed := false, passNamed := false }

/-! ## What a skein does by itself after a word (R70, R71, R73, R75, R76) -/

/-- Lanes of the skein's strands that wait in a given way. -/
def Skein.lanesOf (k : Skein) (f : Strand → Bool) : Mask := k.live.foldl (fun m (_, x) => if f x then m ||| x.mask else m) 0

def innermostIs (x : Strand) (rid : Nat) : Bool := match x.nest with | .join r :: _ => r == rid | _ => false

/-- Strand `st` whose current lanes have all exited: it switches to the top entry's pending path, pops, or is freed (R71). -/
def State.afterExit (s : State) (id : SkId) (st : Nat) : State :=
  match s.skein? id with
  | none => s
  | some k => match k.strand? st with
    | none => s
    | some x =>
      if x.mask != 0 then s
      else if stackDepth x.nest == 0 then (s.endOps id st).modSkein id fun k => k.setStrand st none
      else
        -- exits take records out of the nest without regard to order (R414)
        let inner := x.nest.dropWhile fun i => match i with | .join _ => true | _ => false
        let s := s.readSpill id k st inner (Mask.lowest (~~~ k.exited))
        match s.topEntry id k st inner with
        | none => s
        | some e =>
          let p := Mask.diff e.pending k.exited
          if p != 0 then
            ((s.modStrand id st fun x => { x with nest := inner }).putTop id st { e with pending := 0 }).modStrand id st fun x =>
              { x.jumped e.pendPc with mask := p }
          else
            s.modStrand id st fun x =>
              { x.jumped (e.rpc.getD x.pc) with mask := Mask.diff e.full k.exited, nest := inner.drop 1 }

/-- A strand that stands before a header named by the innermost item of its nest waits, switches or pops (R70, R71, R414). -/
def State.atNamed (s : State) (id : SkId) (st : Nat) : State :=
  match s.skein? id with
  | none => s
  | some k => match k.strand? st with
    | none => s
    | some x =>
      if !x.atHeader || x.wait != .none || x.passNamed then s
      else match x.nest with
        | .join rid :: _ =>
          if k.records.any fun r => r.rid == rid && r.joinPc == some x.pc then s.modStrand id st fun x => { x with wait := .join } else s
        | n =>
          -- at a header, a spilled entry is compared with the PC
          let s := s.readSpill id k st n (Mask.lowest x.mask)
          match s.topEntry id k st n with
          | none => s
          | some e =>
            if e.rpc != some x.pc || !s.spillReads id k st n then s
            else
              let p := Mask.diff e.pending k.exited
              if p != 0 then (s.putTop id st { e with pending := 0 }).modStrand id st fun x => { x.jumped e.pendPc with mask := p }
              else s.modStrand id st fun x => { x with mask := Mask.diff e.full k.exited, nest := x.nest.drop 1 }

/-- Merge strands into the entry of the lowest ID (R70, R75). `keep` gives the merged strand before its lanes. -/
def Skein.merge (k : Skein) (ids : List Nat) (keep : Strand) : Skein :=
  let mask := ids.foldl (fun m i => match k.strand? i with | some x => m ||| x.mask | none => m) 0
  let count := ids.foldl (fun c i => match k.strand? i with | some x => max c x.count | none => c) 0
  let k := ids.foldl (fun k i => k.setStrand i none) k
  k.setStrand (ids.headD 0) (some { keep with mask := mask, count := count, wait := .none, replay := none, act0 := none, part := none, passNamed := false })

/-- Move spilled stack entries to the slots of another entry (R70). -/
def State.moveSpill (s : State) (id : SkId) (k : Skein) (src dst depth : Nat) : State :=
  if src == dst || depth ≤ 16 then s
  else s.skWrite id k (s.spillVa k dst 16) (s.skRead id k (s.spillVa k src 16) (16 * (depth - 16)))

/-- Completion of a join record (R70), or its end where no lane of it is left. -/
def State.completeRecord (s : State) (id : SkId) (r : JoinRec) : State :=
  match s.skein? id with
  | none => s
  | some k =>
    let need := k.liveOf r
    if need == 0 then s.modSkein id (·.dropRecord r.rid)
    else
      let waiting := k.live.filter fun (_, x) => x.wait == .join && innermostIs x r.rid
      let lanes := waiting.foldl (fun m (_, x) => m ||| x.mask) 0
      if Mask.diff need lanes != 0 then s
      else
        let withStack := (waiting.find? fun (_, x) => stackDepth x.nest != 0).orElse fun _ => waiting.head?
        match withStack with
        | none => s
        | some (i, x) =>
          let ids := waiting.map (·.1)
          let s := (s.moveSpill id k i (ids.headD 0) (stackDepth x.nest)).joinOps id ids [ids.headD 0]
          s.modSkein id fun k => (k.merge ids x).dropRecord r.rid

/-- The innermost record whose mask contains all of some lanes, with those that it is nested in (R75). -/
def Skein.nestAround (k : Skein) (lanes : Mask) : List NestItem :=
  match (k.records.filter fun r => Mask.diff lanes r.mask == 0).getLast? with
  | none => []
  | some r => (k.live.findSome? fun (_, y) =>
      match (joinsOf y.nest).dropWhile (· != .join r.rid) with
      | [] => none
      | l => some l).getD [.join r.rid]
/-- Completion of the waits on rejoin register `n` (R75). -/
def State.completeRejoin (s : State) (id : SkId) (n : Nat) : State :=
  match s.skein? id with
  | none => s
  | some k =>
    let waiting := k.live.filter fun (_, x) => x.wait == .rjoin n
    let lanes := waiting.foldl (fun m (_, x) => m ||| x.mask) 0
    if waiting.isEmpty || Mask.diff (k.rejoin n) lanes != 0 then s
    else
      match waiting.find? fun (_, x) => x.mask.getLsbD (Mask.lowest lanes) with
      | none => s
      | some (_, x) =>
        let kept := k.nestAround lanes
        let left := waiting.flatMap fun (_, y) => y.nest.filter fun i => !kept.contains i
        (s.joinOps id (waiting.map (·.1)) [(waiting.map (·.1)).headD 0]).modSkein id fun k =>
          let k := k.merge (waiting.map (·.1)) { x.retired with nest := kept }
          { k with records := k.records.map fun r =>
              if kept.contains (.join r.rid) then { r with gone := Mask.diff r.gone lanes }
              else if left.contains (.join r.rid) then { r with gone := r.gone ||| lanes } else r }

/-- Lost reconvergence is reported (R74, R76): the sticky bit, which a WRSR of the same cycle does not clear (R87), and trap 0x0B before
the next instruction of the strand that holds lane `lane`, if the launch asks for it. -/
def State.reportLost (s : State) (id : SkId) (lane : Nat) : State :=
  s.modSkein id fun k =>
    let k := { k with joinLost := true, paired := k.paired.map fun p => { p with lost := true } }
    if (s.lrecOf k).joinTrap then k.addErr 0x0B 0 lane else k

/-- Lost-reconvergence release (R76). -/
def State.release (s : State) (id : SkId) : State :=
  match s.skein? id with
  | none => s
  | some k =>
    let waits (x : Strand) : Bool := match x.wait with | .join | .rjoin _ => true | _ => false
    if k.live.isEmpty || k.trap.isSome || k.stopped || k.park.isSome || k.svcWait.isSome || k.yielded || !(k.live.all fun (_, x) => waits x) then s
    else
      let s := s.modSkein id fun k => k.live.foldl (fun k (i, x) =>
        match x.wait with
        | .join =>
          let k := k.modStrand i fun x => { x with wait := .none, passNamed := true }
          match x.nest with
          | .join rid :: _ => k.dropRecord rid
          | _ => k
        | _ => k.modStrand i Strand.retired) k
      -- every access of the strands precedes every later one of each (R78)
      let s := s.joinOps id (k.live.map (·.1)) (k.live.map (·.1))
      match k.live with
      | (_, x) :: _ => s.reportLost id (Mask.lowest x.mask)
      | [] => s

/-- Apply a function until the skein stands still, at most `n` times. -/
def State.untilStill (f : State → State) (id : SkId) : Nat → State → State
  | 0, s => s
  | n + 1, s => let s' := f s; if s'.skein? id == s.skein? id then s' else State.untilStill f id n s'

def State.completions (s : State) (id : SkId) : State :=
  let s := [0, 1, 2, 3].foldl (fun s i => s.afterExit id i) s
  let s := [0, 1, 2, 3].foldl (fun s i => s.atNamed id i) s
  let s := (match s.skein? id with | some k => k.records | none => []).foldl (fun s r => s.completeRecord id r) s
  (List.range 8).foldl (fun s n => s.completeRejoin id n) s

/-- Exits, completions, then lost reconvergence, in the order of R73; after the second of two words of one cycle. -/
def State.settle (s : State) (id : SkId) : State :=
  if (s.skein? id).any (·.paired.isSome) then s
  else
  let s := State.untilStill (·.completions id) id 40 s
  let s' := s.release id
  if s'.skein? id == s.skein? id then s' else State.untilStill (·.completions id) id 40 s'

/-- A word completes: the strand moves on, and the skein settles. -/
def State.retire (s : State) (id : SkId) (st : Nat) : State :=
  ({ s with cur := none }.modStrand id st Strand.retired).settle id

end Sys2Proof.Machine
end

