-- ==== Sys2Proof/Machine/Special.lean ====
section
/-! DEFINITION. The special functions of R95, correctly rounded to nearest-even. FRCP, FRSQ and FSQRT are exact with a sticky
bit; the others are computed on 640 fraction bits with an error far below the last bit any F32 or F16 rounding needs (log 9). -/

namespace Sys2Proof.Arith

/-- floor(sqrt n), bit by bit: `r` holds the bits found, `i` is the next bit. -/
def isqrtBits : Nat → Nat → Nat → Nat
  | 0, n, r => if (r + 1) * (r + 1) ≤ n then r + 1 else r
  | i + 1, n, r =>
    let c := r + 2 ^ (i + 1)
    isqrtBits i n (if c * c ≤ n then c else r)
def isqrt (n : Nat) : Nat := isqrtBits (Nat.log2 n / 2 + 1) n 0

/-- m·2^e with an even exponent. -/
def evenExp (m : Nat) (e : Int) : Nat × Int := if e % 2 == 0 then (m, e) else (2 * m, e - 1)

def roundSticky (f : FFmt) (neg : Bool) (m : Nat) (e : Int) (sticky : Bool) : Nat :=
  roundFin f .rne false neg m e sticky 0

/-- FRCP (R95). -/
def frcp (f : FFmt) : FVal → Nat
  | .nan => f.nanCode
  | .inf neg => f.signBit neg
  | .fin neg 0 _ => f.infCode neg
  | .fin neg m e =>
    let k := Nat.log2 m + 120
    roundSticky f neg (2 ^ k / m) (-(k : Int) - e) (2 ^ k % m != 0)

/-- FSQRT (R95). -/
def fsqrt (f : FFmt) : FVal → Nat
  | .nan => f.nanCode
  | .inf neg => if neg then f.nanCode else f.infCode false
  | .fin neg 0 _ => f.signBit neg
  | .fin true _ _ => f.nanCode
  | .fin false m e =>
    let (m, e) := evenExp m e
    let n := m * 2 ^ 240
    let r := isqrt n
    roundSticky f false r ((e - 240) / 2) (r * r != n)

/-- FRSQ (R95). -/
def frsq (f : FFmt) : FVal → Nat
  | .nan => f.nanCode
  | .inf neg => if neg then f.nanCode else f.signBit false
  | .fin neg 0 _ => f.infCode neg
  | .fin true _ _ => f.nanCode
  | .fin false m e =>
    let (m, e) := evenExp m e
    let j := Nat.log2 m + 120
    let r := isqrt (2 ^ (2 * j) / m)
    roundSticky f false r (-(j : Int) - e / 2) (r * r * m != 2 ^ (2 * j))

/-! Fixed point with `Q` fraction bits. -/

def Q : Nat := 640
def one : Nat := 2 ^ Q
/-- Bound on the accumulated truncation error of any series below, in units of 2^−Q. -/
def slack : Nat := 2 ^ 200

/-- x·2^Q of a nonnegative dyadic, truncated. -/
def fixedOf (m : Nat) (e : Int) : Nat :=
  let k : Int := e + Q
  if k ≥ 0 then m * 2 ^ k.toNat else m / 2 ^ (-k).toNat

/-- Round a signed fixed-point value: both ends of its error interval agree for every input of the type (log 9). -/
def roundFixed (f : FFmt) (v : Int) : Nat :=
  let lo := v.natAbs - slack
  roundSticky f (v < 0) lo (-(Q : Int)) true

/-- Σ_{i ≥ 1} of 1/((2i−1)·n^(2i−1)) with alternating signs (arctangent of 1/n) for `alt`, else all positive. -/
def atanSum (alt : Bool) : Nat → Nat → Nat → Nat → Bool → Int → Int
  | 0, _, _, _, _, acc => acc
  | fuel + 1, nsq, p, k, neg, acc =>
    let t : Int := p / k
    atanSum alt fuel nsq (p / nsq) (k + 2) (alt && !neg) (if neg then acc - t else acc + t)
/-- π by Machin's formula. -/
def piFixed : Nat :=
  (16 * atanSum true 150 25 (one / 5) 1 false 0 - 4 * atanSum true 50 57121 (one / 239) 1 false 0).toNat
/-- ln 2 = 2·artanh(1/3). -/
def ln2Fixed : Nat := (2 * atanSum false 210 9 (one / 3) 1 false 0).toNat

/-- Σ r^i/i!, from term `i` on. -/
def expSum : Nat → Nat → Nat → Nat → Nat → Nat
  | 0, _, _, _, acc => acc
  | fuel + 1, r, i, t, acc =>
    let t' := t * r / one / i
    expSum fuel r (i + 1) t' (acc + t')
/-- e^r for fixed-point 0 ≤ r < 1. -/
def expFixed (r : Nat) : Nat := expSum 130 r 1 one one

/-- Σ (−1)^i t^(2i+1)/(2i+1)! from a first term: sine for t0 = r, k = 1; cosine for t0 = 1, k = 0. -/
def trigSum : Nat → Nat → Nat → Nat → Bool → Int → Int
  | 0, _, _, _, _, acc => acc
  | fuel + 1, rsq, k, t, neg, acc =>
    let t' := t * rsq / one / ((k + 1) * (k + 2))
    trigSum fuel rsq (k + 2) t' (!neg) (if neg then acc - t' else acc + t')
def sinFixed (r : Nat) : Int := trigSum 90 (r * r / one) 1 r true r
def cosFixed (r : Nat) : Int := trigSum 90 (r * r / one) 0 one true one

/-- Quadrant of |x| and the remainder in [0, π/2) (exact argument reduction, R95). -/
def reduceTrig (m : Nat) (e : Int) : Nat × Nat :=
  let x := fixedOf m e
  let half := piFixed / 2
  ((x / half) % 4, x % half)

/-- sin of a nonnegative value. -/
def sinMag (m : Nat) (e : Int) : Int :=
  match reduceTrig m e with
  | (0, r) => sinFixed r
  | (1, r) => cosFixed r
  | (2, r) => -sinFixed r
  | (_, r) => -cosFixed r
def cosMag (m : Nat) (e : Int) : Int :=
  match reduceTrig m e with
  | (0, r) => cosFixed r
  | (1, r) => -sinFixed r
  | (2, r) => -cosFixed r
  | (_, r) => sinFixed r

def fsin (f : FFmt) : FVal → Nat
  | .nan | .inf _ => f.nanCode
  | .fin neg 0 _ => f.signBit neg
  | .fin neg m e => let v := sinMag m e; roundFixed f (if neg then -v else v)
def fcos (f : FFmt) : FVal → Nat
  | .nan | .inf _ => f.nanCode
  | .fin _ 0 _ => roundFin f .rne false false 1 0 false 0
  | .fin _ m e => roundFixed f (cosMag m e)

/-- FEXP2 (R95): integers exactly, magnitudes of 2^12 and more beyond every format. -/
def fexp2 (f : FFmt) : FVal → Nat
  | .nan => f.nanCode
  | .inf neg => if neg then f.signBit false else f.infCode false
  | .fin _ 0 _ => roundFin f .rne false false 1 0 false 0
  | .fin neg m e =>
    if magLt 4096 0 m e then (if neg then roundSticky f false 1 (-5000) true else f.infCode false)
    else
      let x : Int := let v : Int := fixedOf m e; if neg then -v else v
      let n := x / (one : Int)
      let r := (x % (one : Int)).toNat
      if r == 0 then roundFin f .rne false false 1 n false 0
      else
        let y := expFixed (r * ln2Fixed / one)
        roundSticky f false (y - slack) (n - Q) true

/-- FLOG2 (R95). -/
def flog2 (f : FFmt) : FVal → Nat
  | .nan => f.nanCode
  | .inf neg => if neg then f.nanCode else f.infCode false
  | .fin _ 0 _ => f.infCode true
  | .fin true _ _ => f.nanCode
  | .fin false m e =>
    let k := Nat.log2 m
    if m == 2 ^ k then
      let n : Int := e + k
      roundTo f .rne false (.fin (n < 0) n.natAbs 0)
    else
      let z := m * one / 2 ^ k
      let t := (z - one) * one / (z + one)
      let tsq := t * t / one
      let ln : Int := 2 * (go 220 tsq t 1 0 : Nat)
      roundFixed f ((e + k) * (one : Int) + ln * (one : Int) / (ln2Fixed : Int))
where
  /-- artanh t = Σ t^k/k over odd k. -/
  go : Nat → Nat → Nat → Nat → Nat → Nat
    | 0, _, _, _, acc => acc
    | fuel + 1, tsq, p, k, acc => go fuel tsq (p * tsq / one) (k + 2) (acc + p / k)

/-- FTANH (R95): 1 − 2/(e^(2|x|) + 1), with the sign of x. -/
def ftanh (f : FFmt) : FVal → Nat
  | .nan => f.nanCode
  | .inf neg => roundFin f .rne false neg 1 0 false 0
  | .fin neg 0 _ => f.signBit neg
  | .fin neg m e =>
    if magLt 64 0 m e then roundSticky f neg (2 ^ 120 - 1) (-120) true
    else
      let y := 2 * fixedOf m e
      let n := y / ln2Fixed
      let ex := expFixed (y % ln2Fixed) * 2 ^ n
      let v : Int := (one : Int) - 2 * (one : Int) * (one : Int) / ((ex + one : Nat) : Int)
      roundFixed f (if neg then -v else v)

end Sys2Proof.Arith
end

