-- ==== Sys2Proof/Machine/Ops.lean ====
section
/-! DEFINITION. What every meaning is made of: the issuing strand, its guard, completing, waiting, jumping; taking a trap and
returning from one (R234 to R242), parking (R54). -/

namespace Sys2Proof.Machine

/-- The strand that issues, as its word finds it. -/
structure Ctx where
  id : SkId
  st : Nat
  k : Skein
  x : Strand
  iw : W64

/-- Run a meaning for the strand that issues. -/
def withStrand (s : State) (f : Ctx → Out) : Out :=
  match s.cur with
  | none => .fault .noStrand
  | some c =>
    match s.skein? c.sk with
    | none => .fault .noStrand
    | some k => match k.strand? c.st with
      | none => .fault .noStrand
      | some x => f ⟨c.sk, c.st, k, x, c.iw⟩

/-! ## Guards (R265) -/

/-- Lanes where a guard holds. -/
def Skein.guard (k : Skein) (g : BitVec 3) (gn : Bool) : Mask := if gn then ~~~ (k.p g.toNat) else k.p g.toNat
/-- Lanes a replay is narrowed to (R164, R239). -/
def Strand.window (x : Strand) : Mask := match x.replay with | some (_, m) => m | none => 0xFFFFFFFF
/-- Active() of a vector form. -/
def Ctx.active (c : Ctx) (g : BitVec 3) (gn : Bool) : Mask := c.x.mask &&& c.k.guard g gn &&& c.x.window
/-- The lowest active lane of R265. -/
def Ctx.low (c : Ctx) : Nat := Mask.lowest c.x.mask
/-- Does a form that acts once act (R265)? -/
def Ctx.acts (c : Ctx) (g : BitVec 3) (gn : Bool) : Bool :=
  (c.k.guard g gn).getLsbD c.low && (c.x.window).getLsbD c.low

/-! ## Completing, waiting, jumping -/

/-- The word completes with the skein as given. -/
def Ctx.done (c : Ctx) (s : State) (k : Skein) : Out := .next ((s.setSkein c.id k).retire c.id c.st)
/-- The word completes with no more effect. -/
def Ctx.skip (c : Ctx) (s : State) : Out := .next (s.retire c.id c.st)
/-- The word does not complete: the strand waits at it (R52). -/
def State.waitAt (s : State) (id : SkId) (st : Nat) (w : Wait) : State :=
  ({ s with cur := none }.modStrand id st fun x => { x with wait := w }).settle id
def Ctx.wait (c : Ctx) (s : State) (w : Wait) : Out := .next (s.waitAt c.id c.st w)
/-- The strand goes to a header. -/
def Ctx.jump (c : Ctx) (s : State) (target : W64) : Out :=
  .next (({ s with cur := none }.modStrand c.id c.st fun x => x.jumped target).settle c.id)

/-- Earlier memory operations of a strand that have not been performed (R77, R140), and those of all strands of a skein. -/
def State.unperformed (s : State) (id : SkId) (st : Nat) : List MemOp := s.memops.filter fun o => o.sk == id && o.strands.contains st
def State.unperformedAll (s : State) (id : SkId) : List MemOp := s.memops.filter fun o => o.sk == id
def MemOp.isLoad (o : MemOp) : Bool := match o.kind with | .load _ => true | _ => false
def State.unperformedLoads (s : State) (id : SkId) (st : Nat) : List MemOp := (s.unperformed id st).filter (·.isLoad)

/-! ## Parking (R54, R164) -/

/-- The next issue of the word is for these lanes only; `act` is Active() of this issue. -/
def Strand.narrow (x : Strand) (act unfin : Mask) : Strand :=
  { x with replay := some (true, unfin), act0 := some (x.act0.getD act) }
/-- Trap mode of a strand (R237). -/
def Skein.trapOf (k : Skein) (st : Nat) : Option TrapMode := k.trap.filter (·.strand == st)
/-- Has the strand's word had an effect already, with more of it to come? -/
def Strand.begun (x : Strand) : Bool :=
  x.part.isSome || (match x.replay with | some (true, _) => true | _ => false) || (match x.wait with | .memops _ st => st ≥ 2 | _ => false)
/-- Has the strand's word issued without having completed? It completes whatever stops the strand (R80, R235). A word that waits for a
place only has not issued (R175, R178). -/
def Strand.issued (x : Strand) : Bool :=
  x.begun || match x.wait with | .memops ops st => !(ops.isEmpty && st == 1) | _ => false
/-- Is the next issue of the strand's word a later one of a word that has been counted (R58)? -/
def Strand.again (x : Strand) : Bool := x.wait != .none || match x.replay with | some (true, _) => true | _ => false
/-- A fault is told to the service core of its slice, once (R163). -/
def State.reportFault (s : State) (asid va : Nat) : State :=
  if s.faults.contains (asid, va / 4096 * 4096) then s else { s with faults := s.faults ++ [(asid, va / 4096 * 4096)] }
/-- The skein parks with these lanes unfinished; the word replays for them. -/
def State.parkSkein (s : State) (id : SkId) (st : Nat) (act unfin : Mask) (r : ParkReason) : State :=
  let asid := ((s.skein? id).map s.asidOf).getD 0
  let s := match r with
    | .fault vas => vas.foldl (fun (s : State) (va : W64) => s.reportFault asid va.toNat) s
    | .ring va => s.reportFault asid va.toNat
    | .remote _ => s
  { s with cur := none }.modSkein id fun k =>
    ({ k with park := some (st, r) }).modStrand st fun x => { x.narrow act unfin with wait := .none }

/-! ## The trap frame (R236) -/

/-- The word at an address as the home holds it; none where it does not translate. -/
def State.peekWord (s : State) (j : Job) (die : Nat) (va : W64) : Option W64 :=
  if va.toNat % 8 != 0 || isPrivate va.toNat then none
  else match (s.place j die j.asid va.toNat .fetch).2 with
    | .at _ key => some (BitVec.ofNat 64 (ofBytesLE (Sparse.getList 0 s.mem key 8)))
    | .zero _ => some 0
    | _ => none
def State.peekCode (s : State) (id : SkId) (k : Skein) (va : W64) : Option W64 := s.peekWord (s.jobOf k) (dieOf id.core) va
/-- Does a header stand at an address (R67, R68)? A target that cannot be fetched is no header. -/
def isHeader (w : W64) : Bool := w.toNat / 2 ^ 58 == 0
def State.headerAt (s : State) (id : SkId) (k : Skein) (va : W64) : Bool :=
  match s.peekCode id k va with
  | some w => isHeader w
  | none => false

/-- One operand of a snapshot, per lane (R236): `u` for a uniform form; a field at or beyond the allocation reads 0. -/
def State.snapReg (s : State) (k : Skein) (u : Bool) (r l : Nat) : W32 :=
  if u then (if r < 64 then (k.s r).truncate 32 else 0) else (if r < s.vlimit k then k.v r l else 0)
def State.snapB (s : State) (k : Skein) (f : RFmt) (l : Nat) : W32 :=
  match f.bk.toNat with
  | 0 => s.snapReg k f.u f.b.toNat l
  | 1 => if f.b.toNat < 64 then (k.s f.b.toNat).truncate 32 else 0
  | 2 => f.b.signExtend 32
  | _ => 0
/-- Majors of format R, and the retired majors read as format R (R236, R241, R291). -/
def formatR (iw : W64) : Bool :=
  let op := iw.toNat / 2 ^ 58
  op == 4 || (8 ≤ op && op ≤ 13) || op == 15 || (16 ≤ op && op ≤ 24)

def bytes32 (ws : List W32) : List Byte := ws.flatMap fun w => toBytesLE 4 w.toNat
def lanes32 : List Nat := List.range 32

/-- The bytes 0x000 to 0x4FF of the frame (R236). -/
def State.frameBytes (s : State) (k : Skein) (x : Strand) (t : TrapInfo) (iw : W64) : List Byte :=
  let hdr := isHeader iw
  let active := if t.next || hdr then x.mask else x.mask &&& k.guard (fld iw 51 3) (flag iw 50)
  let snap := !t.next && formatR iw
  let f := decR iw
  let col (g : Nat → W32) : List Byte := if snap then bytes32 (lanes32.map g) else List.replicate 128 0
  toBytesLE 8 t.pc.toNat ++ toBytesLE 8 (if t.next then 0 else iw.toNat) ++ toBytesLE 4 t.cause ++ toBytesLE 4 active.toNat
    ++ toBytesLE 4 t.unfin.toNat ++ toBytesLE 4 t.strand ++ toBytesLE 8 t.fva.toNat
    ++ bytes32 ((List.range 7).map k.p) ++ toBytesLE 4 0 ++ toBytesLE 8 t.info.toNat ++ List.replicate 48 0
    ++ col (s.snapReg k f.u f.a.toNat) ++ col (s.snapB k f) ++ col (s.snapReg k f.u f.c.toNat)
    ++ List.replicate 128 0 ++ toBytesLE 4 0 ++ List.replicate 124 0
    ++ (List.range 64).flatMap fun i => toBytesLE 8 (k.s i).toNat

/-- Launch, group and skein numbers of a skein, for a failure report. -/
def State.failSkein (s : State) (id : SkId) (cause : Nat) (pc fva : W64) : State :=
  match s.skein? id with
  | none => s
  | some k =>
    match s.group? k.group with
    | none => s.discardSkein id
    | some g => (s.discardSkein id).failLaunch g.launch cause pc fva g.lin k.index id.core

/-- A double trap discards the skein and fails the launch (R239). -/
def State.doubleTrap (s : State) (id : SkId) (cause : Nat) (pc fva : W64) : State :=
  { s.failSkein id cause pc fva with cur := none }

/-- Console output of a service core (R240, R250). -/
def State.console (s : State) (slice : Nat) (bs : List Byte) : State :=
  s.modHost fun h => { h with consoles := Tab.update h.consoles slice [] (· ++ bs) }
/-- The slice that homes a skein's first private piece: "the home slice" of R13 (R244). -/
def homeSliceOf (id : SkId) (k : Skein) : Nat := 8 * dieOf id.core + f3 k.privBase.toNat

/-! ## Return from a trap (R239) -/

/-- What RTE reads of the frame. -/
structure FrameIn where
  pc : W64
  iw : W64
  unfin : Mask
  preds : List Mask
  result : List W32
  rvalid : Mask
  sregs : List W64

def frameIn (bs : List Byte) : FrameIn :=
  let w (o : Nat) : W32 := BitVec.ofNat 32 (ofBytesLE ((bs.drop o).take 4))
  let d (o : Nat) : W64 := BitVec.ofNat 64 (ofBytesLE ((bs.drop o).take 8))
  { pc := d 0, iw := d 8, unfin := w 0x18, preds := (List.range 7).map fun i => w (0x28 + 4 * i)
    result := lanes32.map fun l => w (0x200 + 4 * l), rvalid := w 0x280
    sregs := (List.range 64).map fun i => d (0x300 + 8 * i) }

/-- The block an address lies in after RTE: that of the trapped strand where the address is the PC at entry or the word after
it (R239). -/
def TrapMode.blockFor (t : TrapMode) (pc : W64) : Option Block :=
  if pc == t.entryPc then t.blk
  else if pc == t.entryPc + 8 then t.blk.map fun b => { b with left := b.left - 1 }
  else none

/-- Commit RESULT, restore s1 to s63 and p0 to p6, leave trap mode (R239). -/
def Skein.restoreFrame (k : Skein) (t : TrapMode) (f : FrameIn) : Skein :=
  let d := (decR f.iw).d.toNat
  let k := (Mask.lanes f.rvalid).foldl (fun k l => k.setV d l (f.result.getD l 0)) k
  let k := (List.range 63).foldl (fun k i => k.setS (i + 1) (f.sregs.getD (i + 1) 0)) k
  let k := { k with preds := f.preds, trap := none, soft := k.soft.filter fun r => match r with
      | .s _ | .p _ => false
      | .v key => !(key / 32 == d && f.rvalid.getLsbD (key % 32))
      | .rj _ => true }
  k.modStrand t.strand fun x =>
    { x with pc := f.pc, blk := t.blockFor f.pc, count := 0, wait := .none, act0 := none, part := none
             brkPassed := t.brk && f.pc == t.entryPc, passNamed := t.pass && f.pc == t.entryPc
             replay := if f.pc == t.entryPc && f.unfin != 0 then some (false, f.unfin) else none }

/-! ## Taking a trap (R234 to R237, R240, R242) -/

/-- Trap mode begins: the strand stands at the vector with its registers as they are (R237). -/
def Skein.enterMode (k : Skein) (t : TrapInfo) (x : Strand) (vec : W64) : Skein :=
  let k : Skein := { k with trap := some ⟨t.pc, t.strand, t.cause, none, x.blk, x.mask, x.brkPassed, x.passNamed⟩ }
  k.modStrand t.strand fun x =>
    { x with pc := vec, blk := none, count := 0, wait := .none, replay := none, act0 := none, part := none, brkPassed := false
             passNamed := false, atSafe := false }

/-- Is a debugger attached to the skein's job (R80)? -/
def State.debugged (s : State) (k : Skein) : Bool := (s.jobOf k).debugger

/-- Tell the debugger that a skein has stopped (R80, R81, R254): the replies owed for it, with 1 as their result where the strand is
waiting (log 80). -/
def State.tellDebugger (s : State) (id : SkId) (waiting : Bool := false) : State :=
  let mine := s.host.dbg.filter (·.1 == id)
  let s := s.modHost fun h => { h with dbg := h.dbg.filter (·.1 != id) }
  mine.foldl (fun s (_, tag) => s.send ⟨0x0C, 1, 32, tag, 0, 0, if waiting then 1 else 0, []⟩) s

/-- A trap is held pending with its frame's contents (R235): its strand stands at the word with nothing of it in progress. -/
def State.holdTrap (s : State) (id : SkId) (t : TrapInfo) (bs : List Byte) : State :=
  s.modSkein id fun k =>
    ({ k with pendTraps := k.pendTraps ++ [(t, bs)] }).modStrand t.strand fun x =>
      { x with wait := .none, replay := none, act0 := none, part := none }
/-- Enter trap mode with the frame's contents (R236, R237). The entry waits for the frame's page and is made before any strand issues. -/
def State.enterTrap (s : State) (id : SkId) (t : TrapInfo) (bs : List Byte) : State :=
  match s.skein? id with
  | none => s
  | some k =>
    match k.strand? t.strand with
    | none => s
    | some x =>
      match s.privWrite (s.jobOf k) (dieOf id.core) k.trapFrame.toNat bs with
      | .error (.park _) =>
        (s.reportFault (s.asidOf k) k.trapFrame.toNat).modSkein id fun k =>
          { k with park := some (t.strand, .fault [k.trapFrame]), pendTraps := (t, bs) :: k.pendTraps }
      | .error _ => s.doubleTrap id t.cause t.pc t.fva
      | .ok s =>
        (s.cleanWords (s.asidOf k) (wholeWords k.trapFrame.toNat 0x500)).setSkein id (k.enterMode t x (s.lrecOf k).trapvec)

/-- Take a trap (R234 to R237). The frame PC, unfinished mask and the rest are in `t`; the strand's word is `iw`. A trap of another
strand than the one in trap mode, or than the one that waits in an SVC, is held pending (R235, R243), and so is one of two strands that issue
in one cycle, until the cycle is over. A stop by a trap stops its own skein only (log 98). -/
def State.takeTrap (s : State) (id : SkId) (t : TrapInfo) (iw : W64) : State :=
  let s := { s with cur := none }
  match s.skein? id with
  | none => s
  | some k =>
    match k.strand? t.strand with
    | none => s
    | some x =>
      if (t.cause == 0x0E || t.cause == 0x0F) && s.debugged k then
        -- reported and stopped, the vector is not entered (R80)
        let s := s.modSkein id fun k => { k with stopped := true, stepping := none }
        let s := s.modStrand id t.strand fun x => { x with wait := .none }
        (s.console (homeSliceOf id k) (toBytesLE 1 t.cause ++ toBytesLE 8 t.pc.toNat)).tellDebugger id
      else if k.trap.any (·.strand == t.strand) then s.doubleTrap id t.cause t.pc t.fva
      else if k.trap.isSome || k.svcWait.isSome || k.paired.isSome then s.holdTrap id t (s.frameBytes k x t iw)
      else s.enterTrap id t (s.frameBytes k x t iw)

/-- A trap at the faulting word: it has no effect for the lanes of `unfin` (R235). Earlier words of the strand complete first. -/
def Ctx.trapWith (c : Ctx) (s : State) (cause : Nat) (unfin : Mask) (fva info : W64) : Out :=
  match s.unperformed c.id c.st with
  | [] => .next (s.takeTrap c.id ⟨cause, c.x.pc, unfin, fva, info, false, c.st⟩ c.iw)
  | os => c.wait s (.memops (os.map (·.id)) 0)
def Ctx.trap (c : Ctx) (s : State) (cause : Nat) (unfin : Mask) (fva : W64 := 0) (info : W64 := 0) : Out :=
  c.trapWith s cause unfin fva info
/-- A trap under checks 3 to 7: ACTIVE and UNFIN hold the lanes of the strand where bits [53:50] hold (R294). -/
def Ctx.illegal (c : Ctx) (s : State) (cause : Nat := 0x01) : Out :=
  c.trap s cause (c.x.mask &&& c.k.guard (fld c.iw 51 3) (flag c.iw 50))
/-- A trap after the word has completed (BKPT, TRAP, single-step): the frame PC is the next word (R234, R249). -/
def Ctx.trapNext (c : Ctx) (s : State) (cause : Nat) (info : W64) : Out :=
  match s.unperformed c.id c.st with
  | [] =>
    let s := s.modStrand c.id c.st Strand.retired
    .next ((s.takeTrap c.id ⟨cause, c.x.pc + 8, 0, 0, info, true, c.st⟩ 0).settle c.id)
  | os => c.wait s (.memops (os.map (·.id)) 0)

end Sys2Proof.Machine
end

