-- ==== Sys2Proof/Machine/Operands.lean ====
section
/-! DEFINITION. Operand forms of the R, W and M formats: which registers a word names, their checks (R83), reading them (R270,
R320, R342) and writing the result (R84, R266); addresses of the M format (R274). -/

namespace Sys2Proof.Machine

/-- How many registers each field of a vector form names: 0 unused, 1 single, 2 pair, 4 quad (R83). -/
structure RShape where
  d : Nat
  a : Nat
  b : Nat
  c : Nat
  deriving DecidableEq, Repr

/-- Register `r` of a vector form, naming `n` of them, against the allocation (R83). -/
def vregOk (lim r n : Nat) : Bool := n == 0 || (r % n == 0 && r + n ≤ lim)
def sregOk (r n : Nat) : Bool := n == 0 || r < 64
end Sys2Proof.Machine
namespace Sys2Proof
open Machine
/-- The register checks of an R-format word (check 7 of R294). -/
def RFmt.regsOk (f : RFmt) (sh : RShape) (lim : Nat) : Bool :=
  if f.u then
    sregOk f.d.toNat sh.d && sregOk f.a.toNat sh.a && (f.bk == 2 || sregOk f.b.toNat sh.b) && sregOk f.c.toNat sh.c
  else
    vregOk lim f.d.toNat sh.d && vregOk lim f.a.toNat sh.a && vregOk lim f.c.toNat sh.c
      && (if f.bk == 0 then vregOk lim f.b.toNat sh.b else f.bk == 2 || sregOk f.b.toNat sh.b)
end Sys2Proof
namespace Sys2Proof.Machine

/-- Registers of a T: 2 for the 64-bit types (R83). -/
def pairOf (t : BitVec 4) : Nat := if Arith.tBits t.toNat == 64 then 2 else 1

/-- Operand values of one lane, as raw bits. -/
structure Opnds where
  a : W64
  b : W64
  c : W64

/-- A register operand: an s-register in a uniform form, else a register or pair of lane `l`. -/
def Skein.opnd (k : Skein) (u : Bool) (n r l : Nat) : W64 := if u then k.s r else k.vw (n == 2) r l
end Sys2Proof.Machine
namespace Sys2Proof
open Machine
/-- The operands of a lane; `imm` is what an immediate B stands for (R270). -/
def RFmt.opnds (f : RFmt) (sh : RShape) (imm : W64) (k : Skein) (l : Nat) : Opnds :=
  { a := k.opnd f.u sh.a f.a.toNat l
    b := if f.bk == 2 then imm else if f.bk == 1 then k.s f.b.toNat else k.opnd f.u sh.b f.b.toNat l
    c := k.opnd f.u sh.c f.c.toNat l }
end Sys2Proof
namespace Sys2Proof.Machine

end Sys2Proof.Machine
namespace Sys2Proof
open Machine
/-- An integer immediate, sign-extended (R270). -/
def RFmt.immI (f : RFmt) : W64 := f.b.signExtend 64
/-- A floating-point immediate, converted to a type by RNE (R270). -/
def RFmt.immF (f : RFmt) (t : Nat) : W64 := BitVec.ofNat 64 (Arith.roundT t .rne false (Arith.FVal.ofInt f.b.toInt))
end Sys2Proof
namespace Sys2Proof.Machine

/-- Write a result to D of a lane, or to the s-register (R84, R266). -/
def Skein.putD (k : Skein) (u : Bool) (n r l : Nat) (x : W64) : Skein := if u then k.setS r x else k.setVw (n == 2) r l x

/-- Run an R-format word: `op` gives the result of one lane, extended to 64 bits. All sources are read before D is written
(R8). -/
def rExec (s : State) (f : RFmt) (sh : RShape) (imm : W64) (op : Ctx → Nat → Opnds → W64) : Out :=
  withStrand s fun c =>
    if !f.regsOk sh (s.vlimit c.k) then c.illegal s
    else if f.u then
      if c.acts f.g f.gn then c.done s (c.k.setS f.d.toNat (op c c.low (f.opnds sh imm c.k c.low))) else c.skip s
    else
      c.done s ((Mask.lanes (c.active f.g f.gn)).foldl (fun k l => k.putD false sh.d f.d.toNat l (op c l (f.opnds sh imm c.k l))) c.k)

/-- Run an R-format word that writes a predicate in the lanes of Active(). -/
def pExec (s : State) (f : RFmt) (sh : RShape) (imm : W64) (dst : Nat) (op : Ctx → Nat → Opnds → Bool) : Out :=
  withStrand s fun c =>
    if !f.regsOk sh (s.vlimit c.k) then c.illegal s
    else
      let act := c.active f.g f.gn
      let m := Mask.ofLanes ((Mask.lanes act).filter fun l => op c l (f.opnds sh imm c.k l))
      c.done s (c.k.setPIn dst act m)

/-! ## M format (R274, R275) -/

/-- Bytes of an access. -/
def szBytes (sz : BitVec 3) : Nat := 2 ^ sz.toNat
/-- Registers of D for a vector access (R275). -/
def szRegs (n : Nat) : Nat := if n == 16 then 4 else if n == 8 then 2 else 1
end Sys2Proof.Machine
namespace Sys2Proof
open Machine
/-- The register checks of an M-format word whose D names `dn` registers. -/
def MFmt.regsOk (f : MFmt) (dn lim : Nat) : Bool :=
  if f.u then sregOk f.d.toNat dn && f.a.toNat < 64
  else vregOk lim f.d.toNat dn && vregOk lim f.a.toNat (if f.am == 3 then 2 else 1)
end Sys2Proof
namespace Sys2Proof.Machine

end Sys2Proof.Machine
namespace Sys2Proof
open Machine
/-- The effective address of a lane (R274). -/
def MFmt.ea (f : MFmt) (bytes : Nat) (k : Skein) (l : Nat) : W64 :=
  let x : W32 := if f.u then (k.s f.a.toNat).truncate 32 else k.v f.a.toNat l
  let base := match f.am.toNat with
    | 0 => k.s f.sb.toNat + x.signExtend 64
    | 1 => k.s f.sb.toNat + x.zeroExtend 64
    | 2 => k.s f.sb.toNat + x.zeroExtend 64 * BitVec.ofNat 64 bytes
    | _ => if f.u then k.s f.a.toNat else k.v64 f.a.toNat l
  base + f.imm.signExtend 64
end Sys2Proof
namespace Sys2Proof.Machine

/-- Bytes of the data operand of lane `l` (R275). -/
def Skein.dataBytes (k : Skein) (u : Bool) (r n l : Nat) : List Byte :=
  if u then (toBytesLE 8 (k.s r).toNat).take n
  else ((List.range 4).flatMap fun i => toBytesLE 4 (k.v (r + i) l).toNat).take n
/-- A loaded value goes to D: 8 and 16 bits zero-extended into 32, wider values into a pair or quad (R275). -/
def Skein.putBytes (k : Skein) (u : Bool) (r l : Nat) (bs : List Byte) : Skein :=
  if u then k.setS r (BitVec.ofNat 64 (ofBytesLE bs))
  else (List.range ((bs.length + 3) / 4)).foldl (fun k i => k.setV (r + i) l (BitVec.ofNat 32 (ofBytesLE ((bs.drop (4 * i)).take 4)))) k

end Sys2Proof.Machine
end

