-- ==== Sys2Proof/Machine/Fetch.lean ====
section
/-! DEFINITION. Instruction fetch: reading a word at its home, code pages and their verification, a fetch from a failed page,
stopping at safe points (R30, R163 to R165, R173, R247, R248, R286 to R290). -/

namespace Sys2Proof.Machine

/-- What a fetch of one word finds. -/
inductive Fetched where
  | word (w : W64)
  | park
  /-- unresolvable: the trap cause -/
  | bad (cause : Nat)
  /-- on a page that failed verification (R248) -/
  | failed
  /-- on a page not verified yet (R247) -/
  | unverified
  deriving DecidableEq, Repr

/-- The service core's log records the class of an unresolvable fault (R165), as the access finds it; 0 for an access to window 63 that is
not the skein's own (R107), which the table of R163 gives no class. -/
def State.logFault (s : State) (id : SkId) (k : Skein) (acc : Acc) (va : Nat) : State :=
  let j := s.jobOf k
  let cls := match (s.place j (dieOf id.core) j.asid va acc).2 with | .bad c => c | _ => 0
  s.logEvent (.fault cls j.asid va s.clock)
/-- Trap cause of an unresolvable class (R165, R173). -/
def clsCause (cls : Nat) : Nat := if cls == clsSector then 0x07 else 0x06

/-- The registered object whose code pages hold a page of a job, with the page's offset from its load VA (R289). -/
def State.codeObject? (s : State) (job page : Nat) : Option (KObj × Nat) :=
  match s.work.objects.find? fun o => o.job == job && o.loadVa / 65536 < page && page ≤ o.loadVa / 65536 + o.codePages with
  | some o => some (o, page * 65536 - o.loadVa)
  | none => none

/-- The bytes of a page, piece by piece; none where one is not present, or holds a sector that fails its check (R172, R173). -/
def State.pageBytes (s : State) (j : Job) (page : Nat) : Option (List Byte) :=
  (List.range 16).foldr (fun i acc =>
    match acc, (s.place j 0 j.asid (page * 65536 + 4096 * i) .fetch).2 with
    | some l, .at sl key =>
      if (List.range 32).any fun i => s.sectorFailed sl (key + 128 * i) then none else some (Sparse.getList 0 s.mem key 4096 ++ l)
    | some l, .zero _ => some (List.replicate 4096 0 ++ l)
    | _, _ => none) (some [])

/-- The pieces of a page that have to be resolved before it can be verified (R163). -/
def State.missingPieces (s : State) (j : Job) (page : Nat) : List Nat :=
  (List.range 16).filterMap fun i => match (s.place j 0 j.asid (page * 65536 + 4096 * i) .fetch).2 with
    | .park _ => some (page * 65536 + 4096 * i)
    | _ => none

/-- The integrity checks of the sectors of a page that is read for its verification (R172). -/
def State.pageChecks (s : State) (j : Job) (page : Nat) : State :=
  (List.range 16).foldl (fun (s : State) i => match s.place j 0 j.asid (page * 65536 + 4096 * i) .fetch with
    | (s, .at sl key) => (List.range 32).foldl (fun (s : State) n => s.checkSector sl (key + 128 * n)) s
    | (s, _) => s) s

/-- Verification of a code page against its manifest (R247, R248). A page that holds a piece not present is decided once the piece
has been resolved. -/
def State.verifyPage (s : State) (asid page : Nat) : State :=
  match s.jobOfAsid? asid with
  | none => s
  | some j =>
    if s.verified.contains (asid, page) || s.badPages.contains (asid, page) then s
    else
      let fail (s : State) : State := { s with badPages := s.badPages ++ [(asid, page)] }
      match s.codeObject? j.id page with
      | none => fail s
      | some (o, off) =>
        let s := s.pageChecks j page
        match s.pageBytes j page, Tab.get? o.digests off with
        | some bs, some d => if shake256 bs == d then { s with verified := s.verified ++ [(asid, page)] } else fail s
        | none, _ => match s.missingPieces j page with
          | [] => fail s
          | vas => vas.foldl (fun (s : State) va => s.reportFault asid va) s
        | some _, none => fail s

/-- Fetch the word at an address for a core of a die. -/
def State.fetchWord (s : State) (j : Job) (die : Nat) (va : W64) : State × Fetched :=
  match s.place j die j.asid va.toNat .fetch with
  | (s, .park _) => (s, .park)
  | (s, .bad c) => (s, .bad (clsCause c))
  | (s, .remote _) => (s, .bad 0x06)
  | (s, .zero _) =>
    if s.badPages.contains (j.asid, va.toNat / 65536) then (s, .failed)
    else if s.verified.contains (j.asid, va.toNat / 65536) then (s, .word 0)
    else (s, .unverified)
  | (s, .at sl key) =>
    if s.badPages.contains (j.asid, va.toNat / 65536) then (s, .failed)
    else if s.sectorFailed sl key || (s.softIn j.asid va.toNat 8).isSome then (s.checkSector sl key, .bad 0x07)
    else if s.verified.contains (j.asid, va.toNat / 65536) then
      (s.checkSector sl key, .word (BitVec.ofNat 64 (ofBytesLE (Sparse.getList 0 s.mem key 8))))
    else (s, .unverified)

/-- Fetch, verifying the page first where it has not been. -/
def State.fetchVerified (s : State) (j : Job) (die : Nat) (va : W64) : State × Fetched :=
  match s.fetchWord j die va with
  | (s, .unverified) => (s.verifyPage j.asid (va.toNat / 65536)).fetchWord j die va
  | r => r

/-- A skein of a cancelled group is discarded once each of its strands has stopped or exited (R30). A strand at its join PC waits
for strands that have stopped, and counts as stopped. -/
def State.discardIfSafe (s : State) (id : SkId) : State :=
  match s.skein? id with
  | none => s
  | some k =>
    let cancelled := ((s.group? k.group).map (·.cancelled)).getD false
    if cancelled && k.live.all fun (_, x) => x.atSafe || x.wait == .join then s.discardSkein id else s

/-- A strand fetches from a failed page: its launch is cancelled with cause 0x0D, and the strand issues nothing more (R248). -/
def State.fetchFailed (s : State) (id : SkId) (st : Nat) : State :=
  let s := { s with cur := none }
  match s.skein? id with
  | none => s
  | some k => match s.group? k.group with
    | none => s
    | some g =>
      let s := s.modLaunch g.launch fun l => if l.ending.isNone && l.status.isNone then { l with cause := 0x0D } else l
      let s := s.modStrand id st fun x => { x with atSafe := true }
      (s.stopLaunch g.launch stCancelled).discardIfSafe id

/-! ## Errors and traps before a word (R130, R176, R235) -/

/-- The strand that takes an error of this lane: the one that holds it, else the lowest. -/
def Skein.errHolder (k : Skein) (lane : Nat) : Option Nat :=
  let holds (x : Strand) : Bool := x.mask.getLsbD lane
  let below (x : Strand) : Bool := x.nest.any fun n => match n with | .stack e => e.full.getLsbD lane | _ => false
  let live : List (Nat × Strand) := if k.exited.getLsbD lane then [] else k.live
  ((live.find? fun y => holds y.2).orElse fun _ => (live.find? fun y => below y.2).orElse fun _ => k.live.head?).map (·.1)
/-- The first error that a strand has to take before its next word. A word that has begun, or waits, or is replayed, ends first, and a race
is trapped once its instruction has been performed. -/
def Skein.errOf (k : Skein) (st : Nat) (x : Strand) : Option PendErr :=
  if x.begun || x.replay.isSome || (match x.wait with | .none => false | .memops [] 1 => false | _ => true) then none
  else k.pendErrs.find? fun e => k.errHolder e.lane == some st && !(e.cause == 0x08 && k.live.any (·.2.part == some e.name))
def Skein.errFor (k : Skein) (st : Nat) (x : Strand) : Option PendErr := if k.trap.isSome || k.stopped then none else k.errOf st x
/-- Its trap and word: the next word is the frame PC and has no effect. -/
def State.errTrap (s : State) (id : SkId) (st : Nat) (k : Skein) (x : Strand) (e : PendErr) : TrapInfo × W64 :=
  let next := e.cause == 0x08 || e.cause == 0x0B
  (⟨e.cause, x.pc, 0, e.fva, 0, next, st⟩, if next then 0 else (s.peekCode id k x.pc).getD 0)
def State.takeErr (s : State) (id : SkId) (st : Nat) (k : Skein) (x : Strand) (e : PendErr) : State :=
  let (t, iw) := s.errTrap id st k x e
  (s.setSkein id { k with pendErrs := k.pendErrs.erase e }).takeTrap id t iw
/-- The errors that strands `sts` of a skein have to take now become traps held pending, with their frames' contents (R235). -/
def State.holdErrsOf (s : State) (id : SkId) (sts : List Nat) : State :=
  sts.foldl (fun s i => match s.skein? id with
    | none => s
    | some k => match k.strand? i with
      | none => s
      | some x => match k.errOf i x, s.unperformed id i with
        | some e, [] =>
          let (t, iw) := s.errTrap id i k x e
          (s.setSkein id { k with pendErrs := k.pendErrs.erase e }).holdTrap id t (s.frameBytes k x t iw)
        | _, _ => s) s
/-- In trap mode, and while the debugger stops the skein, an error of a strand outside trap mode is held pending as a trap (R176, R235). -/
def State.holdErrs (s : State) : State :=
  if s.skeins.all fun ((_, k) : SkId × Skein) => (k.trap.isNone && !k.stopped) || k.pendErrs.isEmpty then s
  else s.skeins.foldl (fun (s : State) ((id, k) : SkId × Skein) =>
    if k.trap.isNone && !k.stopped then s
    else s.holdErrsOf id ((k.live.map (·.1)).filter fun i => (k.trapOf i).isNone)) s
/-- A trap held pending is entered before any strand issues (R235). -/
def State.enterPending (s : State) (id : SkId) (k : Skein) (t : TrapInfo) (bs : List Byte) (r : List (TrapInfo × List Byte)) : State :=
  ({ s with cur := none }.setSkein id { k with pendTraps := r }).enterTrap id t bs

/-! ## RTE's checks (R239) -/

/-- Outcome of RTE's own reads and checks. -/
inductive RteCheck where
  | ok (f : FrameIn)
  | park (vas : List W64)
  /-- the frame's PC lies on a page that failed verification -/
  | failed
  | bad

/-- RTE's reads and checks of the frame (R239): readable; D in the allocation; f.PC in place, and its word fetched and verified. -/
def State.rteCheck (s : State) (id : SkId) (k : Skein) (t : TrapMode) : State × RteCheck :=
  let j := s.jobOf k
  let die := dieOf id.core
  let s := s.privCheck j die k.trapFrame.toNat 0x500
  match (s.place j die j.asid k.trapFrame.toNat .read).2, s.privRead j die k.trapFrame.toNat 0x500 with
  | .park _, _ => (s, .park [k.trapFrame])
  | _, none => (s, .bad)
  | _, some bs =>
    let f := frameIn bs
    let placed := f.pc.toNat % 8 == 0 && f.pc.toNat / 2 ^ 57 == 0
    if !placed || (f.rvalid != 0 && (decR f.iw).d.toNat ≥ s.vlimit k) then (s, .bad)
    else match s.fetchVerified j die f.pc with
      | (s, .word w) => (s, if f.pc == t.entryPc || f.pc == t.entryPc + 8 || isHeader w then .ok f else .bad)
      | (s, .park) => (s, .park [f.pc])
      | (s, .unverified) => (s, .park ((s.missingPieces j (f.pc.toNat / 65536)).map (BitVec.ofNat 64)))
      | (s, .failed) => (s, .failed)
      | (s, .bad c) => (if c == 0x06 then s.logFault id k .fetch f.pc.toNat else s, .bad)
/-- RTE in trap mode (R239): a failed check of its own is a double trap; `pc` is the PC of the RTE. An error that the strand met in trap
mode is held pending from now on: its trap is entered before any strand issues (R176, R235). -/
def State.rte (s : State) (id : SkId) (st : Nat) (k : Skein) (t : TrapMode) (pc : W64) : State :=
  match s.rteCheck id k t with
  | (s, .bad) => s.doubleTrap id t.cause pc 0
  | (s, .park vas) => s.parkSkein id st 0xFFFFFFFF 0xFFFFFFFF (.fault vas)
  | (s, .failed) => s.fetchFailed id st
  | (s, .ok f) => (({ s with cur := none }.modSkein id fun k => k.restoreFrame t f).settle id).holdErrsOf id [st]

/-- The check of a list of branch targets, in ascending lane order (R310). -/
inductive Targets where
  | ok
  | trap (cause : Nat) (va : W64)
  | park (vas : List W64)
  | failed
  deriving DecidableEq, Repr

/-- What one target meets. In trap mode (`lib`) the firmware library is a target (R240). -/
def State.target (s : State) (j : Job) (die : Nat) (lib : Bool) (t : W64) : State × Targets :=
  if t.toNat % 8 != 0 || t.toNat / 2 ^ 57 != 0 then (s, .trap 0x03 t)
  else match s.fetchVerified j die t with
    | (s, .word w) => (s, if isHeader w then .ok else .trap 0x03 t)
    | (s, .park) | (s, .unverified) => (s, .park [t])
    | (s, .bad c) => (s, if lib && t == Config.libVa then .ok else .trap c t)
    | (s, .failed) => (s, .failed)
/-- The targets together, in the order in which R310 lists the checks: 0x03 over all of them first, then another trap, which as in R165
goes before a park; then a page that failed verification, then a park. -/
def joinTargets (rs : List Targets) : Targets :=
  let is (p : Targets → Bool) : Option Targets := rs.find? p
  let park := rs.flatMap fun r => match r with | .park vs => vs | _ => []
  ((is fun r => match r with | .trap 0x03 _ => true | _ => false).orElse fun _ =>
    (is fun r => match r with | .trap _ _ => true | _ => false).orElse fun _ => is (· == .failed)).getD
      (if park.isEmpty then .ok else .park park)
def State.targets (s : State) (j : Job) (die : Nat) (lib : Bool) (ts : List W64) : State × Targets :=
  let (s, rs) := ts.foldl (fun ((s, rs) : State × List Targets) t => let (s, r) := s.target j die lib t; (s, rs ++ [r])) (s, [])
  (s, joinTargets rs)

end Sys2Proof.Machine
end

