-- ==== Sys2Proof/Machine/Packet.lean ====
section
/-! DEFINITION. Packets of the Yunal fabric: layout, routing, flits, end-to-end numbering (R213 to R221). -/

namespace Sys2Proof.Machine

/-! ## CRC-32C (R216): polynomial 0x1EDC6F41, reflected, as in RFC 3720 -/

def crcBit (c : W32) : W32 := if c.getLsbD 0 then (c >>> 1) ^^^ 0x82F63B78 else c >>> 1
def crcByte (c : W32) (b : Byte) : W32 :=
  crcBit (crcBit (crcBit (crcBit (crcBit (crcBit (crcBit (crcBit (c ^^^ b.zeroExtend 32))))))))
def crc32c (bs : List Byte) : W32 := (bs.foldl crcByte 0xFFFFFFFF) ^^^ 0xFFFFFFFF

/-- Bytes 0x38 to 0x3B of a flit. -/
def flitTrailer (seq vc : Nat) (rsp : Bool) (ack ctl : Nat) : List Byte :=
  toBytesLE 2 (seq % 4096 + vc % 8 * 4096 + (if rsp then 32768 else 0)) ++ toBytesLE 2 (ack % 4096 + ctl % 16 * 4096)
def flitCrc (payload : List Byte) (trailer : List Byte) : W32 := crc32c (payload ++ trailer)
def mkFlit (payload : List Byte) (seq vc : Nat) (rsp : Bool) (ack ctl : Nat) : Flit :=
  ⟨payload, seq, vc, rsp, ack, ctl, flitCrc payload (flitTrailer seq vc rsp ack ctl)⟩

/-! ## Packet layout (R217, R220) -/

def padTo (n : Nat) (bs : List Byte) : List Byte := bs ++ List.replicate (n - bs.length) 0
/-- Cut bytes into flits of 56. -/
def toFlits : Nat → List Byte → List (List Byte)
  | 0, _ => []
  | n + 1, bs => if bs.isEmpty then [] else padTo 56 (bs.take 56) :: toFlits n (bs.drop 56)
def flitsOf (bs : List Byte) : List (List Byte) := toFlits (bs.length / 56 + 1) bs

/-- The first 16 bytes of a header flit; ESEQ is filled when the packet is sent. -/
def packetHead (dst spkg kind count agent asid opsz flags : Nat) : List Byte :=
  toBytesLE 2 dst ++ toBytesLE 2 spkg ++ toBytesLE 1 kind ++ toBytesLE 1 count ++ toBytesLE 2 0 ++ toBytesLE 4 agent
    ++ toBytesLE 2 asid ++ toBytesLE 1 opsz ++ toBytesLE 1 flags
/-- A packet whose header flit goes on with `rest` and whose other flits carry `body`. -/
def mkPacket (dst spkg kind count agent asid opsz flags : Nat) (rest body : List Byte) : Packet :=
  padTo 56 (packetHead dst spkg kind count agent asid opsz flags ++ rest) :: flitsOf body
/-- A vector packet: page and offsets in lane order, then data (R217). -/
def vectorPacket (dst spkg kind agent asid opsz flags page : Nat) (offs : List Nat) (data : List Byte) : Packet :=
  let o16 := (offs.take 16).flatMap (toBytesLE 2 ·)
  let head := padTo 56 (packetHead dst spkg kind offs.length agent asid opsz flags ++ toBytesLE 8 page ++ o16)
  let more := if offs.length > 16 then [padTo 56 ((offs.drop 16).flatMap (toBytesLE 2 ·))] else []
  head :: more ++ flitsOf data

/-- A little-endian field of a packet's header flit. -/
def pfield (p : Packet) (off n : Nat) : Nat := ofBytesLE (((p.headD []).drop off).take n)
def Packet.dst (p : Packet) : Nat := pfield p 0x00 2
def Packet.src (p : Packet) : Nat := pfield p 0x02 2
def Packet.kind (p : Packet) : Nat := pfield p 0x04 1
def Packet.count (p : Packet) : Nat := pfield p 0x05 1
def Packet.eseq (p : Packet) : Nat := pfield p 0x06 2
def Packet.agent (p : Packet) : Nat := pfield p 0x08 4
def Packet.asid (p : Packet) : Nat := pfield p 0x0C 2
def Packet.opsz (p : Packet) : Nat := pfield p 0x0E 1
def Packet.flags (p : Packet) : Nat := pfield p 0x0F 1
/-- Offsets of a vector packet, in lane order. -/
def Packet.offsets (p : Packet) : List Nat :=
  let n := p.count
  let a := (List.range (min n 16)).map fun i => pfield p (0x18 + 2 * i) 2
  let b := (List.range (n - 16)).map fun i => ofBytesLE (((p.getD 1 []).drop (2 * i)).take 2)
  a ++ b
/-- Bytes of the data flits. -/
def Packet.body (p : Packet) : List Byte :=
  let skip := if [1, 2, 3].contains p.kind && p.count > 16 then 2 else 1
  (p.drop skip).flatten
/-- How many flits a packet has, from its header flit (R217, R220); 1 for a management packet. A reply echoes its request's SZ
where it carries bytes, and has SZ code 7 where it carries none; every REGACK is followed by its byte mask and sector, the mask 0 where
it carries no bytes (log 18). -/
def packetFlits (h : List Byte) : Nat :=
  let f (o n : Nat) : Nat := ofBytesLE ((h.drop o).take n)
  let sz := 2 ^ (f 0x0E 1 % 8)
  let op := f 0x0E 1 / 8
  let n := f 0x05 1
  let up (b : Nat) : Nat := (b + 55) / 56
  let offFlit := if n > 16 then 1 else 0
  match f 0x04 1 with
  | 1 => 1 + offFlit
  | 2 => 1 + offFlit + up (n * sz)
  | 3 => 1 + offFlit + up (n * sz * (if op == 9 then 2 else 1))
  | 4 => 1 + up (if f 0x0E 1 % 8 == 7 then 0 else Mask.count (BitVec.ofNat 32 (f 0x1C 4)) * sz)
  | 6 => 1 + up (f 0x18 4)
  | 7 => let c := f 0x1C 1; if [6, 8, 9, 11].contains c then 4 else 1
  | 9 => 1 + up (f 0x20 4)
  | _ => 1
/-- Replies, NACKs, acknowledgements (REGACK and SEALACK among them) and DATA are of the response class (R215). -/
def isResponse (p : Packet) : Bool :=
  p.kind == 4 || p.kind == 5 || p.kind == 0x0B || (p.kind == 7 && [8, 9, 10, 11].contains (pfield p 0x1C 1))
def setEseq (p : Packet) (e : Nat) : Packet :=
  match p with
  | [] => []
  | h :: r => (h.take 6 ++ toBytesLE 2 e ++ h.drop 8) :: r

/-! ## Routing (R214) -/

/-- Slots of a route entry: port and weight. -/
def routeSlots (e : W64) : List (Nat × Nat) :=
  [0, 1, 2, 3].map fun i => (bitsNat e.toNat (10 * i + 5) (10 * i), bitsNat e.toNat (10 * i + 9) (10 * i + 6))
/-- The sequence of ports that the usable slots give. -/
def State.portSequence (s : State) (dst : Nat) : List Nat :=
  (routeSlots (Tab.getD s.fab.routes dst 0)).flatMap fun (p, w) => if p < 48 && (s.port p).up then List.replicate w p else []
/-- The port for a packet, advancing the entry's counter; none where the destination is unreachable. -/
def State.route (s : State) (dst : Nat) : State × Option Nat :=
  let seq := s.portSequence dst
  if seq.isEmpty then (s, none)
  else
    let c := Tab.getD s.fab.counters dst 0 % seq.length
    (s.modFab fun f => { f with counters := Tab.set f.counters dst ((c + 1) % seq.length) }, seq[c]?)

/-! ## Ports (R215, R216, R225) -/

/-- Class of a flit on a port: 2·VC + RSP. -/
def flitClass (vc : Nat) (rsp : Bool) : Nat := 2 * vc + (if rsp then 1 else 0)
/-- Classes in the order a port sends them: VC 6, then responses, then requests, the higher VC first (R215). -/
def classOrder : List Nat := [13, 12, 11, 9, 7, 5, 3, 1, 10, 8, 6, 4, 2, 0]
/-- The input of a packet that the package itself sends, and the mark of a packet whose first flit has gone. -/
def ownInput : Nat := 48
def begun : Nat := 49
/-- The packet that a class sends from: the one begun, else that of the next input round robin (R215; log 94). -/
def Port.nextPacket (p : Port) (c : Nat) : Option (Nat × Nat × List (List Byte)) :=
  let last := Tab.getD p.turn c ownInput
  let of (i : Nat) : Option (Nat × Nat × List (List Byte)) := p.txq.find? fun x => x.1 == c && x.2.1 == i
  match of begun with
  | some x => some x
  | none => ((List.range 49).map fun d => (last + 1 + d) % 49).findSome? of
/-- Put the next flit that has a credit on the wire; it enters the retry buffer of 512. -/
def Port.sendOne (p : Port) : Option Port :=
  if !p.up || p.retraining.isSome then none
  else
    match classOrder.find? fun c => p.txq.any (·.1 == c) && Tab.getD p.credits c 0 > 0 with
    | none => none
    | some c =>
      match p.nextPacket c with
      | some (c, i, bs :: rest) =>
        let f := mkFlit bs p.txSeq (c / 2) (c % 2 == 1) 0 0
        some { p with txq := (if rest.isEmpty then [] else [(c, begun, rest)]) ++ p.txq.erase (c, i, bs :: rest)
                      turn := if i == begun then p.turn else Tab.set p.turn c i
                      credits := Tab.set p.credits c (Tab.getD p.credits c 0 - 1)
                      txSeq := (p.txSeq + 1) % 4096, wire := p.wire ++ [f]
                      buf := (p.buf ++ [f]).drop (p.buf.length + 1 - 512) }
      | _ => none
/-- Send what the credits allow. -/
def Port.pump (p : Port) : Nat → Port
  | 0 => p
  | n + 1 => match p.sendOne with
    | some q => q.pump n
    | none => p
def Port.pumpAll (p : Port) : Port := p.pump (p.txq.map fun x => x.2.2.length).sum
/-- A control flit: ACK, NAK or credit update of a class (R215, R216); it takes no sequence number of its own. -/
def Port.control (p : Port) (ctl ack vc : Nat) (rsp : Bool := false) : Port :=
  { p with wire := p.wire ++ [mkFlit (List.replicate 56 0) p.txSeq vc rsp ack ctl] }
/-- Queue a packet on a port, from the input it came by. -/
def State.enqueue (s : State) (port vc : Nat) (rsp : Bool) (p : Packet) (input : Nat := ownInput) : State :=
  s.modPort port fun q => { q with txq := q.txq ++ [(flitClass vc rsp, input, p)] }.pumpAll

/-! ## End-to-end numbering (R219) -/

def unackedTo (s : State) (dst : Nat) : Nat := (s.fab.unacked.filter (·.dst == dst)).length
/-- Send one numbered packet on its first link; one with no route stays unacknowledged and is sent again (R214, R219). -/
def State.transmit (s : State) (dst : Nat) (rsp : Bool) (p : Packet) : State :=
  match s.route dst with
  | (s, some port) => s.enqueue port 0 rsp p
  | (s, none) => s
/-- The time of a request's packet counts from the moment it is sent (R224). -/
def State.stampSent (s : State) (dst eseq : Nat) : State :=
  let s := s.modFab fun f => { f with remotes := f.remotes.map fun (r : Remote) => { r with
    pkts := r.pkts.map fun (x : RemPkt) => if x.dst == dst && x.eseq == eseq && x.outcome == 0 then { x with sentAt := s.clock } else x } }
  { s with ops := s.ops.map fun (o : EngOp) => { o with
    remote := o.remote.map fun (q, e, t, u) => (q, e, if q == dst && e == eseq then s.clock else t, u) } }
/-- Is a packet of this number still held back (R219)? -/
def State.unsent (s : State) (dst eseq : Nat) : Bool :=
  (eseq + 65536 - Tab.getD s.fab.txEseq dst 0) % 65536 < (s.fab.waiting.filter (·.1 == dst)).length
/-- Give a packet its ESEQ and send it; with 1024 unacknowledged it waits. -/
def State.sendPacket (s : State) (dst : Nat) (p : Packet) : State :=
  let rsp := isResponse p
  if unackedTo s dst ≥ 1024 then s.modFab fun f => { f with waiting := f.waiting ++ [(dst, rsp, p)] }
  else
    let e := Tab.getD s.fab.txEseq dst 0
    let p := setEseq p e
    let s := s.modFab fun f => { f with txEseq := Tab.set f.txEseq dst ((e + 1) % 65536)
                                        unacked := f.unacked ++ [⟨dst, e, s.clock, p, rsp⟩] }
    s.transmit dst rsp p
/-- The ESEQ that the next packet to a destination will carry. -/
def State.nextEseq (s : State) (dst : Nat) : Nat :=
  (Tab.getD s.fab.txEseq dst 0 + (s.fab.waiting.filter (·.1 == dst)).length) % 65536
/-- Packets that waited for acknowledgements go on. -/
def State.sendWaiting (s : State) (dst : Nat) : Nat → State
  | 0 => s
  | n + 1 =>
    if unackedTo s dst ≥ 1024 then s
    else match s.fab.waiting.find? (·.1 == dst) with
      | none => s
      | some (_, _, p) =>
        let s := (s.modFab fun f => { f with waiting := f.waiting.eraseP (·.1 == dst) }).stampSent dst (Tab.getD s.fab.txEseq dst 0)
        (s.sendPacket dst p).sendWaiting dst n
/-- Can a packet leave for a destination at all (R214)? -/
def State.reachable (s : State) (dst : Nat) : Bool := !(s.portSequence dst).isEmpty

end Sys2Proof.Machine
end

