-- ==== Sys2Proof/Machine/Flags.lean ====
section
/-! DEFINITION. What the flags of a word do: negation and saturation (R272), comparison codes (R295), carry, class bits (R331),
and the stochastic-rounding streams (R94). -/

namespace Sys2Proof.Machine


end Sys2Proof.Machine
namespace Sys2Proof
open Machine Arith
def RFmt.sat (f : RFmt) : Bool := f.f.getLsbD 3
def RFmt.negA (f : RFmt) : Bool := f.f.getLsbD 2
def RFmt.negB (f : RFmt) : Bool := f.f.getLsbD 1
def RFmt.flag0 (f : RFmt) : Bool := f.f.getLsbD 0
def RFmt.mode (f : RFmt) : Mode := modeOf f.m.toNat
end Sys2Proof
namespace Sys2Proof.Machine
open Arith

/-- ICMP's codes (R295). -/
def cmpInt (code : Nat) (a b : Int) : Bool :=
  match code with
  | 0 => a == b
  | 1 => a != b
  | 2 => a < b
  | 3 => a ≤ b
  | 4 => a > b
  | _ => a ≥ b
/-- FCMP's codes (R295). -/
def cmpFloat (code : Nat) (a b : FVal) : Bool :=
  let nan := a.isNan || b.isNan
  match code with
  | 0 => !nan && eqVal a b
  | 1 => nan || !eqVal a b
  | 2 => !nan && ltVal a b
  | 3 => !nan && !ltVal b a
  | 4 => !nan && ltVal b a
  | 5 => !nan && !ltVal a b
  | 6 => !nan
  | _ => nan

/-- Carry out of IADDC (R345). -/
def carryOut (w : Nat) (r : Nat) : Bool := r ≥ 2 ^ w

/-- FCLASS's one bit (R331). -/
def classBit (t x : Nat) : Nat :=
  let f := fmtOf t
  match valueOf t x with
  | .nan => 256
  | .inf true => 1
  | .inf false => 128
  | .fin neg 0 _ => if neg then 8 else 16
  | .fin neg m _ => if m < 2 ^ f.mb then (if neg then 4 else 32) else (if neg then 2 else 64)

/-- A floating-point operand's value under negation (R272). -/
def fopnd (t : Nat) (neg : Bool) (x : W64) : FVal := (valueOf t (x.toNat % 2 ^ tBits t)).negIf neg
/-- A floating-point operand's bits under negation: the sign flips, a NaN stays NaN. -/
def fbits (t : Nat) (neg : Bool) (x : W64) : Nat :=
  let b := x.toNat % 2 ^ tBits t
  let sign := 2 ^ (tBits t - 1)
  if neg then (if b ≥ sign then b - sign else b + sign) else b
/-- An integer operand under negation (R342). -/
def iopnd (t : Nat) (neg : Bool) (x : W64) : Int := negInt t neg (intOf t x)

/-- A result of a floating-point type as a register holds it (R84, R266). -/
def fres (x : Nat) : W64 := BitVec.ofNat 64 x

/-! ## Streams (R94) -/

def Skein.stream (k : Skein) (l : Nat) : W32 := k.streams.getD l 1
/-- The current state of a lane, and the skein with it advanced. -/
def Skein.drawStream (k : Skein) (l : Nat) : Skein × Nat :=
  ({ k with streams := setAt 1 k.streams l (advanceStream (k.stream l)) }, (k.stream l).toNat)
/-- Seeding of every lane (R94). -/
def Skein.reseed (k : Skein) (seed : W32) : Skein :=
  { k with seed := seed, streams := lanes32.map fun l => seedLane seed l }

end Sys2Proof.Machine
end

