-- ==== Sys2Proof/Machine/Bitwise.lean ====
section
/-! DEFINITION. Bitwise words, shifts, bit fields and counts (R301, R307, R309, R335, R357, R365, R371, R373, R378, R394). -/

namespace Sys2Proof.Machine
open Arith

/-- The low w bits of a value, zero-extended or by the signedness of T (R84, R266). -/
def fitBits (t : Nat) (x : Nat) : W64 := fitInt t false (x : Int)

/-- A two-operand bitwise word (R301). -/
def bitBinary (s : State) (f : RFmt) (g : W64 → W64 → W64) : Out :=
  let n := pairOf f.t
  rExec s f ⟨n, n, n, 0⟩ f.immI fun _ _ o => fitBits f.t.toNat (g o.a o.b).toNat

/-- AND (R301). -/
def execAnd (f : RFmt) (s : State) : Out := bitBinary s f fun a b => a &&& b
/-- ANDN (R301). -/
def execAndn (f : RFmt) (s : State) : Out := bitBinary s f fun a b => a &&& ~~~b
/-- OR (R365). -/
def execOr (f : RFmt) (s : State) : Out := bitBinary s f fun a b => a ||| b
/-- XOR (R394). -/
def execXor (f : RFmt) (s : State) : Out := bitBinary s f fun a b => a ^^^ b
/-- NOT (R365). -/
def execNot (f : RFmt) (s : State) : Out :=
  let n := pairOf f.t
  rExec s f ⟨n, n, 0, 0⟩ 0 fun _ _ o => fitBits f.t.toNat (~~~o.a).toNat

/-- A truth table applied to each bit: a is the lowest index bit (R357). -/
def mixBits (tt : Nat) (a b c : W64) : W64 :=
  (List.range 8).foldl (fun acc i =>
    if tt / 2 ^ i % 2 == 1 then
      acc ||| ((if i % 2 == 1 then a else ~~~a) &&& (if i / 2 % 2 == 1 then b else ~~~b) &&& (if i / 4 == 1 then c else ~~~c))
    else acc) 0
/-- The table of LMIX and PLOP: T ‖ F. -/
def truthTable (f : RFmt) : Nat := f.t.toNat * 16 + f.f.toNat
/-- LMIX (R357). -/
def execLmix (f : RFmt) (s : State) : Out :=
  rExec s f ⟨1, 1, 1, 1⟩ f.immI fun _ _ o => mixBits (truthTable f) o.a o.b o.c

/-- A shift: the count is read as U32, B being a single register even for 64-bit types (R378). -/
def shiftWord (s : State) (f : RFmt) (g : Nat → Int → Nat → Nat → Nat) : Out :=
  let n := pairOf f.t
  let w := tBits f.t.toNat
  rExec s f ⟨n, n, 1, 0⟩ f.immI fun _ _ o =>
    let a := o.a.toNat % 2 ^ w
    fitBits f.t.toNat (g a (sextInt w a) (o.b.toNat % 2 ^ 32) w)
/-- SHL (R378). -/
def execShl (f : RFmt) (s : State) : Out := shiftWord s f fun a _ n w => if n ≥ w then 0 else a * 2 ^ n
/-- SHR (R378). -/
def execShr (f : RFmt) (s : State) : Out := shiftWord s f fun a _ n w => if n ≥ w then 0 else a / 2 ^ n
/-- SAR (R378). -/
def execSar (f : RFmt) (s : State) : Out := shiftWord s f fun _ a n w => wrapNat w (a / (2 ^ min n (w - 1) : Nat))
/-- ROT (R378). -/
def execRot (f : RFmt) (s : State) : Out := shiftWord s f fun a _ n w => a * 2 ^ (n % w) + a / 2 ^ (w - n % w)
/-- FSHL (R335). -/
def execFshl (f : RFmt) (s : State) : Out :=
  let n := pairOf f.t
  let w := tBits f.t.toNat
  rExec s f ⟨n, n, 1, n⟩ f.immI fun _ _ o =>
    let k := o.b.toNat % w
    fitBits f.t.toNat (((o.a.toNat % 2 ^ w) * 2 ^ w + o.c.toNat % 2 ^ w) * 2 ^ k / 2 ^ w)

/-- Position and length of a bit-field control operand, clamped to the width (R307). -/
def fieldPos (w : Nat) (ctl : W64) : Nat := min (ctl.toNat % 256) w
def fieldLen (w : Nat) (ctl : W64) : Nat := min (ctl.toNat / 256 % 256) (w - fieldPos w ctl)
/-- BFE (R307). -/
def execBfe (f : RFmt) (s : State) : Out :=
  let n := pairOf f.t
  let w := tBits f.t.toNat
  rExec s f ⟨n, n, n, 0⟩ 0 fun _ _ o =>
    let len := fieldLen w o.b
    let x := (o.a.toNat % 2 ^ w) / 2 ^ fieldPos w o.b % 2 ^ len
    if tSigned f.t.toNat && len > 0 then fitInt f.t.toNat false (sextInt len x) else fitBits f.t.toNat x
/-- BFI (R307). -/
def execBfi (f : RFmt) (s : State) : Out :=
  let n := pairOf f.t
  let w := tBits f.t.toNat
  rExec s f ⟨n, n, n, n⟩ 0 fun _ _ o =>
    let pos := fieldPos w o.b
    let m := BitVec.ofNat 64 ((2 ^ fieldLen w o.b - 1) * 2 ^ pos)
    fitBits f.t.toNat ((o.a &&& ~~~m) ||| ((o.c <<< pos) &&& m)).toNat

/-- Set bits of a value (R371). -/
def popCount : Nat → Nat → Nat
  | 0, _ => 0
  | n + 1, x => x % 2 + popCount n (x / 2)
/-- The low `n` bits of a value in reverse (R309). -/
def reverseBits : Nat → Nat → Nat
  | 0, _ => 0
  | n + 1, x => (x % 2) * 2 ^ n + reverseBits n (x / 2)
/-- Leading zeros in w bits (R309). -/
def leadingZeros (w x : Nat) : Nat := if x == 0 then w else w - 1 - Nat.log2 x
/-- POPC (R371): D is a single register. -/
def execPopc (f : RFmt) (s : State) : Out :=
  let w := tBits f.t.toNat
  rExec s f ⟨1, pairOf f.t, 0, 0⟩ 0 fun _ _ o => BitVec.ofNat 64 (popCount w (o.a.toNat % 2 ^ w))
/-- CLZ (R309): D is a single register. -/
def execClz (f : RFmt) (s : State) : Out :=
  let w := tBits f.t.toNat
  rExec s f ⟨1, pairOf f.t, 0, 0⟩ 0 fun _ _ o => BitVec.ofNat 64 (leadingZeros w (o.a.toNat % 2 ^ w))
/-- BREV (R309). -/
def execBrev (f : RFmt) (s : State) : Out :=
  let n := pairOf f.t
  let w := tBits f.t.toNat
  rExec s f ⟨n, n, 0, 0⟩ 0 fun _ _ o => fitBits f.t.toNat (reverseBits w (o.a.toNat % 2 ^ w))

/-- One result byte of RBYTE (R373). -/
def byteSel (pool sel : Nat) : Nat :=
  let x := pool / 2 ^ (8 * (sel % 8)) % 256
  match sel / 8 % 4 with
  | 0 => x
  | 1 => 0
  | 2 => if x ≥ 128 then 255 else 0
  | _ => 255 - x
/-- RBYTE (R373). -/
def execRbyte (f : RFmt) (s : State) : Out :=
  rExec s f ⟨1, 1, 1, 1⟩ f.immI fun _ _ o =>
    let pool := (o.c.toNat % 2 ^ 32) * 2 ^ 32 + o.a.toNat % 2 ^ 32
    BitVec.ofNat 64 (ofBytesLE ((List.range 4).map fun i => BitVec.ofNat 8 (byteSel pool (o.b.toNat / 2 ^ (8 * i) % 256))))

end Sys2Proof.Machine
end

