-- ==== Sys2Proof/Machine/Select.lean ====
section
/-! DEFINITION. Comparison, selection, moves, predicates (R295, R305, R346, R356, R359, R360, R369, R370, R380, R390). -/

namespace Sys2Proof.Machine
open Arith

/-- ICMP (R295, R346). -/
def execIcmp (f : RFmt) (s : State) : Out :=
  let n := pairOf f.t
  pExec s f ⟨0, n, n, 0⟩ f.immI (f.d.toNat % 8) fun _ _ o =>
    cmpInt f.m.toNat (intOf f.t.toNat o.a) (intOf f.t.toNat o.b)
/-- What a register holds of a value of type T moved unchanged, with the uniform form's extension (R266). -/
def moveBits (t : Nat) (x : W64) : W64 :=
  if [8, 14].contains t then BitVec.ofNat 64 (x.toNat % 2 ^ tBits t) else fitBits t x.toNat
/-- SEL (R380): the uniform form reads the predicate in the lowest active lane. -/
def execSel (f : RFmt) (s : State) : Out :=
  let n := pairOf f.t
  let t := f.t.toNat
  rExec s f ⟨n, n, n, 0⟩ (if [8, 14].contains t then f.immF t else f.immI) fun c l o =>
    moveBits t (if (c.k.p (f.c.toNat % 8)).getLsbD l != f.flag0 then o.a else o.b)
/-- MOV (R359). -/
def execMov (f : RFmt) (s : State) : Out :=
  let n := pairOf f.t
  rExec s f ⟨n, 0, n, 0⟩ f.immI fun _ _ o => moveBits f.t.toNat o.b
/-- LEA (R356): the base and D are 64-bit; T says how the index is read, an immediate always as 64 bits. -/
def execLea (f : RFmt) (s : State) : Out :=
  rExec s f ⟨2, 2, pairOf f.t, 0⟩ f.immI fun _ _ o =>
    let i : W64 := if f.bk == 2 then o.b else BitVec.ofInt 64 (intOf f.t.toNat o.b)
    o.a + i <<< f.c.toNat
/-- The value MOVI loads (R360). -/
def moviVal (t : Nat) (imm : W32) : W64 :=
  if t == 14 then fres (roundT 14 .rne false (valueOf 8 imm.toNat))
  else if t == 1 || t == 7 then imm.signExtend 64 else imm.zeroExtend 64
/-- MOVI (R360). -/
def execMovi (f : WFmt) (s : State) : Out :=
  let n := pairOf f.t
  withStrand s fun c =>
    if !(if f.u then sregOk f.d.toNat n else vregOk (s.vlimit c.k) f.d.toNat n) then c.illegal s
    else
      let x := moviVal f.t.toNat f.imm
      if f.u then (if c.acts f.g f.gn then c.done s (c.k.setS f.d.toNat x) else c.skip s)
      else c.done s ((Mask.lanes (c.active f.g f.gn)).foldl (fun k l => k.setVw (n == 2) f.d.toNat l x) c.k)

/-- PLOP (R369): pA is the highest index bit. -/
def execPlop (f : RFmt) (s : State) : Out :=
  pExec s f ⟨0, 0, 0, 0⟩ 0 (f.d.toNat % 8) fun c l _ =>
    let b (r : Nat) : Nat := if (c.k.p r).getLsbD l then 1 else 0
    truthTable f / 2 ^ (4 * b f.a.toNat + 2 * b f.b.toNat + b f.c.toNat) % 2 == 1
/-- The predicates of a lane as bits (R370). -/
def predBits (k : Skein) (l : Nat) : Nat := (List.range 7).foldl (fun n i => if (k.p i).getLsbD l then n + 2 ^ i else n) 0
/-- PMOV (R370). -/
def execPmov (f : RFmt) (s : State) : Out :=
  if f.flag0 then
    withStrand s fun c =>
      if !vregOk (s.vlimit c.k) f.a.toNat 1 then c.illegal s
      else
        let act := c.active f.g f.gn
        c.done s ((List.range 7).foldl (fun k i =>
          if f.c.getLsbD i then k.setPIn i act (Mask.ofLanes ((Mask.lanes act).filter fun l => (c.k.v f.a.toNat l).getLsbD i)) else k) c.k)
  else rExec s f ⟨1, 0, 0, 0⟩ 0 fun c l _ => BitVec.ofNat 64 (predBits c.k l)

/-- The lanes of a lane's own half under H16, else all of them (R79). -/
def halfMask (h16 : Bool) (l : Nat) : Mask := if !h16 then 0xFFFFFFFF else if l < 16 then 0xFFFF else 0xFFFF0000
/-- A mask as a lane of a half sees it: its own half's bits in [15:0] (R79). -/
def halfBits (h16 : Bool) (l : Nat) (m : Mask) : Mask := if !h16 then m else if l < 16 then m &&& 0xFFFF else m >>> 16
/-- The lanes of a mask where a predicate holds, inverted by F[2]. -/
def testMask (f : RFmt) (k : Skein) (m : Mask) : Mask :=
  m &&& (if f.negA then ~~~ (k.p (f.a.toNat % 8)) else k.p (f.a.toNat % 8))
/-- BALLOT (R305). -/
def execBallot (f : RFmt) (s : State) : Out :=
  withStrand s fun c =>
    if !f.regsOk ⟨1, 0, 0, 0⟩ (s.vlimit c.k) then c.illegal s
    else if f.u then
      if c.acts f.g f.gn then c.done s (c.k.setS f.d.toNat ((testMask f c.k c.x.mask).zeroExtend 64)) else c.skip s
    else
      let act := c.active f.g f.gn
      let m := testMask f c.k act
      c.done s ((Mask.lanes act).foldl (fun k l => k.setV f.d.toNat l (halfBits (s.h16 c.k) l m)) c.k)
/-- VCHK's modes over a set of lanes, given those where the predicate holds (R390). -/
def vchkMode (mode : Nat) (src q : Mask) : Bool :=
  match mode with
  | 0 => q == src
  | 1 => q != 0
  | 2 => q == src || q == 0
  | _ => q == 0
/-- VCHK (R390). -/
def execVchk (f : RFmt) (s : State) : Out :=
  withStrand s fun c =>
    if f.u && f.d.toNat ≥ 64 then c.illegal s
    else if f.u then
      if c.acts f.g f.gn then
        c.done s (c.k.setS f.d.toNat (if vchkMode f.c.toNat c.x.mask (testMask f c.k c.x.mask) then 1 else 0))
      else c.skip s
    else
      let act := c.active f.g f.gn
      let r (l : Nat) : Bool :=
        let src := act &&& halfMask (s.h16 c.k) l
        vchkMode f.c.toNat src (testMask f c.k src)
      c.done s (c.k.setPIn (f.d.toNat % 8) act (Mask.ofLanes ((Mask.lanes act).filter r)))

end Sys2Proof.Machine
end

