-- ==== Sys2Proof/Machine/Lane.lean ====
section
/-! DEFINITION. Instructions across lanes: SLX, LRED, LSCAN, LCNT (R79, R296, R348 to R351, R381). -/

namespace Sys2Proof.Machine
open Arith

/-- The source lane of SLX, none where `.off` leaves the lanes (R296) or, under H16, the lane's half (R79). -/
def slxSource (h16 : Bool) (mode l : Nat) (b : W64) : Option Nat :=
  let n := b.toNat
  let base := if h16 then l / 16 * 16 else 0
  let w := if h16 then 16 else 32
  match mode with
  | 0 => some (base + n % w)
  | 1 => some (base + (l % w + n % w) % w)
  | 2 =>
    let j : Int := l + sextInt 6 n
    if (base : Int) ≤ j && j < base + w then some j.toNat else none
  | _ => some (l ^^^ (n % w))
/-- The skein with its vector registers as its issue cycle finds them (R296, R381). -/
def Skein.atCycle (k : Skein) : Skein := match k.paired with | some p => { k with vregs := p.vregs } | none => k
/-- SLX (R381): a write of a peer strand in the same cycle is not seen. -/
def execSlx (f : RFmt) (s : State) : Out :=
  rExec s f ⟨1, 1, 1, 0⟩ f.immI fun c l o =>
    (c.k.atCycle.v f.a.toNat ((slxSource (s.h16 c.k) f.m.toNat l o.b).getD l)).zeroExtend 64

/-- A of a lane, negated under F[2], as bits of its type (R272, R349). -/
def redOpnd (f : RFmt) (k : Skein) (l : Nat) : Nat :=
  let t := f.t.toNat
  let x := k.opnd false (pairOf f.t) f.a.toNat l
  if [8, 14].contains t then fbits t f.negA x else wrapNat (tBits t) (iopnd t f.negA x)
/-- The result of an operation over no lanes (R350). -/
def redIdentity (t op : Nat) : Nat :=
  let flt := [8, 14].contains t
  match op with
  | 1 => if flt then (fmtOf t).infCode false else wrapNat (tBits t) (intMax t)
  | 2 => if flt then (fmtOf t).infCode true else wrapNat (tBits t) (intMin t)
  | 3 => 2 ^ tBits t - 1
  | _ => 0
/-- LRED's operation over values given as bits, in lane order, as a register holds it (R349). -/
def reduce (t op : Nat) (sat : Bool) (xs : List Nat) : W64 :=
  let flt := [8, 14].contains t
  match xs with
  | [] => moveBits t (BitVec.ofNat 64 (redIdentity t op))
  | x :: rest =>
    match op with
    | 0 =>
      if flt then fres (roundT t .rne false (exactSum .rne (xs.map (valueOf t))))
      else fitInt t sat ((xs.map fun y => intOf t (BitVec.ofNat 64 y)).foldl (· + ·) 0)
    | 1 | 2 =>
      if flt then fres (rest.foldl (minMaxBits t (op == 2) false) (minMaxBits t (op == 2) false x x))
      else
        let v (y : Nat) : Int := intOf t (BitVec.ofNat 64 y)
        fitInt t false (rest.foldl (fun a y => if op == 1 then min a (v y) else max a (v y)) (v x))
    | _ =>
      let g : Nat → Nat → Nat := match op with | 3 => (· &&& ·) | 4 => (· ||| ·) | _ => (· ^^^ ·)
      moveBits t (BitVec.ofNat 64 (rest.foldl g x))

/-- Shape of LRED, LSCAN and LCNT: D is an s-register where F[0] names one (R348). -/
def redShape (f : RFmt) (a : Nat) (sd : Bool) : RShape := ⟨if sd then 0 else pairOf f.t, a, 0, 0⟩
/-- Lanes of Active() that a lane's half holds (R348). -/
def halfLanes (h16 : Bool) (act : Mask) (l : Nat) : List Nat := Mask.lanes (act &&& halfMask h16 l)

/-- An instruction that combines lanes: `g` gives the result of a lane from the lanes of its half; the s-register form takes the
lowest active lane's half (R348). -/
def collect (s : State) (f : RFmt) (a : Nat) (sd : Bool) (g : Ctx → Nat → List Nat → W64) : Out :=
  withStrand s fun c =>
    if !f.regsOk (redShape f a sd) (s.vlimit c.k) || (sd && f.d.toNat ≥ 64) then c.illegal s
    else
      let act := c.active f.g f.gn
      if act == 0 then c.skip s
      else
        let r (l : Nat) : W64 := g c l (halfLanes (s.h16 c.k) act l)
        if sd then c.done s (c.k.setS f.d.toNat (r (Mask.lowest act)))
        else c.done s ((Mask.lanes act).foldl (fun k l => k.putD false (pairOf f.t) f.d.toNat l (r l)) c.k)
/-- LRED (R349). -/
def execLred (f : RFmt) (s : State) : Out :=
  collect s f (pairOf f.t) f.flag0 fun c _ ls => reduce f.t.toNat f.m.toNat f.sat (ls.map (redOpnd f c.k))
/-- LSCAN (R350). -/
def execLscan (f : RFmt) (s : State) : Out :=
  collect s f (pairOf f.t) false fun c l ls =>
    reduce f.t.toNat f.m.toNat f.sat ((ls.filter fun j => j < l || (j == l && !f.flag0)).map (redOpnd f c.k))
/-- LCNT (R351). -/
def execLcnt (f : RFmt) (s : State) : Out :=
  collect s f 0 f.flag0 fun c l ls =>
    BitVec.ofNat 64 (ls.filter fun j => (f.flag0 || j < l) && ((c.k.p (f.a.toNat % 8)).getLsbD j != f.negA)).length

end Sys2Proof.Machine
end

