-- ==== Sys2Proof/Machine/SpecialReg.lean ====
section
/-! DEFINITION. Special registers: RDSR, WRSR (R85 to R87, R374). -/

namespace Sys2Proof.Machine

/-- Group coordinates of a linear group index (R21). -/
def groupX (r : LRec) (lin : Nat) : Nat := lin % r.gx
def groupY (r : LRec) (lin : Nat) : Nat := lin / r.gx % r.gy
def groupZ (r : LRec) (lin : Nat) : Nat := lin / (r.gx * r.gy)

/-- SR_NANOS at a tick (R86). -/
def nanos (clock : Nat) : Nat := clock * 4 / 5
/-- SR(n, l) for a strand whose Active() is `act` (R79, R85, R86). -/
def State.sr (s : State) (id : SkId) (k : Skein) (st : Nat) (act : Mask) (n l : Nat) : W64 :=
  let h := s.h16 k
  let lin := ((s.group? k.group).map (·.lin)).getD 0
  let r := s.lrecOf k
  let num (x : Nat) : W64 := BitVec.ofNat 64 x
  match n with
  | 0 => num (if h then l % 16 else l)
  | 1 => num (if h then 2 * k.index + l / 16 else k.index)
  | 2 => num lin
  | 3 => num (groupX r lin)
  | 4 => num (groupY r lin)
  | 5 => num (groupZ r lin)
  | 6 => num (id.core % 128)
  | 7 => num (dieOf id.core)
  | 8 => num s.pkg.id
  | 9 => num st
  | 10 => (halfBits h l act).zeroExtend 64
  | 11 => num s.clock
  | 12 => num (nanos s.clock)
  | 13 => num r.scratch
  | 14 => k.privBase
  | 15 => k.trapFrame
  | 16 => if k.joinLost then 1 else 0
  | 17 => num ((if k.raceTrap then 1 else 0) + (if k.raceReport then 2 else 0))
  | 18 => num (twinOf id.core % 128)
  | 19 => k.seed.zeroExtend 64
  | 20 => num (((s.group? k.group).map (·.stage)).getD 0)
  | _ => 0
/-- Registers of a vector RDSR's D (R86). -/
def srRegs (n : Nat) : Nat := if [2, 11, 12, 14, 15].contains n then 2 else 1
/-- RDSR (R374). -/
def execRdsr (f : RFmt) (s : State) : Out :=
  let n := f.a.toNat
  withStrand s fun c =>
    if n ≥ 64 || !f.regsOk ⟨srRegs n, 0, 0, 0⟩ (s.vlimit c.k) then c.illegal s
    else
      let act := c.active f.g f.gn
      let x (l : Nat) : W64 := s.sr c.id c.k c.st act n l
      if f.u then (if c.acts f.g f.gn then c.done s (c.k.setS f.d.toNat (x c.low)) else c.skip s)
      else c.done s ((Mask.lanes act).foldl (fun k l => k.putD false (srRegs n) f.d.toNat l (x l)) c.k)

/-- Write a writable special register (R85): SR_JOINLOST is cleared by a 0, SR_SEED reseeds (R94). -/
def Skein.writeSr (k : Skein) (n : Nat) (x : W64) : Skein :=
  match n with
  | 16 => if x.getLsbD 0 then k else { k with joinLost := false }
  | 17 => { k with raceTrap := x.getLsbD 0, raceReport := x.getLsbD 1 }
  | 19 => k.reseed (x.truncate 32)
  | _ => k
def srWritable (n : Nat) : Bool := [16, 17, 19].contains n
/-- WRSR (R374). A word that does not act takes no trap 0x14 (R86). -/
def execWrsr (f : RFmt) (s : State) : Out :=
  let n := f.a.toNat
  withStrand s fun c =>
    if n ≥ 64 || f.d != 0 || !f.regsOk ⟨0, 0, 1, 0⟩ (s.vlimit c.k) then c.illegal s
    else
      let act := c.active f.g f.gn
      let on := if f.u then c.acts f.g f.gn else act != 0
      if !on then c.skip s
      else if !srWritable n then c.trap s 0x14 act
      else c.done s (c.k.writeSr n (if f.u then c.k.s f.b.toNat else (c.k.v f.b.toNat (Mask.lowest act)).zeroExtend 64))

end Sys2Proof.Machine
end

