-- ==== Sys2Proof/Machine/Scratch.lean ====
section
/-! DEFINITION. Scratch windows: checks and bytes (R108 to R110, R113). -/

namespace Sys2Proof.Machine

/-- Physical granules of a group's window on a core (R109). -/
def Group.granules (g : Group) (core : Nat) : List Nat := if g.twin && core != g.core then g.gmap2 else g.gmap
/-- The check of R108 for `n` bytes at an offset. -/
def scrOk (r : LRec) (off n : Nat) : Bool := (off / 2 ^ 31 % 2 == 0 || r.twin) && off % 2 ^ 31 + n ≤ r.scratch
/-- Key of a byte of the scratch of a core (R109). -/
def scrKey (g : Group) (core o : Nat) : Nat :=
  core * 2 ^ 21 + (g.granules core).getD (o / 9472) 0 * 9472 + o % 9472
/-- The core and offset that a scratch offset names, seen from a core (R108, R110). -/
def scrCore (core off : Nat) : Nat := if off / 2 ^ 31 % 2 == 1 then twinOf core else core
def State.scrRead (s : State) (g : Group) (core off n : Nat) : List Byte :=
  (List.range n).map fun i => Sparse.get 0 s.scratch (scrKey g (scrCore core off) (off % 2 ^ 31 + i))
/-- Bytes written; a 4 B word written whole holds good check bits again (R174). -/
def State.scrWrite (s : State) (g : Group) (core off : Nat) (bs : List Byte) : State :=
  let key (i : Nat) : Nat := scrKey g (scrCore core off) (off % 2 ^ 31 + i)
  { s with
    scratch := (bs.zipIdx).foldl (fun m (b, i) => Sparse.put 0 m (key i) b) s.scratch
    soft := s.soft.filter fun p => match p with
      | .scratch w => ((List.range bs.length).filter fun i => key i / 4 == w).length != 4
      | _ => true }
/-- The first offset, of some bytes to be read, whose word holds an error (R174). -/
def State.scrSoft (s : State) (g : Group) (core off n : Nat) : Option Nat :=
  if s.soft.isEmpty then none
  else ((List.range n).find? fun i => s.soft.contains (.scratch (scrKey g (scrCore core off) (off % 2 ^ 31 + i) / 4))).map (off + ·)
def State.scrWord (s : State) (g : Group) (core off : Nat) : Nat := ofBytesLE (s.scrRead g core off 4)
def State.setScrWord (s : State) (g : Group) (core off x : Nat) : State := s.scrWrite g core off (toBytesLE 4 x)

end Sys2Proof.Machine
end

