-- ==== Sys2Proof/Machine/Memory.lean ====
section
/-! DEFINITION. Loads, stores, prefetches and atomics: global, private, scratch and remote (R108, R127 to R143, R164, R165,
R173, R222, R297, R302 to R304, R316, R323, R352 to R355, R372, R382 to R385). -/

namespace Sys2Proof.Machine
open Arith

/-! ## Lanes and their fates (R163 to R165) -/

/-- What becomes of one lane's access. -/
inductive Fate where
  | good
  | park
  /-- trap cause of an unresolvable fault or a failed sector -/
  | bad (cause : Nat)
  | remote (pkg : Nat)
  deriving DecidableEq, Repr

def fateOf : Xl → Fate
  | .at _ _ | .zero _ => .good
  | .park _ => .park
  | .bad c => .bad (clsCause c)
  | .remote p => .remote p

/-- Words that `n` bytes at an address touch, by VA/4. -/
def wordsOf (va n : Nat) : List Nat := (List.range ((va % 4 + n + 3) / 4)).map fun i => va / 4 + i
/-- Key of a word in a memory operation. -/
def wkey (asid wa : Nat) : Nat := asid * 2 ^ 55 + wa

/-- A word the L1 serves to a load (R127); `acq` for LDA, which uses no Valid copy (R142). -/
def State.served (s : State) (agent asid wa : Nat) (acq : Bool) : Option W32 :=
  match s.cword? agent asid wa with
  | some c => if c.awaiting || (acq && c.st == CSt.valid) then none else some c.data
  | none => none

/-- Where a load's lane finds its bytes. `acq`: LDA, which has no private form (R354). -/
def State.loadPlace (s : State) (c : Ctx) (n : Nat) (acq : Bool) (a : LaneAcc) : State × Fate :=
  let j := s.jobOf c.k
  let die := dieOf c.id.core
  let va := a.va.toNat
  if isPrivate va then
    if acq || !s.ownPrivate c.k va n then (s, .bad 0x06)
    else
      let (s, x) := s.place j die j.asid va .read
      match x with
      | .at sl key => (s.checkSector sl key, if s.sectorFailed sl key then .bad 0x07 else .good)
      | x => (s, fateOf x)
  else
    let agent := s.l1 c.id.core
    let missing := (wordsOf va n).filter fun w => (s.served agent j.asid w acq).isNone
    if missing.isEmpty then (s, .good)
    else
      let (s, x) := s.place j die j.asid va .read
      match x with
      | .at sl key =>
        (s.checkSector sl key,
          if s.sectorFailed sl key && missing.any fun w => (s.owner j.asid w).isNone then .bad 0x07 else .good)
      | x => (s, fateOf x)
/-- Does a core's read of a word meet an on-chip error (R174)? A Valid copy of its L1 serves it still, but for LDA. -/
def State.readSoft (s : State) (agent asid : Nat) (acq : Bool) (wa : Nat) : Bool :=
  s.wordSoft asid wa && match s.cword? agent asid wa with
    | some x => acq || x.st != CSt.valid
    | none => true
/-- Fate of a load's lane. -/
def State.loadFate (s : State) (c : Ctx) (n : Nat) (acq : Bool) (a : LaneAcc) : State × Fate :=
  match s.loadPlace c n acq a with
  | (s, .good) => (s, if (wordsOf a.va.toNat n).any (s.readSoft (s.l1 c.id.core) (s.asidOf c.k) acq) then .bad 0x07 else .good)
  | r => r
/-- Does a store of a part of a word need bytes that fail their check (R173, R174)? The word is not held by the L1, and the REGACK has to
bring it from a word that no agent holds. -/
def State.partFails (s : State) (agent asid wa sl key : Nat) : Bool :=
  (match s.cword? agent asid wa with | some x => x.st == CSt.valid | none => true) && (s.owner asid wa).isNone
    && (s.wordSoft asid wa || ((s.hword asid wa).isNone && s.sectorFailed sl key))
/-- Fate of a store's lane; a word held Owned needs no translation (R151). `rel`: STR, which sends REG for every word and has no
private form (R142, R384). `whole`: the words that the instruction writes whole. -/
def State.storeFate (s : State) (c : Ctx) (n : Nat) (rel : Bool) (whole : List Nat) (a : LaneAcc) : State × Fate :=
  let j := s.jobOf c.k
  let die := dieOf c.id.core
  let va := a.va.toNat
  if isPrivate va then
    if rel || !s.ownPrivate c.k va n then (s, .bad 0x06)
    else
      let (s, x) := s.place j die j.asid va .write
      (s, fateOf x)
  else
    let agent := s.l1 c.id.core
    let owned (w : Nat) : Bool := match s.cword? agent j.asid w with | some x => x.st == CSt.owned | none => false
    if !rel && (wordsOf va n).all owned then (s, .good)
    else
      let (s, x) := s.place j die j.asid va .write
      match x with
      | .at sl key => (s, if (wordsOf va n).any fun w => !whole.contains w && s.partFails agent j.asid w sl key then .bad 0x07 else .good)
      | x => (s, fateOf x)
/-- The words that lanes write whole together. -/
def wordsWhole (n : Nat) (ls : List LaneAcc) : List Nat :=
  (bySector (ls.flatMap fun a => wordsOf a.va.toNat n)).flatMap fun (sva, m) =>
    (maskWords sva m).filter fun w => [0, 1, 2, 3].all fun b => ls.any fun a => a.va.toNat ≤ 4 * w + b && 4 * w + b < a.va.toNat + n
/-- Fate of an atomic's lane: its permission is W (R128, R153). -/
def State.atomFate (s : State) (c : Ctx) (n : Nat) (a : LaneAcc) : State × Fate :=
  let j := s.jobOf c.k
  let die := dieOf c.id.core
  let va := a.va.toNat
  if isPrivate va && !s.ownPrivate c.k va n then (s, .bad 0x06)
  else
    let (s, x) := s.place j die j.asid va .write
    if (s.softIn j.asid va n).isSome && fateOf x == .good then (s, .bad 0x07)
    else match x with
      | .at sl key => (s.checkSector sl key, if s.sectorFailed sl key then .bad 0x07 else .good)
      | x => (s, fateOf x)

/-- Fates of the lanes in order. -/
def State.classify (s : State) (fate : State → LaneAcc → State × Fate) : List LaneAcc → State × List (LaneAcc × Fate)
  | [] => (s, [])
  | a :: r =>
    let (s, x) := fate s a
    let (s, xs) := s.classify fate r
    (s, (a, x) :: xs)
def lanesMask (ls : List LaneAcc) : Mask := Mask.ofLanes (ls.map (·.lane))

/-- Lanes that name the same 64 KiB page are marked or left unmarked together (R164): where one parks, those performed otherwise park
with it. -/
def markPages (fs : List (LaneAcc × Fate)) : List (LaneAcc × Fate) :=
  let pages := (fs.filter fun x => x.2 == .park).map fun x => x.1.va.toNat / 65536
  fs.map fun x => if x.2 == .good && pages.contains (x.1.va.toNat / 65536) then (x.1, .park) else x

/-- The class whose counter a memory instruction raises (R175); engine instructions see to it themselves. -/
def memClass : Instr → Option Cls
  | .ldOp _ | .lda _ | .expld _ => some .load
  | .stOp _ | .str _ | .cmpst _ => some .store
  | .atom _ f => some (if f.ch == 0 then .load else .store)
  | _ => none
/-- A memory instruction that has issued stays counted while lanes of it remain to be performed (R175). -/
def Ctx.keepCount (c : Ctx) (s : State) : State :=
  match memClass (decode c.iw), s.skein? c.id with
  | some cls, some k =>
    match (k.strand? c.st).bind (·.part) with
    | some n => if (k.fifo cls).any (·.1 == n) then s else s.modSkein c.id fun k => (k.count cls n).finish cls n
    | none =>
      let (s, n) := s.fresh
      s.modSkein c.id fun k => ((k.count cls n).finish cls n).modStrand c.st fun x => { x with part := some n }
  | _, _ => s
/-- Run an access over its lanes: misalignment first, then the lanes that can be performed, then what remains: an unresolvable fault traps,
else the others park the skein, and a failed check traps last (R164, R165, R173, R275, R353). `perform` carries lanes out, `finish` completes
the word, `far` sends lanes homed elsewhere; `later` are lanes that find no room yet. -/
def Ctx.access (c : Ctx) (s : State) (size : Nat) (ls : List LaneAcc) (fate : State → LaneAcc → State × Fate)
    (perform : State → List LaneAcc → State) (finish : State → Out) (far : State → List (LaneAcc × Nat) → Out) (acc : Acc := .read)
    (later : List LaneAcc := []) : Out :=
  let act := c.x.mask &&& c.k.guard (fld c.iw 51 3) (flag c.iw 50)
  match (ls ++ later).find? fun a => a.va.toNat % size != 0 with
  | some a => c.trap s 0x04 (lanesMask (ls ++ later)) a.va
  | none =>
    let (s, fs) := s.classify fate ls
    let missing := (fs.filter fun x => x.2 == .park).map (·.1)
    let fs := markPages fs
    let good := (fs.filter fun x => x.2 == .good).map (·.1)
    let parked := (fs.filter fun x => x.2 == .park).map (·.1)
    let rest := lanesMask ((fs.filter fun x => x.2 != .good).map (·.1) ++ later)
    let bads : List (LaneAcc × Nat) := fs.filterMap fun (a, x) => match x with | .bad n => some (a, n) | _ => none
    let remotes : List (LaneAcc × Nat) := fs.filterMap fun (a, x) => match x with | .remote p => some (a, p) | _ => none
    let parks := !parked.isEmpty && later.isEmpty && bads.all (·.2 == 0x07)
    if rest == 0 then finish (perform s good)
    else if parks then .next ((c.keepCount (perform s good)).parkSkein c.id c.st act rest (.fault (missing.map (·.va))))
    else if !good.isEmpty then
      .next ({ c.keepCount (perform s good) with cur := none }.modStrand c.id c.st fun x => { x.narrow act rest with wait := .memops [] 1 })
    else if !later.isEmpty then c.wait s (.memops [] 1)
    else match bads.find? (·.2 == 0x06), bads with
      | some (a, n), _ => c.trap (s.logFault c.id c.k acc a.va.toNat) n rest a.va
      | none, (a, n) :: _ => c.trap s n rest a.va
      | none, [] => far s remotes

/-! ## Loads -/

/-- Write what a load returned to its lanes' registers, but for those that a later word has written (R52). -/
def Skein.landLoad (k : Skein) (o : MemOp) (asid : Nat) : Skein :=
  o.lanes.foldl (fun k a =>
    let bs := (wordsOf a.va.toNat o.size).flatMap fun w => toBytesLE 4 (Tab.getD o.got (wkey asid w) 0).toNat
    let bs := (bs.drop (a.va.toNat % 4)).take o.size
    if o.uniform then (if o.dead.contains a.reg then k else k.putBytes true a.reg a.lane bs)
    else (List.range ((bs.length + 3) / 4)).foldl (fun k i =>
      if o.dead.contains (32 * (a.reg + i) + a.lane) then k
      else k.setV (a.reg + i) a.lane (BitVec.ofNat 32 (ofBytesLE ((bs.drop (4 * i)).take 4)))) k) k
/-- Count an operation that is performed at once (R175, R176); where its class has none before it the count falls in the same cycle. A
part of an instruction that is counted already changes nothing. -/
def Skein.countDone (k : Skein) (cls : Option Cls) (op : Nat) : Skein :=
  match cls with
  | some cls => if (k.fifo cls).isEmpty || (k.fifo cls).any (·.1 == op) then k else (k.count cls op).finish cls op
  | none => k
/-- Count an operation in its class, where it has one: by 1 for all parts of an instruction together (R175). -/
def Skein.countIn (k : Skein) (cls : Option Cls) (op : Nat) : Skein :=
  match cls with
  | some cls => if (k.fifo cls).any (·.1 == op) then k.setFifo cls ((k.fifo cls).map fun x => if x.1 == op then (op, false) else x) else k.count cls op
  | none => k
/-- A part of a counted instruction is performed: the operation is done when no other part of it is in flight (R176). -/
def State.finishPart (s : State) (id : SkId) (cls : Option Cls) (name : Nat) : State :=
  match cls with
  | none => s
  | some cls =>
    if s.memops.any (fun (o : MemOp) => o.sk == id && o.cnt == name) || s.fab.remotes.any (fun (r : Remote) => r.sk == id && r.cnt == name) then s
    else s.modSkein id (·.finish cls name)
/-- The strand's word goes under this name while its parts are performed. -/
def Ctx.named (c : Ctx) (s : State) (name : Nat) : State := s.modStrand c.id c.st fun x => { x with part := some name }

/-- A race met by an access of a skein that traps on races: one trap 0x08 for the instruction of this name, with the address of the
lowest lane (R130). -/
def Skein.raceErr (k : Skein) (lane : Nat) (va : W64) (name : Nat) : Skein :=
  if k.pendErrs.any fun e => e.cause == 0x08 && e.name == name then
    { k with pendErrs := k.pendErrs.map fun e =>
        if e.cause == 0x08 && e.name == name && lane < e.lane then ⟨0x08, va, lane, name⟩ else e }
  else { k with pendErrs := k.pendErrs ++ [⟨0x08, va, lane, name⟩] }

/-- The words that the RDQs for some words ask for (R127): of each sector every word that the L1 does not hold, with those read. -/
def State.rdqMasks (s : State) (agent asid : Nat) (words : List Nat) : List (Nat × W32 × W32) :=
  (bySector words).map fun (sva, m) =>
    (sva, Mask.ofLanes ((List.range 32).filter fun i => (s.cword? agent asid (sva / 4 + i)).isNone) ||| m, m)
/-- Send RDQ for the words that the L1 lacks (R127), marking those read. -/
def State.sendRdq (s : State) (agent asid op : Nat) (words : List Nat) : State :=
  (s.rdqMasks agent asid words).foldl (fun s (sva, m, r) =>
    s.post { blankMsg with src := agentNode agent, dst := s.homeNode asid sva, kind := .rdq, asid := asid, sva := sva
                           mask := m, rmask := r, op := op }) s

/-- Carry out the loads of lanes that translate (R127, R353, R354). The operation waits for every word that it asks for, since the sector
fills when every part has arrived (R127; log 23). `fill` false for CH = 10, which installs nothing (R275). -/
def Ctx.loadLanes (c : Ctx) (u : Bool) (size : Nat) (acq fill : Bool) (s : State) (ls : List LaneAcc) : State :=
  let j := s.jobOf c.k
  let agent := s.l1 c.id.core
  let priv := ls.filter fun a => isPrivate a.va.toNat
  let glob := ls.filter fun a => !isPrivate a.va.toNat
  let s := priv.foldl (fun s a =>
    s.modSkein c.id fun k => k.putBytes u a.reg a.lane (s.skRead c.id c.k a.va.toNat size)) s
  let words := (glob.flatMap fun a => wordsOf a.va.toNat size).eraseDups
  let have_ := words.filterMap fun w => (s.served agent j.asid w acq).map fun x => (wkey j.asid w, x)
  let missing := words.filter fun w => (s.served agent j.asid w acq).isNone
  let (s, op) := s.fresh
  let name := c.x.part.getD op
  let s := c.named s name
  let ask := missing.filter fun w => match s.cword? agent j.asid w with | some x => !x.awaiting | none => true
  let asked := (s.rdqMasks agent j.asid ask).flatMap fun (sva, m, _) => maskWords sva m
  let o : MemOp := { id := op, cnt := name, sk := c.id, strands := [c.st], kind := .load false, size := size, uniform := u, cls := some .load
                     lanes := glob, need := (missing ++ asked.filter fun w => !missing.contains w).map (wkey j.asid), got := have_, fill := []
                     raced := none, lda := acq, report := c.k.raceReport, onRace := c.k.raceTrap
                     stale := if fill then 0 else 0xFFFF, noFill := [], failed := none, dead := [] }
  if missing.isEmpty then s.modSkein c.id fun k => (k.landLoad o j.asid).countDone (some .load) name
  else
    let s := { s with memops := s.memops ++ [o] }.modSkein c.id (·.countIn (some .load) name)
    s.sendRdq agent j.asid op ask

/-! ## Remote accesses (R218, R222) -/

/-- What a remote access carries: KIND, OPSZ, FLAGS, and each lane's bytes. -/
structure RemoteReq where
  kind : Nat
  op : Nat
  sz : Nat
  flags : Nat
  isLoad : Bool
  lda : Bool
  cls : Option Cls
  handle : Option Nat := none

/-- Lanes grouped by the page their address lies in, in ascending order of the lowest lane. -/
def byPage (ls : List (LaneAcc × Nat)) : List ((Nat × Nat) × List LaneAcc) :=
  ls.foldl (fun acc (a, p) => Tab.update acc (p, a.va.toNat / 65536) [] (· ++ [a])) []

/-- Send the packets of a remote access and park until each is answered or timed out. Where no route is usable no packet goes, and its lanes
are refused with 0x09 (R223; log 41). -/
def Ctx.remote (c : Ctx) (u : Bool) (q : RemoteReq) (data : LaneAcc → List Byte) (undone : Mask) (s : State)
    (ls : List (LaneAcc × Nat)) : Out :=
  let size := 2 ^ q.sz
  let (s, op) := s.fresh
  let asid := s.asidOf c.k
  let (s, pkts) := (byPage ls).foldl (fun ((s, acc) : State × List RemPkt) ((pkg, page), as) =>
    let low := (as.headD default).va
    let lanes := as.map (·.lane)
    if !s.reachable pkg then (s, acc ++ [⟨pkg, 65536, lanes, lanes, s.clock, 2, low⟩])
    else
      let e := s.nextEseq pkg
      let p := vectorPacket pkg s.pkg.id q.kind (s.l1 c.id.core) asid (q.sz + 8 * q.op) q.flags (page * 65536)
        (as.map fun a => a.va.toNat % 65536) (as.flatMap data)
      (s.sendPacket pkg p, acc ++ [⟨pkg, e, lanes, lanes, s.clock, 0, low⟩])) (s, [])
  let name := c.x.part.getD op
  let r : Remote := { op := op, cnt := name, sk := c.id, strand := c.st, undone := undone, pkts := pkts, lanes := ls.map (·.1), size := size
                      uniform := u, isLoad := q.isLoad, lda := q.lda, cls := q.cls, handle := q.handle, got := [], raced := none
                      report := c.k.raceReport, onRace := c.k.raceTrap }
  let s := (s.modFab fun f => { f with remotes := f.remotes ++ [r] }).modSkein c.id (·.countIn q.cls name)
  .next ((c.named s name).parkSkein c.id c.st (c.x.mask &&& c.k.guard (fld c.iw 51 3) (flag c.iw 50)) undone (.remote op))

/-! ## LD, EXPLD, LDA -/

/-- Lanes of an M-format access, with their addresses. -/
def Ctx.mLanes (c : Ctx) (f : MFmt) (bytes : Nat) : List LaneAcc :=
  if f.u then (if c.acts f.g f.gn then [⟨c.low, f.ea bytes c.k c.low, f.d.toNat⟩] else [])
  else (Mask.lanes (c.active f.g f.gn)).map fun l => ⟨l, f.ea bytes c.k l, f.d.toNat⟩
/-- Lanes of EXPLD and CMPST: consecutive elements by the rank among the lanes of the first issue (R316, R323). -/
def Ctx.rankLanes (c : Ctx) (f : MFmt) (bytes : Nat) : List LaneAcc :=
  let now := c.active f.g f.gn
  let act := c.x.act0.getD now
  let base := c.k.s f.sb.toNat + f.imm.signExtend 64
  (Mask.lanes (act &&& c.x.window)).map fun l =>
    ⟨l, base + BitVec.ofNat 64 (bytes * ((Mask.lanes act).filter (· < l)).length), f.d.toNat⟩

/-- CH = 01 marks the lines of an access evict-first in the L1 (R275). -/
def Ctx.marks (c : Ctx) (f : MFmt) (ls : List LaneAcc) (s : State) : State :=
  if f.ch == 1 then s.markFirst c.id.core (s.asidOf c.k) (ls.map (·.va.toNat)) else s
/-- The loads and atomics in flight of a strand whose words some lanes touch: a later load of them waits, since it returns no older value
(R137). -/
def Ctx.overlapped (c : Ctx) (s : State) (n : Nat) (ls : List LaneAcc) : List MemOp :=
  let ws := ls.flatMap fun a => wordsOf a.va.toNat n
  (s.unperformedLoads c.id c.st).filter fun o => o.lanes.any fun a => (wordsOf a.va.toNat o.size).any ws.contains
/-- A load after the loads in flight of its words. -/
def Ctx.afterOverlaps (c : Ctx) (s : State) (n : Nat) (ls : List LaneAcc) (go : Out) : Out :=
  match c.overlapped s n ls with
  | o :: os => c.wait s (.memops ((o :: os).map (·.id)) 0)
  | [] => go
/-- LD and EXPLD over their lanes. -/
def Ctx.plainLoad (c : Ctx) (s : State) (f : MFmt) (ls : List LaneAcc) : Out :=
  let n := szBytes f.sz
  if ls.isEmpty then c.skip s
  else c.afterOverlaps s n ls <| c.access s n ls (fun s a => s.loadFate c n false a) (fun s ls => c.loadLanes f.u n false (f.ch != 2) (c.marks f ls s) ls) (fun s => c.skip s)
    (fun s rs => c.remote f.u ⟨1, 0, f.sz.toNat, 0, true, false, some .load, none⟩ (fun _ => []) (lanesMask ls) s rs)
/-- LD (R353). -/
def execLdOp (f : MFmt) (s : State) : Out :=
  withStrand s fun c =>
    if !f.regsOk (szRegs (szBytes f.sz)) (s.vlimit c.k) then c.illegal s else c.plainLoad s f (c.mLanes f (szBytes f.sz))
/-- EXPLD (R323). -/
def execExpld (f : MFmt) (s : State) : Out :=
  withStrand s fun c =>
    if !f.regsOk (szRegs (szBytes f.sz)) (s.vlimit c.k) then c.illegal s else c.plainLoad s f (c.rankLanes f (szBytes f.sz))

/-! ## Ordering actions (R135, R140) -/

/-- Is the effective scope wider than the group (R135)? -/
def State.beyondGroup (s : State) (k : Skein) (sc : Nat) : Bool := sc != 0 || (s.lrecOf k).twin
/-- An operation that only waits for SEALACKs. -/
def MemOp.isSeal (o : MemOp) : Bool := o.cls.isNone && o.lanes.isEmpty
/-- SEAL for the write-sets of cores under one name, waited for by operations of the cores' own: they belong to no skein (R125, R243). -/
def State.sealCores (s : State) (cores : List Nat) : State × Nat :=
  let (s, op) := s.fresh
  (cores.foldl (fun (s : State) c =>
    let (s, ws) := s.sealSet (s.l1 c) op
    if ws.isEmpty then s
    else { s with memops := s.memops ++ [{ id := op, cnt := op, sk := ⟨c, 32⟩, strands := [], kind := .store, size := 0, uniform := false, cls := none
                                           lanes := [], need := ws.map fun (a, w) => wkey a w, got := [], fill := [], raced := none, lda := false
                                           report := false, onRace := false, stale := 0, noFill := [], failed := none, dead := [] }] }) s, op)
/-- REL after some accesses, then `after` (R123, R140, R141). -/
def Ctx.releaseAfter (c : Ctx) (s : State) (sc : Nat) (earlier : List MemOp) (after : State → Out) : Out :=
  match c.x.wait, earlier with
  | .memops _ 2, _ => after s
  | _, o :: os => c.wait s (.memops ((o :: os).map (·.id)) 1)
  | _, [] =>
    if !s.beyondGroup c.k sc then after s
    else
      let others := (s.memops.filter fun o => o.sk.core == c.id.core && o.isSeal).map (·.id)
      let (s, op) := s.fresh
      let (s, ws) := s.sealSet (s.l1 c.id.core) op
      if ws.isEmpty && others.isEmpty then after s
      else if ws.isEmpty then c.wait s (.memops others 2)
      else
        let o : MemOp := { id := op, cnt := op, sk := c.id, strands := [c.st], kind := .store, size := 0, uniform := false, cls := none, lanes := []
                           need := ws.map fun (a, w) => wkey a w, got := [], fill := [], raced := none, lda := false, report := false
                           onRace := false, stale := 0, noFill := [], failed := none, dead := [] }
        c.wait { s with memops := s.memops ++ [o] } (.memops (op :: others) 2)
/-- REL of a strand. -/
def Ctx.release (c : Ctx) (s : State) (sc : Nat) (after : State → Out) : Out := c.releaseAfter s sc (s.unperformed c.id c.st) after
/-- ACQ's wait, then its invalidation, then `after` (R133, R140). -/
def Ctx.acquire (c : Ctx) (s : State) (sc : Nat) (regions : BitVec 16) (after : State → Out) : Out :=
  match s.unperformedLoads c.id c.st with
  | o :: os => c.wait s (.memops ((o :: os).map (·.id)) 3)
  | [] => after (if s.beyondGroup c.k sc then s.selfInvalidate (s.l1 c.id.core) regions else s)

/-- LDA (R142, R354): once every lane has been performed it acts as ACQ over all regions. -/
def execLda (f : MFmt) (s : State) : Out :=
  withStrand s fun c =>
    let n := szBytes f.sz
    if !f.regsOk (szRegs n) (s.vlimit c.k) then c.illegal s
    else
      let acq (s : State) : Out := c.acquire s f.sc.toNat 0xFFFF fun s => c.skip s
      match c.x.wait with
      | .memops _ 3 => acq s
      | _ =>
        let ls := c.mLanes f n
        if ls.isEmpty then c.skip s
        else c.afterOverlaps s n ls <| c.access s n ls (fun s a => s.loadFate c n true a) (fun s ls => c.loadLanes f.u n true (f.ch != 2) (c.marks f ls s) ls) acq
          (fun s rs => c.remote f.u ⟨1, 0, f.sz.toNat, 1, true, true, some .load, none⟩ (fun _ => []) (lanesMask ls) s rs)

/-- Words of a sector come into an L1 as Valid copies, where a way fits (R115, R372). -/
def State.fillSector (s : State) (agent asid region : Nat) (ws : List (Nat × W32)) : State :=
  ws.foldl (fun (s : State) ((wa, x) : Nat × W32) =>
    if (s.cword? agent asid wa).isSome || !s.l1Fits agent asid wa [] then s
    else (s.l1Room agent asid wa).setCword agent asid wa ⟨.valid, x, 0, region, false, .none⟩) s
/-- PRF of one sector (R163, R372): resolution starts where it can. The home's LLC holds the sector; its Valid words are installed in the L1,
unless CH = 10. A private sector comes into the L1 alone. -/
def State.prefetchSector (s : State) (c : Ctx) (ch va : Nat) : State :=
  let j := s.jobOf c.k
  let agent := s.l1 c.id.core
  if isPrivate va && !s.ownPrivate c.k va 1 then s
  else match s.place j (dieOf c.id.core) j.asid va .read with
    | (s, .park _) => s.reportFault j.asid va
    | (s, .at sl key) =>
      let s := s.checkSector sl key
      if s.sectorFailed sl key then s
      else
        let free := (List.range 32).filterMap fun i =>
          let wa := va / 128 * 32 + i
          if (s.owner j.asid wa).isSome || s.wordSoft j.asid wa then none else some (wa, s.wordAt (.at sl (key / 128 * 128 + 4 * i)))
        let s := if ch == 1 then s.markFirst c.id.core j.asid [va] else s
        if isPrivate va then s.fillSector agent j.asid 0 free
        else
          let s := free.foldl (fun s (wa, _) => s.setHword j.asid wa .valid) (s.touchLine j.asid (va / 4))
          if ch == 2 then s else s.fillSector agent j.asid (regionOf j va) free
    | (s, _) => s
/-- PRF (R372). -/
def execPrf (f : MFmt) (s : State) : Out :=
  withStrand s fun c =>
    if !f.regsOk 0 (s.vlimit c.k) then c.illegal s
    else c.skip ((c.mLanes f 1).foldl (fun s a => s.prefetchSector c f.ch.toNat a.va.toNat) s)

/-! ## Stores -/

/-- Does a store to a word need a REG (R122, R142)? -/
def State.regDue (s : State) (agent asid wa : Nat) (rel : Bool) : Bool :=
  rel || match s.cword? agent asid wa with | some w => w.st != CSt.owned | none => true
/-- A word of a cache with bytes of a store written: Owned. A word held in no state, or Valid (log 76), is served to no load until its REGACK
(R122, R164). Where the store's REG comes on top of a registration, what that stands for is kept: the bytes before the store where the word
is sealed, those with it where it is Owned (R138). -/
def CWord.stored (w : CWord) (x : W32) (m : BitVec 4) (rel : Bool) : CWord :=
  let data := mergeWord w.data x m
  match w.st, w.claim with
  | .valid, _ => { w with st := .owned, data := data, wmask := m, awaiting := true, claim := .none }
  | .ownedSealed, .live => { w with st := .owned, data := data, wmask := w.wmask ||| m, claim := .old w.data w.wmask m }
  | .owned, .live => { w with data := data, wmask := w.wmask ||| m, claim := if rel then .old data (w.wmask ||| m) m else .live }
  | _, .old y k fresh => { w with st := .owned, data := data, wmask := w.wmask ||| m, claim := .old y k (fresh ||| m) }
  | _, .none => { w with st := .owned, data := data, wmask := w.wmask ||| m }
/-- Write bytes of one word into an L1 (R122). -/
def State.l1Store (s : State) (agent asid wa region : Nat) (x : W32) (m : BitVec 4) (rel : Bool) : State :=
  match s.cword? agent asid wa with
  | none => (s.l1Room agent asid wa).setCword agent asid wa ⟨.owned, mergeWord 0 x m, m, region, true, .none⟩
  | some w => s.setCword agent asid wa (w.stored x m rel)
/-- Does a word's REG ask for its bytes (R122)? Those that the store has not written may be old here, but for a word that it writes whole. -/
def CWord.asks (w : CWord) : Bool :=
  match w.claim with
  | .old _ _ fresh => fresh != 0xF#4
  | _ => w.wmask != 0xF#4
/-- The lanes of a store that its L1 takes now, and those that wait: for the acknowledgement of an earlier REG of the word where it needs
another, or for a way of the set (R115; log 105). -/
def State.storeNow (s : State) (agent asid n : Nat) (rel : Bool) (ls : List LaneAcc) : List LaneAcc × List LaneAcc :=
  let (now, later, _) := ls.foldl (fun ((now, later, lines) : List LaneAcc × List LaneAcc × List (Nat × Nat)) a =>
    if isPrivate a.va.toNat then (now ++ [a], later, lines)
    else
      let ws := wordsOf a.va.toNat n
      let here := (ws.map fun w => (asid, w / 128)).filter fun l => !lines.contains l
      if ws.all fun w => !(s.regDue agent asid w rel && s.regFlies agent asid w) && s.l1Fits agent asid w lines then
        (now ++ [a], later, lines ++ here.eraseDups)
      else (now, later ++ [a], lines)) ([], [], [])
  (now, later)
/-- The value and byte mask of each word that bytes at an address touch. -/
def wordPieces (va : Nat) (bs : List Byte) : List (Nat × W32 × BitVec 4) :=
  (wordsOf va bs.length).map fun w =>
    (bs.zipIdx).foldl (fun (acc : Nat × W32 × BitVec 4) ((b, i) : Byte × Nat) =>
      if (va + i) / 4 == w then
        (w, acc.2.1 ||| ((b.zeroExtend 32) <<< (8 * ((va + i) % 4))), acc.2.2 ||| (1#4 <<< ((va + i) % 4)))
      else acc) (w, 0, 0)

/-- Private bytes that lanes write (R106). Where they cover a whole sector it is renewed under a fresh tag (R173). -/
def Ctx.privStore (c : Ctx) (data : LaneAcc → List Byte) (s : State) (ls : List LaneAcc) : State :=
  let j := s.jobOf c.k
  let s := s.renewPriv j (dieOf c.id.core) (ls.flatMap fun a => (List.range (data a).length).map (a.va.toNat + ·))
  ls.foldl (fun s a => s.skWrite c.id c.k a.va.toNat (data a)) s
/-- Carry out the stores of lanes that translate, in ascending order (R122, R136, R142). A word that an earlier REG is on its way for is
acknowledged with that (R140). -/
def Ctx.storeLanes (c : Ctx) (cls : Option Cls) (size : Nat) (rel : Bool) (data : LaneAcc → List Byte) (s : State) (ls : List LaneAcc) : State :=
  let j := s.jobOf c.k
  let agent := s.l1 c.id.core
  let glob := ls.filter fun a => !isPrivate a.va.toNat
  let s := c.privStore data s (ls.filter fun a => isPrivate a.va.toNat)
  let pieces := glob.flatMap fun a => wordPieces a.va.toNat (data a)
  let words := (pieces.map (·.1)).eraseDups
  let s := (s.cleanWords j.asid ((pieces.filter fun x => x.2.2 == 0xF#4).map (·.1))).noFills agent (words.map fun w => (j.asid, w))
  let (s, regs, joins) := pieces.foldl (fun ((s, regs, joins) : State × List Nat × List Nat) ((wa, x, m) : Nat × W32 × BitVec 4) =>
    let due := s.regDue agent j.asid wa rel
    (s.l1Store agent j.asid wa (regionOf j (4 * wa)) x m rel, if due && !regs.contains wa then regs ++ [wa] else regs,
      if !due && s.regFlies agent j.asid wa && !joins.contains wa then joins ++ [wa] else joins)) (s, [], [])
  let asks := regs.filter fun w => (s.cword? agent j.asid w).any (·.asks)
  let s := if rel then regs.foldl (fun s w => match s.cword? agent j.asid w with
    | some x => s.setCword agent j.asid w { x with st := .ownedSealed }
    | none => s) s else s
  let (s, op) := s.fresh
  let name := c.x.part.getD op
  let s := c.named s name
  if regs.isEmpty && joins.isEmpty then s.modSkein c.id (·.countDone cls name)
  else
    let o : MemOp := { id := op, cnt := name, sk := c.id, strands := [c.st], kind := .store, size := size, uniform := false, cls := cls
                       lanes := glob, need := (regs ++ joins).map (wkey j.asid), got := [], fill := [], raced := none, lda := false
                       report := c.k.raceReport, onRace := c.k.raceTrap, stale := 0, noFill := [], failed := none, dead := [] }
    let s := { s with memops := s.memops ++ [o] }.modSkein c.id (·.countIn cls name)
    (bySector regs).foldl (fun s (sva, m) =>
      s.post { blankMsg with src := agentNode agent, dst := s.homeNode j.asid sva, kind := .reg, asid := j.asid, sva := sva, mask := m
                             rmask := m &&& wordsMask sva (asks.filter fun w => w / 32 == sva / 128), op := op, sealIt := rel }) s

/-- The accesses of a store over its lanes; `pre` is done before the lanes that store. A lane that is not aligned traps before any waits. -/
def Ctx.storeAccess (c : Ctx) (s : State) (cls : Option Cls) (n : Nat) (rel : Bool) (data : LaneAcc → List Byte) (ls : List LaneAcc)
    (finish : State → Out) (far : State → List (LaneAcc × Nat) → Out) (pre : List LaneAcc → State → State := fun _ s => s) : Out :=
  let (now, later) := if ls.any (fun a => a.va.toNat % n != 0) then (ls, []) else s.storeNow (s.l1 c.id.core) (s.asidOf c.k) n rel ls
  c.access s n now (fun s a => s.storeFate c n rel (wordsWhole n ls) a) (fun s ls => c.storeLanes cls n rel data (pre ls s) ls) finish far
    .write later
/-- ST and CMPST over their lanes: no store passes an earlier load of its strand (R137). -/
def Ctx.plainStore (c : Ctx) (s : State) (f : MFmt) (ls : List LaneAcc) : Out :=
  let n := szBytes f.sz
  let data (a : LaneAcc) : List Byte := c.k.dataBytes f.u a.reg n a.lane
  if ls.isEmpty then c.skip s
  else match s.unperformedLoads c.id c.st with
    | o :: os => c.wait s (.memops ((o :: os).map (·.id)) 0)
    | [] =>
      c.storeAccess s (some .store) n false data ls (fun s => c.skip s)
        (fun s rs => c.remote f.u ⟨2, 0, f.sz.toNat, 0, false, false, some .store, none⟩ data (lanesMask ls) s rs) (c.marks f)
/-- ST (R383). -/
def execStOp (f : MFmt) (s : State) : Out :=
  withStrand s fun c =>
    if !f.regsOk (szRegs (szBytes f.sz)) (s.vlimit c.k) then c.illegal s else c.plainStore s f (c.mLanes f (szBytes f.sz))
/-- CMPST (R316). -/
def execCmpst (f : MFmt) (s : State) : Out :=
  withStrand s fun c =>
    if !f.regsOk (szRegs (szBytes f.sz)) (s.vlimit c.k) then c.illegal s else c.plainStore s f (c.rankLanes f (szBytes f.sz))
/-- STR (R142, R384): REL once, then the stores; a replay does not repeat the release. -/
def execStr (f : MFmt) (s : State) : Out :=
  withStrand s fun c =>
    let n := szBytes f.sz
    let data (a : LaneAcc) : List Byte := c.k.dataBytes f.u a.reg n a.lane
    if !f.regsOk (szRegs n) (s.vlimit c.k) then c.illegal s
    else
      let ls := c.mLanes f n
      let go (s : State) : Out :=
        c.storeAccess s (some .store) n true data ls (fun s => c.skip s)
          (fun s rs => c.remote f.u ⟨2, 0, f.sz.toNat, 2, false, false, some .store, none⟩ data (lanesMask ls) s rs) (c.marks f)
      if ls.isEmpty then c.skip s
      else if c.x.act0.isSome || ls.any fun a => a.va.toNat % n != 0 then go s
      else c.release s f.sc.toNat go

/-! ## Atomics (R128, R297, R302 to R304) -/

/-- New(SUB, old, v, c) on values of `n` bits (R297). -/
def atomNew (op n old v c : Nat) : Nat :=
  let sg (x : Nat) : Int := sextInt n x
  match op with
  | 0 => (old + v) % 2 ^ n
  | 1 => if sg v < sg old then v else old
  | 2 => if sg v > sg old then v else old
  | 3 => min old v
  | 4 => max old v
  | 5 => old &&& v
  | 6 => old ||| v
  | 7 => old ^^^ v
  | 8 => v
  | 9 => if old == c then v else old
  | _ => roundTo f32 .rne false (exactSum .rne [f32.value old, f32.value v])

/-- v and c of a lane, in the registers after the address (R302). -/
def atomV (f : MFmt) (k : Skein) (l : Nat) : Nat :=
  if f.sz == 3 then (k.v64 (f.a.toNat + 2) l).toNat else (k.v (f.a.toNat + 2) l).toNat
def atomC (f : MFmt) (k : Skein) (l : Nat) : Nat :=
  if f.sz == 3 then (k.v64 (f.a.toNat + 4) l).toNat else (k.v (f.a.toNat + 3) l).toNat
/-- Register checks of ATOM and ATOMS: D, the address with v, and c for `.cas` only (R83, R302). -/
def atomRegsOk (op : Nat) (f : MFmt) (lim : Nat) : Bool :=
  let n := szRegs (szBytes f.sz)
  (f.ch == 1 || vregOk lim f.d.toNat n) && f.a.toNat % 2 == 0 && f.a.toNat + 2 + n ≤ lim
    && (op != 9 || f.a.toNat + 2 + 2 * n ≤ lim)

/-- Apply an atomic operation at a home to `size` bytes: the old value, and whether it met a race (R128). Copies that the
issuing L1 holds of the word are dropped, so that R137 holds toward the strand's later loads. -/
def State.homeAtomic (s : State) (asid agent va size op v c : Nat) (report : Bool) : State × Nat × Bool :=
  let ws := wordsOf va size
  let (s, raced) := ws.foldl (fun ((s, r) : State × Bool) w =>
    let (s, x) := s.atomicReach asid w agent report
    (s, r || x)) (s, false)
  let old := ofBytesLE (ws.flatMap fun w => toBytesLE 4 (s.homeWord asid w).toNat)
  let new := atomNew op (8 * size) old v c
  let s := (ws.zipIdx).foldl (fun s (w, i) =>
    ((s.mergeHome asid w (BitVec.ofNat 32 (new / 2 ^ (32 * i))) 0xF#4 false).setHword asid w .valid).dropCword agent asid w) s
  (s.noFills agent (ws.map fun w => (asid, w)), old, raced)

/-- Is a registration message of an agent for a sector on its way, or waiting at the home? -/
def State.sectorBusy (s : State) (agent asid sva : Nat) : Bool :=
  let me := agentNode agent
  (s.net.any fun m => m.asid == asid && m.sva == sva && (m.src == me || m.dst == me || m.other == agent))
    || s.homePend.any fun p => match p with
      | .request m => m.asid == asid && m.sva == sva && m.src == me
      | .evict _ _ => false

/-- Apply an atomic's lanes in ascending order (R136). -/
def Ctx.atomLanes (c : Ctx) (op : Nat) (f : MFmt) (s : State) (ls : List LaneAcc) : State :=
  let size := szBytes f.sz
  let j := s.jobOf c.k
  let agent := s.l1 c.id.core
  let (s, op') := s.fresh
  let name := c.x.part.getD op'
  ls.foldl (fun s a =>
    let va := a.va.toNat
    let v := atomV f c.k a.lane
    let cmp := atomC f c.k a.lane
    let (s, old, raced) :=
      if isPrivate va then
        let old := ofBytesLE (s.skRead c.id c.k va size)
        (s.skWrite c.id c.k va (toBytesLE size (atomNew op (8 * size) old v cmp)), old, false)
      else s.homeAtomic j.asid agent va size op v cmp c.k.raceReport
    let s := if f.ch == 0 then s.modSkein c.id fun k => k.putBytes false a.reg a.lane (toBytesLE size old) else s
    if raced && c.k.raceTrap then s.modSkein c.id (·.raceErr a.lane a.va name) else s) (c.named s name)
/-- ATOM (R303): no store passes an earlier load of its strand (R137), and it follows its core's own messages for the words. It acts in the
step that issues it (log 99). -/
def execAtom (op : BitVec 4) (f : MFmt) (s : State) : Out :=
  withStrand s fun c =>
    if !atomRegsOk op.toNat f (s.vlimit c.k) then c.illegal s
    else
      let size := szBytes f.sz
      let ls := c.mLanes f size
      let data (a : LaneAcc) : List Byte :=
        toBytesLE size (atomV f c.k a.lane) ++ (if op == 9 then toBytesLE size (atomC f c.k a.lane) else [])
      if ls.isEmpty then c.skip s
      else match s.unperformedLoads c.id c.st with
        | o :: os => c.wait s (.memops ((o :: os).map (·.id)) 0)
        | [] =>
          if ls.any fun a => s.sectorBusy (s.l1 c.id.core) (s.asidOf c.k) (sectorVa a.va.toNat) then c.wait s (.memops [] 1)
          else
            let cls := if f.ch == 0 then Cls.load else Cls.store
            c.access s size ls (fun s a => s.atomFate c size a) (c.atomLanes op.toNat f)
              (fun s => let (s, n) := s.fresh; c.skip (s.modSkein c.id (·.countDone (some cls) (c.x.part.getD n))))
              (fun s rs => c.remote false ⟨3, op.toNat, f.sz.toNat, 0, f.ch == 0, false, some cls, none⟩ data (lanesMask ls) s rs) .write

/-! ## Scratch accesses -/

/-- The checks of a scratch access over its lanes, then its effect (R108, R304, R355, R385). One that reads, or that stores to a part of a
word, meets an on-chip error last (R174). -/
def Ctx.scratch (c : Ctx) (s : State) (size : Nat) (reads : Bool) (ls : List LaneAcc) (perform : State → Group → State) : Out :=
  let act := lanesMask ls
  let off (a : LaneAcc) : Nat := a.va.toNat % 2 ^ 32
  if ls.isEmpty then c.skip s
  else match ls.find? fun a => !scrOk (s.lrecOf c.k) (off a) size with
    | some a => c.trap s 0x05 act (BitVec.ofNat 64 (off a))
    | none => match ls.find? fun a => off a % size != 0 with
      | some a => c.trap s 0x04 act (BitVec.ofNat 64 (off a))
      | none => match s.group? c.k.group with
        | some g => match ls.find? fun a => reads && (s.scrSoft g c.id.core (off a) size).isSome with
          | some a => c.trap s 0x07 act (BitVec.ofNat 64 (off a))
          | none => c.skip (perform s g)
        | none => c.skip s
/-- LDS (R355). -/
def execLds (f : MFmt) (s : State) : Out :=
  withStrand s fun c =>
    let n := szBytes f.sz
    if !f.regsOk (szRegs n) (s.vlimit c.k) then c.illegal s
    else
      let ls := c.mLanes f n
      c.scratch s n true ls fun s g => s.modSkein c.id fun k =>
        ls.foldl (fun k a => k.putBytes f.u a.reg a.lane (s.scrRead g c.id.core (a.va.toNat % 2 ^ 32) n)) k
/-- A store or atomic of scratch waits for the strand's earlier loads (R137). -/
def Ctx.afterLoads (c : Ctx) (s : State) (go : Out) : Out :=
  match s.unperformedLoads c.id c.st with
  | o :: os => c.wait s (.memops ((o :: os).map (·.id)) 0)
  | [] => go
/-- Does a write of a skein come before the matching wait of an operation (R149)? Members of a joint set wait each for its own; one that is
out of the list has waited. -/
def EngOp.writtenBy (o : EngOp) (id : SkId) (gid : Nat) : Bool :=
  o.group == gid && (o.members.isEmpty || o.members.length == 4 || o.members.any (·.sk == id))
/-- Scratch bytes a strand is about to write: engine operations of the group that are not waited for yet and open joint sets take note
(R149), and so does the strand for those that it issues before its next OFENCE (R147). -/
def Ctx.noteKeys (c : Ctx) (s : State) (keys : List Nat) : State :=
  let note (o : EngOp) : EngOp := if o.writtenBy c.id c.k.group then { o with tainted := o.tainted ++ keys } else o
  { s with
    ops := s.ops.map note, past := s.past.map note
    jointSets := s.jointSets.map fun (js : JointSet) =>
      if js.group == c.k.group then { js with tainted := js.tainted ++ keys.map fun key => (key, c.id) } else js }.modStrand
      c.id c.st fun x => { x with ownScr := x.ownScr ++ keys.map fun key => (key, Sparse.get 0 s.scratch key, s.clock) }
/-- The same for `n` bytes at one offset. -/
def Ctx.noteOff (c : Ctx) (s : State) (g : Group) (off n : Nat) : State :=
  c.noteKeys s ((List.range n).map fun i => scrKey g (scrCore c.id.core off) (off % 2 ^ 31 + i))
/-- The same for the lanes of an access. -/
def Ctx.noteStores (c : Ctx) (g : Group) (n : Nat) (s : State) (ls : List LaneAcc) : State :=
  c.noteKeys s (ls.flatMap fun a =>
    let off := a.va.toNat % 2 ^ 32
    (List.range n).map fun i => scrKey g (scrCore c.id.core off) (off % 2 ^ 31 + i)).eraseDups
/-- STS (R385): in ascending order, so that the highest lane's byte stands (R136). -/
def execSts (f : MFmt) (s : State) : Out :=
  withStrand s fun c =>
    let n := szBytes f.sz
    if !f.regsOk (szRegs n) (s.vlimit c.k) then c.illegal s
    else
      let ls := c.mLanes f n
      c.afterLoads s (c.scratch s n (n < 4) ls fun s g =>
        ls.foldl (fun s a => s.scrWrite g c.id.core (a.va.toNat % 2 ^ 32) (c.k.dataBytes f.u a.reg n a.lane)) (c.noteStores g n s ls))
/-- ATOMS (R304). -/
def execAtoms (op : BitVec 4) (f : MFmt) (s : State) : Out :=
  withStrand s fun c =>
    let n := szBytes f.sz
    if !atomRegsOk op.toNat f (s.vlimit c.k) then c.illegal s
    else
      let ls := c.mLanes f n
      c.afterLoads s (c.scratch s n true ls fun s g =>
        ls.foldl (fun s a =>
          let off := a.va.toNat % 2 ^ 32
          let old := ofBytesLE (s.scrRead g c.id.core off n)
          let s := s.scrWrite g c.id.core off (toBytesLE n (atomNew op.toNat (8 * n) old (atomV f c.k a.lane) (atomC f c.k a.lane)))
          if f.ch == 0 then s.modSkein c.id fun k => k.putBytes false a.reg a.lane (toBytesLE n old) else s) (c.noteStores g n s ls))

end Sys2Proof.Machine
end

