-- ==== Sys2Proof/Machine/Barrier.lean ====
section
/-! DEFINITION. Barrier words and transaction barriers in scratch (R192 to R196, R306, R387). -/

namespace Sys2Proof.Machine

/-! ## Transaction barriers (R192 to R194) -/

/-- A transaction barrier's counts (R192). -/
structure TBar where
  land : Nat
  arr : Nat
  quota : Nat
  epoch : Nat
  deriving DecidableEq, Repr

def TBar.ofNat (x : Nat) : TBar := ⟨bitsNat x 63 32, bitsNat x 31 20, bitsNat x 19 8, bitsNat x 7 0⟩
def TBar.toNat (b : TBar) : Nat := b.land * 2 ^ 32 + b.arr * 2 ^ 20 + b.quota * 2 ^ 8 + b.epoch
/-- Settle (R193). -/
def TBar.settle (b : TBar) : TBar := if b.arr == 0 && b.land == 0 then { b with epoch := (b.epoch + 1) % 256, arr := b.quota } else b

def State.tbar (s : State) (g : Group) (core off : Nat) : TBar := TBar.ofNat (ofBytesLE (s.scrRead g core off 8))
def State.setTbar (s : State) (g : Group) (core off : Nat) (b : TBar) : State := s.scrWrite g core off (toBytesLE 8 b.toNat)
/-- Name of a barrier of a group: the window's core and the offset in it. -/
def barKey (core off : Nat) : Nat := scrCore core off * 2 ^ 31 + off % 2 ^ 31

/-- One update of a barrier, Settle, and after an epoch step the arrivals that were held, each once (R193, R194). -/
def State.tbUpdate (s : State) (gid core off : Nat) (f : TBar → TBar) : State :=
  match s.group? gid with
  | none => s
  | some g =>
    let b0 := f (s.tbar g core off)
    let b := b0.settle
    if b.epoch == b0.epoch then s.setTbar g core off b
    else
      let key := barKey core off
      let held := (g.heldArr.filter (·.1 == key)).length
      let (b, left) := (List.range held).foldl (fun ((b, left) : TBar × Nat) _ =>
        if b.arr == 0 then (b, left + 1) else ({ b with arr := b.arr - 1 }.settle, left)) (b, 0)
      (s.setTbar g core off b).modGroup gid fun g =>
        { g with heldArr := g.heldArr.filter (·.1 != key) ++ List.replicate left (key, b.epoch) }
/-- Engine landing credits (R189, R193). -/
def State.tbCredit (s : State) (gid core off units : Nat) : State :=
  s.tbUpdate gid core off fun b => { b with land := wrapNat 32 ((b.land : Int) - units) }
/-- An engine arrival: held while ARR is 0 (R193). -/
def State.tbArrive (s : State) (gid core off : Nat) : State :=
  match s.group? gid with
  | none => s
  | some g =>
    let b := s.tbar g core off
    if b.arr == 0 then s.modGroup gid fun g => { g with heldArr := g.heldArr ++ [(barKey core off, b.epoch)] }
    else s.tbUpdate gid core off fun b => { b with arr := b.arr - 1 }

/-- A barrier instruction: it acts once, at an offset in the window and aligned (R108, R193, R196), on a barrier without an on-chip error
(R174, R387). A word that already waits keeps the offset it read. -/
def Ctx.barrier (c : Ctx) (s : State) (f : SFmt) (size : Nat) (go : State → Group → Nat → Out) : Out :=
  let off := match c.x.wait with
    | .arrive o _ _ | .barGen o _ | .barwt o _ | .tbwait o _ => o
    | _ => (c.k.s f.sa.toNat).toNat % 2 ^ 32
  let act := c.active f.g f.gn
  if !c.acts f.g f.gn then c.skip s
  else if !scrOk (s.lrecOf c.k) off size then c.trap s 0x05 act (BitVec.ofNat 64 off)
  else if off % size != 0 then c.trap s 0x04 act (BitVec.ofNat 64 off)
  else match s.group? c.k.group with
    | some g =>
      if (s.scrSoft g c.id.core off size).isSome then c.trap s 0x07 act (BitVec.ofNat 64 off) else go s g off
    | none => c.skip s

/-- TBINIT (R193): a store of scratch follows the strand's loads. -/
def execTbinit (f : SFmt) (s : State) : Out :=
  withStrand s fun c => c.barrier s f 16 fun s g off =>
    c.afterLoads s (c.skip ((c.noteOff s g off 16).scrWrite g c.id.core off (toBytesLE 16 (TBar.toNat ⟨0, f.imm.toNat, f.imm.toNat, 0⟩))))
/-- TBARV (R193, R194): a release at group scope. -/
def execTbarv (f : SFmt) (s : State) : Out :=
  withStrand s fun c => c.barrier s f 16 fun s g off =>
    if (s.tbar g c.id.core off).arr == 0 then c.trap s 0x11 (c.active f.g f.gn)
    else c.release s 0 fun s =>
      if (s.tbar g c.id.core off).arr == 0 then c.trap s 0x11 (c.active f.g f.gn)
      else c.skip ((c.noteOff s g off 8).tbUpdate c.k.group c.id.core off fun b =>
        { b with land := (b.land + f.imm.toNat + (c.k.s f.d.toNat).toNat % 2 ^ 32) % 2 ^ 32, arr := b.arr - 1 })
/-- TBWAIT (R193, R194): an acquire at group scope once the epoch has changed. -/
def execTbwait (f : SFmt) (s : State) : Out :=
  withStrand s fun c => c.barrier s f 16 fun s g off =>
    let (off, e) := match c.x.wait with
      | .tbwait o e => (o, e)
      | _ => (off, ((c.k.s f.d.toNat).toNat % 256 + f.imm.toNat) % 256)
    if (s.tbar g c.id.core off).epoch != e then c.acquire s 0 0xFFFF fun s => c.skip s
    else c.wait s (.tbwait off e)
/-- TBTEST (R193). -/
def execTbtest (f : SFmt) (s : State) : Out :=
  withStrand s fun c => c.barrier s f 16 fun s g off =>
    c.done s (c.k.setS f.d.toNat (BitVec.ofNat 64 (ofBytesLE (s.scrRead g c.id.core off 8))))

/-! ## Barrier words (R195, R196, R306) -/

/-- A barrier word (R195). -/
structure BarWord where
  gen : Nat
  arrived : Nat
  expected : Nat
  deriving DecidableEq, Repr

def BarWord.ofNat (x : Nat) : BarWord := ⟨bitsNat x 35 32, bitsNat x 31 16, bitsNat x 15 0⟩
def BarWord.toNat (w : BarWord) : Nat := w.gen * 2 ^ 32 + w.arrived * 2 ^ 16 + w.expected
def State.barWord (s : State) (g : Group) (core off : Nat) : BarWord := BarWord.ofNat (ofBytesLE (s.scrRead g core off 8))
def State.setBarWord (s : State) (g : Group) (core off : Nat) (w : BarWord) : State := s.scrWrite g core off (toBytesLE 8 w.toNat)

/-- Arriving units: the skein, or its halves under H16 (R79). -/
def unitMask (h16 : Bool) (u : Nat) : Mask := if !h16 then 0xFFFFFFFF else if u == 0 then 0x0000FFFF else 0xFFFF0000
def unitsOf (h16 : Bool) (m : Mask) : List Nat :=
  if !h16 then [0] else [0, 1].filter fun u => m &&& unitMask true u != 0

/-- Lanes of a skein that have reached a barrier word for a unit: those that wait to arrive there, the unit not having arrived for them yet;
besides these, those that passed (R306). -/
def Skein.waitingAt (k : Skein) (core key u : Nat) : Mask :=
  k.live.foldl (fun m (_, x) => match x.wait with
    | .arrive off _ cs => if barKey core off == key && !cs.any (·.1 == u) then m ||| x.mask else m
    | _ => m) 0
def Skein.passedAt (k : Skein) (core key : Nat) : Mask := Tab.getD k.passed (core, key) 0
/-- Has a unit arrived: every unexited lane of it reached the word, one at least by a true guard (R196, R306)? -/
def Skein.unitDone (k : Skein) (h16 : Bool) (core key u : Nat) (self : Mask) : Bool :=
  let m := Mask.diff (unitMask h16 u) k.exited
  let w := (k.waitingAt core key u ||| self) &&& m
  w != 0 && Mask.diff m (w ||| k.passedAt core key) == 0
/-- Forget the lanes of a unit that passed. -/
def Skein.clearPassed (k : Skein) (h16 : Bool) (core key u : Nat) : Skein :=
  { k with passed := Tab.update k.passed (core, key) 0 fun m => Mask.diff m (unitMask h16 u) }

/-- Count the arrival of a unit: the generation it met; none where EXPECTED differs from n (R196). -/
def BarWord.arrive (w : BarWord) (n : Nat) : Option (BarWord × Nat) :=
  let w := if w.arrived == 0 then { w with expected := n } else w
  if w.expected != n then none
  else
    let a := w.arrived + 1
    some (if a == w.expected then { w with arrived := 0, gen := (w.gen + 1) % 16 } else { w with arrived := a }, w.gen)
/-- Every strand of the skein that waits on the word for a unit learns of its arrival. -/
def Skein.noteArrival (k : Skein) (core key u g : Nat) : Skein :=
  k.live.foldl (fun k (i, x) => match x.wait with
    | .arrive off n cs => if barKey core off == key && !cs.any (·.1 == u) then k.modStrand i fun x => { x with wait := .arrive off n (cs ++ [(u, g)]) } else k
    | _ => k) k

/-- Arrivals of the units a strand holds that are due now, half 0 first; the counts the strand has, or none at a mismatch. -/
def State.arrivals (s : State) (c : Ctx) (gr : Group) (off n : Nat) (h16 : Bool) :
    List Nat → List (Nat × Nat) → Option (State × List (Nat × Nat))
  | [], cs => some (s, cs)
  | u :: us, cs =>
    let key := barKey c.id.core off
    let k := (s.skein? c.id).getD c.k
    if cs.any (·.1 == u) || !k.unitDone h16 c.id.core key u c.x.mask then s.arrivals c gr off n h16 us cs
    else match (s.barWord gr c.id.core off).arrive n with
      | none => none
      | some (w, g) =>
        let s := ((c.noteOff s gr off 8).setBarWord gr c.id.core off w).modSkein c.id fun k =>
          (k.noteArrival c.id.core key u g).clearPassed h16 c.id.core key u
        s.arrivals c gr off n h16 us (cs ++ [(u, g)])

/-- A strand at BAR or BARARV (R196): it arrives, or waits for its skein's other lanes; `next` goes on once every half it holds has
arrived. -/
def Ctx.arrive (c : Ctx) (s : State) (f : SFmt) (next : State → Group → Nat → List (Nat × Nat) → Out) : Out :=
  let h16 := s.h16 c.k
  if !c.acts f.g f.gn then
    -- its lanes count as having reached the word (R306)
    let off := (c.k.s f.sa.toNat).toNat % 2 ^ 32
    let key := barKey c.id.core off
    let k := { c.k with passed := Tab.update c.k.passed (c.id.core, key) 0 (· ||| c.x.mask) }
    let k := (unitsOf h16 0xFFFFFFFF).foldl (fun k u =>
      if Mask.diff (Mask.diff (unitMask h16 u) k.exited) (k.passedAt c.id.core key) == 0 then k.clearPassed h16 c.id.core key u else k) k
    c.done s k
  else c.barrier s f 8 fun s g off =>
    let go (s : State) (off n : Nat) (cs : List (Nat × Nat)) : Out :=
      match s.arrivals c g off n h16 (unitsOf h16 c.x.mask) cs with
      | none => c.trap s 0x11 (c.active f.g f.gn)
      | some (s, cs) =>
        if (unitsOf h16 c.x.mask).all fun u => cs.any (·.1 == u) then next s g off cs
        else c.wait s (.arrive off n cs)
    match c.x.wait with
    | .arrive off n cs => go s off n cs
    | _ => c.release s 0 fun s => go s off f.imm.toNat []
/-- BAR once its halves have arrived: it waits until the generation has moved past each g, then acquires (R144, R196). -/
def Ctx.barGen (c : Ctx) (s : State) (f : SFmt) (g : Group) (off : Nat) (gs : List Nat) : Out :=
  let now := (s.barWord g c.id.core off).gen
  if (s.scrSoft g c.id.core off 8).isSome then c.trap s 0x07 (c.active f.g f.gn) (BitVec.ofNat 64 off)
  else if gs.all (· != now) then c.acquire s 0 f.mask fun s => c.skip s
  else c.wait s (.barGen off gs)
/-- BAR (R196). -/
def execBar (f : SFmt) (s : State) : Out :=
  withStrand s fun c =>
    match c.x.wait, s.group? c.k.group with
    | .barGen off gs, some g => c.barGen s f g off gs
    | _, _ => c.arrive s f fun s g off cs => c.barGen s f g off (cs.map (·.2))
/-- The generation that the lowest half of a strand met. -/
def lowestArrival (cs : List (Nat × Nat)) : Nat :=
  match cs.find? (·.1 == 0), cs with
  | some (_, g), _ => g
  | none, (_, g) :: _ => g
  | none, [] => 0
/-- BARARV (R196). -/
def execBararv (f : SFmt) (s : State) : Out :=
  withStrand s fun c => c.arrive s f fun s _ _ cs =>
    c.skip (s.modSkein c.id fun k => k.setS f.d.toNat (BitVec.ofNat 64 (lowestArrival cs)))
/-- BARWT (R196). -/
def execBarwt (f : SFmt) (s : State) : Out :=
  withStrand s fun c => c.barrier s f 8 fun s g off =>
    let (off, gen) := match c.x.wait with
      | .barwt o n => (o, n)
      | _ => (off, (c.k.s f.d.toNat).toNat % 16)
    if (s.barWord g c.id.core off).gen != gen then c.acquire s 0 f.mask fun s => c.skip s
    else c.wait s (.barwt off gen)

end Sys2Proof.Machine
end

