-- ==== Sys2Proof/Machine/Control.lean ====
section
/-! DEFINITION. Control flow: block headers, branches, calls, exits, rejoin registers, YIELD, NOP (R67 to R76, R310 to R315,
R321, R364, R376, R377, R395). -/

namespace Sys2Proof.Machine

/-! ## Headers -/

/-- The header's ISAREV and H16 agree with the code's (R24, R68, R237). -/
def State.revOk (s : State) (k : Skein) (h : HFmt) : Bool :=
  match k.trap with
  | some t => match t.vecHdr with
    | some v => v.isarev == h.isarev && v.h16 == h.h16
    | none => h.isarev == 1 || h.isarev == 2
  | none => match s.group? k.group with
    | some g => (k.started || !g.entryBad) && match g.entryHdr with
      | some (r, b) => r == h.isarev && b == h.h16
      | none => (k.started || h.e) && (h.isarev == 1 || h.isarev == 2)
    | none => true
/-- The first fetch of a skein at the entry VA finds no header that R24 takes: every other skein of the group takes the same trap there. -/
def State.noteBadEntry (s : State) (id : SkId) (k : Skein) : State :=
  if k.started || k.trap.isSome then s
  else (s.modSkein id fun k => { k with started := true }).modGroup k.group fun g => if g.entryHdr.isNone then { g with entryBad := true } else g
/-- The first header of the trap vector, and the entry header, are remembered (R24, R237). -/
def State.noteHeader (s : State) (id : SkId) (k : Skein) (h : HFmt) : State :=
  match k.trap with
  | some t => if t.vecHdr.isSome then s else s.modSkein id fun k => { k with trap := some { t with vecHdr := some h } }
  | none => (s.modSkein id fun k => { k with started := true }).modGroup k.group fun g =>
      if g.entryHdr.isSome then g else { g with entryHdr := some (h.isarev, h.h16) }
/-- A nonzero PFH loads and verifies a code line ahead: its faults start resolution, and it never parks or traps (R163, R269). -/
def State.prefetchLine (s : State) (j : Job) (die : Nat) (hdr : W64) (h : HFmt) : State :=
  if h.pfh == 0 then s
  else
    let va := hdr.toNat / 512 * 512
    let line : W64 := BitVec.ofNat 64 va + 512 * h.pfh.signExtend 64
    match s.fetchVerified j die line with
    | (s, .park) => s.reportFault j.asid line.toNat
    | (s, _) => s
/-- A skein that has issued an S header since its group's restore (R60). -/
def State.noteSafe (s : State) (k : Skein) : State :=
  s.modGroup k.group fun g => if g.restoredAt.isSome && !g.sSeen.contains k.index then { g with sSeen := g.sSeen ++ [k.index] } else g

/-- BLOCK_HEADER (R24, R58, R67, R68, R267). -/
def execBlockHeader (h : HFmt) (s : State) : Out :=
  withStrand s fun c =>
    if !c.x.atHeader || h.len == 0 || h.rsv != 0 || !s.revOk c.k h then c.trap (s.noteBadEntry c.id c.k) 0x03 c.x.mask c.x.pc
    else
      let s := (s.noteHeader c.id c.k h).prefetchLine (s.jobOf c.k) (dieOf c.id.core) c.x.pc h
      let s := if h.s then s.noteSafe c.k else s
      .next (({ s with cur := none }.modStrand c.id c.st fun x =>
        { x.retired with blk := some ⟨x.pc, h, h.len.toNat⟩, count := if h.s then 0 else x.count }).settle c.id)

/-! ## Branches (R310 to R315) -/

/-- The join PC of the block a strand is in; none for JOIN = 0 (R67). -/
def Strand.joinPc (x : Strand) : Option W64 :=
  match x.blk with
  | some b => if b.hdr.join == 0 then none else some (b.va + 8 * b.hdr.join.signExtend 64)
  | none => none
/-- PC + 8 · SExt(OFF, 64). -/
def Ctx.rel (c : Ctx) (off : BitVec 24) : W64 := c.x.pc + 8 * off.signExtend 64

/-- Lanes per distinct target, in ascending order of the lowest lane that takes it. -/
def groupTargets (ls : List (Nat × W64)) : List (W64 × Mask) :=
  ls.foldl (fun acc (l, t) => Tab.update acc t 0 fun m => m ||| Mask.lane l) []

/-- Move lanes to targets checked first: `first` for the lanes that keep the entry (none: they continue at the next word),
`others` for each part that divides off; `link` is CALL's write (R69 to R71, R310). -/
def Ctx.branch (c : Ctx) (s : State) (first : Option W64) (others : List (W64 × Mask)) (link : Skein → Skein) : Out :=
  let j := s.jobOf c.k
  let join := c.x.joinPc
  let ts := others.map (·.1)
  let ts := match first with | some t => t :: ts | none => ts
  let r := s.targets j (dieOf c.id.core) c.k.trap.isSome ts
  let r := match r, others, join with
    | (s, .ok), _ :: _, some jp => s.targets j (dieOf c.id.core) false [jp]
    | r, _, _ => r
  match r with
  | (s, .trap cause va) => c.trap (if cause == 0x06 then s.logFault c.id c.k .fetch va.toNat else s) cause (c.x.mask &&& c.k.guard (fld c.iw 51 3) (flag c.iw 50)) va
  | (s, .park vas) => .next (s.parkSkein c.id c.st c.x.mask c.x.mask (.fault vas))
  | (s, .failed) => .next (s.fetchFailed c.id c.st)
  | (s, .ok) =>
    let s := s.setSkein c.id (link c.k)
    let s := others.foldl (fun s (t, m) => s.diverge c.id c.st m t join) s
    match first with
    | some t => c.jump s t
    | none => .next (s.retire c.id c.st)

/-- BRA (R311). -/
def execBra (f : CFmt) (s : State) : Out := withStrand s fun c => c.branch s (some (c.rel f.off)) [] id
/-- BRC (R312). -/
def execBrc (f : CFmt) (s : State) : Out :=
  withStrand s fun c =>
    let taken := c.x.mask &&& c.k.guard f.g f.gn
    if taken == 0 then c.skip s
    else if taken == c.x.mask then c.branch s (some (c.rel f.off)) [] id
    else c.branch s none [(c.rel f.off, taken)] id
/-- BRU (R313). -/
def execBru (f : CFmt) (s : State) : Out :=
  withStrand s fun c =>
    if cmpInt f.imm.toNat (c.k.s f.sx.toNat).toInt 0 then c.branch s (some (c.rel f.off)) [] id else c.skip s
/-- Indirect targets (R310): per lane from a register pair, or one s-register. -/
def Ctx.indirect (c : Ctx) (s : State) (f : CFmt) (link : Skein → Skein) : Out :=
  let r := f.imm.toNat % 512
  if f.imm.getLsbD 9 then
    if !vregOk (s.vlimit c.k) r 2 then c.illegal s
    else match groupTargets ((Mask.lanes c.x.mask).map fun l => (l, c.k.v64 r l)) with
      | (t, _) :: rest => c.branch s (some t) rest link
      | [] => c.skip s
  else if r ≥ 64 then c.illegal s
  else c.branch s (some (c.k.s r)) [] link
/-- BRX (R314). -/
def execBrx (f : CFmt) (s : State) : Out := withStrand s fun c => c.indirect s f id
/-- The link of CALL and CALLX (R315). -/
def Ctx.link (c : Ctx) (f : CFmt) (k : Skein) : Skein := k.setS f.sx.toNat (c.x.pc + 8)
/-- CALL (R315). -/
def execCall (f : CFmt) (s : State) : Out := withStrand s fun c => c.branch s (some (c.rel f.off)) [] (c.link f)
/-- CALLX (R315). -/
def execCallx (f : CFmt) (s : State) : Out := withStrand s fun c => c.indirect s f (c.link f)
/-- RET (R376). -/
def execRet (f : CFmt) (s : State) : Out := withStrand s fun c => c.branch s (some (c.k.s f.sx.toNat)) [] id

/-! ## NOP, YIELD -/

/-- NOP (R364). -/
def execNop (_f : CFmt) (s : State) : Out := withStrand s fun c => c.skip s
/-- YIELD (R395). -/
def execYield (f : CFmt) (s : State) : Out :=
  withStrand s fun c =>
    if c.active f.g f.gn == 0 || f.imm == 0 then c.skip s
    else .next (({ s with cur := none }.modStrand c.id c.st fun x =>
      { x.retired with wait := .delay (s.clock + f.imm.toNat) }).settle c.id)
/-- YIELD_DELAY_END (R395): every delay whose cycles are over ends. -/
def execYieldDelayEnd (s : State) : Out :=
  let ended (x : Strand) : Bool := match x.wait with | .delay t => t ≤ s.clock | _ => false
  .next (s.skeins.foldl (fun s (id, k) =>
    if !(s.core id.core).frozen && k.live.any fun (_, x) => ended x then
      (s.modSkein id fun k => k.live.foldl (fun k (i, x) => if ended x then k.modStrand i fun x => { x with wait := .none } else k) k).settle id
    else s) s)

/-! ## Rejoin registers (R73, R74) -/

/-- RJSET. -/
def execRjset (f : CFmt) (s : State) : Out :=
  withStrand s fun c =>
    let act := c.active f.g f.gn
    if act == 0 then c.skip s
    else c.done s (c.k.setRejoin f.rj.toNat (if f.imm == 1 then act else (c.k.s f.sx.toNat).truncate 32))
/-- RJDROP. -/
def execRjdrop (f : CFmt) (s : State) : Out :=
  withStrand s fun c => c.done s (c.k.setRejoin f.rj.toNat (Mask.diff (c.k.rejoin f.rj.toNat) (c.active f.g f.gn)))
/-- The pass lanes of an RJOIN go on in a free entry; both parts carry the strand's join records (R74, R414). -/
def Skein.splitPass (k : Skein) (st free : Nat) (x : Strand) (pass : Mask) (clock : Nat) : Skein :=
  let new : Strand := { x.retired with mask := pass, nest := joinsOf x.nest, lastIssue := clock }
  (k.setStrand free (some new)).modStrand st fun y => { y with mask := Mask.diff x.mask pass }
/-- RJOIN. -/
def execRjoin (f : CFmt) (s : State) : Out :=
  withStrand s fun c =>
    let n := f.rj.toNat
    let w := c.active f.g f.gn &&& c.k.rejoin n
    let pass := Mask.diff c.x.mask w
    if w == 0 then c.skip s
    else if stackDepth c.x.nest != 0 then
      .next ((s.setSkein c.id (c.k.setRejoin n (Mask.diff (c.k.rejoin n) w))).reportLost c.id c.low |>.retire c.id c.st)
    else
      let s := match c.k.freeEntry with
        | some e => if pass != 0 then (s.forkOps c.id c.st e).modSkein c.id fun k => k.splitPass c.st e c.x pass s.clock else s
        | none => s
      c.wait s (.rjoin n)

/-! ## EXIT (R321) -/

/-- The lanes of `x` exit (Exit(x) of R321); in trap mode the mode ends with the strand's lanes (R237). -/
def State.exitLanes (s : State) (id : SkId) (st : Nat) (x : Mask) : State :=
  match s.skein? id with
  | none => s
  | some k =>
    let exited := k.exited ||| x
    let s := { s with cur := none }.modSkein id fun k =>
      { k with exited := exited, rj := k.rj.map fun m => Mask.diff m x, trap := k.trap.filter (·.strand != st) }
    let s := s.modStrand id st fun y => { y.retired with mask := Mask.diff y.mask x }
    if exited == 0xFFFFFFFF then
      (s.modSkein id fun k => { k with exitedAll := true }).discardSkein id
    else s.settle id

/-- Have the skein's counted and handled operations finished (R243, R321)? -/
def Skein.quiet (k : Skein) : Bool := k.cntL == 0 && k.cntS == 0 && k.cntC == 0 && k.cntM == 0 && k.ops.isEmpty
/-- The first error not reported: of the operations with a handle the earliest issued, then one without a handle (R243, R321):
cause, address, its operation where it had a handle, and the skein with it marked as reported. A race and lost reconvergence are trapped
before a strand's next word only (R76, R130). -/
def Skein.takeError (k : Skein) : Option (Nat × W64 × Option Nat × Skein) :=
  match k.failed with
  | (op, cause, fva) :: r => some (cause, fva, some op, { k with failed := r })
  | [] => (k.pendErrs.find? fun e => e.cause != 0x08 && e.cause != 0x0B).map fun e =>
      (e.cause, e.fva, none, { k with pendErrs := k.pendErrs.erase e })

/-- A last EXIT, or an SVC, whose wait is over takes the trap of an error that has not been reported (R243, R321). -/
def State.errorAt (s : State) (id : SkId) (st : Nat) (k : Skein) (x : Strand) (e : Nat × W64 × Option Nat × Skein) : State :=
  let (cause, fva, handled, k') := e
  let s := match handled with
    | some op => ((s.setSkein id k').endHandles id.core op).noteReported id.core op
    | none => s.setSkein id k'
  let s := s.freeEntries id.core
  let iw := (s.peekCode id k x.pc).getD 0
  let unfin := if handled.isSome then x.mask &&& k.guard (fld iw 51 3) (flag iw 50) else 0
  (s.modStrand id st fun x => { x with wait := .none }).takeTrap id ⟨cause, x.pc, unfin, fva, 0, false, st⟩ iw

/-- The last EXIT of a skein, once its operations are done: an error is trapped first, else every lane exits. -/
def State.lastExit (s : State) (id : SkId) (st : Nat) (k : Skein) (x : Strand) : State :=
  match k.takeError with
  | some e => s.errorAt id st k x e
  | none => s.exitLanes id st (Mask.diff 0xFFFFFFFF k.exited)

/-- EXIT (R237, R321). -/
def execExitOp (f : CFmt) (s : State) : Out :=
  withStrand s fun c =>
    let x := c.active f.g f.gn
    if x == 0 then c.skip s
    else if Mask.diff (~~~ c.k.exited) x == 0 then
      if c.k.quiet then .next (s.lastExit c.id c.st c.k c.x) else c.wait s .lastExit
    else .next (s.exitLanes c.id c.st x)
/-- LAST_EXIT_RELEASE (R321). -/
def execLastExitRelease (id : SkId) (st : Nat) (s : State) : Out :=
  match s.skein? id with
  | none => .next s
  | some k => match k.strand? st with
    | none => .next s
    | some x => .next (if x.wait == .lastExit && k.quiet && !(s.core id.core).frozen then s.lastExit id st k x else s)

end Sys2Proof.Machine
end

