-- ==== Sys2Proof/Machine/Messages.lean ====
section
/-! DEFINITION. The registration messages as events: each delivers the first message of its pair of ends when that is of its
kind, and changes nothing otherwise (R118 to R130, R141). -/

namespace Sys2Proof.Machine

/-- Does a word of a message touch a lane of the operation? Its lowest such lane, with the address. -/
def MemOp.laneAt (o : MemOp) (wa : Nat) : Option (Nat × W64) :=
  match o.lanes.find? fun a => (wordsOf a.va.toNat o.size).contains wa with
  | some a => some (a.lane, a.va)
  | none => none

/-- Install the words that a load's DATA has brought, every part having come, but for regions that an ACQ has named since and words that
an engine's completion has invalidated or the core has written (R127, R137, R141, R148). Where the L1 holds another value by now, which of
the two is newer is not known there, so it keeps neither (log 77). -/
def State.installData (s : State) (agent : Nat) (o : MemOp) : State :=
  o.fill.foldl (fun (s : State) ((key, x) : Nat × W32) =>
    let asid := key / 2 ^ 55
    let wa := key % 2 ^ 55
    match s.jobOfAsid? asid with
    | none => s
    | some j =>
      let region := regionOf j (4 * wa)
      if o.stale.getLsbD region || o.noFill.contains (asid, wa) then s
      else match s.cword? agent asid wa with
        | none => if s.l1Fits agent asid wa [] then (s.l1Room agent asid wa).setCword agent asid wa ⟨.valid, x, 0, region, false, .none⟩ else s
        | some c => if c.stale && c.data != x then s.dropCword agent asid wa else s) s
/-- Registers that a load writes, by 32·r + l. -/
def LaneAcc.keys (a : LaneAcc) (size : Nat) : List Nat := (List.range ((size + 3) / 4)).map fun i => 32 * (a.reg + i) + a.lane
/-- Registers that a load of a skein has written while joint operations that it issued later have them as operands: the engine reads each
element old or new (R147). -/
def State.landMembers (s : State) (id : SkId) (op : Nat) (keys : List Nat) : State :=
  if s.jointSets.isEmpty && s.ops.all (·.members.isEmpty) && s.past.isEmpty then s
  else match s.skein? id with
    | none => s
    | some k =>
      let land (m : JointMember) : JointMember :=
        if m.sk != id || m.op ≤ op then m
        else
          let mine := keys.filter fun key => m.oldRegs.any (·.1 == key)
          mine.foldl (fun m key =>
            let now := Sparse.get 0 k.vregs key
            { m with regs := Tab.set m.regs key (mergeWord (Tab.getD m.regs key 0) now (pickMask m.desc.aFmt (Config.freeW64 (s.freeCtr + key))))
                     oldRegs := Tab.set m.oldRegs key now }) m
      let inOp (o : EngOp) : EngOp := { o with members := o.members.map land }
      { s with freeCtr := s.freeCtr + 2 ^ 14, ops := s.ops.map inOp, past := s.past.map inOp
               jointSets := s.jointSets.map fun (js : JointSet) => { js with members := js.members.map land } }
/-- A memory operation whose words have all come or been acknowledged is performed (R140, R176), and the sectors of a load fill (R127). A
load whose word has failed its check after the issue is trapped before the strand's next word (R173; log 17). -/
def State.endMemop (s : State) (o : MemOp) : State :=
  if !o.need.isEmpty then s
  else
    let s := { s with memops := s.memops.filter fun (x : MemOp) => !(x.id == o.id && x.need.isEmpty) }
    let s := if o.isLoad then s.installData (s.l1 o.sk.core) o else s
    match s.skein? o.sk with
    | none => s
    | some k =>
      let k := if o.isLoad then k.landLoad o (s.asidOf k) else k
      let k := match o.failed with | some (l, va) => k.addErr 0x07 va l | none => k
      let k := match o.onRace, o.raced with | true, some (l, va) => k.raceErr l va o.cnt | _, _ => k
      let s := s.setSkein o.sk k
      let s := if o.isLoad && !o.uniform then s.landMembers o.sk o.id (o.lanes.flatMap fun a => a.keys o.size) else s
      (s.finishPart o.sk o.cls o.cnt).settle o.sk

/-- The operation a message serves, changed and then ended if it is complete. -/
def State.servedOp (s : State) (op : Nat) (f : MemOp → MemOp) : State :=
  let s := s.modMemop op f
  match s.memop? op with
  | some o => s.endMemop o
  | none => s

/-- An eviction chosen by the replacement of an LLC: ASID · 2^48 + VA/512 (R119). -/
def State.victimLine (s : State) (home : Node) : Option Nat → State
  | none => s
  | some v => s.evictLine home (v / 2 ^ 48) (v % 2 ^ 48)
/-- An eviction chosen by the replacement of an L1: ASID · 2^50 + VA/128 (R124). -/
def State.victimSector (s : State) (agent : Nat) : Option Nat → State
  | none => s
  | some v => s.evictSector agent (v / 2 ^ 50) (v % 2 ^ 50 * 128)

/-- A request at its home: a line may go first, and the word's own is touched. -/
def State.homeTake (s : State) (victim : Option Nat) (m : Msg) : State :=
  ((s.victimLine m.dst victim).touchLine m.asid (m.sva / 4)).homeApply m
/-- REG at a home (R122). -/
def execRegMsg (src dst : Node) (victim : Option Nat) (s : State) : Out :=
  .next (s.deliver src dst .reg fun s m => s.homeTake victim m)
/-- SEAL at a home (R123). -/
def execSeal (src dst : Node) (s : State) : Out := .next (s.deliver src dst .seal fun s m => s.sealArrive m)
/-- RDQ at a home (R127). -/
def execRdq (src dst : Node) (victim : Option Nat) (s : State) : Out :=
  .next (s.deliver src dst .rdq fun s m => s.homeTake victim m)
/-- FWD at an owner (R121, R127). -/
def execFwd (src dst : Node) (s : State) : Out := .next (s.deliver src dst .fwd fun s m => s.fwdArrive m)
/-- RECALL at an owner (R125). -/
def execRecall (src dst : Node) (s : State) : Out := .next (s.deliver src dst .recall fun s m => s.recallArrive m)
/-- WB at a home (R124, R125). -/
def execWb (src dst : Node) (s : State) : Out := .next (s.deliver src dst .wb fun s m => s.wbArrive m)
/-- GONE at a home (R121). -/
def execGone (src dst : Node) (s : State) : Out := .next (s.deliver src dst .gone fun s m => s.goneArrive m)

/-- RACE at an agent (R130): logged under bit 1 of the issuing skein as sampled, and kept for its trap. -/
def execRace (src dst : Node) (s : State) : Out :=
  .next (s.deliver src dst .race fun s m =>
    match s.memop? m.op with
    | none => s
    | some o =>
      (Mask.lanes m.mask).foldl (fun s w =>
        let s := if o.report then s.logRace m.asid (4 * m.wa w) (nodeAgent m.dst) m.other m.rkind else s
        s.modMemop m.op fun (o : MemOp) =>
          { o with raced := match o.raced, o.laneAt (m.wa w) with
              | some (l, va), some (l', va') => some (if l' < l then (l', va') else (l, va))
              | none, x => x
              | x, none => x }) s)

/-- Loads of a core that wait for the REGACK of a word go on with its value (R122), and stores that wait for it are performed (R140). -/
def State.serveWaiting (s : State) (agent key : Nat) (v : W32) : State :=
  (s.memops.filter fun o => s.l1 o.sk.core == agent && !o.isSeal && o.need.contains key).foldl (fun (s : State) (o : MemOp) =>
    s.servedOp o.id fun o => { o with need := o.need.filter (· != key), got := if o.isLoad then o.got ++ [(key, v)] else o.got }) s
/-- A word whose REG has been applied (R122, R138): its registration stands for the word as it is here, with the home's bytes where no store
of the core's has written. One that has been recalled meanwhile serves the loads that waited and is then Invalid (R125). -/
def State.ackWord (s : State) (m : Msg) (w : Nat) : State :=
  let agent := nodeAgent m.dst
  match s.cword? agent m.asid (m.wa w) with
  | none => s.serveWaiting agent (wkey m.asid (m.wa w)) 0
  | some c =>
    let v := match m.words.find? (·.1 == w) with | some x => mergeWord x.2.1 c.data c.wmask | none => c.data
    let s :=
      if c.st == CSt.valid then (if c.awaiting then s.dropCword agent m.asid (m.wa w) else s)
      else s.setCword agent m.asid (m.wa w) { c with data := v, awaiting := false, claim := .live }
    s.serveWaiting agent (wkey m.asid (m.wa w)) v
/-- The acknowledgement of REGs: loads and stores that waited for it go on (R122, R140, R164). -/
def State.mergeAck (s : State) (m : Msg) : State :=
  if m.acksReg then (Mask.lanes m.mask).foldl (fun (s : State) w => s.ackWord m w) s else s
/-- Words acknowledged to the operation of their agent that the message names. -/
def State.ackWords (s : State) (m : Msg) : State :=
  let keys := (maskWords m.sva m.mask).map (wkey m.asid)
  let mine (o : MemOp) : Bool := o.id == m.op && s.l1 o.sk.core == nodeAgent m.dst
  let s := { s with memops := s.memops.map fun (o : MemOp) => if mine o then { o with need := o.need.filter (! keys.contains ·) } else o }
  (s.memops.filter mine).foldl (fun (s : State) (o : MemOp) => s.endMemop o) s
/-- REGACK at an L1 (R122). -/
def execRegack (src dst : Node) (s : State) : Out :=
  .next (s.deliver src dst .regack fun s m => (s.mergeAck m).ackWords m)
/-- SEALACK at an L1 (R123, R142). -/
def execSealack (src dst : Node) (s : State) : Out :=
  .next (s.deliver src dst .sealack fun s m => (s.mergeAck m).ackWords m)

/-- The lowest lane of a load that reads one of some words, if it still needs them (R173). -/
def MemOp.failsAt (o : MemOp) (ws : List Nat) (key : Nat → Nat) : Option (Nat × W64) :=
  (ws.filter fun w => o.need.contains (key w)).foldl (fun acc w => match acc, o.laneAt w with
    | some (l, va), some (l', va') => some (if l' < l then (l', va') else (l, va))
    | none, x => x
    | x, none => x) none
/-- DATA at a reader (R127). It is taken after a race report for the same load (R130). -/
def execDataMsg (src dst : Node) (victim : Option Nat) (s : State) : Out :=
  match s.firstMsg src dst with
  | none => .next s
  | some m0 =>
    if s.net.any fun x => x.kind == .race && x.op == m0.op && x.dst == dst then .next s
    else .next (s.deliver src dst .data fun s m =>
      let agent := nodeAgent m.dst
      let s := s.victimSector agent victim
      match s.memop? m.op with
      | none => s
      | some o =>
        let came := m.words.map fun ((w, x, _) : Nat × W32 × BitVec 4) => (wkey m.asid (m.wa w), x)
        let no := (maskWords m.sva m.rmask).map (wkey m.asid)
        let o : MemOp := { o with got := o.got ++ came.filter (fun y => o.need.contains y.1)
                                  fill := o.fill ++ came.filter fun y => !no.contains y.1
                                  need := o.need.filter fun n => !(came.any (·.1 == n) || no.contains n)
                                  failed := o.failed.or (o.failsAt (maskWords m.sva m.rmask) (wkey m.asid)) }
        s.servedOp m.op fun _ => o)

end Sys2Proof.Machine
end

