-- ==== Sys2Proof/Machine/Fence.lean ====
section
/-! DEFINITION. Fences and class counters: FENCE, ACQ, REL, OFENCE, WAITC, the fall of a counter (R139 to R141, R175 to R177). -/

namespace Sys2Proof.Machine

/-- FENCE (R140, R334). -/
def execFence (f : SFmt) (s : State) : Out :=
  withStrand s fun c =>
    if c.active f.g f.gn == 0 then c.skip s
    else c.release s f.sc.toNat fun s => c.acquire s f.sc.toNat 0xFFFF fun s => c.skip s
/-- ACQ (R140, R299). -/
def execAcq (f : SFmt) (s : State) : Out :=
  withStrand s fun c =>
    if c.active f.g f.gn == 0 then c.skip s else c.acquire s f.sc.toNat f.mask fun s => c.skip s
/-- REL (R140, R375). -/
def execRel (f : SFmt) (s : State) : Out :=
  withStrand s fun c =>
    if c.active f.g f.gn == 0 then c.skip s else c.release s f.sc.toNat fun s => c.skip s
/-- OFENCE (R140, R366): scratch accesses are performed at their issue, so it waits for the register writes of loads.
Engines that the strand issues later read what it has written so far (R147). -/
def execOfence (f : SFmt) (s : State) : Out :=
  withStrand s fun c =>
    if c.active f.g f.gn == 0 then c.skip s
    else c.afterLoads s (c.skip (s.modStrand c.id c.st fun x => { x with ownScr := [], fencedAt := s.clock, seenRegs := c.k.vregs }))

/-- The four bounds of WAITC: L, S, C, M (R177). -/
def waitcBounds (f : SFmt) : Nat × Nat × Nat × Nat :=
  let x := f.mask.toNat * 65536 + f.imm.toNat
  (bitsNat x 31 26, bitsNat x 25 20, bitsNat x 19 14, bitsNat x 13 8)
def Skein.within (k : Skein) (l st c m : Nat) : Bool := k.cntL ≤ l && k.cntS ≤ st && k.cntC ≤ c && k.cntM ≤ m
/-- A WAITC is the matching wait of the counted operations of its skein that are done (R149, R177). -/
def State.forgetPast (s : State) (id : SkId) : State :=
  { s with past := (s.past.filter fun o => !(o.sk == some id && o.entry.isNone)).map fun o =>
      { o with members := o.members.filter fun m => !(m.sk == id && m.entry.isNone) } }
/-- WAITC (R177, R391). -/
def execWaitc (f : SFmt) (s : State) : Out :=
  withStrand s fun c =>
    let (l, st, cp, m) := waitcBounds f
    if !c.acts f.g f.gn then c.skip s
    else if !c.k.within l st cp m then c.wait s (.waitc l st cp m)
    else c.done (s.forgetPast c.id) { c.k with hazards := c.k.hazards.filter fun h => h.entry.isSome || c.k.ops.contains h.op }

/-- CLASS_COUNTER_FALL (R176): the earliest counted operation of a class has finished, all its parts having been issued, so the counter
falls by 1. -/
def execClassCounterFall (id : SkId) (c : Cls) (s : State) : Out :=
  match s.skein? id with
  | none => .next s
  | some k => match k.fifo c with
    | (n, true) :: r => .next (if (s.core id.core).frozen || k.live.any (·.2.part == some n) then s else s.setSkein id (k.setFifo c r))
    | _ => .next s

end Sys2Proof.Machine
end

