-- ==== Sys2Proof/Machine/Handles.lean ====
section
/-! DEFINITION. Handles and the engine entry table: WAITH, HTEST, HCANCEL, HSAVE, HLOAD (R178 to R181, R339 to R341, R392). -/

namespace Sys2Proof.Machine

/-! ## Entries (R178) -/

def EngEntry.empty : EngEntry := ⟨0, false, 0, false, 0, 0, 0, false⟩
def Core.entry (c : Core) (e : Nat) : EngEntry := Tab.getD c.entries e EngEntry.empty
/-- The lowest free entry of the 1024. -/
def Core.freeEntry (c : Core) : Option Nat := (List.range 1024).find? fun e => !(c.entry e).live
/-- Free entries of a core. -/
def State.freeEntryCount (s : State) (core : Nat) : Nat := 1024 - ((s.core core).entries.filter fun (_, x) => x.live).length
/-- Allocate an entry for an operation; its generation rises where it had been used (R179; log 13). -/
def State.allocEntry (s : State) (core op : Nat) (pleat : Bool) : State × Option (Nat × Nat) :=
  match (s.core core).freeEntry with
  | none => (s, none)
  | some e =>
    let gen := match Tab.get? (s.core core).entries e with
      | some x => (x.gen + 1) % 65536
      | none => 0
    (s.modCore core fun c => { c with entries := Tab.set c.entries e ⟨gen, true, 1, false, 0, 0, op, pleat⟩ }, some (e, gen))

/-- What a handle register says now (R179). -/
inductive HState where
  | none
  | pending (e : Nat)
  | done (canc : Bool)
  /-- with its entry, where it names one -/
  | error (cause : Nat) (fva : W64) (e : Option Nat)
  deriving DecidableEq, Repr
def State.hstate (s : State) (core : Nat) : HReg → HState
  | .none => .none
  | .done canc => .done canc
  | .err cause => .error cause 0 none
  | .entry e gen =>
    let x := (s.core core).entry e
    if !x.live || x.gen != gen then .done false
    else match x.st with
      | 1 => .pending e
      | 3 => .error x.cause x.fva (some e)
      | _ => .done x.canc

/-- Handles named by MASK16, in ascending order. -/
def namedHandles (m : BitVec 16) : List Nat := (List.range 16).filter fun i => m.getLsbD i
def Ctx.hst (c : Ctx) (s : State) (i : Nat) : HState := s.hstate c.id.core (c.k.handle i)
def HState.isPending : HState → Bool | .pending _ => true | _ => false
def HState.isNone : HState → Bool | .none => true | _ => false

/-- WAITH (R180, R392). -/
def execWaith (f : SFmt) (s : State) : Out :=
  withStrand s fun c =>
    let hs := namedHandles f.mask
    let act := c.active f.g f.gn
    if !c.acts f.g f.gn then c.skip s
    else if hs.any fun i => (c.hst s i).isPending then c.wait s (.waith hs)
    else match hs.find? fun i => (c.hst s i).isNone with
      | some i => c.trap s 0x11 act 0 (BitVec.ofNat 64 i)
      | none =>
        let err := hs.findSome? fun i => match c.hst s i with
          | .error cause fva e => some (i, cause, fva, e)
          | _ => none
        match err with
        | some (i, cause, fva, e) =>
          match s.unperformed c.id c.st with
          | o :: os => c.wait s (.memops ((o :: os).map (·.id)) 0)
          | [] =>
            let s1 := s.setSkein c.id (c.k.setHandle i (.done false))
            c.trap (match e with
              | some e => (s1.noteReported c.id.core ((s.core c.id.core).entry e).op).freeEntries c.id.core
              | none => s1) cause act fva
        | none =>
          let named := hs.filterMap fun i => match c.k.handle i with | .entry e _ => some e | _ => none
          let k := hs.foldl (fun k i => k.setHandle i .none) c.k
          let k := { k with hazards := k.hazards.filter fun h => match h.entry with
            | some e => !named.contains e || k.ops.contains h.op
            | none => true }
          .next (((s.setSkein c.id k).freeEntries c.id.core).retire c.id c.st)
/-- HTEST (R180, R341). DEDUCED (log 104): a mask of 0 names no handle, and S(D) becomes 0. -/
def execHtest (f : SFmt) (s : State) : Out :=
  withStrand s fun c =>
    if !c.acts f.g f.gn then c.skip s
    else
      let x := (namedHandles f.mask).foldl (fun x i => match c.hst s i with
        | .none => x ||| (1#64 <<< (32 + i))
        | .pending _ => x
        | .done _ => x ||| (1#64 <<< i)
        | .error _ _ _ => x ||| (1#64 <<< i) ||| (1#64 <<< (16 + i))) 0
      c.done s (c.k.setS f.d.toNat x)

/-! ## HCANCEL -/

/-- An operation of the joint set `js` is cancelled before the set is whole: every member is done with CANC = 1 (R204). -/
def State.cancelJoint (s : State) (js : JointSet) : State :=
  let s := { s with jointSets := s.jointSets.filter (· != js) }
  js.members.foldl (fun s m => s.reportEnd js.core (some m.sk) m.entry .matrix m.op m.lane none true) s
/-- Ask an operation to stop (R181, R339): a queued or running one at its next boundary; an unmatched MTWIN is withdrawn; an open
joint set is dropped. -/
def State.requestStop (s : State) (op : Nat) : State :=
  let s := { s with ops := s.ops.map fun (o : EngOp) => if o.id == op || o.members.any (·.op == op) then { o with cancelReq := true } else o }
  let s := match s.jointSets.find? fun js => js.members.any (·.op == op) with
    | some js => s.cancelJoint js
    | none => s
  match s.rendezvous.find? fun v => v.rid == op && v.mate.isNone && !v.failed with
  | some v =>
    { s with rendezvous := s.rendezvous.filter (·.rid != op) }.reportEnd v.sk.core (some v.sk) v.entry .matrix op 0 none true
  | none => s
/-- HCANCEL (R180, R339). DEDUCED (log 104): a mask of 0 cancels nothing. -/
def execHcancel (f : SFmt) (s : State) : Out :=
  withStrand s fun c =>
    let hs := namedHandles f.mask
    if !c.acts f.g f.gn then c.skip s
    else
      let isPleat (i : Nat) : Bool := match c.k.handle i with
        | .entry e gen => let x := (s.core c.id.core).entry e; x.live && x.gen == gen && x.pleat
        | _ => false
      match hs.find? isPleat with
      | some i => c.trap s 0x11 (c.active f.g f.gn) 0 (BitVec.ofNat 64 i)
      | none =>
        c.skip (hs.foldl (fun s i => match c.hst s i with
          | .pending e => s.requestStop ((s.core c.id.core).entry e).op
          | _ => s) s)

/-! ## Images (R179, R340) -/

def imageOf (core state gen e cause : Nat) (canc : Bool) : Nat :=
  state * 2 ^ 62 + (if canc then 2 ^ 61 else 0) + cause * 2 ^ 48 + dieOf core * 2 ^ 40 + core % 128 * 2 ^ 32 + gen * 2 ^ 16 + e
/-- The image of a handle register. -/
def State.image (s : State) (core : Nat) (h : HReg) : Nat :=
  match h with
  | .none => 0
  | .done canc => imageOf core 2 0 0 0 canc
  | .err cause => imageOf core 3 0 0 cause false
  | .entry e gen =>
    match s.hstate core h with
    | .pending _ => imageOf core 1 gen e 0 false
    | .error cause _ _ => imageOf core 3 gen e cause ((s.core core).entry e).canc
    | .done canc => imageOf core 2 gen e 0 canc
    | .none => 0
/-- What an image loads as; none for trap 0x11 (R180). It names its entry while that holds the same operation, but one of STATE 11 only where
that has ended in error. One whose entry has been freed since, saved before the group's last restore among them, loads as done (R181, R340);
an entry has been freed that has had the image's generation, or a later one (log 106). Any other of STATE 11 is an error with its CAUSE. -/
def State.loadImage (s : State) (core x : Nat) : Option HReg :=
  let st := x / 2 ^ 62 % 4
  let e := x % 1024
  let gen := bitsNat x 31 16
  let ent := (s.core core).entry e
  let live := ent.live && ent.gen == gen
  let freed := !live && match Tab.get? (s.core core).entries e with | some x => gen ≤ x.gen | none => false
  if bitsNat x 60 56 != 0 || bitsNat x 47 42 != 0 || bitsNat x 15 10 != 0
      || (st != 0 && (bitsNat x 39 32 != core % 128 || bitsNat x 41 40 != dieOf core)) then none
  else match st with
    | 0 => some .none
    | 2 => some (.done (bitsNat x 61 61 == 1))
    | 1 => some (if live then .entry e gen else .done false)
    | _ => some (if live && ent.st == 3 then .entry e gen else if freed then .done false else .err (bitsNat x 55 48))

/-- The address of HSAVE and HLOAD, as an access of the strand's lowest lane. -/
def Ctx.handleLane (c : Ctx) (f : SFmt) : List LaneAcc := [⟨c.low, c.k.s f.sa.toNat + f.imm.signExtend 64, 0⟩]
/-- HSAVE (R180, R340): a store that is performed before the strand goes on. -/
def execHsave (f : SFmt) (s : State) : Out :=
  withStrand s fun c =>
    if !c.acts f.g f.gn then c.skip s
    else match c.x.wait with
      | .memops _ 4 => c.skip s
      | _ =>
        let data (_ : LaneAcc) : List Byte := toBytesLE 8 (s.image c.id.core (c.k.handle (f.d.toNat % 16)))
        c.afterLoads s (c.storeAccess s none 8 false data (c.handleLane f)
          (fun s => match s.unperformed c.id c.st with
            | o :: os => c.wait s (.memops ((o :: os).map (·.id)) 4)
            | [] => c.skip s)
          (fun s rs => c.remote false ⟨2, 0, 3, 0, false, false, none, none⟩ data (lanesMask (c.handleLane f)) s rs))

/-- A word as a load of the core reads it now: from its L1, else from the owner or the home, with whether it met a race (R127). -/
def State.coreWord (s : State) (core asid wa : Nat) (report : Bool) : State × W32 × Bool :=
  let agent := s.l1 core
  match (s.cword? agent asid wa).filter (!·.awaiting) with
  | some c => (s, c.data, false)
  | none =>
    let raced := match s.owner asid wa with | some (a, true) => a != agent | _ => false
    let (s, x) := s.engineWord asid wa agent report
    (s, x, raced)
/-- Does a word of some bytes wait for its REGACK in the L1? Until that comes it is served to no load of the core (R122, R164). -/
def State.awaited (s : State) (core asid va n : Nat) : Bool :=
  !isPrivate va && (wordsOf va n).any fun w => (s.cword? (s.l1 core) asid w).any (·.awaiting)
/-- Bytes as a load of a skein reads them now (R127, R183). -/
def State.coreRead (s : State) (id : SkId) (k : Skein) (va n : Nat) : State × List Byte × Bool :=
  if isPrivate va then (s, s.skRead id k va n, false)
  else
    let (s, bs, r) := (wordsOf va n).foldl (fun ((s, bs, r) : State × List Byte × Bool) w =>
      let (s, x, raced) := s.coreWord id.core (s.asidOf k) w k.raceReport
      (s, bs ++ toBytesLE 4 x.toNat, r || raced)) (s, [], false)
    (s, (bs.drop (va % 4)).take n, r)
/-- A handle register takes an image, or trap 0x11 (R180). -/
def Ctx.takeImage (c : Ctx) (s : State) (h x : Nat) : Out :=
  match s.loadImage c.id.core x with
  | some r => .next (((s.modSkein c.id fun k => k.setHandle h r).freeEntries c.id.core).retire c.id c.st)
  | none => c.trap s 0x11 (c.x.mask &&& c.k.guard (fld c.iw 51 3) (flag c.iw 50)) 0 (BitVec.ofNat 64 h)
/-- HLOAD (R180, R340): it follows the strand's earlier accesses. -/
def execHload (f : SFmt) (s : State) : Out :=
  withStrand s fun c =>
    if !c.acts f.g f.gn then c.skip s
    else match s.unperformed c.id c.st with
      | o :: os => c.wait s (.memops ((o :: os).map (·.id)) 0)
      | [] =>
      if s.awaited c.id.core (s.asidOf c.k) ((c.handleLane f).headD default).va.toNat 8 then c.wait s (.memops [] 1)
      else
        c.access s 8 (c.handleLane f) (fun s a => s.loadFate c 8 false a) (fun s _ => s)
          (fun s =>
            let a := (c.handleLane f).headD default
            let (s, bs, raced) := s.coreRead c.id c.k a.va.toNat 8
            let (s, n) := if raced && c.k.raceTrap then s.fresh else (s, 0)
            let s := if raced && c.k.raceTrap then s.modSkein c.id (·.raceErr c.low a.va (c.x.part.getD n)) else s
            c.takeImage s f.d.toNat (ofBytesLE bs))
          (fun s rs => c.remote false ⟨1, 0, 3, 0, true, false, none, some f.d.toNat⟩ (fun _ => []) (lanesMask (c.handleLane f)) s rs)

end Sys2Proof.Machine
end

