-- ==== Sys2Proof/Machine/Engine.lean ====
section
/-! DEFINITION. What all engine operations share: descriptors, queue entries, bytes an engine reads and writes, stopping at a
boundary, ending (R129, R146 to R148, R166, R167, R178, R181 to R183, R190). -/

namespace Sys2Proof.Machine

/-! ## Little-endian fields of a descriptor -/

def fieldAt (bs : List Byte) (off n : Nat) : Nat := ofBytesLE ((bs.drop off).take n)
def signedAt (bs : List Byte) (off n : Nat) : Int := sextInt (8 * n) (fieldAt bs off n)
def zeroAt (bs : List Byte) (off n : Nat) : Bool := fieldAt bs off n == 0

/-- A tb field (R183): none, a multiple of 16, or a broken limit. -/
def tbField (x : Nat) : Option (Option Nat) :=
  if x == 0xFFFFFFFF then some none else if x % 16 == 0 then some (some x) else none
/-- A trap at issue: its cause and fault VA. -/
abbrev Bad := Nat × W64
/-- A scratch range of an engine (R108, R183). -/
def scrRange (r : LRec) (off n : Nat) : Except Bad Unit :=
  if scrOk r off n then .ok () else .error (0x05, BitVec.ofNat 64 off)
def tbRange (r : LRec) (tb : Option Nat) : Except Bad Unit :=
  match tb with
  | some t => scrRange r t 16
  | none => .ok ()
/-- A limit of a descriptor's table: trap 0x12 with the descriptor's VA (R183). -/
def limit (va : W64) (ok : Bool) : Except Bad Unit := if ok then .ok () else .error (0x12, va)

def State.jobOfGroup (s : State) (gid : Nat) : Job :=
  match s.group? gid with
  | some g => (s.job? g.launch.job).getD default
  | none => default

/-! ## Reading a descriptor at issue (R107, R183, R222) -/

/-- The first 16 B of a descriptor that cannot be read, and why: an address that breaks no rule goes before a page that has to be
resolved only where it is met first. -/
def State.descFate (s : State) (c : Ctx) (n : Nat) : W64 → Nat → State × Fate × W64
  | va, 0 => (s, .good, va)
  | va, i + 1 =>
    if isPrivate va.toNat then (s, .bad 0x06, va)
    else match s.loadFate c 16 false ⟨c.low, va, 0⟩ with
      | (s, .good) => s.descFate c n (va + 16) i
      | (s, .remote _) => (s, .bad 0x06, va)
      | (s, x) => (s, x, va)

/-- Read `n` bytes of descriptor, multiples of 16, at a VA as a load of the strand; `go` gets them. -/
def Ctx.descriptor (c : Ctx) (s : State) (va : W64) (align n : Nat) (act : Mask) (go : State → List Byte → Out) : Out :=
  if va.toNat % align != 0 then c.trap s 0x04 act va
  else match s.descFate c n va (n / 16) with
    | (s, .bad cause, a) => c.trap (if cause == 0x06 then s.logFault c.id c.k .read a.toNat else s) cause act a
    | (s, .park, a) => .next (s.parkSkein c.id c.st act act (.fault [a]))
    | (s, _, _) =>
      if s.awaited c.id.core (s.asidOf c.k) va.toNat n then c.wait s (.memops [] 1)
      else
      let (s, bs, raced) := s.coreRead c.id c.k va.toNat n
      if raced && c.k.raceTrap then
        let (s, n) := s.fresh
        let name := c.x.part.getD n
        go ((c.named s name).modSkein c.id (·.raceErr c.low va name)) bs
      else go s bs

/-! ## Issuing an operation (R175, R176, R178, R181) -/

def OpKind.isShuttle : OpKind → Bool
  | .cpy _ | .cpyt _ | .cpyr _ | .prefetch _ _ => true
  | _ => false
def OpKind.isMatrix : OpKind → Bool
  | .mat _ | .mzero _ _ | .mrd _ _ _ _ _ _ | .mwr _ _ _ _ => true
  | _ => false
def OpKind.isPleat : OpKind → Bool | .pleat _ _ _ _ => true | _ => false

/-- The handle register and class of an engine instruction's word. -/
def Ctx.newOp (c : Ctx) (id : Nat) (kind : OpKind) (cls : Cls) (entry : Option Nat) (stat : OpStat) : EngOp :=
  { id := id, kind := kind, core := c.id.core, group := c.k.group, sk := some c.id, lane := c.low, entry := entry, cls := cls
    stat := stat, progress := 0, credited := 0, cancelReq := false, members := [], pairing := none, written := []
    report := c.k.raceReport, remote := [], xBytes := [], tainted := [], stale := [] }
/-- Allocate what the word needs, an entry under HV = 1 or a count (R175, R178), and hand on the operation's name and entry. With
no free entry the strand is not ready. -/
def Ctx.allocate (c : Ctx) (s : State) (f : EFmt) (cls : Cls) (pleat : Bool) (go : State → Nat → Option Nat → Out) : Out :=
  let (s, id) := s.fresh
  let own (k : Skein) : Skein := { k with ops := k.ops ++ [id] }
  if f.hv then
    match s.allocEntry c.id.core id pleat with
    | (s, none) => c.wait s (.memops [] 1)
    | (s, some (e, gen)) =>
      go ((s.modSkein c.id fun k => own (k.setHandle f.hd.toNat (.entry e gen))).freeEntries c.id.core) id (some e)
  else if c.k.cnt cls ≥ 63 then c.wait s (.memops [] 1)
  else go (s.modSkein c.id fun k => own (k.count cls id)) id none

/-- The strand's earlier accesses have to be performed (R146). -/
def Ctx.afterAll (c : Ctx) (s : State) (go : State → Out) : Out :=
  match s.unperformed c.id c.st with
  | o :: os => c.wait s (.memops ((o :: os).map (·.id)) 1)
  | [] => go s

/-! ## Bytes an engine reads and writes -/

/-- What an engine's access meets. -/
inductive EngFate where
  | good
  | park (va : Nat)
  | bad (cause va : Nat)
  deriving DecidableEq, Repr

/-- One address of an engine's access (R107, R166, R167, R173). A home at another package is error 0x12 (R318, R319). `needs`: the bytes
that stand there are needed. -/
def State.engFate1 (s : State) (j : Job) (die : Nat) (acc : Acc) (va : Nat) (needs : Bool := acc != .write) : State × EngFate :=
  if isPrivate va then (s, .bad 0x06 va)
  else match s.place j die j.asid va acc with
    | (s, .at sl key) =>
      if !needs then (s, .good) else (s.checkSector sl key, if s.sectorFailed sl key then .bad 0x07 va else .good)
    | (s, .zero _) => (s, .good)
    | (s, .park _) => (s, .park va)
    | (s, .bad c) => (s, .bad (clsCause c) va)
    | (s, .remote _) => (s, .bad 0x12 va)
/-- A range of bytes: its first address in each sector, in order. -/
def State.engFate (s : State) (j : Job) (die : Nat) (acc : Acc) (va n : Nat) (needs : Bool := acc != .write) : State × EngFate :=
  (List.range ((va % 128 + n + 127) / 128)).foldl (fun ((s, x) : State × EngFate) i =>
    if x != EngFate.good then (s, x) else s.engFate1 j die acc (if i == 0 then va else va / 128 * 128 + 128 * i) needs)
    (s, match needs, s.softIn j.asid va n with
      | true, some w => .bad 0x07 (4 * w)
      | _, _ => .good)
/-- Several ranges in order. -/
def State.engFates (s : State) (j : Job) (die : Nat) (acc : Acc) (rs : List (Nat × Nat)) : State × EngFate :=
  rs.foldl (fun ((s, x) : State × EngFate) (va, n) => if x != EngFate.good then (s, x) else s.engFate j die acc va n) (s, .good)

/-- Ranges of updates at the atomic unit, whose permission is W (R128, R153, R318). -/
def State.engUpdates (s : State) (j : Job) (die : Nat) (rs : List (Nat × Nat)) : State × EngFate :=
  rs.foldl (fun ((s, x) : State × EngFate) (va, n) => if x != EngFate.good then (s, x) else s.engFate j die .write va n true) (s, .good)

/-- Scratch bytes that an engine is to read: an on-chip error ends it, with the offset (R174). -/
def State.scrFate (s : State) (g : Group) (core : Nat) (rs : List (Nat × Nat)) : EngFate :=
  if s.soft.isEmpty then .good
  else match rs.findSome? fun (off, n) => s.scrSoft g core off n with
    | some off => .bad 0x07 off
    | none => .good

/-- Scratch bytes that a copy reads: one that lanes have written since its issue is an undefined value (R149). -/
def State.scrTake (s : State) (o : EngOp) (g : Group) (core off n : Nat) : State × List Byte :=
  let bs := s.scrRead g core off n
  if o.tainted.isEmpty then (s, bs)
  else ({ s with freeCtr := s.freeCtr + n + 1 },
    (bs.zipIdx).map fun (b, i) =>
      if o.tainted.contains (scrKey g (scrCore core off) (off % 2 ^ 31 + i)) then (Config.freeW64 (s.freeCtr + i)).truncate 8 else b)
/-- Read bytes as RDQs of an engine agent (R129). -/
def State.engRead (s : State) (asid agent va n : Nat) (report : Bool) : State × List Byte :=
  let (s, bs) := (wordsOf va n).foldl (fun ((s, bs) : State × List Byte) w =>
    let (s, x) := s.engineWord asid w agent report
    (s, bs ++ toBytesLE 4 x.toNat)) (s, [])
  (s, (bs.drop (va % 4)).take n)
/-- Write bytes, registering the words to the engine's agent (R129). -/
def State.engWrite (s : State) (asid agent va : Nat) (bs : List Byte) (report : Bool) : State :=
  (wordPieces va bs).foldl (fun s (wa, x, m) => s.engineStore asid wa agent x m (va % 128 == 0 && bs.length == 128) report) s
/-- A read of the issuing core itself: B and W are loads of the issuing strand (R147). -/
def State.coreBytes (s : State) (core asid va n : Nat) (report : Bool) : State × List Byte :=
  let (s, bs) := (wordsOf va n).foldl (fun ((s, bs) : State × List Byte) w =>
    let (s, x, _) := s.coreWord core asid w report
    (s, bs ++ toBytesLE 4 x.toNat)) (s, [])
  (s, (bs.drop (va % 4)).take n)

/-! ## Stopping and ending -/

/-- An operation stops at a boundary for a fault (R166). -/
def State.engPark (s : State) (o : EngOp) (va : Nat) : State :=
  (s.modOp o.id fun o => { o with stat := .paused (BitVec.ofNat 64 va) }).reportFault (s.jobOfGroup o.group).asid va
/-- An operation has met a fault that ends it (R167). -/
def State.engBad (s : State) (o : EngOp) (cause va : Nat) : State :=
  s.modOp o.id fun o => { o with stat := .bad cause (BitVec.ofNat 64 va) }
/-- Carry on where every address translates. -/
def State.engGo (s : State) (o : EngOp) (x : EngFate) (go : State → State) : State :=
  match x with
  | .good => go s
  | .park va => s.engPark o va
  | .bad cause va => s.engBad o cause va

/-- Seals of R129 and the dropped copies of R148, before the end of an operation is told. -/
def State.publish (s : State) (o : EngOp) (agent : Nat) : State :=
  let s := s.engineSeal agent o.written
  let cores := match s.group? o.group with | some g => g.cores | none => [o.core]
  cores.foldl (fun s c => s.dropSectors (s.l1 c) o.written) s

/-! ## The Shuttle queue (R39, R190) -/

/-- Is an operation saved with its group, and so in no engine (R62)? -/
def EngOp.saved (o : EngOp) : Bool := match o.stat with | .preempted _ => true | _ => false
/-- Its slot of the group's ring. -/
def OpStat.slot? : OpStat → Option Nat | .spilled n => some n | _ => none
/-- The operations that came to the engines before one. -/
def State.ahead (s : State) (o : EngOp) : List EngOp := s.ops.takeWhile (·.id != o.id)
/-- Entries of a core's Shuttle queue that are on chip, and a group's ring entries. -/
def State.shuttleOnChip (s : State) (core : Nat) : Nat :=
  (s.ops.filter fun o => o.core == core && o.kind.isShuttle && o.stat.slot?.isNone && !o.saved).length
def State.ringOf (s : State) (gid : Nat) : List Nat :=
  (s.ops.filter fun o => o.group == gid && o.kind.isShuttle).filterMap (·.stat.slot?)
/-- Where a group's new entry goes: on chip, to the next slot of the ring, or nowhere. -/
def State.shuttlePlace (s : State) (core gid : Nat) : Option OpStat :=
  match (s.ringOf gid).getLast? with
  | none => if s.shuttleOnChip core < 64 then some .queued else some (.spilled 0)
  | some n => if (s.ringOf gid).length < 16 then some (.spilled ((n + 1) % 16)) else none
/-- VA of the group's ring (R105). -/
def State.ringVa (s : State) (g : Group) : Nat := g.privBase.toNat + 32 * (s.lrecOfGroup g).priv + 1024
/-- VA of a slot of it. -/
def State.slotVa (s : State) (g : Group) (slot : Nat) : Nat := s.ringVa g + 256 * slot

/-! ### A slot's 256 B: the checked descriptor and its progress (R190). The layout is the model's own (log 44). -/

def optBytes (x : Option Nat) : List Byte := toBytesLE 4 (x.getD 0xFFFFFFFF)
def optAt (bs : List Byte) (off : Nat) : Option Nat := if fieldAt bs off 4 == 0xFFFFFFFF then none else some (fieldAt bs off 4)
def flagByte (b : Bool) : List Byte := [if b then 1 else 0]
/-- `n` values of `w` bytes each. -/
def listBytes (w : Nat) (xs : List Nat) : List Byte := xs.flatMap (toBytesLE w)
def listAt (bs : List Byte) (off w n : Nat) : List Nat := (List.range n).map fun i => fieldAt bs (off + w * i) w
def CpyDesc.slot (d : CpyDesc) : List Byte :=
  listBytes 8 [d.dst, d.src, d.len] ++ flagByte d.ds ++ flagByte d.ss ++ optBytes d.regTo ++ optBytes d.tb
def CpyDesc.ofSlot (bs : List Byte) : CpyDesc :=
  ⟨fieldAt bs 0 8, fieldAt bs 8 8, fieldAt bs 16 8, fieldAt bs 24 1 == 1, fieldAt bs 25 1 == 1, optAt bs 26, optAt bs 30⟩
def TileDesc.slot (d : TileDesc) : List Byte :=
  listBytes 8 (d.gbase :: d.strides) ++ listBytes 4 d.extents ++ listBytes 8 (d.coords.map (wrapNat 64)) ++ listBytes 2 d.boxes
    ++ listBytes 4 (d.soff :: d.pitches) ++ listBytes 1 [d.lesz, d.rank, d.redOp] ++ flagByte d.edge ++ flagByte d.dir ++ toBytesLE 4 d.fill.toNat
    ++ optBytes d.tb
def TileDesc.ofSlot (bs : List Byte) : TileDesc :=
  { gbase := fieldAt bs 0 8, strides := listAt bs 8 8 4, extents := listAt bs 40 4 5, coords := (listAt bs 60 8 5).map (sextInt 64)
    boxes := listAt bs 100 2 5, soff := fieldAt bs 110 4, pitches := listAt bs 114 4 4, lesz := fieldAt bs 130 1, rank := fieldAt bs 131 1
    redOp := fieldAt bs 132 1, edge := fieldAt bs 133 1 == 1, dir := fieldAt bs 134 1 == 1, fill := BitVec.ofNat 32 (fieldAt bs 135 4)
    tb := optAt bs 139 }
/-- What a slot holds of an operation. -/
def slotBytes (k : OpKind) (progress : Nat) : List Byte :=
  let (tag, tb, body) : Nat × Option Nat × List Byte := match k with
    | .cpy d => (0, none, d.slot)
    | .cpyt d => (1, none, d.slot)
    | .cpyr d => (2, none, d.slot)
    | .prefetch d tb => (3, tb, d.slot)
    | _ => (255, none, [])
  (toBytesLE 4 tag ++ optBytes tb ++ toBytesLE 16 progress ++ body ++ List.replicate 256 0).take 256
/-- The operation that a slot's bytes say; none where they say none. -/
def slotKind (bs : List Byte) : Option (OpKind × Nat) :=
  let body := bs.drop 24
  let d := TileDesc.ofSlot body
  let p := fieldAt bs 8 16
  let tile (k : OpKind) : Option (OpKind × Nat) := if 1 ≤ d.rank && d.rank ≤ 5 && d.lesz ≤ 4 && d.boxes.all (· ≥ 1) then some (k, p) else none
  match fieldAt bs 0 4 with
  | 0 => some (.cpy (.ofSlot body), p)
  | 1 => tile (.cpyt d)
  | 2 => tile (.cpyr d)
  | 3 => tile (.prefetch d (optAt bs 4))
  | _ => none
/-- An operation goes to its slot of the ring. -/
def State.ringPut (s : State) (g : Group) (st : OpStat) (k : OpKind) : State :=
  match st.slot? with
  | none => s
  | some n => match s.privWrite ((s.job? g.launch.job).getD default) (dieOf g.core) (s.slotVa g n) (slotBytes k 0) with
    | .ok s' => s'
    | .error _ => s
/-- An entry of the ring comes on chip as its slot has it (R190): one that says no operation ends with 0x12, one that fails its check with
0x07 (R173; log 44). -/
def State.ringTake (s : State) (o : EngOp) : State :=
  match s.group? o.group, o.stat.slot? with
  | some g, some n =>
    let va := s.slotVa g n
    let j := s.jobOfGroup o.group
    let die := dieOf g.core
    let s1 := s.privCheck j die va 256
    match s.privRead j die va 256, (s.place j die j.asid va .read).2 with
    | some bs, _ => match slotKind bs with
      | some (k, p) => s1.modOp o.id fun o => { o with stat := .queued, kind := k, progress := p }
      | none => s1.modOp o.id fun o => { o with stat := .bad 0x12 (BitVec.ofNat 64 va) }
    | none, .at _ _ => s1.modOp o.id fun o => { o with stat := .bad 0x07 (BitVec.ofNat 64 va) }
    | none, _ => s1.modOp o.id fun o => { o with stat := .queued }
  | _, _ => s

/-- Are entries released for a group: it runs, or is stopping, is not cancelled, and some skein has not exited (R28, R30, R39)? -/
def State.releasing (s : State) (g : Group) : Bool :=
  (g.st == .running || g.st == .stopping) && !g.cancelled && g.exited.length < (s.lrecOfGroup g).skeins
/-- Is a copy schedule entry due, its stage reached (R39)? -/
def State.dueEntry (s : State) (g : Group) : Option SchedEnt :=
  if !s.releasing g then none
  else match s.launch? g.launch with
  | some l => match l.sched with
    | some es => match es[g.schedPos]? with
      | some e => if e.stage ≤ g.stage then some e else none
      | none => none
    | none => none
  | none => none
/-- Coordinates of a group in its grid (R21). -/
def gridOf (r : LRec) (lin : Nat) : Nat × Nat × Nat := (lin % r.gx, lin / r.gx % r.gy, lin / (r.gx * r.gy))
/-- CX, CY and CZ (R37): sums are exact (R182); a coordinate at or above the rank is 0 (R186). -/
def shiftTile (e : SchedEnt) (r : LRec) (lin : Nat) (d : TileDesc) : TileDesc :=
  let (x, y, z) := gridOf r lin
  let add (on : Bool) (g i : Nat) (cs : List Int) : List Int :=
    if on && i < d.rank then setAt 0 cs i (cs.getD i 0 + (g * d.boxes.getD i 1 : Nat)) else cs
  { d with coords := add e.cz z 2 (add e.cy y 1 (add e.cx x 0 d.coords)) }
def SchedEnt.forGroup (e : SchedEnt) (r : LRec) (lin : Nat) : OpKind :=
  match e.kind with
  | .cpyt d => .cpyt (shiftTile e r lin d)
  | .cpyr d => .cpyr (shiftTile e r lin d)
  | .prefetch d tb => .prefetch (shiftTile e r lin d) tb
  | k => k
/-- Does a race of an entry of a stage come into the log: bit 1 of the skein whose ADVST let it go (R130)? One of stage 0, which no skein
lets go, reports (log 107). -/
def Group.reportsAt (g : Group) (stage : Nat) : Bool := stage == 0 || ((g.raises.find? fun x => stage ≤ x.1).map (·.2)).getD true
/-- Release due entries in schedule order while places last (R39, R190); a twin group's to the Shuttle of its even core (log 87). -/
def State.releaseDue (s : State) (gid : Nat) : Nat → State
  | 0 => s
  | n + 1 =>
    match s.group? gid with
    | none => s
    | some g =>
      match s.dueEntry g, s.shuttlePlace g.core gid with
        | some e, some stat =>
          let (s, id) := s.fresh
          let o : EngOp := { id := id, kind := e.forGroup (s.lrecOfGroup g) g.lin, core := g.core, group := gid, sk := none, lane := 0
                             entry := none, cls := .copy, stat := stat, progress := 0, credited := 0, cancelReq := false, members := []
                             pairing := none, written := [], report := g.reportsAt e.stage, remote := [], xBytes := [], tainted := [], stale := [] }
          let s := s.ringPut g stat o.kind
          ({ s with ops := s.ops ++ [o] }.modGroup gid fun g =>
            { g with schedPos := g.schedPos + 1, released := g.released ++ [id] }).releaseDue gid n
        | _, _ => s
/-- Entries that a launch's schedule can release. -/
def State.schedLen (s : State) (g : Group) : Nat :=
  match s.launch? g.launch with
  | some l => (l.sched.getD []).length
  | none => 0
def State.release_ (s : State) (gid : Nat) : State :=
  match s.group? gid with
  | some g => s.releaseDue gid (s.schedLen g)
  | none => s
/-- A place of a core's queue has freed: ring entries move on chip in order, then due entries of the groups that it runs are released (R39, R190). -/
def State.shuttleFreed (s : State) (core : Nat) : State :=
  let s := if s.shuttleOnChip core ≥ 64 then s
    else match s.ops.find? fun o => o.core == core && o.kind.isShuttle && o.stat.slot?.isSome with
      | some o => s.ringTake o
      | none => s
  (s.groups.filter fun (_, g) => g.cores.contains core).foldl (fun (s : State) ((gid, _) : Nat × Group) => s.release_ gid) s

/-- The engine agent whose words an operation writes. -/
def State.agentOf (s : State) (o : EngOp) : Nat :=
  match o.kind with
  | .gey d => s.geyser d.slice
  | .pleat _ _ _ _ => s.pleatAgent (dieOf o.core)
  | _ => s.shuttle o.core

/-- An error of a released copy schedule entry: the lowest skein that has not exited takes it, else the launch fails (R41). The strand that
holds its lane 0 traps (log 109). -/
def State.scheduleError (s : State) (gid cause : Nat) (fva : W64) : State :=
  match s.group? gid with
  | none => s
  | some g =>
    let live (i : Nat) : Option SkId := (s.skeins.find? fun (_, k) => k.group == gid && k.index == i).map (·.1)
    let held (i : Nat) : Bool := s.work.svcs.any fun q => q.group == gid && q.index == i
    match (List.range (s.lrecOfGroup g).skeins).find? fun i => (live i).isSome || held i with
    | none => s.failLaunch g.launch cause 0 fva g.lin 0 g.core
    | some i => match live i with
      | some id => s.modSkein id (·.addErr cause fva 0)
      -- a skein that waits in an SVC takes it after its respawn
      | none => s.modWork fun w => { w with svcs := w.svcs.map fun x =>
          if x.group == gid && x.index == i then { x with cont := x.cont.addErr cause fva 0 } else x }

/-- An operation ends: done, failed or cancelled. `credit` makes its last credits, after the seals. One that is done stays known until its
matching wait (R149). -/
def State.endOp (s : State) (o : EngOp) (err : Option (Nat × W64)) (canc : Bool) (credit : State → State) : State :=
  let s := credit (s.publish o (s.agentOf o))
  let s := s.dropOp o.id
  let s := if err.isNone && !canc && (o.sk.isSome || !o.members.isEmpty) then { s with past := s.past ++ [o] } else s
  let s :=
    if o.sk.isSome || !o.members.isEmpty then
      let s := if o.sk.isSome then s.reportEnd o.core o.sk o.entry o.cls o.id o.lane err canc else s
      o.members.foldl (fun s m => s.reportEnd o.core (some m.sk) m.entry o.cls m.op m.lane err canc) s
    else
      let s := s.modGroup o.group fun g => { g with released := g.released.filter (· != o.id) }
      match err with
      | some (cause, fva) => s.scheduleError o.group cause fva
      | none => s
  if o.kind.isShuttle then s.shuttleFreed o.core else s

/-- ENGINE_FAULT_RESUME (R166): the fault of a paused operation has been resolved. -/
def execEngineFaultResume (op : Nat) (s : State) : Out :=
  match s.op? op with
  | some o => match o.stat with
    | .paused va =>
      if s.faults.contains ((s.jobOfGroup o.group).asid, va.toNat / 4096 * 4096) then .next s
      else .next (s.modOp op fun o => { o with stat := .running })
    | _ => .next s
  | none => .next s
/-- The other half of a running twin operation (R206). -/
def State.twinMate (s : State) (o : EngOp) : Option EngOp :=
  match o.pairing with
  | none => none
  | some rid => match s.rendezvous.find? (·.rid == rid) with
    | none => none
    | some v => match v.mate with
      | none => none
      | some m => s.ops.find? fun p => p.pairing == some m && p.kind.isMatrix
/-- An operation that met an unresolvable fault ends at its boundary, with its twin half (R206); its barrier is left as it stands
(R167). -/
def State.endBad (s : State) (op : Nat) (sched : Bool) : State :=
  match s.op? op with
  | some o => match o.stat with
    | .bad cause va =>
      if (o.sk.isNone && o.members.isEmpty) != sched then s
      else
        let mate := s.twinMate o
        let s := s.endOp o (some (cause, va)) false id
        match mate with
        | some p => s.endOp p (some (cause, va)) false id
        | none => s
    | _ => s
  | none => s
/-- ENGINE_UNRESOLVABLE_FAULT (R167). -/
def execEngineUnresolvableFault (op : Nat) (s : State) : Out := .next (s.endBad op false)
/-- COPY_ENTRY_UNRESOLVABLE_FAULT (R41). -/
def execCopyEntryUnresolvableFault (op : Nat) (s : State) : Out := .next (s.endBad op true)

end Sys2Proof.Machine
end

