-- ==== Sys2Proof/Machine/Shuttle.lean ====
section
/-! DEFINITION. The Shuttle copy engine: CPY, CPYT, CPYR, ADVST, copy schedule entries, and its progress as events (R37 to R41,
R129, R146, R148, R182 to R191, R317 to R319). -/

namespace Sys2Proof.Machine
open Arith

/-! ## CPY (R184, R185) -/

/-- Home of a whole range of an end: this package (none) or another; `.error` for a range that is neither. -/
def State.rangeHome (s : State) (j : Job) (die va n : Nat) : Except Unit (Option Nat) :=
  let home (a : Nat) : Except Unit (Option Nat) :=
    match s.home j die a with
    | .here _ => .ok none
    | .there p _ => .ok (some p)
    | .nowhere => .error ()
  let last := if n == 0 then va else va + n - 1
  match home va, home last with
  | .ok a, .ok b => if a == b then .ok a else .error ()
  | _, _ => .error ()
/-- The first address of a range that lies in window 63 (R107). -/
def privateIn (va n : Nat) : Option Nat :=
  if isPrivate va then some va else if va < window63 && window63 < va + n then some window63 else none
/-- Which package an end is homed at; an address of window 63, of a window of kind 000, or beyond bit 56 traps 0x06 (R103, R107),
a range over two homes 0x12 (R185). -/
def State.cpyEnd (s : State) (j : Job) (die : Nat) (dva : W64) (scratch : Bool) (va n : Nat) : Except Bad (Option Nat) :=
  if scratch then .ok none
  else if (privateIn va n).isSome || s.home j die va == .nowhere then .error (0x06, BitVec.ofNat 64 ((privateIn va n).getD va))
  else match s.rangeHome j die va n with
    | .ok p => .ok p
    | .error () => .error (0x12, dva)
def overlap (a b n : Nat) : Bool := a < b + n && b < a + n
/-- Does an agent ID name a core L1 of this package (R117, R129)? -/
def State.localL1 (s : State) (a : Nat) : Bool := a / 2 ^ 22 == s.pkg.id && a % 2 ^ 20 < 128

/-- The checked CPY descriptor; `va` is the descriptor's own VA, `tbIn` the schedule entry's tb (R37). -/
def State.cpyDesc (s : State) (j : Job) (die : Nat) (r : LRec) (va : W64) (bs : List Byte) (tbIn : Option Nat) : Except Bad CpyDesc := do
  let dst := fieldAt bs 0 8
  let src := fieldAt bs 8 8
  let len := fieldAt bs 0x10 8
  let flags := fieldAt bs 0x18 2
  let ds := flags % 2 == 1
  let ss := flags / 2 % 2 == 1
  let rf := flags / 4 % 2 == 1
  let agent := fieldAt bs 0x1C 4
  limit va (len ≤ 2 ^ 36 && flags < 8 && zeroAt bs 0x1A 2 && zeroAt bs 0x20 92 && (rf || agent == 0)
    && (!ds || dst < 2 ^ 32) && (!ss || src < 2 ^ 32))
  let tb ← match tbField (tbIn.getD (fieldAt bs 0x7C 4)) with
    | some t => pure t
    | none => throw (0x12, va)
  let hd ← s.cpyEnd j die va ds dst len
  let hs ← s.cpyEnd j die va ss src len
  limit va (!(ds == ss && len != 0 && (!ds || dst / 2 ^ 31 == src / 2 ^ 31) && overlap dst src len)
    && !(rf && (ds || hd.isSome || !s.localL1 agent)) && !(hd.isSome && hs.isSome))
  if ds then scrRange r dst len
  if ss then scrRange r src len
  tbRange r tb
  return ⟨dst, src, len, ds, ss, if rf then some agent else none, tb⟩

/-- Destination sector count (R185). -/
def CpyDesc.units (d : CpyDesc) : Nat := if d.len == 0 then 0 else (d.dst % 128 + d.len + 127) / 128
/-- First destination byte and length of a unit. -/
def CpyDesc.unit (d : CpyDesc) (u : Nat) : Nat × Nat :=
  let lo := max d.dst (d.dst / 128 * 128 + 128 * u)
  (lo, min (d.dst + d.len) (d.dst / 128 * 128 + 128 * u + 128) - lo)

/-! ## Tiles (R186 to R189) -/

/-- The element types CPYR takes for an operation (R188). -/
def cpyrOk (op esize : Nat) : Bool :=
  let t := op / 16
  tBits t == 8 * esize && match op % 16 with
    | 0 | 1 | 2 => t ≤ 10 || t == 14
    | 3 | 4 | 5 => t ≤ 7
    | _ => false
/-- New value of an element under a reduction (R188). -/
def cpyrNew (op old v : Nat) : Nat :=
  let t := op / 16
  let n := tBits t
  if t ≤ 7 then
    let a := intOf t (BitVec.ofNat 64 old)
    let b := intOf t (BitVec.ofNat 64 v)
    match op % 16 with
    | 0 => wrapNat n (a + b)
    | 1 => wrapNat n (min a b)
    | 2 => wrapNat n (max a b)
    | 3 => old &&& v
    | 4 => old ||| v
    | _ => old ^^^ v
  else match op % 16 with
    | 0 => roundT t .rne false (exactSum .rne [valueOf t old, valueOf t v])
    | 1 => minMaxBits t false false old v
    | _ => minMaxBits t true false old v

/-- Bytes of the scratch footprint from soff (R187). -/
def TileDesc.footprint (d : TileDesc) : Nat :=
  let es := 2 ^ d.lesz
  (d.boxes.headD 1 - 1) * es + ((d.boxes.drop 1).zip d.pitches).foldl (fun a (b, p) => a + (b - 1) * p) 0 + es

/-- What a tile descriptor is read for. -/
inductive TileUse where
  | cpyt | cpyr | prefetch
  deriving DecidableEq, Repr

/-- The adjusted and checked tile descriptor (R182, R183, R186). A prefetch uses the fields that name its region, with rank and
lesz (R37). -/
def tileDesc (r : LRec) (use : TileUse) (va : W64) (bs : List Byte) (sx sy : W64) (tbIn : Option Nat) : Except Bad TileDesc := do
  let rank := fieldAt bs 0x75 1
  let lesz := fieldAt bs 0x74 1
  let es := 2 ^ lesz
  let dims := List.range 5
  let strides := [0x08, 0x10, 0x18, 0x20].map fun o => fieldAt bs o 8
  let pitches := [0x64, 0x68, 0x6C, 0x70].map fun o => fieldAt bs o 4
  let ext := dims.map fun i => if i < rank then fieldAt bs (0x28 + 4 * i) 4 else 1
  let box := dims.map fun i => if i < rank then fieldAt bs (0x54 + 2 * i) 2 else 1
  let c := dims.map fun i => if i < rank then signedAt bs (0x40 + 4 * i) 4 else 0
  let c := if rank ≥ 1 then setAt 0 c 0 (c.headD 0 + sextInt 32 sy.toNat) else c
  let c := if rank ≥ 2 then setAt 0 c 1 (c.getD 1 0 + sextInt 32 (sy.toNat / 2 ^ 32)) else c
  let soff := (fieldAt bs 0x60 4 + sx.toNat) % 2 ^ 32
  let edge := fieldAt bs 0x3C 1
  let dir := fieldAt bs 0x76 1
  let op := fieldAt bs 0x77 1
  limit va (1 ≤ rank && rank ≤ 5 && lesz ≤ 4 && fieldAt bs 0 8 % es == 0
    && (List.range (rank - 1)).all (fun i => strides.getD i 0 % es == 0) && box.all (· ≥ 1))
  if use != .prefetch then
    limit va (edge ≤ 1 && dir ≤ 1 && zeroAt bs 0x3D 3 && zeroAt bs 0x5E 2 && soff % es == 0
      && (List.range (rank - 1)).all (fun i => pitches.getD i 0 % es == 0)
      && !(edge == 1 && (dir == 1 || use == .cpyr || ext.any (· == 0))))
    limit va (if use == .cpyr then dir == 1 && cpyrOk op es else op == 0)
  let tb ← match tbField (tbIn.getD (fieldAt bs 0x7C 4)) with
    | some t => pure t
    | none => if use == .prefetch then pure none else throw (0x12, va)
  let d : TileDesc :=
    { gbase := fieldAt bs 0 8, strides := (List.range 4).map fun i => if i + 1 < rank then strides.getD i 0 else 0
      extents := ext, edge := edge == 1, coords := c, boxes := box, soff := soff
      pitches := (List.range 4).map fun i => if i + 1 < rank then pitches.getD i 0 else 0
      lesz := lesz, rank := rank, dir := dir == 1, redOp := op, fill := BitVec.ofNat 32 (fieldAt bs 0x78 4), tb := tb }
  if use != .prefetch then
    scrRange r soff d.footprint
    tbRange r tb
  return d

/-- Rows (j1, …, j4) of the box, in box order (R187). -/
def TileDesc.rows (d : TileDesc) : Nat := (d.boxes.drop 1).foldl (· * ·) 1
def TileDesc.rowIndex (d : TileDesc) (r : Nat) : List Nat :=
  let b (i : Nat) : Nat := d.boxes.getD i 1
  [r % b 1, r / b 1 % b 2, r / (b 1 * b 2) % b 3, r / (b 1 * b 2 * b 3)]
/-- Scratch byte of a row's first element, within its window. -/
def TileDesc.rowX (d : TileDesc) (r : Nat) : Nat :=
  ((d.rowIndex r).zip d.pitches).foldl (fun a (j, p) => a + j * p) (d.soff % 2 ^ 31)
/-- Scratch sectors of a row (R189). -/
def TileDesc.rowUnits (d : TileDesc) (r : Nat) : Nat :=
  let x := d.rowX r
  (x + d.boxes.headD 1 * 2 ^ d.lesz - 1) / 128 - x / 128 + 1
/-- Scratch footprint count (R189). -/
def TileDesc.units (d : TileDesc) : Nat := (List.range d.rows).foldl (fun n r => n + d.rowUnits r) 0
/-- Elements j0 of a sector of a row: first and count. -/
def TileDesc.segment (d : TileDesc) (r u : Nat) : Nat × Nat :=
  let es := 2 ^ d.lesz
  let x := d.rowX r
  let lo := if u == 0 then 0 else (128 * (x / 128 + u) - x) / es
  let hi := min (d.boxes.headD 1) ((128 * (x / 128 + u + 1) - x) / es)
  (lo, hi - lo)
/-- Array coordinates of an element (R187). -/
def TileDesc.coord (d : TileDesc) (r j0 : Nat) : List Int := ((j0 :: d.rowIndex r).zip d.coords).map fun (j, c) => c + j
def TileDesc.clipped (d : TileDesc) (c : List Int) : Bool := (c.zip d.extents).any fun (x, e) => x < 0 || x ≥ (e : Int)
def TileDesc.clamp (d : TileDesc) (c : List Int) : List Int := (c.zip d.extents).map fun (x, e) => min (max x 0) ((e : Int) - 1)
def TileDesc.ga (d : TileDesc) (c : List Int) : Nat :=
  wrapNat 64 (((c.drop 1).zip d.strides).foldl (fun a (x, st) => a + x * st) (d.gbase + c.headD 0 * (2 ^ d.lesz : Nat)))
/-- The scratch offset of element j0 of a row. -/
def TileDesc.sa (d : TileDesc) (r j0 : Nat) : Nat := d.soff / 2 ^ 31 * 2 ^ 31 + d.rowX r + j0 * 2 ^ d.lesz
/-- Elements of a segment: scratch offset, and the global address to use where there is one. -/
def TileDesc.elems (d : TileDesc) (r u : Nat) : List (Nat × Option Nat) :=
  let (lo, n) := d.segment r u
  (List.range n).map fun i =>
    let c := d.coord r (lo + i)
    (d.sa r (lo + i), if !d.clipped c then some (d.ga c) else if d.edge then some (d.ga (d.clamp c)) else none)
def TileDesc.fillBytes (d : TileDesc) : List Byte := (List.range (2 ^ d.lesz)).map fun b => (d.fill >>> (8 * (b % 4))).truncate 8

/-! ## Progress: a CPY counts units; a tile counts rows · 2^14 + sectors of the row -/

def OpKind.landing : OpKind → Nat
  | .cpy d => d.units
  | .cpyt d | .cpyr d => d.units
  | _ => 0
def OpKind.tb : OpKind → Option Nat
  | .cpy d => d.tb
  | .cpyt d | .cpyr d => d.tb
  | .prefetch _ tb => tb
  | .gey d => d.tb
  | _ => none
def EngOp.unitsDone (o : EngOp) : Bool :=
  match o.kind with
  | .cpy d => o.progress ≥ d.units
  | .cpyt d | .cpyr d => o.progress / 2 ^ 14 ≥ d.rows
  | _ => false
def TileDesc.advance (d : TileDesc) (p : Nat) : Nat :=
  if p % 2 ^ 14 + 1 ≥ d.rowUnits (p / 2 ^ 14) then (p / 2 ^ 14 + 1) * 2 ^ 14 else p + 1
/-- The barrier that an operation credits, among the scratch bytes it reads. -/
def EngOp.tbRange (o : EngOp) : List (Nat × Nat) := match o.kind.tb with | some t => [(t, 8)] | none => []
/-- Credit landing units to the operation's barrier. -/
def State.creditTb (s : State) (o : EngOp) (n : Nat) : State :=
  match o.kind.tb with
  | some tb => if n == 0 then s else s.tbCredit o.group o.core tb n
  | none => s
/-- A unit has landed: its credit is made at once, but for the last, which follows the seals (R189). -/
def State.landed (s : State) (o : EngOp) (progress : Nat) (words : List (Nat × Nat)) : State :=
  let last := o.credited + 1 ≥ o.kind.landing
  let s := s.modOp o.id fun o =>
    { o with progress := progress, stat := match o.stat with | .bad c a => .bad c a | _ => .running, credited := if last then o.credited else o.credited + 1
             written := o.written ++ words.filter fun w => !o.written.contains w }
  if last then s else s.creditTb o 1
def wordKeys (asid va n : Nat) : List (Nat × Nat) := (wordsOf va n).map fun w => (asid, w)

/-! ## One unit -/

/-- Deliver bytes of one word into an L1 as Owned-sealed, registered and sealed to it at the home (R129). Where the L1 has no way for the
line, the word goes home at once, as an eviction would send it (R124; log 24). Where a store's REG of the L1 for the word is on its way, the
registration stands for the bytes with those delivered and without that store's (R138). -/
def State.deliverWord (s : State) (j : Job) (agent wa : Nat) (x : W32) (m : BitVec 4) (report : Bool) : State :=
  let asid := j.asid
  let s := if m == 0xF#4 then s.cleanWords asid [wa] else s
  let s := (s.reach asid wa).dropGiven asid wa agent
  let s := match s.owner asid wa with
    | some (a, unpub) =>
      if a == agent then s
      else (if unpub && report then s.logRace asid (4 * wa) agent a .register else s).recallNow asid wa
    | none => s
  match s.cword? agent asid wa with
  | some c =>
    let c' : CWord :=
      if c.st == .valid then ⟨.ownedSealed, mergeWord (s.homeWord asid wa) x m, m, regionOf j (4 * wa), c.awaiting, .live⟩
      else
        let c1 : CWord := { c with st := .ownedSealed, data := mergeWord c.data x m, wmask := c.wmask ||| m, claim := .live }
        if s.regComing agent asid wa then
          let before : W32 × BitVec 4 := c.held.getD (s.homeWord asid wa, 0)
          { c1 with claim := .old (mergeWord before.1 x m) (before.2 ||| m) c.wmask }
        else c1
    (s.setCword agent asid wa c').setHword asid wa (.sealed agent)
  | none =>
    if s.l1Fits agent asid wa [] then
      ((s.l1Room agent asid wa).setCword agent asid wa ⟨.ownedSealed, mergeWord (s.homeWord asid wa) x m, m, regionOf j (4 * wa), false, .live⟩).setHword
        asid wa (.sealed agent)
    else (s.mergeHome asid wa x m false).comeHome asid wa
/-- Deliver bytes into an L1 (R129). -/
def State.deliverTo (s : State) (asid agent va : Nat) (bs : List Byte) (report : Bool) : State :=
  match s.jobOfAsid? asid with
  | none => s
  | some j => (wordPieces va bs).foldl (fun (s : State) ((wa, x, m) : Nat × W32 × BitVec 4) => s.deliverWord j agent wa x m report) s

/-- Packages of a CPY's ends. -/
def State.cpyHomes (s : State) (o : EngOp) (d : CpyDesc) : Option Nat × Option Nat :=
  let j := s.jobOfGroup o.group
  let f (scratch : Bool) (va : Nat) : Option Nat :=
    if scratch then none else match s.home j (dieOf o.core) va with
      | .there p _ => some p
      | _ => none
  (f d.ds d.dst, f d.ss d.src)

/-- Write the destination bytes of a unit. -/
def State.cpyStore (s : State) (o : EngOp) (g : Group) (d : CpyDesc) (at_ : Nat) (bs : List Byte) : State :=
  let asid := (s.jobOfGroup o.group).asid
  if d.ds then s.scrWrite g o.core at_ bs
  else match d.regTo with
    | some a => s.deliverTo asid a at_ bs o.report
    | none => s.engWrite asid (s.shuttle o.core) at_ bs o.report
/-- The 0x06 packet of a unit (R220). -/
def bulkPacket (dst spkg agent asid dva copy : Nat) (last : Bool) (bs : List Byte) : Packet :=
  mkPacket dst spkg 0x06 0 agent asid 0 0
    (toBytesLE 8 dva ++ toBytesLE 4 bs.length ++ toBytesLE 4 (copy % 2 ^ 32) ++ [if last then 1 else 0]) bs
/-- Aligned 16 B reads that cover a source range within one 64 KiB page: the first address and the count. -/
def pullChunks (va n : Nat) : List (Nat × Nat) :=
  let first := va / 16
  let last := (va + n - 1) / 16
  let cut := (first / 4096 + 1) * 4096
  if last < cut then [(16 * first, last + 1 - first)] else [(16 * first, cut - first), (16 * cut, last + 1 - cut)]
/-- Send packets of a unit and note them: destination, ESEQ, time, and what they are for. -/
def State.sendFor (s : State) (o : EngOp) (pkg tag : Nat) (p : Packet) : State :=
  let e := s.nextEseq pkg
  (s.sendPacket pkg p).modOp o.id fun o => { o with remote := o.remote ++ [(pkg, e, s.clock, tag)] }

/-- One destination sector of a CPY (R166, R185, R317). -/
def State.cpyUnit (s : State) (o : EngOp) (d : CpyDesc) : State :=
  match s.group? o.group with
  | none => s
  | some g =>
    let j := s.jobOfGroup o.group
    let die := dieOf o.core
    let (at_, n) := d.unit o.progress
    let src := d.src + (at_ - d.dst)
    let read (s : State) : State × List Byte :=
      if d.ss then s.scrTake o g o.core src n else s.engRead j.asid (s.shuttle o.core) src n o.report
    let next (s : State) : State := s.modOp o.id fun o => { o with progress := o.progress + 1, stat := .running }
    s.engGo o (s.scrFate g o.core ((if d.ss then [(src, n)] else []) ++ o.tbRange)) fun s =>
    match s.cpyHomes o d with
    | (some p, _) =>
      -- no route: an unreachable target, as its NACK would say (R214, R223)
      if !s.reachable p then s.engBad o 0x09 at_
      else
      let (s, x) := if d.ss then (s, EngFate.good) else s.engFate j die .read src n
      s.engGo o x fun s =>
        let (s, bs) := read s
        next (s.sendFor o p o.progress (bulkPacket p s.pkg.id (s.shuttle o.core) j.asid at_ o.id (o.progress + 1 == d.units) bs))
    | (none, some p) =>
      if !s.reachable p then s.engBad o 0x09 src
      else
      let (s, x) := if d.ds then (s, EngFate.good) else s.engFate j die .write at_ n
      s.engGo o x fun s =>
        next ((pullChunks src n).zipIdx.foldl (fun s ((a, cnt), i) =>
          s.sendFor o p (2 * o.progress + i) (vectorPacket p s.pkg.id 1 (s.shuttle o.core) j.asid 4 0 (a / 65536 * 65536)
            ((List.range cnt).map fun k => a % 65536 + 16 * k) [])) s)
    | (none, none) =>
      let (s, x) := if d.ss then (s, EngFate.good) else s.engFate j die .read src n
      s.engGo o x fun s =>
        let (s, x) := if d.ds then (s, EngFate.good) else s.engFate j die .write at_ n
        s.engGo o x fun s =>
          let (s, bs) := read s
          (s.cpyStore o g d at_ bs).landed o (o.progress + 1) (if d.ds then [] else wordKeys j.asid at_ n)

/-- One scratch sector of a CPYT (R187, R319). -/
def State.cpytUnit (s : State) (o : EngOp) (d : TileDesc) : State :=
  match s.group? o.group with
  | none => s
  | some g =>
    let j := s.jobOfGroup o.group
    let die := dieOf o.core
    let es := 2 ^ d.lesz
    let elems := d.elems (o.progress / 2 ^ 14) (o.progress % 2 ^ 14)
    let ranges := elems.filterMap fun (_, ga) => ga.map fun a => (a, es)
    s.engGo o (s.scrFate g o.core ((if d.dir then elems.map fun e => (e.1, es) else []) ++ o.tbRange)) fun s =>
    let (s, x) := s.engFates j die (if d.dir then .write else .read) ranges
    s.engGo o x fun s =>
      let agent := s.shuttle o.core
      let s := elems.foldl (fun (s : State) ((sa, ga) : Nat × Option Nat) =>
        match ga with
        | some a =>
          if d.dir then
            let (s, bs) := s.scrTake o g o.core sa es
            s.engWrite j.asid agent a bs o.report
          else
            let (s, bs) := s.engRead j.asid agent a es o.report
            s.scrWrite g o.core sa bs
        | none => if d.dir then s else s.scrWrite g o.core sa d.fillBytes) s
      s.landed o (d.advance o.progress) (if d.dir then ranges.flatMap fun (a, n) => wordKeys j.asid a n else [])

/-- An update at a home's atomic unit (R128). -/
def State.atomicUpdate (s : State) (asid agent va size : Nat) (f : Nat → Nat) (report : Bool) : State :=
  let ws := wordsOf va size
  let s := ws.foldl (fun (s : State) w => (s.atomicReach asid w agent report).1) s
  let bs := (ws.flatMap fun w => toBytesLE 4 (s.homeWord asid w).toNat)
  let new := f (ofBytesLE ((bs.drop (va % 4)).take size))
  (wordPieces va (toBytesLE size new)).foldl (fun (s : State) ((wa, x, m) : Nat × W32 × BitVec 4) =>
    (s.mergeHome asid wa x m false).setHword asid wa .valid) s
/-- One scratch sector of a CPYR (R188, R318). -/
def State.cpyrUnit (s : State) (o : EngOp) (d : TileDesc) : State :=
  match s.group? o.group with
  | none => s
  | some g =>
    let j := s.jobOfGroup o.group
    let die := dieOf o.core
    let es := 2 ^ d.lesz
    let elems := d.elems (o.progress / 2 ^ 14) (o.progress % 2 ^ 14)
    let ranges := elems.filterMap fun (_, ga) => ga.map fun a => (a, es)
    s.engGo o (s.scrFate g o.core (elems.map (fun e => (e.1, es)) ++ o.tbRange)) fun s =>
    let (s, x) := s.engUpdates j die ranges
    s.engGo o x fun s =>
      let s := elems.foldl (fun (s : State) ((sa, ga) : Nat × Option Nat) =>
        match ga with
        | some a =>
          let (s', bs) := s.scrTake o g o.core sa es
          -- an element with a source byte written since is undefined as a whole (R149)
          let undef := (List.range es).any fun i => o.tainted.contains (scrKey g (scrCore o.core sa) (sa % 2 ^ 31 + i))
          s'.atomicUpdate j.asid (s.shuttle o.core) a es
            (fun old => if undef then (Config.freeW64 (s.freeCtr + es)).toNat % 2 ^ (8 * es) else cpyrNew d.redOp old (ofBytesLE bs)) o.report
        | none => s) s
      s.landed o (d.advance o.progress) (ranges.flatMap fun (a, n) => wordKeys j.asid a n)

/-! ## Events -/

/-- Is the operation running, or the first of its core's queue to start (R190)? -/
def State.shuttleRuns (s : State) (o : EngOp) : Bool :=
  match o.stat with
  | .running => true
  | .queued => !((s.ahead o).any fun p => p.core == o.core && p.kind.isShuttle && p.stat == .queued)
  | _ => false
/-- SHUTTLE_SECTOR_LANDED (R189): the next sector of an operation moves. -/
def execShuttleSectorLanded (op : Nat) (s : State) : Out :=
  match s.op? op with
  | none => .next s
  | some o =>
    if !s.shuttleRuns o || o.unitsDone then .next s
    else match o.kind with
      | .cpy d => .next (s.cpyUnit o d)
      | .cpyt d => .next (s.cpytUnit o d)
      | .cpyr d => .next (s.cpyrUnit o d)
      | _ => .next s
/-- Has a Shuttle operation moved everything? -/
def State.shuttleDone (s : State) (o : EngOp) : Bool := s.shuttleRuns o && o.unitsDone && o.remote.isEmpty
/-- SHUTTLE_COMPLETE (R148): seals, the last credits, then the completion. -/
def execShuttleComplete (op : Nat) (s : State) : Out :=
  match s.op? op with
  | none => .next s
  | some o =>
    if s.shuttleDone o then .next (s.endOp o none false fun s => s.creditTb o (o.kind.landing - o.credited)) else .next s

/-- Pages of the unclipped part of a row of a prefetch. -/
def TileDesc.rowPages (d : TileDesc) (r : Nat) : List Nat :=
  let js := (List.range (d.boxes.headD 1)).filter fun j0 => !d.clipped (d.coord r j0)
  (js.map fun j0 => d.ga (d.coord r j0) / 4096).eraseDups
/-- The home of each piece resolves it (R39, R163): what it meets first. -/
def State.prefetchRow (s : State) (j : Job) (die : Nat) (pieces : List Nat) : State × EngFate :=
  pieces.foldl (fun ((s, x) : State × EngFate) p =>
    if x != EngFate.good then (s, x)
    else match s.engFate1 j die .read (4096 * p) with
      | (s, .bad 0x07 _) | (s, .bad 0x12 _) => (s, .good)
      | r => r) (s, .good)
/-- Rows of a prefetch, from one on. -/
def State.prefetchRows (s : State) (o : EngOp) (d : TileDesc) : Nat → State × Bool
  | 0 => (s, true)
  | n + 1 =>
    let r := d.rows - (n + 1)
    match s.prefetchRow (s.jobOfGroup o.group) (dieOf o.core) (d.rowPages r) with
    | (s, .good) => s.prefetchRows o d n
    | (s, .park va) => ((s.modOp o.id fun o => { o with progress := r }).engPark o va, false)
    | (s, .bad cause va) => (s.engBad o cause va, false)
/-- PREFETCH_COMPLETE (R39): every page of the box is resolved; one arrival at the barrier. -/
def execPrefetchComplete (op : Nat) (s : State) : Out :=
  match s.op? op with
  | none => .next s
  | some o => match o.kind with
    | .prefetch d tb =>
      if !s.shuttleRuns o then .next s
      else match s.prefetchRows o d (d.rows - o.progress) with
        | (s, true) => .next (s.endOp o none false fun s => match tb with
            | some t => s.tbArrive o.group o.core t
            | none => s)
        | (s, false) => .next s
    | _ => .next s

/-! ## Issue (R182, R183, R190) -/

/-- What the write of a slot of the ring meets: the first of its two ends that does not translate (R190). -/
def State.slotFate (s : State) (j : Job) (die va : Nat) : State × Xl × W64 :=
  match s.place j die j.asid va .write with
  | (s, .at sl k) => match s.place j die j.asid (va + 255) .write with
    | (s, .at _ _) => (s, .at sl k, BitVec.ofNat 64 va)
    | (s, x) => (s, x, BitVec.ofNat 64 ((va + 255) / 65536 * 65536))
  | (s, x) => (s, x, BitVec.ofNat 64 va)
/-- A checked operation takes its place in the queue, behind the strand's accesses (R146, R190). -/
def Ctx.shuttleStart (c : Ctx) (s : State) (f : EFmt) (g : Group) (kind : OpKind) (globalSrc : Bool) : Out :=
  let act := c.active f.g f.gn
  let go (s : State) : Out :=
    match s.shuttlePlace c.id.core c.k.group, s.dueEntry g with
    | none, _ | _, some _ => c.wait s (.memops [] 1)
    | some stat, none =>
      let start (s : State) : Out :=
        c.allocate s f .copy false fun s id entry =>
          c.skip { s.ringPut g stat kind with ops := s.ops ++ [c.newOp id kind .copy entry stat] }
      match stat.slot? with
      | none => start s
      | some n => match s.slotFate (s.jobOf c.k) (dieOf c.id.core) (s.slotVa g n) with
        | (s, .park _, va) => .next (s.parkSkein c.id c.st act act (.ring va))
        | (s, .bad _, va) => c.trap s 0x13 act va
        | (s, _, _) => start s
  if globalSrc then c.release s 1 go else c.afterAll s go
/-- Read and check a descriptor, then start what it describes. -/
def Ctx.shuttleIssue (c : Ctx) (s : State) (f : EFmt) (check : State → List Byte → Except Bad (OpKind × Bool)) : Out :=
  let act := c.active f.g f.gn
  if !c.acts f.g f.gn then c.skip s
  else c.descriptor s (c.k.s f.sd.toNat) 16 128 act fun s bs =>
    match check s bs, s.group? c.k.group with
    | .error (cause, va), _ => c.trap s cause act va
    | .ok (kind, glob), some g => c.shuttleStart s f g kind glob
    | .ok _, none => c.skip s
/-- CPY (R317). -/
def execCpy (f : EFmt) (s : State) : Out :=
  withStrand s fun c =>
    c.shuttleIssue s f fun s bs => do
      let d ← s.cpyDesc (s.jobOf c.k) (dieOf c.id.core) (s.lrecOf c.k) (c.k.s f.sd.toNat) bs none
      return (.cpy d, !d.ss)
/-- CPYT (R319). -/
def execCpyt (f : EFmt) (s : State) : Out :=
  withStrand s fun c =>
    c.shuttleIssue s f fun s bs => do
      let d ← tileDesc (s.lrecOf c.k) .cpyt (c.k.s f.sd.toNat) bs (c.k.s f.sx.toNat) (c.k.s f.sy.toNat) none
      return (.cpyt d, !d.dir)
/-- CPYR (R318). -/
def execCpyr (f : EFmt) (s : State) : Out :=
  withStrand s fun c =>
    c.shuttleIssue s f fun s bs => do
      let d ← tileDesc (s.lrecOf c.k) .cpyr (c.k.s f.sd.toNat) bs (c.k.s f.sx.toNat) (c.k.s f.sy.toNat) none
      return (.cpyr d, false)

/-- ADVST (R40): what it releases follows every earlier access of the skein. -/
def execAdvst (f : EFmt) (s : State) : Out :=
  withStrand s fun c =>
    if !c.acts f.g f.gn then c.skip s
    else match s.group? c.k.group with
      | none => c.skip s
      | some g =>
        let target := min 0xFFFF ((c.k.s f.sx.toNat).toNat + f.imm.toNat)
        if target ≤ g.stage then c.skip s
        else
          c.releaseAfter s 1 (s.unperformedAll c.id) fun s => c.skip ((s.modGroup c.k.group fun g => { g with stage := max g.stage target, raises := g.raises ++ [(target, c.k.raceReport)] }).release_ c.k.group)

/-! ## The copy schedule (R37, R38) -/

/-- One entry of a schedule; none where it breaks a limit or its body the rules of its descriptor. -/
def State.schedEntry (s : State) (j : Job) (die : Nat) (r : LRec) (bs : List Byte) : Option SchedEnt :=
  let kind := fieldAt bs 2 1
  let flags := fieldAt bs 3 1
  let tbv := fieldAt bs 4 4
  let body := bs.drop 16
  let cf (i : Nat) : Bool := flags / 2 ^ i % 2 == 1
  let mk (k : OpKind) : SchedEnt := ⟨fieldAt bs 0 2, k, cf 0, cf 1, cf 2⟩
  if kind > 3 || flags ≥ 8 || (kind == 0 && flags != 0) || !zeroAt bs 8 8 || (kind ≤ 2 && tbv == 0xFFFFFFFF)
      || (tbv != 0xFFFFFFFF && !(tbv % 16 == 0 && tbv < r.scratch)) then none
  else
    let out : Except Bad SchedEnt := match kind with
      | 0 => do return mk (.cpy (← s.cpyDesc j die r 0 body (some tbv)))
      | 1 => do return mk (.cpyt (← tileDesc r .cpyt 0 body 0 0 (some tbv)))
      | 2 => do return mk (.cpyr (← tileDesc r .cpyr 0 body 0 0 (some tbv)))
      | _ => do return mk (.prefetch (← tileDesc r .prefetch 0 body 0 0 (some tbv)) (if tbv == 0xFFFFFFFF then none else some tbv))
    match out with
    | .ok e => some e
    | .error _ => none
/-- The bytes of a schedule as the service core of the launch's queue reads them (R42): none yet where a page has to be resolved, a cause
and an address where it cannot be read. A schedule homed at another package is not (R222). A race that it meets is logged (log 107). -/
def State.schedBytes (s : State) (j : Job) (slice va n : Nat) : State × Option (Except (Nat × Nat) (List Byte)) :=
  match s.engFate j (slice / 8) .read va n with
  | (s, .park a) => (s.reportFault j.asid a, none)
  | (s, .bad cause a) => (s, some (.error (if cause == 0x07 then 0x07 else 0x06, a)))
  | (s, .good) => let (s, bs) := s.engRead j.asid (s.serviceAgent slice) va n true; (s, some (.ok bs))
/-- COPY_SCHEDULE_READ (R38): once, when the launch first becomes eligible. Its failure carries the cause and address of an unresolvable
fault, and cause 0 for an invalid schedule (log 88). -/
def execCopyScheduleRead (lid : LaunchId) (s : State) : Out :=
  match s.launch? lid with
  | none => .next s
  | some l =>
    if l.sched.isSome || l.eligible.isNone || l.status.isSome || l.ending.isSome then .next s
    else if l.lrec.entries == 0 then .next (s.modLaunch lid fun l => { l with sched := some [] })
    else match s.job? lid.job with
      | none => .next s
      | some j =>
        match s.schedBytes j (l.queue / 2) l.lrec.sched.toNat (144 * l.lrec.entries) with
        | (s, none) => .next s
        | (s, some (.error (cause, a))) => .next (s.failLaunch lid cause 0 (BitVec.ofNat 64 a) 0 0 0)
        | (s, some (.ok bs)) =>
          let es := (List.range l.lrec.entries).map fun i => s.schedEntry j 0 l.lrec ((bs.drop (144 * i)).take 144)
          if es.all (·.isSome) then .next (s.modLaunch lid fun l => { l with sched := some (es.filterMap id) })
          else .next (s.failLaunch lid 0 0 0 0 0 0)

end Sys2Proof.Machine
end

