-- ==== Sys2Proof/Machine/Matrix.lean ====
section
/-! DEFINITION. The matrix engine: descriptors, queue order, operands, K-steps, table lookup, joint sets, twin tiles, tile moves
(R89, R97 to R100, R116, R147, R149, R197 to R208, R358, R361 to R363). -/

namespace Sys2Proof.Machine
open Arith

/-! ## Formats (R89, R200) -/

def isInt (f : Nat) : Bool := f == 4 || f == 5 || f == 18
def narrowFloats : List Nat := [11, 12, 16, 17, 13]
def activations : List Nat := [10, 9, 11]
def isTable (f : Nat) : Bool := 0x18 ≤ f && f ≤ 0x1B
/-- Do the two formats pair (R200)? -/
def pairOk (lookup : Bool) (a b : Nat) : Bool :=
  if lookup then activations.contains a && isTable b
  else (a == b && (a == 9 || a == 10)) || (narrowFloats.contains a && narrowFloats.contains b) || (isInt a && isInt b)
/-- Is a scale required, allowed (R200)? -/
def scaleOk (f : Nat) (present : Bool) : Bool :=
  if isTable f || f == 13 || f == 16 || f == 17 then present else if f == 11 || f == 12 then true else !present
/-- Elements of a K-step (R200). -/
def kElems (lookup : Bool) (a b : Nat) : Nat := if lookup then 128 else if a == b && (a == 13 || a == 18) then 64 else 32
/-- Bytes of a 32-weight block (R99, R100). -/
def tableBytes (f : Nat) : Nat := if f == 0x18 then 4 else if f == 0x19 then 8 else if f == 0x1A then 16 else 8
def tablePlanes (f : Nat) : Nat := if f == 0x18 then 1 else if f == 0x19 then 2 else 4
/-- The value of an element's bits; an integer format gives its integer. -/
def elemValue (f x : Nat) : FVal :=
  if f == 4 then FVal.ofInt (x % 256 : Nat) else if f == 5 then FVal.ofInt (sextInt 8 x) else if f == 18 then FVal.ofInt (sextInt 4 x)
  else if f == 16 || f == 17 then (fmtOf f).value (x % 64)
  else (fmtOf f).value (x % 2 ^ elemWidth f)

/-! ## Table lookup (R98 to R100) -/

def addF32 (a b : Nat) : Nat := roundTo f32 .rne false (exactSum .rne [f32.value a, f32.value b])
def negF32 (a : Nat) : Nat := a ^^^ 2 ^ 31
/-- T[i]: the signed sum of four activations, as F32 bits. -/
def signedSum (x : List Nat) (i : Nat) : Nat :=
  let t (k : Nat) : Nat := if i / 2 ^ k % 2 == 1 then x.getD k 0 else negF32 (x.getD k 0)
  addF32 (addF32 (addF32 (t 0) (t 1)) (t 2)) (t 3)
/-- The 81-entry table of TLT: F32 sums from +0 of t_k · x_k. -/
def ternarySum (x : List Nat) (c : Nat) : Nat :=
  (List.range 4).foldl (fun acc k =>
    let t : Int := (c / 3 ^ k % 3 : Nat) - 1
    addF32 acc (roundTo f32 .rne false (Arith.mul (FVal.ofInt t) (f32.value (x.getD k 0))))) 0
/-- Terms of one 32-weight block: `x` the activations as F32 bits, `w` the block's bytes. -/
def blockTerms (f : Nat) (x : List Nat) (w : List Byte) : List FVal :=
  (List.range 8).flatMap fun g =>
    let xs := (x.drop (4 * g)).take 4
    if f == 0x1B then
      let c := (w.getD g 0).toNat % 128
      if c < 81 then [f32.value (ternarySum xs c)] else []
    else (List.range (tablePlanes f)).map fun j =>
      let plane := fieldAt w (4 * j) 4
      Arith.mul (.fin false (2 ^ j) 0) (f32.value (signedSum xs (plane / 2 ^ (4 * g) % 16)))
/-- acc after one block (R99). -/
def applyBlock (f : Nat) (acc : Nat) (x : List Nat) (w : List Byte) (scale : Nat) : Nat :=
  roundTo f32 .rne false (exactSum .rne [f32.value acc, Arith.mul (exactSum .rne (blockTerms f x w)) (e8m0Value scale)])

/-! ## The descriptor (R199 to R203) -/

/-- Hull of an operand's scratch bytes over all steps, relative to its offset (R201, R203). -/
def hull (steps : Nat) (inc : Int) (span : Nat) : Int × Int :=
  let e : Int := ((steps : Int) - 1) * inc
  (min 0 e, max 0 e + span)
/-- An operand's footprint: window selector, first byte, one past the last. -/
def foot (off : Nat) (h : Int × Int) : Nat × Int × Int := (off / 2 ^ 31, (off % 2 ^ 31 : Nat) + h.1, (off % 2 ^ 31 : Nat) + h.2)
def footOk (r : LRec) (x : Nat × Int × Int) : Bool := (x.1 == 0 || r.twin) && 0 ≤ x.2.1 && x.2.2 ≤ (r.scratch : Int)
def footRange (r : LRec) (off : Nat) (h : Int × Int) : Except Bad Unit :=
  if footOk r (foot off h) then .ok () else .error (0x05, BitVec.ofNat 64 off)

def MatDesc.k (d : MatDesc) : Nat := kElems d.lookup d.aFmt d.bFmt
def MatDesc.aRow (d : MatDesc) : Nat := d.k * elemWidth d.aFmt / 8
/-- Rows of B in memory: how many, and bytes of each. -/
def MatDesc.bRows (d : MatDesc) : Nat × Nat :=
  if d.lookup then (128, 4 * tableBytes d.bFmt)
  else if d.transB then (128, d.k * elemWidth d.bFmt / 8)
  else (d.k, 128 * elemWidth d.bFmt / 8)
def MatDesc.blocks (d : MatDesc) : Nat := d.k / 32
def MatDesc.aHull (d : MatDesc) : Int × Int := hull d.steps d.aInc (127 * d.aPitch + d.aRow)
def MatDesc.bHull (d : MatDesc) : Int × Int := hull d.steps d.bInc ((d.bRows.1 - 1) * d.bPitch + d.bRows.2)
def MatDesc.sHull (d : MatDesc) (inc : Int) : Int × Int := hull d.steps inc (128 * d.blocks)
/-- Registers of a step of a joint member (R204). -/
def MatDesc.regs (d : MatDesc) : Nat := d.k * elemWidth d.aFmt / 32
/-- Scratch bytes the operation touches. -/
def MatDesc.feet (d : MatDesc) : List (Nat × Int × Int) :=
  (if d.joint then [] else [foot d.aOff d.aHull]) ++ (if d.bGlobal then [] else [foot d.bOff d.bHull])
    ++ (match d.saOff with | some o => [foot o (d.sHull d.saInc)] | none => [])
    ++ (match d.sbOff with | some o => [foot o (d.sHull d.sbInc)] | none => [])
/-- Start of global B's rows in step `t`. -/
def MatDesc.bVaRow (d : MatDesc) (t i : Nat) : Nat := wrapNat 64 ((d.bVa : Int) + t * d.bInc + (i * d.bPitch : Nat))
def MatDesc.bRanges (d : MatDesc) (t : Nat) : List (Nat × Nat) := (List.range d.bRows.1).map fun i => (d.bVaRow t i, d.bRows.2)

/-- Checks of a global B against the home map: homed elsewhere traps 0x12 with b_va, window 63 traps 0x06 (R107, R203) with the first row end
there as its address (log 112). -/
def State.globalB (s : State) (j : Job) (die : Nat) (d : MatDesc) : Except Bad Unit :=
  let ends := (List.range d.steps).flatMap fun t => (d.bRanges t).flatMap fun (a, n) => [a, (a + n - 1) % 2 ^ 64]
  let far (a : Nat) : Bool := match s.home j die a with | .there _ _ => true | _ => false
  if ends.any far then .error (0x12, BitVec.ofNat 64 d.bVa)
  else match ends.find? fun a => isPrivate a with
    | some a => .error (0x06, BitVec.ofNat 64 a)
    | none => .ok ()

/-- The adjusted and checked matrix descriptor (R199 to R203), for N steps. -/
def State.matDesc (s : State) (j : Job) (die : Nat) (r : LRec) (lim : Nat) (va : W64) (bs : List Byte) (lookup : Bool) (f : EFmt)
    (sx sy : W64) : Except Bad MatDesc := do
  let flags := fieldAt bs 0x33 1
  let fl (i : Nat) : Bool := flags / 2 ^ i % 2 == 1
  let a0 := fieldAt bs 0 4
  let joint := fl 4
  let scaleAt (o : Nat) : Option Nat := let x := fieldAt bs o 4; if x == 0xFFFFFFFF then none else some x
  let d : MatDesc :=
    { aOff := if joint then a0 else (a0 + sx.toNat) % 2 ^ 32, bOff := (fieldAt bs 4 4 + sx.toNat / 2 ^ 32) % 2 ^ 32
      bVa := (fieldAt bs 8 8 + sy.toNat) % 2 ^ 64, aInc := signedAt bs 0x10 4, bInc := signedAt bs 0x14 4
      aPitch := fieldAt bs 0x18 4, bPitch := fieldAt bs 0x1C 4, saOff := scaleAt 0x20, sbOff := scaleAt 0x24
      saInc := signedAt bs 0x28 4, sbInc := signedAt bs 0x2C 4, aFmt := fieldAt bs 0x30 1, bFmt := fieldAt bs 0x31 1
      acc := fieldAt bs 0x32 1, bGlobal := fl 0, twin := fl 1, transB := fl 2, overwrite := fl 3, joint := joint
      jtag := fieldAt bs 0x34 2, steps := f.n.toNat, lookup := lookup }
  limit va (flags < 32 && !(d.twin && joint) && (joint == (d.aOff == 0xFFFFFFFF)) && (joint || (d.aOff % 16 == 0 && d.jtag == 0))
    && d.bOff % 16 == 0 && d.bVa % 16 == 0 && d.aInc % 16 == 0 && d.bInc % 16 == 0 && d.aPitch % 16 == 0 && d.bPitch % 16 == 0
    && zeroAt bs 0x36 10 && pairOk lookup d.aFmt d.bFmt && scaleOk d.aFmt d.saOff.isSome && scaleOk d.bFmt d.sbOff.isSome
    && !(lookup && (d.saOff.isSome || !d.transB)) && d.acc < r.tiles)
  if d.bGlobal then s.globalB j die d
  if !joint then footRange r d.aOff d.aHull
  if !d.bGlobal then footRange r d.bOff d.bHull
  match d.saOff with
  | some o => footRange r o (d.sHull d.saInc)
  | none => pure ()
  match d.sbOff with
  | some o => footRange r o (d.sHull d.sbInc)
  | none => pure ()
  if joint && f.imm.toNat / 4 % 512 + d.steps * d.regs > lim then throw (0x01, 0)
  if !joint && f.imm.toNat % 2048 != 0 then throw (0x12, 0)
  return d

/-! ## Queue order (R197) -/

/-- Tiles and scratch bytes an operation touches. -/
def OpKind.matTiles : OpKind → List Nat
  | .mat d => [d.acc]
  | .mzero first count => (List.range count).map (first + ·)
  | .mrd tile _ _ _ _ _ => [tile]
  | .mwr tile _ _ _ => [tile]
  | _ => []
/-- Bytes of an element that MRD and MWR move (R208). -/
def formBytes (form : Nat) : Nat := if form == 1 || form == 2 then 2 else 4
def OpKind.matFeet : OpKind → List (Nat × Int × Int)
  | .mat d => d.feet
  | .mrd _ form _ _ off pitch => [foot off (0, (127 * pitch + 128 * formBytes form : Nat))]
  | .mwr _ form off pitch => [foot off (0, (127 * pitch + 128 * formBytes form : Nat))]
  | _ => []
def touching (a b : Nat × Int × Int) : Bool := a.1 == b.1 && a.2.1 < b.2.2 && b.2.1 < a.2.2
/-- Do two operations of a group name a common tile or scratch byte? -/
def OpKind.conflicts (a b : OpKind) : Bool :=
  (a.matTiles.any fun t => b.matTiles.contains t) || (a.matFeet.any fun x => b.matFeet.any (touching x))
/-- May an operation run: no earlier one of its engine touches what it touches? -/
def State.matRunnable (s : State) (o : EngOp) : Bool :=
  (o.stat == .running || o.stat == .queued)
    && !((s.ahead o).any fun p => p.core == o.core && p.group == o.group && p.kind.isMatrix && p.kind.conflicts o.kind)
/-- Entries of a core's matrix queue; a saved group's operations are on no core (R62, R197). -/
def State.matQueue (s : State) (core : Nat) : Nat := (s.ops.filter fun o => o.core == core && o.kind.isMatrix && !o.saved).length

/-! ## Tiles (R116, R207) -/

def Group.tileMap (g : Group) (core : Nat) : List Nat := if g.twin && core != g.core then g.tmap2 else g.tmap
def physTile (g : Group) (core tile : Nat) : Nat := (g.tileMap core).getD tile 0
def tileKey (g : Group) (core tile : Nat) : Nat := core * 2 ^ 21 + physTile g core tile * 16384
def State.tileElem (s : State) (g : Group) (core tile i j : Nat) : W32 := Sparse.get 0 s.tiles (tileKey g core tile + 128 * i + j)
/-- Does an element of a tile hold an error (R174)? -/
def inTile (g : Group) (core tile : Nat) : SoftPlace → Bool
  | .tile key => tileKey g core tile ≤ key && key < tileKey g core tile + 16384
  | _ => false
def State.tileSoft (s : State) (g : Group) (core tile : Nat) : Bool := s.soft.any (inTile g core tile)
/-- Write a whole tile in row order, with its type bit: true for S32. -/
def State.putTile (s : State) (g : Group) (core tile : Nat) (vs : List W32) (s32 : Bool) : State :=
  { s with tiles := Sparse.putBlock 0 s.tiles (tileKey g core tile) vs, soft := s.soft.filter fun p => !inTile g core tile p }.modCore core fun c =>
    { c with lastTileType := Tab.set c.lastTileType (physTile g core tile) s32 }
def State.tileIsS32 (s : State) (g : Group) (core tile : Nat) : Bool := Tab.getD (s.core core).lastTileType (physTile g core tile) false

/-! ## Operand bytes (R147, R149) -/

/-- A byte an engine reads, and whether its value is undefined. -/
abbrev OByte := Byte × Bool
def State.opByte (s : State) (o : EngOp) (key : Nat) : OByte :=
  if o.tainted.contains key then (0, true)
  else match Tab.get? o.stale key with
    | some b => (b, false)
    | none => (Sparse.get 0 s.scratch key, false)
/-- Scratch bytes of an operand, at an offset of a core's window. -/
def State.opBytes (s : State) (o : EngOp) (g : Group) (core off : Nat) (at_ : Int) (n : Nat) : List OByte :=
  (List.range n).map fun (i : Nat) => s.opByte o (scrKey g (scrCore core off) (((off % 2 ^ 31 : Nat) : Int) + at_ + (i : Int)).toNat)
/-- Element `k` of packed bytes (R84). -/
def elemAt (w : Nat) (bs : List OByte) (k : Nat) : Nat × Bool :=
  if w == 32 || w == 16 then
    let l := (bs.drop (k * w / 8)).take (w / 8)
    (ofBytesLE (l.map (·.1)), l.any (·.2))
  else
    let (b, u) := bs.getD (k * w / 8) (0, false)
    (b.toNat / 2 ^ (k * w % 8) % 2 ^ w, u)

/-- Rows of A in step `t` for the engine of a core. -/
def State.aRows (s : State) (o : EngOp) (g : Group) (core : Nat) (d : MatDesc) (t : Nat) : List (List OByte) :=
  (List.range 128).map fun i =>
    if d.joint then
      match o.members.find? fun m => m.quarter == i / 32 with
      | none => []
      | some m => (List.range d.regs).flatMap fun r =>
        let reg := m.vb + t * d.regs + r
        let key := 32 * reg + i % 32
        let now := match s.skein? m.sk with | some k => k.raw reg (i % 32) | none => Tab.getD m.oldRegs key 0
        (toBytesLE 4 (Tab.getD m.regs key 0).toNat).map fun b => (b, now != Tab.getD m.oldRegs key 0)
    else s.opBytes o g core d.aOff (t * d.aInc + (i * d.aPitch : Nat)) d.aRow
/-- Scales of step `t`: 128 per block; 0x7F (2^0) where there are none. -/
def State.scales (s : State) (o : EngOp) (g : Group) (core : Nat) (d : MatDesc) (off : Option Nat) (inc : Int) (t : Nat) : List OByte :=
  match off with
  | some x => s.opBytes o g core x (t * inc) (128 * d.blocks)
  | none => List.replicate (128 * d.blocks) (127, false)

/-- One element of a step (R97, R202): the new bits and whether they are undefined. -/
def MatDesc.elem (d : MatDesc) (old : Nat) (i j : Nat) (a : List OByte) (b : List (List OByte)) (sa sb : List OByte) : Nat × Bool :=
  let wa := elemWidth d.aFmt
  let wb := elemWidth d.bFmt
  if d.lookup then
    let w := b.getD j []
    let xs := (List.range 128).map fun k => elemAt wa a k
    let m := tableBytes d.bFmt
    let f32s := xs.map fun x => roundTo f32 .rne false (elemValue d.aFmt x.1)
    let v := (List.range 4).foldl (fun acc n =>
      applyBlock d.bFmt acc ((f32s.drop (32 * n)).take 32) (((w.drop (m * n)).take m).map (·.1)) (sb.getD (128 * n + j) (0, false)).1.toNat) old
    (v, xs.any (·.2) || w.any (·.2) || (List.range 4).any fun n => (sb.getD (128 * n + j) (0, false)).2)
  else
    let ks := List.range d.k
    let av := ks.map fun k => elemAt wa a k
    let bv := ks.map fun k => if d.transB then elemAt wb (b.getD j []) k else elemAt wb (b.getD k []) j
    let sav := (List.range d.blocks).map fun n => sa.getD (128 * n + i) (0, false)
    let sbv := (List.range d.blocks).map fun n => sb.getD (128 * n + j) (0, false)
    let undef := av.any (·.2) || bv.any (·.2) || sav.any (·.2) || sbv.any (·.2)
    let prod (k : Nat) : FVal := Arith.mul (elemValue d.aFmt (av.getD k (0, false)).1) (elemValue d.bFmt (bv.getD k (0, false)).1)
    if isInt d.aFmt then
      let sum : Int := (ks.map fun k => match prod k with | .fin neg m e => (if neg then -1 else 1) * (m * 2 ^ e.toNat : Nat) | _ => 0).foldl (· + ·) 0
      (wrapNat 32 (sextInt 32 old + sum), undef)
    else
      let scaled (k : Nat) : FVal :=
        Arith.mul (Arith.mul (prod k) (e8m0Value (sav.getD (k / 32) (0, false)).1.toNat)) (e8m0Value (sbv.getD (k / 32) (0, false)).1.toNat)
      (roundTo f32 .rne false (exactSum .rne (f32.value old :: ks.map scaled)), undef)

/-- Apply one step to the tile of a core (R202). `b` and `sb` are B's rows and scales. -/
def State.stepTile (s : State) (o : EngOp) (g : Group) (core : Nat) (d : MatDesc) (t : Nat) (b : List (List OByte)) (sb : List OByte) : State :=
  let a := s.aRows o g core d t
  let sa := s.scales o g core d d.saOff d.saInc t
  let vs := (List.range 128).flatMap fun i =>
    let row := a.getD i []
    (List.range 128).map fun j =>
      let old := if t == 0 && d.overwrite then 0 else (s.tileElem g core d.acc i j).toNat
      let (x, undef) := d.elem old i j row b sa sb
      if undef then (Config.freeW64 (s.freeCtr + 128 * i + j)).truncate 32 else BitVec.ofNat 32 x
  { s.putTile g core d.acc vs (isInt d.aFmt) with freeCtr := s.freeCtr + 16384 }

def isTwinMat : OpKind → Bool
  | .mat d => d.twin
  | _ => false

/-- B's rows and scales for step `t`, read by the engine of operation `o`: from scratch, or from global memory once every byte
translates (R166). -/
def State.fetchB (s : State) (o : EngOp) (g : Group) (d : MatDesc) (t : Nat) : State × EngFate × List (List OByte) × List OByte :=
  let sb := s.scales o g o.core d d.sbOff d.sbInc t
  if !d.bGlobal then
    (s, .good, (List.range d.bRows.1).map fun i => s.opBytes o g o.core d.bOff (t * d.bInc + (i * d.bPitch : Nat)) d.bRows.2, sb)
  else
    let j := s.jobOfGroup o.group
    match s.engFates j (dieOf o.core) .read (d.bRanges t) with
    | (s, .good) =>
      let (s, rows) := (d.bRanges t).foldl (fun ((s, rows) : State × List (List OByte)) (a, n) =>
        let (s, bs) := s.coreBytes o.core j.asid a n o.report
        (s, rows ++ [bs.map fun b => (b, false)])) (s, [])
      (s, .good, rows, sb)
    | (s, x) => (s, x, [], sb)

/-- Offset of scratch bytes at a distance from a base (R113). -/
def offAt (off : Nat) (at_ : Int) : Nat := off / 2 ^ 31 * 2 ^ 31 + (((off % 2 ^ 31 : Nat) : Int) + at_).toNat
/-- Scratch bytes that step `t` reads on a core: A with its scales, and B with its own where this engine fetches them. -/
def MatDesc.stepReads (d : MatDesc) (t : Nat) (b : Bool) : List (Nat × Nat) :=
  let scale (off : Option Nat) (inc : Int) : List (Nat × Nat) := match off with
    | some x => [(offAt x (t * inc), 128 * d.blocks)]
    | none => []
  let a := if d.joint then [] else (List.range 128).map fun (i : Nat) => (offAt d.aOff (t * d.aInc + (i * d.aPitch : Nat)), d.aRow)
  let bs := if d.bGlobal then [] else (List.range d.bRows.1).map fun (i : Nat) => (offAt d.bOff (t * d.bInc + (i * d.bPitch : Nat)), d.bRows.2)
  a ++ scale d.saOff d.saInc ++ if b then bs ++ scale d.sbOff d.sbInc else []
/-- Does a step meet an on-chip error in what it reads (R174)? -/
def State.stepFate (s : State) (g : Group) (core : Nat) (d : MatDesc) (t : Nat) (b : Bool) : EngFate :=
  if s.soft.isEmpty then .good
  else if !(t == 0 && d.overwrite) && s.tileSoft g core d.acc then .bad 0x07 0
  else s.scrFate g core (d.stepReads t b)
/-- The same for both halves of a twin. -/
def State.stepFates (s : State) (o : EngOp) (g : Group) (d : MatDesc) (t : Nat) (mate : Option EngOp) : EngFate :=
  match s.stepFate g o.core d t true, mate with
  | .good, some p => match p.kind with
    | .mat dp => s.stepFate g p.core dp t false
    | _ => .good
  | x, _ => x

/-- One K-step of an operation, and of its twin mate (R202, R206). -/
def State.kStep (s : State) (o : EngOp) (d : MatDesc) : State :=
  match s.group? o.group with
  | none => s
  | some g =>
    let t := o.progress
    let mate := s.twinMate o
    match s.fetchB o g d t with
    | (s, .good, b, sb) =>
      s.engGo o (s.stepFates o g d t mate) fun s =>
        let s := s.stepTile o g o.core d t b sb
        let s := match mate with
          | some p => match p.kind with
            | .mat dp => (s.stepTile p g p.core dp t b sb).modOp p.id fun p => { p with progress := t + 1, stat := .running }
            | _ => s
          | none => s
        s.modOp o.id fun o => { o with progress := t + 1, stat := .running }
    | (s, x, _, _) => s.engGo o x id

/-- End an operation and its twin mate alike (R206). -/
def State.endMatrix (s : State) (o : EngOp) (err : Option (Nat × W64)) (canc : Bool) : State :=
  let mate := s.twinMate o
  let s := s.endOp o err canc id
  match mate with
  | some p => s.endOp p err canc id
  | none => s

/-- MATRIX_K_STEP (R202): the next step of a loop, or the next tile of an MZERO. The even core's operation drives a twin. -/
def execMatrixKStep (op : Nat) (s : State) : Out :=
  match s.op? op with
  | none => .next s
  | some o =>
    if !s.matRunnable o then .next s
    else match o.kind, s.group? o.group with
      | .mat d, _ =>
        if o.progress ≥ d.steps || (d.twin && (o.stat != .running || o.core % 2 == 1)) then .next s else .next (s.kStep o d)
      | .mzero first count, some g =>
        if o.progress ≥ count then .next s
        else .next ((s.putTile g o.core (first + o.progress) (List.replicate 16384 0) false).modOp op fun o =>
          { o with progress := o.progress + 1, stat := .running })
      | _, _ => .next s

/-! ## Moves (R207, R208) -/

/-- Value of a tile element under its type bit. -/
def tileValue (s32 : Bool) (x : W32) : FVal := if s32 then FVal.ofInt x.toInt else f32.value x.toNat
def readTile (form mode : Nat) (sat s32 : Bool) (x : W32) : List Byte :=
  match form with
  | 1 => toBytesLE 2 (roundT 10 (modeOf mode) sat (tileValue s32 x))
  | 2 => toBytesLE 2 (roundT 9 (modeOf mode) sat (tileValue s32 x))
  | _ => toBytesLE 4 x.toNat
def writtenElem (form : Nat) (bs : List OByte) (nonce : Nat) : W32 :=
  if bs.any (·.2) then (Config.freeW64 nonce).truncate 32
  else
    let x := ofBytesLE (bs.map (·.1))
    match form with
    | 1 => BitVec.ofNat 32 (roundTo f32 .rne false (valueOf 10 x))
    | 2 => BitVec.ofNat 32 (roundTo f32 .rne false (valueOf 9 x))
    | _ => BitVec.ofNat 32 x
/-- The move of an MRD or MWR. -/
def State.moveTile (s : State) (o : EngOp) (g : Group) : State :=
  match o.kind with
  | .mrd tile form mode sat off pitch =>
    let s32 := s.tileIsS32 g o.core tile
    (List.range 128).foldl (fun s i =>
      let row := (List.range 128).flatMap fun j => readTile form mode sat s32 (s.tileElem g o.core tile i j)
      s.scrWrite g o.core (off + i * pitch) row) s
  | .mwr tile form off pitch =>
    let z := formBytes form
    let vs := (List.range 128).flatMap fun i =>
      let row := s.opBytes o g o.core off (i * pitch : Nat) (128 * z)
      (List.range 128).map fun j => writtenElem form ((row.drop (j * z)).take z) (s.freeCtr + 128 * i + j)
    { s.putTile g o.core tile vs (form == 3) with freeCtr := s.freeCtr + 16384 }
  | _ => s
/-- Does a move meet an on-chip error in what it reads (R174)? -/
def State.moveFate (s : State) (o : EngOp) (g : Group) : Option (Nat × W64) :=
  if s.soft.isEmpty then none
  else match o.kind with
    | .mrd tile _ _ _ _ _ => if s.tileSoft g o.core tile then some (0x07, 0) else none
    | .mwr _ form off pitch =>
      match s.scrFate g o.core ((List.range 128).map fun i => (offAt off (i * pitch : Nat), 128 * formBytes form)) with
      | .bad cause va => some (cause, BitVec.ofNat 64 va)
      | _ => none
    | _ => none
/-- Has a matrix operation only its completion left? -/
def EngOp.matDone (o : EngOp) : Bool :=
  match o.kind with
  | .mat d => o.progress ≥ d.steps
  | .mzero _ count => o.progress ≥ count
  | .mrd _ _ _ _ _ _ | .mwr _ _ _ _ => true
  | _ => false
/-- MATRIX_OP_COMPLETE (R148): a move is carried out here. -/
def execMatrixOpComplete (op : Nat) (s : State) : Out :=
  match s.op? op with
  | none => .next s
  | some o =>
    match s.group? o.group with
    | none => .next s
    | some g =>
      if s.matRunnable o && o.matDone then
        match s.moveFate o g with
        | some e => .next (s.endMatrix o (some e) false)
        | none => .next ((s.moveTile o g).endMatrix o none false)
      else .next s

/-! ## Issue -/

/-- Bytes the strand has written since its last OFENCE that the engine reads as before: each is old or new (R147). `fences` are the
OFENCE cycles of the other members of a joint set: a byte is no older than what any of them could read at its own. -/
def State.pickStale (s : State) (own : List (Nat × Byte × Nat)) (fences : List Nat) : State × List (Nat × Byte) :=
  (own.map (·.1)).eraseDups.foldl (fun ((s, acc) : State × List (Nat × Byte)) key =>
    match own.find? fun y => y.1 == key && !fences.any (y.2.2 ≤ ·) with
    | some (_, old, _) =>
      if Sparse.get 0 s.scratch key == old then (s, acc)
      else
        let (s, x) := s.free
        (s, if x.getLsbD 0 then acc ++ [(key, old)] else acc)
    | none => (s, acc)) (s, [])
/-- The operand registers of a member, as the engine will read them (each element old or new) and as they stand (R147, R150). -/
def State.pickRegs (s : State) (k : Skein) (x : Strand) (fmt first n : Nat) : State × List (Nat × W32) × List (Nat × W32) :=
  (List.range (32 * n)).foldl (fun ((s, a, b) : State × List (Nat × W32) × List (Nat × W32)) i =>
    let key := 32 * first + i
    let now := Sparse.get 0 k.vregs key
    let old := Sparse.get 0 x.seenRegs key
    if now == old then (s, a ++ [(key, now)], b ++ [(key, now)])
    else
      let (s, f) := s.free
      (s, a ++ [(key, mergeWord old now (pickMask fmt f))], b ++ [(key, now)])) (s, [], [])

/-- A queue entry for the strand's own operation (R197). -/
def Ctx.enqueue (c : Ctx) (s : State) (f : EFmt) (kind : OpKind) (pairing : Option Nat) : Out :=
  if s.matQueue c.id.core ≥ 32 then c.wait s (.memops [] 1)
  else c.allocate s f .matrix false fun s id entry =>
    let (s, stale) := s.pickStale c.x.ownScr []
    let o := { c.newOp id kind .matrix entry .queued with pairing := pairing, stale := stale }
    c.skip { s with ops := s.ops ++ [o]
                    rendezvous := s.rendezvous.map fun (v : Rendezvous) => if some v.rid == pairing then { v with used := true } else v }

/-- Are two descriptors, adjusted before this check (R199), equal in every byte (R204)? N and the mnemonic are no part of them. -/
def MatDesc.same (a b : MatDesc) : Bool := { a with steps := b.steps, lookup := b.lookup } == b
/-- The four members of a whole joint set become one operation, or fail together where their descriptors differ (R204). The N of the last
issue is the operation's (log 92). -/
def State.closeJoint (s : State) (js : JointSet) : State :=
  let s := { s with jointSets := s.jointSets.filter (· != js) }
  match js.members.getLast? with
  | none => s
  | some last =>
    if js.members.any fun m => !m.desc.same last.desc then
      js.members.foldl (fun s m => s.reportEnd js.core (some m.sk) m.entry .matrix m.op m.lane (some (0x12, 0)) false) s
    else
      let (s, id) := s.fresh
      let (s, stale) := js.members.foldl (fun ((s, acc) : State × List (Nat × Byte)) m =>
        let (s, x) := s.pickStale m.ownScr (js.members.map (·.fencedAt))
        (s, acc ++ x)) (s, [])
      { s with ops := s.ops ++ [{ id := id, kind := .mat last.desc, core := js.core, group := js.group, sk := none, lane := 0, entry := none
                                  cls := .matrix, stat := .queued, progress := 0, credited := 0, cancelReq := false, members := js.members
                                  pairing := none, written := [], report := last.report, remote := [], xBytes := [], tainted := js.tainted.map (·.1)
                                  stale := stale }] }
/-- A member of a joint set issues (R204): a set that can no more be whole fails at once. What the member wrote to scratch before, since the
set was opened, is no write after its issue (R147). -/
def Ctx.jointIssue (c : Ctx) (s : State) (f : EFmt) (d : MatDesc) : Out :=
  let q := f.imm.toNat % 4
  let vb := f.imm.toNat / 4 % 512
  let set := s.jointSets.find? fun js => js.core == c.id.core && js.group == c.k.group && js.jtag == d.jtag
  let members := match set with | some js => js.members | none => []
  if members.any (·.quarter == q) then c.trap s 0x12 (c.active f.g f.gn)
  else if c.k.soft.any fun r => match r with | .v key => 32 * vb ≤ key && key < 32 * (vb + d.steps * d.regs) | _ => false then
    c.trap s 0x07 (c.active f.g f.gn)
  else if members.length == 3 && s.matQueue c.id.core ≥ 32 then c.wait s (.memops [] 1)
  else c.allocate s f .matrix false fun s op entry =>
    let n := d.steps * d.regs
    let (s, regs, now) := s.pickRegs c.k c.x d.aFmt vb n
    let m : JointMember := { sk := c.id, quarter := q, vb := vb, op := op, entry := entry, lane := c.low, desc := d, regs := regs, oldRegs := now
                             ownScr := c.x.ownScr, fencedAt := c.x.fencedAt, report := c.k.raceReport }
    let s := { s with freeCtr := s.freeCtr + 32 * n }.modSkein c.id fun k => { k with hazards := k.hazards ++ [Hazard.mk vb n s.freeCtr op entry] }
    let js : JointSet := ⟨c.id.core, c.k.group, d.jtag, members ++ [m], match set with | some old => old.tainted.filter (·.2 != c.id) | none => []⟩
    let s := { s with jointSets := match set with
      | some old => s.jointSets.map fun (x : JointSet) => if x == old then js else x
      | none => s.jointSets ++ [js] }
    c.skip (if js.members.length == 4 then s.closeJoint js else s.settleExits c.k.group)

/-- A pairing the skein holds and has not used (R205). -/
def State.pairingOf (s : State) (id : SkId) : Option Nat :=
  (s.rendezvous.find? fun v => v.sk == id && !v.failed && !v.used).map (·.rid)
/-- MLOOP and MLOOPL (R203, R358). -/
def Ctx.loopIssue (c : Ctx) (s : State) (f : EFmt) (lookup : Bool) : Out :=
  let act := c.active f.g f.gn
  let va := c.k.s f.sd.toNat
  if !c.acts f.g f.gn then c.skip s
  else c.descriptor s va 64 64 act fun s bs =>
    match s.matDesc (s.jobOf c.k) (dieOf c.id.core) (s.lrecOf c.k) (s.vlimit c.k) va bs lookup f (c.k.s f.sx.toNat) (c.k.s f.sy.toNat) with
    | .error (cause, a) => c.trap s cause act a
    | .ok d =>
      let go (s : State) : Out :=
        if d.joint then c.jointIssue s f d
        else if d.twin then
          match s.pairingOf c.id with
          | some rid => c.enqueue s f (.mat d) (some rid)
          | none => c.trap s 0x12 act
        else c.enqueue s f (.mat d) none
      if d.bGlobal then c.afterAll s go else go s
/-- MLOOP (R358). -/
def execMloop (f : EFmt) (s : State) : Out := withStrand s fun c => c.loopIssue s f false
/-- MLOOPL (R358). -/
def execMloopl (f : EFmt) (s : State) : Out := withStrand s fun c => c.loopIssue s f true
/-- MZERO (R363). -/
def execMzero (f : EFmt) (s : State) : Out :=
  withStrand s fun c =>
    if !c.acts f.g f.gn then c.skip s
    else if f.imm.toNat % 128 + f.n.toNat > (s.lrecOf c.k).tiles then c.trap s 0x12 (c.active f.g f.gn)
    else c.enqueue s f (.mzero (f.imm.toNat % 128) f.n.toNat) none
/-- The checks of MRD and MWR (R361), then the queue. -/
def Ctx.moveIssue (c : Ctx) (s : State) (f : EFmt) (kind : Nat → Nat → OpKind) : Out :=
  let act := c.active f.g f.gn
  let o := (c.k.s f.sx.toNat).toNat % 2 ^ 32
  let p := (c.k.s f.sy.toNat).toNat % 2 ^ 32
  let z := formBytes (f.imm.toNat / 256 % 4)
  if !c.acts f.g f.gn then c.skip s
  else if o % z != 0 then c.trap s 0x04 act (BitVec.ofNat 64 o)
  else if p % z != 0 then c.trap s 0x04 act (BitVec.ofNat 64 p)
  else if p < 128 * z || f.imm.toNat % 128 ≥ (s.lrecOf c.k).tiles then c.trap s 0x12 act
  else if !scrOk (s.lrecOf c.k) o (127 * p + 128 * z) then c.trap s 0x05 act (BitVec.ofNat 64 o)
  else c.enqueue s f (kind o p) none
/-- MRD (R361). -/
def execMrd (f : EFmt) (s : State) : Out :=
  withStrand s fun c => c.moveIssue s f fun o p =>
    .mrd (f.imm.toNat % 128) (f.imm.toNat / 256 % 4) (f.imm.toNat / 1024 % 8) (f.imm.getLsbD 13) o p
/-- MWR (R361). -/
def execMwr (f : EFmt) (s : State) : Out :=
  withStrand s fun c => c.moveIssue s f fun o p => .mwr (f.imm.toNat % 128) (f.imm.toNat / 256 % 4) o p

/-! ## MTWIN (R205, R362) and the start of a twin loop (R206) -/

/-- Match a new rendezvous with the oldest of its tag on the other core. -/
def State.matchTwin (s : State) (v : Rendezvous) : State :=
  match s.rendezvous.find? fun x => x.group == v.group && x.tag == v.tag && x.sk.core == twinOf v.sk.core && x.mate.isNone && !x.failed with
  | none => { s with rendezvous := s.rendezvous ++ [v] }
  | some w =>
    let s := { s with rendezvous := (s.rendezvous.map fun (x : Rendezvous) => if x.rid == w.rid then { x with mate := some v.rid } else x)
      ++ [{ v with mate := some w.rid }] }
    [w, v].foldl (fun s (x : Rendezvous) => match x.entry with
      | some e => s.reportEnd x.sk.core (some x.sk) (some e) .matrix x.rid 0 none false
      | none => s) s
/-- MTWIN (R362). Under HV = 0 the strand waits until it is matched or can be no more. -/
def execMtwin (f : EFmt) (s : State) : Out :=
  withStrand s fun c =>
    let act := c.active f.g f.gn
    let again (rid : Nat) : Out :=
      match s.rendezvous.find? (·.rid == rid) with
      | none => c.skip s
      | some v =>
        if v.failed then c.trap { s with rendezvous := s.rendezvous.filter (·.rid != rid) } 0x12 act
        else if v.mate.isSome then c.skip s
        else c.wait s (.mtwin rid)
    match c.x.wait with
    | .mtwin rid => again rid
    | _ =>
      if !c.acts f.g f.gn then c.skip s
      else if !(s.lrecOf c.k).twin then c.trap s 0x12 act
      else if s.rendezvous.any fun v => v.sk == c.id && !v.failed && (v.mate.isNone || !v.used) then c.trap s 0x12 act
      else
        let (s, rid) := s.fresh
        let v : Rendezvous := ⟨rid, c.id, c.k.group, f.imm.toNat, none, none, false, false⟩
        if f.hv then
          match s.allocEntry c.id.core rid false with
          | (s, none) => c.wait s (.memops [] 1)
          | (s, some (e, gen)) =>
            let s := (s.modSkein c.id fun k => { k.setHandle f.hd.toNat (.entry e gen) with ops := k.ops ++ [rid] }).freeEntries c.id.core
            c.skip ((s.matchTwin { v with entry := some e }).settleExits c.k.group)
        else
          let s := (s.matchTwin v).settleExits c.k.group
          match s.rendezvous.find? (·.rid == rid) with
          | some w =>
            if w.mate.isSome then c.skip s
            else if w.failed then c.trap { s with rendezvous := s.rendezvous.filter (·.rid != rid) } 0x12 act
            else c.wait s (.mtwin rid)
          | none => c.skip s

/-- Two twin descriptors agree (R206). -/
def twinAgree (a b : MatDesc) : Bool :=
  a.bOff == b.bOff && a.bVa == b.bVa && a.bInc == b.bInc && a.bPitch == b.bPitch && a.sbOff == b.sbOff && a.sbInc == b.sbInc && a.bFmt == b.bFmt
    && a.aFmt == b.aFmt && a.acc == b.acc && a.steps == b.steps && a.bGlobal == b.bGlobal && a.transB == b.transB && a.overwrite == b.overwrite
    && a.lookup == b.lookup
/-- Has the match of an operation's pairing failed? -/
def State.pairingLost (s : State) (o : EngOp) : Bool :=
  match o.pairing with
  | some rid => match s.rendezvous.find? (·.rid == rid) with
    | some v => v.failed
    | none => true
  | none => false
/-- TWIN_MLOOP_START (R205, R206): both halves are at the heads of their queues. -/
def execTwinMloopStart (op : Nat) (s : State) : Out :=
  match s.op? op with
  | none => .next s
  | some o =>
    if !isTwinMat o.kind || o.stat != .queued then .next s
    else if s.pairingLost o then .next (s.endOp o (some (0x12, 0)) false id)
    else match s.twinMate o with
      | none => .next s
      | some p =>
        if !(s.matRunnable o && s.matRunnable p && p.stat == .queued) then .next s
        else match o.kind, p.kind with
          | .mat a, .mat b =>
            if twinAgree a b then
              .next ((s.modOp o.id fun o => { o with stat := .running }).modOp p.id fun p => { p with stat := .running })
            else .next ((s.endOp o (some (0x12, 0)) false id).endOp p (some (0x12, 0)) false id)
          | _, _ => .next s

end Sys2Proof.Machine
end

