-- ==== Sys2Proof/Machine/Geyser.lean ====
section
/-! DEFINITION. The Geyser units: GMV and GMVL, their row groups and completion (R209 to R212, R336, R337). -/

namespace Sys2Proof.Machine
open Arith

def geyWeights : List Nat := [11, 13, 18]
/-- Bytes of a 32-weight block of W (R209). -/
def geyBlock (f : Nat) : Nat := if isTable f then tableBytes f else 32 * elemWidth f / 8
def GeyDesc.rowBytes (d : GeyDesc) : Nat := d.cols / 32 * (geyBlock d.wFmt + 1)
def GeyDesc.xSize (d : GeyDesc) : Nat := d.cols * elemWidth d.xFmt / 8
def GeyDesc.wSpan (d : GeyDesc) : Nat := (d.rows - 1) * d.wPitch + d.rowBytes
/-- Sectors its barrier falls by (R210). -/
def GeyDesc.units (d : GeyDesc) : Nat := (d.y % 128 + 4 * d.rows + 127) / 128

/-- The adjusted and checked Geyser descriptor (R209, R211, R337). -/
def State.geyDesc (s : State) (j : Job) (die : Nat) (r : LRec) (va : W64) (bs : List Byte) (lookup : Bool) (sx sy : W64) :
    Except Bad GeyDesc := do
  let flags := fieldAt bs 0x22 1
  let ys := flags == 1
  let tb ← match tbField (fieldAt bs 0x24 4) with
    | some t => pure t
    | none => throw (0x12, va)
  let w := fieldAt bs 0 8
  let d : GeyDesc :=
    { wVa := w, y := (fieldAt bs 8 8 + sy.toNat) % 2 ^ (if ys then 32 else 64), xOff := (fieldAt bs 0x10 4 + sx.toNat) % 2 ^ 32
      rows := fieldAt bs 0x14 4, cols := fieldAt bs 0x18 4, wPitch := fieldAt bs 0x1C 4, wFmt := fieldAt bs 0x20 1
      xFmt := fieldAt bs 0x21 1, yScratch := ys, tb := tb, slice := bitsNat (homeEntry j w) 13 9, lookup := lookup }
  limit va (d.wVa % 128 == 0 && d.y % 4 == 0 && d.xOff % 16 == 0 && 1 ≤ d.rows && d.rows ≤ 65536 && d.cols % 32 == 0 && 32 ≤ d.cols
    && d.cols ≤ 16384 && d.wPitch % 128 == 0 && d.rowBytes ≤ d.wPitch && flags < 2 && zeroAt bs 0x23 1 && zeroAt bs 0x28 24
    && (if lookup then isTable d.wFmt else geyWeights.contains d.wFmt) && activations.contains d.xFmt)
  limit va (d.wVa / 2 ^ 57 == 0 && entryKind (homeEntry j d.wVa) == 3 && d.wVa / 2 ^ 51 == (d.wVa + d.wSpan - 1) / 2 ^ 51)
  limit va (d.xOff < 2 ^ 31 && !(ys && d.y ≥ 2 ^ 31))
  if !ys then
    let far (a : Nat) : Bool := match s.home j die a with | .there _ _ => true | _ => false
    limit va (!far d.y && !far ((d.y + 4 * d.rows - 1) % 2 ^ 64))
  scrRange r d.xOff d.xSize
  if ys then scrRange r d.y (4 * d.rows)
  tbRange r tb
  return d

/-- The slice whose unit runs an operation. -/
def EngOp.geySlice? (o : EngOp) : Option Nat := match o.kind with | .gey d => some d.slice | _ => none
/-- Is the operation the one its unit runs: the first to have arrived there (R211)? -/
def State.geyRunnable (s : State) (o : EngOp) (d : GeyDesc) : Bool :=
  (o.stat == .running || o.stat == .queued) && !((s.ahead o).any fun p => !p.saved && p.geySlice? == some d.slice)
def State.geyQueue (s : State) (slice : Nat) : Nat := (s.ops.filter fun o => !o.saved && o.geySlice? == some slice).length

/-- One element of y (R210). `x` is the vector's values' F32 bits or element bits, `w` the row's bytes. -/
def GeyDesc.row (d : GeyDesc) (x : List OByte) (w : List Byte) : Nat :=
  let n := d.cols / 32
  let bb := geyBlock d.wFmt
  let we := w.map fun b => (b, false)
  (List.range n).foldl (fun acc b =>
    let scale := (w.getD (n * bb + b) 0).toNat
    let xv (k : Nat) : Nat := (elemAt (elemWidth d.xFmt) x (32 * b + k)).1
    if d.lookup then
      applyBlock d.wFmt acc ((List.range 32).map fun k => roundTo f32 .rne false (elemValue d.xFmt (xv k))) ((w.drop (bb * b)).take bb) scale
    else
      let block := (we.drop (bb * b)).take bb
      let sum := exactSum .rne ((List.range 32).map fun k =>
        Arith.mul (elemValue d.wFmt (elemAt (elemWidth d.wFmt) block k).1) (elemValue d.xFmt (xv k)))
      roundTo f32 .rne false (exactSum .rne [f32.value acc, Arith.mul sum (e8m0Value scale)])) 0

/-- A W page with GL = 0 among the rows of a group (R212): its first byte. -/
def State.notGl (s : State) (asid : Nat) (d : GeyDesc) (rs : List (Nat × Nat)) : Option Nat :=
  rs.findSome? fun (a, n) => [a, a + n - 1].findSome? fun va =>
    match (s.leaf d.slice asid va).2 with
    | .leaf p large => if pteGl p then none else some (if large then va / 2 ^ 29 * 2 ^ 29 else va / 65536 * 65536)
    | _ => none
/-- x, read whole at the start (R147, R211); an operation that was saved on its way has read it (R62). -/
def State.geyStart (s : State) (o : EngOp) (g : Group) (d : GeyDesc) : State :=
  if o.xBytes.isEmpty then
    s.modOp o.id fun o' => { o' with stat := .running, xBytes := (s.opBytes o g o.core d.xOff 0 d.xSize).map (·.1) }
  else s
/-- Has the program written a byte of x since the issue (R149)? -/
def EngOp.xTainted (o : EngOp) (g : Group) (d : GeyDesc) : Bool :=
  (List.range d.xSize).any fun i => o.tainted.contains (scrKey g o.core (d.xOff + i))
/-- The next 32 rows (R166, R210). -/
def State.rowGroup (s : State) (o : EngOp) (d : GeyDesc) : State :=
  match s.group? o.group with
  | none => s
  | some g =>
    let reads := (if o.xBytes.isEmpty then [(d.xOff, d.xSize)] else []) ++ o.tbRange
    s.engGo o (s.scrFate g o.core reads) fun s =>
    let s := s.geyStart o g d
    let xb := match s.op? o.id with | some o => o.xBytes.map fun b => (b, false) | none => []
    let j := s.jobOfGroup o.group
    let die := dieOf o.core
    let first := 32 * o.progress
    let rows := (List.range (min 32 (d.rows - first))).map (first + ·)
    let rs := rows.map fun r => (d.wVa + r * d.wPitch, d.rowBytes)
    let yRange := (d.y + 4 * first, 4 * rows.length)
    let (s, x) := s.engFates j die .read rs
    s.engGo o x fun s =>
      match s.notGl j.asid d rs with
      | some page => s.engBad o 0x12 page
      | none =>
        let (s, x) := if d.yScratch then (s, EngFate.good) else s.engFate j die .write yRange.1 yRange.2
        s.engGo o x fun s =>
          let (s, ys) := rs.foldl (fun ((s, ys) : State × List W32) (a, n) =>
            let (s, w) := s.coreBytes o.core j.asid a n o.report
            if o.xTainted g d then let (s, v) := s.free; (s, ys ++ [v.truncate 32])
            else (s, ys ++ [BitVec.ofNat 32 (d.row xb w)])) (s, [])
          let bytes := ys.flatMap fun v => toBytesLE 4 v.toNat
          let s := if d.yScratch then s.scrWrite g o.core yRange.1 bytes else s.engWrite j.asid (s.geyser d.slice) yRange.1 bytes o.report
          s.modOp o.id fun o =>
            { o with progress := o.progress + 1, stat := .running
                     written := if d.yScratch then o.written else o.written ++ wordKeys j.asid yRange.1 yRange.2 }
/-- GEYSER_ROW_GROUP (R210). -/
def execGeyserRowGroup (op : Nat) (s : State) : Out :=
  match s.op? op with
  | none => .next s
  | some o => match o.kind with
    | .gey d => if s.geyRunnable o d && 32 * o.progress < d.rows then .next (s.rowGroup o d) else .next s
    | _ => .next s
/-- GEYSER_COMPLETE (R148, R210). -/
def execGeyserComplete (op : Nat) (s : State) : Out :=
  match s.op? op with
  | none => .next s
  | some o => match o.kind with
    | .gey d =>
      if s.geyRunnable o d && 32 * o.progress ≥ d.rows then .next (s.endOp o none false fun s => s.creditTb o d.units) else .next s
    | _ => .next s

/-- GMV and GMVL (R336, R337). -/
def Ctx.geyIssue (c : Ctx) (s : State) (f : EFmt) (lookup : Bool) : Out :=
  let act := c.active f.g f.gn
  let va := c.k.s f.sd.toNat
  if !c.acts f.g f.gn then c.skip s
  else c.descriptor s va 64 64 act fun s bs =>
    match s.geyDesc (s.jobOf c.k) (dieOf c.id.core) (s.lrecOf c.k) va bs lookup (c.k.s f.sx.toNat) (c.k.s f.sy.toNat) with
    | .error (cause, a) => c.trap s cause act a
    | .ok d =>
      c.afterAll s fun s =>
        if s.geyQueue d.slice ≥ 16 then c.wait s (.memops [] 1)
        else c.allocate s f .matrix false fun s id entry =>
          let (s, stale) := s.pickStale c.x.ownScr []
          c.skip { s with ops := s.ops ++ [{ c.newOp id (.gey d) .matrix entry .queued with stale := stale }] }
/-- GMV (R336). -/
def execGmv (f : EFmt) (s : State) : Out := withStrand s fun c => c.geyIssue s f false
/-- GMVL (R336). -/
def execGmvl (f : EFmt) (s : State) : Out := withStrand s fun c => c.geyIssue s f true

end Sys2Proof.Machine
end

