-- ==== Sys2Proof/Machine/Pleat.lean ====
section
/-! DEFINITION. Pleat: patterns, PATLD, PLEAT, the exchange and its messages (R227 to R233, R367, R368). -/

namespace Sys2Proof.Machine

/-- Ticks of 100 ms (R86, R233). -/
def ms (n : Nat) : Nat := 1250000 * n

/-! ## Patterns (R227, R228) -/

structure Pattern where
  n : List Nat
  p : Nat
  es : Nat
  ds : Nat
  dd : Nat
  o : List Nat
  rtab : Nat
  sbase : Nat
  tb : Option Nat
  deriving DecidableEq, Repr

def Pattern.at_ (x : Pattern) (d : Nat) : Nat := x.n.getD d 1
def Pattern.total (x : Pattern) : Nat := x.n.foldl (· * ·) 1
/-- Bytes of a participant's block; source and destination blocks have one size. -/
def Pattern.block (x : Pattern) : Nat := x.es * x.total / x.p
/-- Fields of a pattern. -/
def patternOf (bs : List Byte) : Pattern :=
  let tb := fieldAt bs 0x30 4
  { n := [0, 4, 8, 12].map fun o => fieldAt bs o 4, p := fieldAt bs 0x10 2, es := 2 ^ fieldAt bs 0x12 1, ds := fieldAt bs 0x13 1
    dd := fieldAt bs 0x14 1, o := [0x15, 0x16, 0x17, 0x18].map fun o => fieldAt bs o 1, rtab := fieldAt bs 0x20 8
    sbase := fieldAt bs 0x28 8, tb := if tb == 0xFFFFFFFF then none else some tb }
/-- The limits of R227. -/
def patternOk (bs : List Byte) : Bool :=
  let x := patternOf bs
  let lesz := fieldAt bs 0x12 1
  x.n.all (· ≥ 1) && 1 ≤ x.p && x.p ≤ 1024 && 2 ≤ lesz && lesz ≤ 4 && x.ds ≤ 3 && x.dd ≤ 3 && x.at_ x.ds % x.p == 0
    && x.at_ x.dd % x.p == 0 && [0, 1, 2, 3].all (fun d => x.o.contains d) && zeroAt bs 0x19 7 && x.rtab % 16 == 0
    && x.sbase % x.es == 0 && (tbField (fieldAt bs 0x30 4)).isSome && zeroAt bs 0x34 76 && x.es * x.total ≤ x.p * 2 ^ 40
/-- Local extents of a sender's or a receiver's block. -/
def Pattern.extent (x : Pattern) (split d : Nat) : Nat := if d == split then x.at_ d / x.p else x.at_ d
def Pattern.srcOff (x : Pattern) (i : List Nat) : Nat :=
  let l (d : Nat) : Nat := if d == x.ds then i.getD d 0 % (x.at_ d / x.p) else i.getD d 0
  x.es * (((l 0 * x.extent x.ds 1 + l 1) * x.extent x.ds 2 + l 2) * x.extent x.ds 3 + l 3)
def Pattern.dstOff (x : Pattern) (i : List Nat) : Nat :=
  let u (d : Nat) : Nat := if d == x.dd then i.getD d 0 % (x.at_ d / x.p) else i.getD d 0
  let o (k : Nat) : Nat := x.o.getD k 0
  x.es * (((u (o 0) * x.extent x.dd (o 1) + u (o 1)) * x.extent x.dd (o 2) + u (o 2)) * x.extent x.dd (o 3) + u (o 3))
/-- Indexes of a dimension that go from one participant to another: first and count. -/
def Pattern.span (x : Pattern) (sender receiver d : Nat) : Nat × Nat :=
  let b := x.at_ d / x.p
  if x.ds == x.dd && d == x.ds then (sender * b, if sender == receiver then b else 0)
  else if d == x.ds then (sender * b, b)
  else if d == x.dd then (receiver * b, b)
  else (0, x.at_ d)
/-- Elements from one participant to another. -/
def Pattern.count (x : Pattern) (sender receiver : Nat) : Nat := [0, 1, 2, 3].foldl (fun n d => n * (x.span sender receiver d).2) 1
/-- The n-th of them in ascending dst_off: its global index. -/
def Pattern.nth (x : Pattern) (sender receiver n : Nat) : List Nat :=
  let c (k : Nat) : Nat := (x.span sender receiver (x.o.getD k 0)).2
  let q : List Nat := [n / (c 1 * c 2 * c 3), n / (c 2 * c 3) % c 1, n / c 3 % c 2, n % c 3]
  [0, 1, 2, 3].map fun d =>
    match [0, 1, 2, 3].find? fun k => x.o.getD k 0 == d with
    | some k => (x.span sender receiver d).1 + q.getD k 0
    | none => 0

/-! ## Exchanges -/

def State.exchange? (s : State) (op : Nat) : Option Exchange := s.exchanges.find? (·.op == op)
def State.modExchange (s : State) (op : Nat) (f : Exchange → Exchange) : State :=
  { s with exchanges := s.exchanges.map fun x => if x.op == op then f x else x }
def Exchange.isOpen (x : Exchange) : Bool := x.failed.isNone
/-- A Pleat packet goes over the fabric, or straight to this package's own interface. -/
def State.pleatSend (s : State) (pkg : Nat) (p : Packet) : State :=
  if pkg == s.pkg.id then s.modFab fun f => { f with inbox := f.inbox ++ [(pkg, p)] } else s.sendPacket pkg p
def rankEntry (bs : List Byte) (i : Nat) : Nat × Nat × Nat := (fieldAt bs (16 * i) 2, fieldAt bs (16 * i + 2) 1, fieldAt bs (16 * i + 8) 8)
/-- The rank table's entries as an exchange keeps them. -/
def rankTable (bs : List Byte) (p : Nat) : List (Nat × Nat × Nat) :=
  ((List.range p).map (rankEntry bs)).map fun (p, d, b) => (p % 1024, d % 4, b)
/-- ABORT to one package (R220, R233). -/
def abortPacket (s : State) (x : Exchange) (pkg cause reason : Nat) : Packet :=
  [pleatHeader pkg s.pkg.id 0x0A (s.pleatAgent x.die) x.asid
    (toBytesLE 2 x.cid ++ toBytesLE 2 x.rank ++ toBytesLE 1 cause ++ toBytesLE 1 reason)]
/-- ABORT to every other participant (R233). A participant that has not read its rank table reads it for this; whether it could. -/
def State.abortAll (s : State) (o : EngOp) (x : Exchange) (cause reason : Nat) : State × Bool :=
  let tell (s : State) (rt : List (Nat × Nat × Nat)) : State :=
    (rt.zipIdx).foldl (fun (s : State) ((pkg, _, _), i) =>
      if i == x.rank then s else s.pleatSend pkg (abortPacket s x pkg cause reason)) s
  match x.rtab with
  | some rt => (tell s rt, true)
  | none =>
    let j := s.jobOfGroup o.group
    let pat := patternOf x.pattern
    match s.engFate j x.die .read pat.rtab (16 * pat.p) with
    | (s, .good) =>
      let (s, bs) := s.engRead j.asid (s.pleatAgent x.die) pat.rtab (16 * pat.p) o.report
      (tell s (rankTable bs pat.p), true)
    | (s, _) => (s, false)
/-- A participant that can tell no one leaves word: each READY for its ID, those held already first, is answered with ABORT (R233). -/
def State.leaveWord (s : State) (op cause : Nat) : State :=
  match s.exchange? op with
  | none => s
  | some x =>
    let mine (h : Held) : Bool := h.packet.kind == 0x08 && pfield h.packet 0x10 2 == x.cid && h.packet.asid == x.asid
    let held := s.fab.held.filter mine
    let s := (s.modFab fun f => { f with held := f.held.filter fun h => !mine h }).modExchange op fun y => { y with failed := some cause }
    held.foldl (fun (s : State) h => s.pleatSend h.packet.src (abortPacket s x h.packet.src cause 0)) s
/-- The exchange's own pattern slot closes (R367). -/
def State.closeSlot (s : State) (x : Exchange) : State :=
  s.modGroup x.group fun g => { g with openPleat := g.openPleat.filter fun y => y != (x.slot, x.op) }
/-- A participant fails (R233): ABORT to the others where `tell` says so, then the report of R167. -/
def State.pleatFail (s : State) (op cause : Nat) (fva : W64) (tell : Option Nat) : State :=
  match s.exchange? op, s.op? op with
  | some x, some o =>
    let (s, told) := match tell with
      | some reason => s.abortAll o x cause reason
      | none => (s, true)
    let s := if told then { s with exchanges := s.exchanges.filter (·.op != op) } else s.leaveWord op cause
    (s.closeSlot x).endOp o (some (cause, fva)) false id
  | _, _ => s
/-- A participant's job or launch is cancelled: it is discarded and the others are told (R30, R233). -/
def State.pleatDiscard (s : State) (op : Nat) : State :=
  match s.exchange? op, s.op? op with
  | some x, some o =>
    let (s, told) := s.abortAll o x 0 0
    let s := if told then { s with exchanges := s.exchanges.filter (·.op != op) } else s.leaveWord op 0
    (s.closeSlot x).endOp o none true id
  | _, _ => s

/-- An unresolvable fault of a participant: another package's memory is none of its own (R222, R233). -/
def pleatCause (c : Nat) : Nat := if c == 0x12 then 0x06 else c

/-! ## The rank table and READY (R231, R232) -/

def rankEntryOk (es : Nat) (bs : List Byte) (i : Nat) : Bool :=
  let (p, d, b) := rankEntry bs i
  p < 1024 && d ≤ 3 && zeroAt bs (16 * i + 3) 5 && b % es == 0
/-- A READY packet (R220). -/
def readyPacket (s : State) (x : Exchange) (pkg tag : Nat) : Packet :=
  [pleatHeader pkg s.pkg.id 0x08 (s.pleatAgent x.die) x.asid
    (toBytesLE 2 x.cid ++ toBytesLE 2 x.rank ++ toBytesLE 4 tag ++ [BitVec.ofNat 8 x.die])]
def Packet.cid (p : Packet) : Nat := pfield p 0x10 2
def Packet.rank (p : Packet) : Nat := pfield p 0x12 2

/-- READY reaches an open exchange: a tag that differs fails it (R233); where the exchange's own tag is not known yet, it is compared when
the rank table has been read. -/
def State.takeReady (s : State) (op : Nat) (p : Packet) : State :=
  match s.exchange? op with
  | none => s
  | some x =>
    if x.rtab.isNone then s.modExchange op fun x => { x with ready := x.ready ++ [p.rank], early := x.early ++ [pfield p 0x14 4] }
    else if pfield p 0x14 4 != x.tag then s.pleatFail op 0x12 0 (some 1)
    else s.modExchange op fun x => { x with ready := x.ready ++ [p.rank] }
/-- ABORT reaches an exchange (R233): a tag mismatch goes on as one. -/
def State.takeAbort (s : State) (op : Nat) (p : Packet) : State :=
  if pfield p 0x15 1 == 1 then s.pleatFail op 0x12 0 (some 1) else s.pleatFail op 0x09 0 (some 0)
/-- Can a held message be for this exchange? A READY names its sender only, so participants on two dies of a package take one each
of a sender's READYs (log 20). -/
def Exchange.takes (x : Exchange) (p : Packet) : Bool :=
  p.cid == x.cid && p.asid == x.asid && p.rank != x.rank && ((p.kind == 0x08 && !x.ready.contains p.rank) || p.kind == 0x0A)
/-- Messages held for an ID are applied at once when it opens (R368). -/
def State.takeHeld (s : State) (op : Nat) : State :=
  s.fab.held.foldl (fun s h =>
    match s.exchange? op with
    | none => s
    | some x =>
      if !(x.isOpen && x.takes h.packet) then s
      else
        let s := s.modFab fun f => { f with held := f.held.erase h }
        if h.packet.kind == 0x08 then s.takeReady op h.packet else s.takeAbort op h.packet) s
/-- Read the rank table, send READY to every other participant (R231, R232). -/
def State.pleatOpen (s : State) (o : EngOp) (x : Exchange) : State :=
  let j := s.jobOfGroup o.group
  let pat := patternOf x.pattern
  match s.engFate j x.die .read pat.rtab (16 * pat.p) with
  | (s, .park va) => s.engPark o va
  | (s, .bad cause va) => s.pleatFail o.id (pleatCause cause) (BitVec.ofNat 64 va) (some 0)
  | (s, .good) =>
    let (s, bs) := s.engRead j.asid (s.pleatAgent x.die) pat.rtab (16 * pat.p) o.report
    let ids := List.range pat.p
    let es := ids.map (rankEntry bs)
    let places := es.map fun (p, d, _) => (p, d)
    let s := s.modExchange o.id fun x => { x with rtab := some (rankTable bs pat.p) }
    if !(ids.all (rankEntryOk pat.es bs)) || places.eraseDups.length != pat.p || places.getD x.rank (0, 0) != (s.pkg.id, x.die) then
      s.pleatFail o.id 0x12 0 (some 0)
    else
      let tag := (crc32c (x.pattern.take 0x20 ++ bs)).toNat
      let s := s.modExchange o.id fun x => { x with tag := tag }
      let s := (es.zipIdx).foldl (fun (s : State) ((p, _, _), i) => if i == x.rank then s else s.pleatSend p (readyPacket s x p tag)) s
      if x.early.any (· != tag) then s.pleatFail o.id 0x12 0 (some 1) else s

/-! ## Sending and receiving (R232) -/

/-- Write data that has come; at the block's own addresses (R129). -/
def State.pleatWrite (s : State) (o : EngOp) (va : Nat) (bs : List Byte) : State :=
  let asid := (s.jobOfGroup o.group).asid
  ((s.engWrite asid (s.agentOf o) va bs o.report).modOp o.id fun o => { o with written := o.written ++ wordKeys asid va bs.length }).modExchange
    o.id fun x => { x with received := x.received + bs.length }
/-- What data for a part of one sector meets at its destination: one that it does not cover whole has to be good (R173, R233). -/
def State.landFate (s : State) (j : Job) (die va n : Nat) : State × EngFate := s.engFate1 j die .write va (n != 128)
/-- A data packet (R220). -/
def dataPacket (s : State) (x : Exchange) (pkg va : Nat) (bs : List Byte) : Packet :=
  mkPacket pkg s.pkg.id 0x09 0 (s.pleatAgent x.die) x.asid 0 0
    (toBytesLE 2 x.cid ++ toBytesLE 2 x.rank ++ toBytesLE 4 0 ++ toBytesLE 8 va ++ toBytesLE 4 bs.length) bs
/-- Length of the run of consecutive dst_off from element `n` on, at most `most` elements. -/
def Pattern.run (x : Pattern) (a b n most : Nat) : Nat :=
  let d (i : Nat) : Nat := x.dstOff (x.nth a b (n + i))
  ((List.range (min most (x.count a b - n))).takeWhile fun i => d i == d 0 + i * x.es).length
/-- Send the elements of one destination sector to a receiver, or write them in place where it is the sender itself: the sector is where a
fault pauses the engine (R166). -/
def State.pleatSendRun (s : State) (o : EngOp) (x : Exchange) (pat : Pattern) (rt : List (Nat × Nat × Nat)) (q n : Nat) : State :=
  let j := s.jobOfGroup o.group
  let (pkg, _, base) := rt.getD q (0, 0, 0)
  let va := (base + pat.dstOff (pat.nth x.rank q n)) % 2 ^ 64
  let m := pat.run x.rank q n (max 1 ((128 - va % 128) / pat.es))
  let srcs := (List.range m).map fun i => (pat.sbase + pat.srcOff (pat.nth x.rank q (n + i)), pat.es)
  let stop (s : State) (f : EngFate) (go : State → State) : State := match f with
    | .good => go s
    | .park a => s.engPark o a
    | .bad cause a => s.pleatFail o.id (pleatCause cause) (BitVec.ofNat 64 a) (some 0)
  let (s, f) := s.engFates j x.die .read srcs
  stop s f fun s =>
    let (s, f) := if q == x.rank then s.landFate j x.die va (m * pat.es) else (s, EngFate.good)
    stop s f fun s =>
      let (s, bs) := srcs.foldl (fun ((s, acc) : State × List Byte) (a, k) =>
        let (s, b) := s.engRead j.asid (s.pleatAgent x.die) a k o.report
        (s, acc ++ b)) (s, [])
      let s := if q == x.rank then s.pleatWrite o va bs else s.pleatSend pkg (dataPacket s x pkg va bs)
      s.modExchange o.id fun x =>
        if n + m ≥ pat.count x.rank q then { x with sent := x.sent ++ [q], current := none } else { x with current := some (q, n + m) }
/-- The receiver to serve next: the one in progress, else the first in the rotation that is not served and is ready, or gets no element. -/
def Exchange.next (x : Exchange) (pat : Pattern) : Option (Nat × Nat) :=
  match x.current with
  | some c => some c
  | none =>
    ((List.range pat.p).map fun k => (x.rank + 1 + k) % pat.p).findSome? fun q =>
      if !x.sent.contains q && (q == x.rank || x.ready.contains q || pat.count x.rank q == 0) then some (q, 0) else none
/-- The first bytes of some data up to the end of their sector, and the rest. -/
def sectorCut (va : Nat) (bs : List Byte) : List Byte × List (Nat × List Byte) :=
  let n := 128 - va % 128
  (bs.take n, if bs.length ≤ n then [] else [(va + n, bs.drop n)])
/-- Write the data that has come, sector by sector, until there is none left or a fault pauses the engine or fails the exchange (R166, R233).
The first argument bounds the sectors. -/
def State.pleatLand : Nat → State → Nat → State
  | 0, s, _ => s
  | n + 1, s, op =>
    match s.exchange? op, s.op? op with
    | some x, some o => match x.incoming with
      | [] => s
      | (va, bs) :: rest =>
        let (now, later) := sectorCut va bs
        match s.landFate (s.jobOfGroup o.group) x.die va now.length with
        | (s, .park a) => s.engPark o a
        | (s, .bad cause a) => s.pleatFail op (pleatCause cause) (BitVec.ofNat 64 a) (some 0)
        | (s, .good) => State.pleatLand n ((s.pleatWrite o va now).modExchange op fun y => { y with incoming := later ++ rest }) op
    | _, _ => s
/-- Sectors of the data that waits. -/
def Exchange.landing (x : Exchange) : Nat := x.incoming.foldl (fun n (va, bs) => n + (va % 128 + bs.length + 127) / 128) 0
/-- Is the participant's whole share done? -/
def Exchange.share (x : Exchange) (pat : Pattern) : Bool := x.sent.length == pat.p && x.received == pat.block
/-- Sectors the barrier falls by (R232). -/
def Exchange.sectors (x : Exchange) (pat : Pattern) : Nat :=
  match x.rtab with
  | some rt => ((rt.getD x.rank (0, 0, 0)).2.2 % 128 + pat.block + 127) / 128
  | none => 0
/-- PLEAT_COMPLETE (R232): the participant's engine does the next piece of its share, and completes when there is none left. -/
def execPleatComplete (op : Nat) (s : State) : Out :=
  match s.op? op, s.exchange? op with
  | some o, some x =>
    let pat := patternOf x.pattern
    if !(o.stat == .running || o.stat == .queued) || !x.isOpen then .next s
    else match x.rtab with
      | none => .next (s.pleatOpen o x)
      | some rt =>
        if !x.incoming.isEmpty then .next (s.pleatLand x.landing op)
        else match x.next pat with
        | some (q, n) =>
          if pat.count x.rank q == 0 then .next (s.modExchange op fun x => { x with sent := x.sent ++ [q], current := none })
          else .next (s.pleatSendRun o x pat rt q n)
        | none =>
          if x.share pat then
            let s := { s with exchanges := s.exchanges.filter (·.op != op) }.closeSlot x
            .next (s.endOp o none false fun s => match pat.tb with
              | some tb => s.tbCredit o.group o.core tb (x.sectors pat)
              | none => s)
          else .next s
  | _, _ => .next s
/-- Can PLEAT_COMPLETE do anything? -/
def State.pleatBusy (s : State) (o : EngOp) : Bool :=
  match s.exchange? o.id with
  | none => false
  | some x =>
    (o.stat == .running || o.stat == .queued) && x.isOpen
      && (x.rtab.isNone || !x.incoming.isEmpty || (x.next (patternOf x.pattern)).isSome || x.share (patternOf x.pattern))
/-- PLEAT_TIMEOUT (R233): 100 ms after the participant's issue. -/
def execPleatTimeout (op : Nat) (s : State) : Out :=
  match s.exchange? op with
  | some x => .next (if x.isOpen && s.clock ≥ x.issued + ms 100 then s.pleatFail op 0x0A 0 none else s)
  | none => .next s

/-! ## Messages -/

/-- The next packet in order from a package. -/
def State.firstPacket (s : State) (spkg : Nat) : Option Packet := (s.fab.inbox.find? (·.1 == spkg)).map (·.2)
def State.dropPacket (s : State) (spkg : Nat) : State := s.modFab fun f => { f with inbox := f.inbox.eraseP (·.1 == spkg) }
/-- Serve the next packet of a package when it is of the kind an event names. -/
def State.serve (s : State) (spkg kind : Nat) (f : State → Packet → State) : State :=
  match s.firstPacket spkg with
  | some p => if p.kind == kind then f (s.dropPacket spkg) p else s
  | none => s
/-- A message for an ID that no die has open is held for 100 ms (R368). -/
def State.holdPleat (s : State) (p : Packet) : State := s.modFab fun f => { f with held := f.held ++ [⟨p.src, p.eseq, p, s.clock, 0⟩] }
/-- Exchanges of this package a message can be for. -/
def State.exchangesFor (s : State) (p : Packet) : List Exchange :=
  s.exchanges.filter fun x => x.cid == p.cid && x.asid == p.asid && x.isOpen
/-- PLEAT_READY (R232). -/
def execPleatReady (spkg : Nat) (s : State) : Out :=
  .next (s.serve spkg 0x08 fun s p =>
    match (s.exchangesFor p).find? fun x => !x.ready.contains p.rank && p.rank != x.rank with
    | some x => s.takeReady x.op p
    | none =>
      match s.exchanges.find? fun x => x.cid == p.cid && x.asid == p.asid && x.failed.isSome with
      | some x => s.pleatSend p.src (abortPacket s x p.src (x.failed.getD 0) 0)
      | none => s.holdPleat p)
/-- PLEAT_ABORT (R233). -/
def execPleatAbort (spkg : Nat) (s : State) : Out :=
  .next (s.serve spkg 0x0A fun s p =>
    match (s.exchangesFor p).find? fun x => p.rank != x.rank with
    | some x => s.takeAbort x.op p
    | none => s.holdPleat p)
/-- The exchange a data packet is for: its block holds the address. -/
def State.dataTarget (s : State) (p : Packet) (va : Nat) : Option Exchange :=
  (s.exchangesFor p).find? fun x =>
    match x.rtab with
    | some rt => let b := (rt.getD x.rank (0, 0, 0)).2.2; b ≤ va && va < b + (patternOf x.pattern).block
    | none => false
/-- PLEAT_DATA (R232, R233): written sector by sector; while a fault pauses the engine it waits there (log 93). -/
def execPleatData (spkg : Nat) (s : State) : Out :=
  .next (s.serve spkg 0x09 fun s p =>
    let va := pfield p 0x18 8
    match s.dataTarget p va with
    | none => s
    | some x =>
      let y : Exchange := { x with incoming := x.incoming ++ [(va, p.body.take (pfield p 0x20 4))] }
      let s := s.modExchange x.op fun _ => y
      if (s.op? x.op).any fun o => match o.stat with | .paused _ => true | _ => false then s
      else s.pleatLand y.landing x.op)
/-- PLEAT_HELD_MESSAGE_TIMEOUT (R368): held messages of 100 ms are discarded. -/
def execPleatHeldMessageTimeout (s : State) : Out :=
  .next { s.modFab fun f => { f with held := f.held.filter fun h =>
            !((h.packet.kind == 0x08 || h.packet.kind == 0x0A) && h.since + ms 100 ≤ s.clock) } with
          exchanges := s.exchanges.filter fun x => !(x.failed.isSome && x.issued + ms 100 ≤ s.clock) }

/-! ## PATLD and PLEAT -/

/-- PATLD (R230, R367). -/
def execPatld (f : EFmt) (s : State) : Out :=
  withStrand s fun c =>
    let act := c.active f.g f.gn
    let va := c.k.s f.sd.toNat
    let slot := f.imm.toNat % 8
    if !c.acts f.g f.gn then c.skip s
    else c.descriptor s va 64 128 act fun s bs =>
      if !patternOk bs then c.trap s 0x12 act va
      else match tbRange (s.lrecOf c.k) (patternOf bs).tb with
        | .error (cause, a) => c.trap s cause act a
        | .ok () =>
          match s.group? c.k.group with
          | none => c.skip s
          | some g =>
            if g.openPleat.any (·.1 == slot) then c.trap s 0x12 act
            else c.skip (s.modGroup c.k.group fun g => { g with patterns := Tab.set g.patterns slot bs })
/-- PLEAT (R231, R368). -/
def execPleat (f : EFmt) (s : State) : Out :=
  withStrand s fun c =>
    let act := c.active f.g f.gn
    let slot := f.imm.toNat % 8
    let rank := (c.k.s f.sx.toNat).toNat
    let cid := f.n.toNat
    let die := dieOf c.id.core
    if !c.acts f.g f.gn then c.skip s
    else match s.group? c.k.group with
      | none => c.skip s
      | some g => match Tab.get? g.patterns slot with
        | none => c.trap s 0x12 act
        | some bs =>
          let mine := s.exchanges.filter fun x => x.die == die && x.isOpen
          if g.openPleat.any (·.1 == slot) || rank ≥ (patternOf bs).p || mine.any (·.cid == cid) then c.trap s 0x12 act
          else if mine.length ≥ 16 then c.wait s (.memops [] 1)
          else c.release s 1 fun s =>
            c.allocate s f .copy true fun s id entry =>
              let x : Exchange := { op := id, die := die, cid := cid, pattern := bs, rank := rank, group := c.k.group, slot := slot
                                    issued := s.clock, rtab := none, tag := 0, ready := [], early := [], sent := [], current := none, received := 0
                                    asid := s.asidOf c.k, failed := none, incoming := [] }
              let s := s.modGroup c.k.group fun g => { g with openPleat := g.openPleat ++ [(slot, id)] }
              let s := { s with ops := s.ops ++ [c.newOp id (.pleat slot bs rank cid) .copy entry .queued]
                                exchanges := s.exchanges.filter (fun (y : Exchange) => !(y.die == die && y.cid == cid && y.failed.isSome)) ++ [x] }
              c.skip (s.takeHeld id)

/-! ## Stopping an engine operation -/

/-- ENGINE_CANCEL_STOP (R30, R181): an operation asked to stop ends at its boundary, unless it has completed. A move of a tile
completes; a Pleat of a cancelled group is discarded. -/
def execEngineCancelStop (op : Nat) (s : State) : Out :=
  match s.op? op with
  | none => .next s
  | some o =>
    if !o.cancelReq then .next s
    else match o.kind with
      | .cpy _ | .cpyt _ | .cpyr _ =>
        if s.shuttleDone o then .next s else .next (s.endOp o none true fun s => s.creditTb o (o.kind.landing - o.credited))
      | .prefetch _ _ => .next (s.endOp o none true id)
      | .mat d => if s.matRunnable o && o.progress ≥ d.steps then .next s else .next (s.endMatrix o none true)
      | .mzero _ count => if s.matRunnable o && o.progress ≥ count then .next s else .next (s.endMatrix o none true)
      | .mrd _ _ _ _ _ _ | .mwr _ _ _ _ => .next s
      | .gey d => if 32 * o.progress ≥ d.rows then .next s else .next (s.endOp o none true id)
      | .pleat _ _ _ _ => .next (s.pleatDiscard op)

end Sys2Proof.Machine
end

