-- ==== Sys2Proof/Machine/Paging.lean ====
section
/-! DEFINITION. Paging, migration, discarded pages, unparking, verification of code pages, breakpoints by address (R54, R62,
R156 to R164, R169, R222 to R224, R247 to R249). -/

namespace Sys2Proof.Machine

/-! ## Page-in (R161 to R163) -/

/-- A piece is marked as lying in a block that failed (R161): its entry becomes KIND 10 and its record failed. A page-in whose source cannot be
read ends so too (log 113). -/
def State.markFailed (s : State) (slice pk : Nat) : State :=
  s.modSlice slice fun x =>
    let x := x.release (x.entry pk)
    let rec_ := firstFree (x.blocks.map (·.1))
    { x.setEntry pk { x.entry pk with kind := 2, loc := rec_ } with blocks := Tab.set x.blocks rec_ ⟨[], 0, pk, 1, true⟩ }
/-- The same, and the DFN is told to the host. -/
def State.failPiece (s : State) (slice pk : Nat) : State :=
  (s.markFailed slice pk).health 7 (slice / 8) (slice % 8) 0 (pk / 16) 0 0 []
/-- Bytes come into a piece: stored as they are at 4 KiB, else expanded as an LZ4 block (R162). -/
def State.fillPiece (s : State) (slice pk : Nat) (bs : List Byte) : State :=
  let data := if bs.length == 4096 then some bs else lz4Expand 4096 bs
  match data with
  | some d => (s.installPieces slice 1 pk d).getD s
  | none => s.failPiece slice pk

/-- The parts of a chunk's pieces that hold `n` bytes from `lo` of it: physical key and bytes. -/
def VChunk.parts (c : VChunk) (lo n : Nat) : List (Nat × Nat) :=
  (c.pieces.zipIdx).filterMap fun (p, i) =>
    let a := max lo (4096 * i)
    let b := min (lo + n) (min c.len (4096 * i + 4096))
    if b ≤ a then none else some (physKey c.slice p (a - 4096 * i), b - a)
/-- Read bytes of a chunk from DRAM, each sector under its check (R172); none where one fails. -/
def State.chunkRead (s : State) (c : VChunk) (lo n : Nat) : State × Option (List Byte) :=
  let ps := c.parts lo n
  let secs := ps.flatMap fun (k, m) => (List.range ((k % 128 + m + 127) / 128)).map fun i => k + 128 * i
  (secs.foldl (fun (s : State) k => s.checkSector c.slice k) s,
    if secs.any (s.sectorFailed c.slice) then none else some (ps.flatMap fun (k, m) => Sparse.getList 0 s.mem k m))
/-- Write bytes of a chunk to DRAM from `lo` on, under fresh tags. -/
def State.chunkWrite (s : State) (c : VChunk) (lo : Nat) (bs : List Byte) : State :=
  ((c.parts lo bs.length).foldl (fun ((s, bs) : State × List Byte) (k, m) =>
    ({ s with mem := Sparse.putBlock 0 s.mem k (bs.take m) }.modSlice c.slice fun x =>
      x.clearErrs fun y => k / 128 ≤ y && y ≤ (k + m - 1) / 128, bs.drop m)) (s, bs)).1
/-- A block of 4 KiB of a weight volume: chunk c holds blocks 16·c to 16·c + 15, a chunk not written zeros (R256). None where its bytes
fail a check or are no LZ4 block of 64 KiB. -/
def State.volBlock (s : State) (v : Volume) (b : Nat) : State × Option (List Byte) :=
  match Tab.get? v.chunks (b / 16) with
  | none => (s, some (List.replicate 4096 0))
  | some c =>
    if v.lz4 then
      let (s, raw) := s.chunkRead c 0 c.len
      (s, (raw.bind (lz4Expand 65536)).map fun out => (out.drop (b % 16 * 4096)).take 4096)
    else s.chunkRead c (b % 16 * 4096) 4096

/-- Post a STORAGE request (R255): the 64 B of R257 with the request number and a chunk index in place of the buffer. -/
def State.postStorage (s : State) (job op obj off bytes chunk : Nat) (num : Nat) (data : List Byte) : State :=
  let body := toBytesLE 1 op ++ List.replicate 7 0 ++ toBytesLE 8 obj ++ toBytesLE 8 off ++ toBytesLE 8 bytes ++ toBytesLE 4 num
    ++ toBytesLE 4 chunk ++ List.replicate 24 0 ++ data
  let pad := (8 - body.length % 8) % 8
  s.send ⟨0x0B, 0, 32 + body.length + pad, BitVec.ofNat 64 num, job, 0, 0, body ++ List.replicate pad 0⟩

/-- The die whose slices home a page: private pages of window 63 are homed at the die of their group (R103, R105). -/
def State.dieOfVa (s : State) (va : Nat) : Nat :=
  match s.groups.find? fun (_, g) => g.privBase.toNat ≤ va && va < g.privBase.toNat + g.privBytes with
  | some (_, g) => g.homeDie
  | none => 0

/-- An LZ4 block of a volume expands whole (R161, R162): the pieces of the page that name blocks of its chunk all come in, or all are
marked failed. -/
def State.pageInBlock (s : State) (j : Job) (v : Volume) (vol blk page dfn : Nat) : State :=
  let die := s.dieOfVa (page * 65536)
  let named : List (Nat × Nat × Nat) := (List.range 16).filterMap fun k =>
    match s.home j die (page * 65536 + 4096 * k) with
    | .here sl =>
      let e := (s.slice sl).entry (dfn * 16 + k)
      match Tab.get? (s.slice sl).tokens e.loc with
      | some (.volume w b) => if e.kind == 0 && w == vol && b / 16 == blk / 16 then some (sl, dfn * 16 + k, b) else none
      | _ => none
    | _ => none
  match s.volBlock v blk with
  | (s, none) => (named.foldl (fun (s : State) (sl, pk, _) => s.markFailed sl pk) s).health 7 die 0xFF 0 dfn 0 0 []
  | (s, some _) => named.foldl (fun (s : State) (sl, pk, b) => match s.volBlock v b with
      | (s, some bs) => (s.installPieces sl 1 pk bs).getD s
      | (s, none) => s) s
/-- The service core goes on with a piece whose entry has KIND 00 (R162). A host token is asked of the host once: its number as
the object, 4 KiB from offset 0. -/
def State.pageInPiece (s : State) (j : Job) (slice pk page : Nat) : State :=
  match Tab.get? (s.slice slice).tokens ((s.slice slice).entry pk).loc with
  | some (.volume vol blk) =>
    match Tab.get? s.host.volumes vol with
    | none => s.failPiece slice pk
    | some v =>
      if v.lz4 then s.pageInBlock j v vol blk page (pk / 16)
      else match s.volBlock v blk with
        | (s, some bs) => (s.installPieces slice 1 pk bs).getD s
        | (s, none) => s.failPiece slice pk
  | some (.host token _) =>
    if s.host.storage.any fun r => r.piece == some (slice, pk, j.asid, page) then s
    else
      let n := s.host.nextReq
      let r : StoreReq := { num := n, job := j.id, group := 0, index := 0, op := 0, obj := BitVec.ofNat 64 token, bytes := 4096, buf := 0
                            gens := [], got := [], chunk := 0, kobj := none, piece := some (slice, pk, j.asid, page)
                            slice := slice, report := false }
      (s.modHost fun h => { h with storage := h.storage ++ [r], nextReq := n + 1 }).postStorage j.id 0 token 0 4096 0 n []
  | none => s

/-- Does an address still meet a parkable fault? -/
def State.stillParks (s : State) (j : Job) (va : Nat) : Bool :=
  match (s.placeAny j (s.dieOfVa va) j.asid va).2 with
  | .park _ => true
  | _ => false
/-- Resolution of a fault told to a service core goes on by one action (R162, R163). A page of a MAP whose PTE is absent gets
its PTE; the fault is resolved once the piece can be reached. -/
def State.resolveFault (s : State) (asid va : Nat) : State :=
  let done (s : State) : State := { s with faults := s.faults.filter (· != (asid, va)) }
  match s.jobOfAsid? asid with
  | none => done s
  | some j =>
    let die := s.dieOfVa va
    match s.placeAny j die asid va with
    | (s, .park sl) =>
      if (s.slice sl).frozenService then s
      else match s.leafOf asid va with
      | some (p, large) =>
        if pteKey p == 0 then done s
        else
        let s := s.pageInPiece j sl (pieceKey (leafFrame p large va) va) (va / 65536)
        match (s.placeAny j die asid va).2 with
        | .park _ => s
        | _ => done s
      | none =>
        match j.maps.find? fun (first, n, _) => first ≤ va / 65536 && va / 65536 < first + n with
        | some (first, _, perm, src, arg) => done (s.mapOne j die (va / 65536) perm src (arg + mapStep src * (va / 65536 - first)))
        | none => done s
    | (s, _) => done s
/-- PAGE_FAULT_RESOLVED (R163). -/
def execPageFaultResolved (asid va : Nat) (s : State) : Out :=
  .next (if s.faults.contains (asid, va / 4096 * 4096) then s.resolveFault asid (va / 4096 * 4096) else s)

/-! ## Migration (R159) -/

/-- Copy a piece within a stack, its sectors' symbol errors with it. -/
def State.copyPiece (s : State) (slice a b : Nat) : State :=
  let bytes := Sparse.getList 0 s.mem (physKey slice a 0) 4096
  let s := { s with mem := Sparse.putBlock 0 s.mem (physKey slice b 0) bytes }
  s.modSlice slice fun x =>
    let base (p : Nat) : Nat := sectorOf (physKey slice p 0)
    let moved := (x.errs.filter fun e => base a ≤ e.1 && e.1 < base a + 32).map fun e => (e.1 - base a + base b, e.2)
    { x with errs := (x.errs.filter fun e => !(base b ≤ e.1 && e.1 < base b + 32)) ++ moved }
/-- Take a given piece out of the free ones. -/
def Slice.claimPiece (x : Slice) (p : Nat) : Option Slice :=
  if x.freePieces.contains p then some { x with freePieces := x.freePieces.filter (· != p) }
  else if p == x.nextPiece && p < stackPieces then some { x with nextPiece := p + 1 }
  else none
/-- PIECE_MIGRATION_START (R159). -/
def execPieceMigrationStart (slice dfn piece alt : Nat) (s : State) : Out :=
  let pk := dfn * 16 + piece % 16
  let e := (s.slice slice).entry pk
  if e.kind != 1 || e.mig then .next s
  else match (s.slice slice).claimPiece alt with
    | none => .next s
    | some x =>
      .next ((s.modSlice slice fun _ => x.setEntry pk { e with mig := true, alt := alt }).copyPiece slice e.loc alt)
/-- PIECE_MIGRATION_SWING (R159): the writes queued before it stand at both places already. -/
def execPieceMigrationSwing (slice dfn piece : Nat) (s : State) : Out :=
  let pk := dfn * 16 + piece % 16
  let e := (s.slice slice).entry pk
  if e.kind != 1 || !e.mig then .next s
  else .next (s.modSlice slice fun x =>
    (x.setEntry pk { e with mig := false, loc := e.alt }).free [e.loc])

/-! ## Recalling a page, discarding and reclaiming it (R132, R156, R169) -/

/-- A message that has come to its home. -/
def State.atHome (s : State) (m : Msg) : State :=
  match m.kind with
  | .reg | .rdq => s.homeTake none m
  | .seal => s.sealArrive m
  | .wb => s.wbArrive m
  | .gone => s.goneArrive m
  | _ => s
/-- The requests for a page's words that are on their way reach their homes, each after what its sender sent before it: they are accesses
from before the PTE changes (R120, R156; log 17). -/
def State.landRequests (asid page : Nat) : Nat → State → State
  | 0, s => s
  | n + 1, s =>
    match s.net.find? fun m => (m.kind == .reg || m.kind == .rdq) && m.asid == asid && m.sva / 65536 == page with
    | none => s
    | some q => match s.firstMsg q.src q.dst with
      | none => s
      | some m => State.landRequests asid page n ({ s with net := removeFirst q.src q.dst s.net }.atHome m)
/-- Steps 1 and 2 of R156: every registered word of the page comes home and every copy goes; loads in flight install nothing of it. -/
def State.recallPage (s : State) (asid page : Nat) : State :=
  let s := State.landRequests asid page s.net.length s
  let here (wa : Nat) : Bool := wa / 16384 == page
  let ws := (s.homeWords.filter fun (k, w) => k.asid == asid && here k.wa && w != .valid).map fun x => x.1.wa
  let s := ws.foldl (fun s w => (s.drained asid w).recallNow asid w) s
  { s with
    homeWords := s.homeWords.filter fun (k, _) => !(k.asid == asid && here k.wa)
    caches := s.caches.filter fun (k, w) => !(k.asid == asid && here k.wa && !w.awaiting)
    slices := s.slices.map fun (n, x) => (n, { x with lines := x.lines.filter fun l => !(l.1 == asid && l.2 / 128 == page) })
    memops := s.memops.map fun (o : MemOp) =>
      let ws := (o.need ++ o.fill.map (·.1)).filter fun key => key / 2 ^ 55 == asid && here (key % 2 ^ 55)
      { o with noFill := o.noFill ++ ws.map fun key => (asid, key % 2 ^ 55) } }
/-- Discard of one page (R169). -/
def State.discardPage (s : State) (j : Job) (page : Nat) : State :=
  match s.leafOf j.asid (page * 65536) with
  | some (p, false) => ((s.recallPage j.asid page).writeLeaf j.asid (page * 65536) (p ||| 128#64)).cleanPage j.asid (page * 65536)
  | _ => s
/-- DISCARD_RECLAIM (R169): the old pieces of a discarded page are freed, its entries are KIND 11, and it is no longer discarded. -/
def execDiscardReclaim (asid page : Nat) (s : State) : Out :=
  match s.jobOfAsid? asid, s.leafOf asid (page * 65536) with
  | some j, some (p, false) =>
    if !pteDisc p then .next s
    else
      .next ((s.zeroPieces j 0 (page * 65536) (pteDfn p) none 16).writeLeaf asid (page * 65536) (p &&& ~~~128#64))
  | _, _ => .next s

/-! ## Unparking (R54, R164, R222 to R224) -/

/-- Is a fault of the skein's address space still open? -/
def State.faultOpen (s : State) (asid : Nat) (va : W64) : Bool := s.faults.contains (asid, va.toNat / 4096 * 4096)

/-- A remote access whose packets have all been answered or have timed out: the traps of R223 and R224, or the rest of the
word. -/
def State.remoteEnd (s : State) (id : SkId) (st : Nat) (r : Remote) : State :=
  let s := s.modFab fun f => { f with remotes := f.remotes.filter (·.op != r.op) }
  let s := s.modSkein id fun k =>
    let k := { k with park := none }
    match r.onRace, r.raced with | true, some (l, va) => k.raceErr l va r.cnt | _, _ => k
  let s := s.finishPart id r.cls r.cnt
  let undone := Mask.diff r.undone (Mask.ofLanes ((r.pkts.filter (·.outcome == 1)).flatMap (·.lanes)))
  let lowest (o : Nat) : Option RemPkt :=
    (r.pkts.filter fun p => p.outcome == o && !p.lanes.isEmpty).foldl (fun (acc : Option RemPkt) p => match acc with
      | some q => if p.lanes.headD 32 < q.lanes.headD 32 then some p else some q
      | none => some p) none
  let addr (p : RemPkt) : W64 := ((r.lanes.find? fun a => a.lane == p.lanes.headD 32).map (·.va)).getD 0
  match s.skein? id with
  | none => s
  | some k => match k.strand? st with
    | none => s
    | some x =>
      let c : Ctx := ⟨id, st, k, x, (s.peekCode id k x.pc).getD 0⟩
      let trap (cause : Nat) (p : RemPkt) : State := s.takeTrap id ⟨cause, x.pc, undone, addr p, 0, false, st⟩ c.iw
      match lowest 3, lowest 2 with
      | some p, _ => trap 0x0A p
      | none, some p => trap 0x09 p
      | none, none =>
        if undone != 0 then s.modStrand id st fun x => { x with replay := some (true, undone) }
        else if r.lda then s.modStrand id st fun x => { x with wait := .memops [] 3 }
        else match r.handle with
          | some h => match s.loadImage id.core (ofBytesLE r.got) with
            | some y => ((s.modSkein id fun k => k.setHandle h y).freeEntries id.core).retire id st
            | none => s.takeTrap id ⟨0x11, x.pc, x.mask &&& k.guard (fld c.iw 51 3) (flag c.iw 50), 0, BitVec.ofNat 64 h, false, st⟩ c.iw
          | none => s.retire id st

/-- SKEIN_UNPARK (R54). -/
def execSkeinUnpark (id : SkId) (s : State) : Out :=
  match s.skein? id with
  | none => .next s
  | some k => match k.park with
    | none => .next s
    | some (_, .fault vas) =>
      if (s.core id.core).frozen || vas.any (s.faultOpen (s.asidOf k)) then .next s else .next (s.modSkein id fun k => { k with park := none })
    | some (_, .ring va) =>
      if (s.core id.core).frozen || s.faultOpen (s.asidOf k) va then .next s else .next (s.modSkein id fun k => { k with park := none })
    | some (st, .remote op) =>
      match s.fab.remotes.find? (·.op == op) with
      | none => .next (s.modSkein id fun k => { k with park := none })
      | some r =>
        -- a trap comes after the earlier words of the strand have completed (R235)
        let traps := r.pkts.any fun p => p.outcome ≥ 2 && !p.lanes.isEmpty
        let busy := (k.strand? st).isSome && !(s.unperformed id st).isEmpty
        if (r.pkts.any fun p => p.outcome == 0 && !p.lanes.isEmpty) || (traps && busy) || (s.core id.core).frozen then .next s
        else .next (s.remoteEnd id st r)

/-! ## Code pages and breakpoints -/

/-- CODE_PAGE_VERIFY (R247). -/
def execCodePageVerify (asid page : Nat) (s : State) : Out := .next (s.verifyPage asid page)

/-- ADDRESS_BREAKPOINT (R80, R249): a breakpoint that the debugger has set stands at the strand's next word, which it has not
passed. In trap mode it is a double trap without a debugger (R239). -/
def execAddressBreakpoint (id : SkId) (st : Nat) (s : State) : Out :=
  match s.skein? id with
  | none => .next s
  | some k => match k.strand? st with
    | none => .next s
    | some x =>
      if x.brkPassed || (s.core id.core).frozen || k.stopped || k.park.isSome || k.yielded || x.wait != .none || x.replay.isSome || x.atSafe || k.svcWait.isSome
          || k.trap.any (·.strand != st)
          || (k.trap.isNone && !k.pendTraps.isEmpty) then .next s
      else match s.unperformed id st with
        | _ :: _ => .next s
        | [] =>
          let s := s.modStrand id st fun x => { x with brkPassed := true }
          .next (s.takeTrap id ⟨0x0E, x.pc, 0, 0, 0, true, st⟩ 0)

end Sys2Proof.Machine
end

