-- ==== Sys2Proof/Machine/Syscall.lean ====
section
/-! DEFINITION. Waits that are over, and SVC with its continuation (R52, R243, R244, R386). -/

namespace Sys2Proof.Machine

/-! ## Waits that are over (R52) -/

/-- Has the condition of a strand's wait come about, so that its word issues again? The waits at a join PC and in RJOIN end by
merging (R70, R75), the others named false by events of their own. -/
def State.waitOver (s : State) (id : SkId) (k : Skein) (x : Strand) : Bool :=
  match s.group? k.group with
  | none => false
  | some g =>
    match x.wait with
    | .none => true
    | .join | .rjoin _ | .lastExit | .svc | .delay _ => false
    | .memops ops _ => ops.all fun o => (s.memop? o).isNone
    | .arrive off _ cs =>
      let h16 := s.h16 k
      let us := (unitsOf h16 x.mask).filter fun u => !(cs.any (·.1 == u))
      us.isEmpty || us.any fun u => k.unitDone h16 id.core (barKey id.core off) u x.mask
    | .barGen off gs => gs.all (· != (s.barWord g id.core off).gen)
    | .barwt off n => (s.barWord g id.core off).gen != n
    | .tbwait off e => (s.tbar g id.core off).epoch != e
    | .waitc l st c m => k.within l st c m
    | .waith hs => hs.all fun i => !(s.hstate id.core (k.handle i)).isPending
    | .mtwin rid => match s.rendezvous.find? (·.rid == rid) with
      | some v => v.failed || v.mate.isSome
      | none => true

/-! ## SVC (R243, R244) -/

/-- Another strand waits in a way that refuses an SVC (R243). -/
def Wait.refusesSvc : Wait → Bool
  | .arrive .. | .barGen .. | .barwt .. | .tbwait .. | .waitc .. | .waith _ | .mtwin _ => true
  | _ => false

/-- The LIVE mask of the header of the block that holds a strand's PC (R63, R244); every bank where that header cannot be read (log 81). -/
def State.liveMask (s : State) (id : SkId) (k : Skein) (x : Strand) : BitVec 16 :=
  match x.atHeader, x.blk with
  | false, some b => b.hdr.live
  | _, _ => match s.peekCode id k x.pc with
    | some w => match decode w with
      | .blockHeader h => h.live
      | _ => 0
    | none => 0xFFFF
/-- Headers at which strands stand whose pages have to be resolved before their LIVE masks can be read (R163, R244). -/
def State.absentHeaders (s : State) (id : SkId) (k : Skein) : List W64 :=
  let j := s.jobOf k
  k.live.filterMap fun (_, x) => match x.atHeader, (s.place j (dieOf id.core) j.asid x.pc.toNat .fetch).2 with
    | true, .park _ => some x.pc
    | _, _ => none
/-- Keep the registers of the banks of a mask; the others read 0 (R63, R244). -/
def Skein.keepBanks (k : Skein) (live : BitVec 16) : Skein :=
  { k with vregs := k.vregs.filter fun (key, _) => live.getLsbD (key / 1024)
           soft := k.soft.filter fun r => match r with | .v key => live.getLsbD (key / 1024) | _ => true }
/-- LIVE masks of all strands, joined. -/
def State.liveUnion (s : State) (id : SkId) (k : Skein) : BitVec 16 := k.live.foldl (fun m (_, x) => m ||| s.liveMask id k x) 0

/-- The continuation record of an SVC by strand `st` (R244, R245). -/
def State.continuation (s : State) (id : SkId) (st : Nat) (k : Skein) : Skein :=
  let k := k.modStrand st Strand.retired
  let k' := k.keepBanks (s.liveUnion id k)
  { k' with
    handles := List.replicate 16 .none, hazards := [], svcWait := none
    cntL := 0, cntS := 0, cntC := 0, cntM := 0, fifoL := [], fifoS := [], fifoC := [], fifoM := []
    strands := k'.strands.map fun o => o.map fun x =>
      { x with count := 0, wait := match x.wait with | .rjoin n => .rjoin n | .join => .join | _ => .none } }

/-- An error reply (R246). -/
def svcErr (cause : Nat) : W64 := BitVec.ofNat 64 (2 ^ 63 + cause)
/-- Have the skein's operations finished, and the words that its other strands have issued (R80, R243)? -/
def Skein.quietBut (k : Skein) (st : Nat) : Bool := k.quiet && k.live.all fun (i, y) => i == st || !y.issued
/-- Post an SVC: the continuation is written, the core's write-set sealed, the request posted, the skein freed (R243). -/
def State.postSvc (s : State) (id : SkId) (st service : Nat) (k : Skein) : State :=
  let s := { s with cur := none }
  let cont := s.continuation id st k
  let s := (s.sealCores [id.core]).1
  let s := s.modWork fun w => { w with svcs := w.svcs ++
    [⟨k.group, k.index, id, service, [2, 3, 4, 5].map k.s, cont, if service > 6 then some (svcErr 1) else none, [], none, true⟩] }
  (s.dropSkein id).freeEntries id.core
/-- An SVC whose wait is over: an error is trapped first, else it posts (R243). -/
def State.endSvc (s : State) (id : SkId) (st service : Nat) (k : Skein) (x : Strand) : State :=
  let k := { k with svcWait := none }
  match k.takeError with
  | some e => s.errorAt id st k x e
  | none => s.postSvc id st service k

/-- SVC (R243, R386). -/
def execSvc (f : CFmt) (s : State) : Out :=
  withStrand s fun c =>
    if c.active f.g f.gn == 0 then c.skip s
    else if (c.k.trapOf c.st).isSome then c.trap s 0x01 (c.active f.g f.gn) 0 1
    else if c.k.live.any fun (i, y) => i != c.st && y.wait.refusesSvc && !s.waitOver c.id c.k y then c.trap s 0x01 (c.active f.g f.gn) 0 1
    else if c.k.quietBut c.st && (s.absentHeaders c.id (c.k.modStrand c.st Strand.retired)).isEmpty then .next (s.endSvc c.id c.st f.imm.toNat c.k c.x)
    else .next ({ s with cur := none }.modSkein c.id fun k =>
      ({ k with svcWait := some (c.st, f.imm.toNat) }).modStrand c.st fun x => { x with wait := .svc })
/-- SVC_POST (R243): the request goes once the headers that the continuation's banks depend on are there. -/
def execSvcPost (id : SkId) (st : Nat) (s : State) : Out :=
  match s.skein? id with
  | none => .next s
  | some k => match k.svcWait, k.strand? st with
    | some (w, service), some x =>
      if w != st || !k.quietBut st || k.park.isSome || k.yielded || (s.core id.core).frozen then .next s
      else match s.absentHeaders id (k.modStrand st Strand.retired) with
        | [] => .next (s.endSvc id st service k x)
        | vas => .next ((vas.foldl (fun (s : State) (va : W64) => s.reportFault (s.asidOf k) va.toNat) s).modSkein id fun k =>
            { k with park := some (st, .fault vas) })
    | _, _ => .next s

end Sys2Proof.Machine
end

