-- ==== Sys2Proof/Machine/System.lean ====
section
/-! DEFINITION. Trap instructions, RTE, words that are no instructions, the firmware's vector and library (R238 to R242, R292, R293, R388,
R389). -/

namespace Sys2Proof.Machine

/-- TRAP (R238, R249, R388). -/
def execTrapOp (f : CFmt) (s : State) : Out :=
  withStrand s fun c => if c.active f.g f.gn == 0 then c.skip s else c.trapNext s 0x10 (f.imm.zeroExtend 64)
/-- BKPT (R238, R249, R308). -/
def execBkpt (f : CFmt) (s : State) : Out :=
  withStrand s fun c => if c.active f.g f.gn == 0 then c.skip s else c.trapNext s 0x0E (f.imm.zeroExtend 64)
/-- UDF (R293, R389). -/
def execUdf (_rest : BitVec 54) (s : State) : Out := withStrand s fun c => c.illegal s
/-- A word that R292 gives trap 0x01. -/
def execIllegalInstructionWord (_w : BitVec 64) (s : State) : Out := withStrand s fun c => c.illegal s
/-- A word of a retired major (R241). -/
def execRetiredB5Operation (_w : BitVec 64) (s : State) : Out := withStrand s fun c => c.illegal s 0x02

/-- RTE (R238, R239, R379): outside trap mode it fails the privilege check. -/
def execRte (_f : CFmt) (s : State) : Out :=
  withStrand s fun c =>
    match c.k.trapOf c.st, s.unperformed c.id c.st with
    | none, _ => c.trap s 0x14 c.x.mask
    | _, o :: os => c.wait s (.memops ((o :: os).map (·.id)) 0)
    | some t, [] => .next (s.rte c.id c.st c.k t c.x.pc)

/-! ## The firmware default vector and library (R240, R242) -/

/-- Emulation of a retired word (R242): RESULT per lane, or none. -/
def emulated (iw : W64) : Option (W32 → W32 → W32) :=
  let f := decR iw
  let op := iw.toNat / 2 ^ 58
  let sub := bitsNat iw.toNat 57 54
  if op == 0x16 && sub == 0 && f.t == 1 then
    some fun a b => if b == 0 then 0xFFFFFFFF else BitVec.ofInt 32 (Int.tdiv a.toInt b.toInt)
  else if op == 0x16 && sub == 0 && f.t == 0 then some fun a b => if b == 0 then 0xFFFFFFFF else BitVec.ofNat 32 (a.toNat / b.toNat)
  else if op == 0x17 && sub == 0 && f.t == 8 then some fun a _ => BitVec.ofNat 32 (Arith.frcp Arith.f32 (Arith.f32.value a.toNat))
  else none
/-- The parts of a frame that the library writes, from the frame's own operands (R242): RESULT, RVALID and PC. -/
def frameEmulated (bs : List Byte) (g : W32 → W32 → W32) : List (Nat × List Byte) :=
  let w (o : Nat) : W32 := BitVec.ofNat 32 (ofBytesLE ((bs.drop o).take 4))
  let active := w 0x14
  [(0x200, bytes32 (lanes32.map fun l => if active.getLsbD l then g (w (0x080 + 4 * l)) (w (0x100 + 4 * l)) else 0))
   , (0x280, toBytesLE 4 active.toNat), (0, toBytesLE 8 (ofBytesLE (bs.take 8) + 8))]
/-- Fill the frame's free area with undefined values (R240). -/
def State.clobberFree (s : State) (id : SkId) (k : Skein) : Nat → State
  | 0 => s
  | n + 1 =>
    let (s, x) := s.clobberFree id k n |>.free
    s.skWrite id k (k.trapFrame.toNat + 0x500 + 8 * n) (toBytesLE 8 x.toNat)
/-- The emulation library, up to its RTE (R242): none where the word is none of its own. -/
def State.library (s : State) (id : SkId) (k : Skein) (bs : List Byte) : Option State :=
  (emulated (frameIn bs).iw).map fun g =>
    (frameEmulated bs g).foldl (fun s (o, b) => s.skWrite id k (k.trapFrame.toNat + o) b) (s.clobberFree id k 96)
/-- What firmware does for a strand in trap mode (R240, R242): the default vector (`dflt`) handles causes 0x02, 0x0E and 0x0F and the
library 0x02, each returning by RTE (log 102); else the launch fails. A replay is of that RTE alone. -/
def State.firmware (s : State) (id : SkId) (st : Nat) (k : Skein) (x : Strand) (t : TrapMode) (dflt : Bool) : State :=
  if x.again then s.rte id st k t x.pc
  else
    let j := s.jobOf k
    let s := s.privCheck j (dieOf id.core) k.trapFrame.toNat 0x500
    match (s.place j (dieOf id.core) j.asid k.trapFrame.toNat .read).2, s.privRead j (dieOf id.core) k.trapFrame.toNat 0x500 with
    | .park _, _ =>
      (s.reportFault j.asid k.trapFrame.toNat).modSkein id fun k => { k with park := some (st, .fault [k.trapFrame]) }
    | _, none => s.doubleTrap id t.cause x.pc 0
    | _, some bs =>
      let fva := BitVec.ofNat 64 (ofBytesLE ((bs.drop 0x20).take 8))
      if dflt && (t.cause == 0x0E || t.cause == 0x0F) then
        ((s.console (homeSliceOf id k) (toBytesLE 1 t.cause ++ toBytesLE 8 t.entryPc.toNat)).clobberFree id k 96).rte id st k t x.pc
      else if dflt && t.cause != 0x02 then s.doubleTrap id t.cause t.entryPc fva
      else match s.library id k bs with
        | some s' => s'.rte id st k t x.pc
        | none => s.doubleTrap id 0x01 t.entryPc fva
/-- Does the strand stand at the firmware default vector (R237)? -/
def State.atDefaultVector (s : State) (k : Skein) (x : Strand) (t : TrapMode) : Bool :=
  (s.lrecOf k).trapvec == 0 && t.vecHdr.isNone && x.pc == 0

end Sys2Proof.Machine
end

