-- ==== Sys2Proof/Machine/Distributor.lean ====
section
/-! DEFINITION. Launch records and their acceptance, placement, reservations, pre-emption, save and restore, the end of a group,
the governor (R20 to R29, R33 to R35, R42 to R51, R56 to R66, R105, R109, R116, R125, R160, R236). -/

namespace Sys2Proof.Machine

/-! ## Submission (R22, R23, R33, R42, R43) -/

/-- Fields of a launch record. -/
def lrecOfBytes (bs : List Byte) : LRec :=
  let flags := fieldAt bs 0x17 1
  { entry := BitVec.ofNat 64 (fieldAt bs 0x00 8), gx := fieldAt bs 0x08 4, gy := fieldAt bs 0x0C 4, gz := fieldAt bs 0x10 4
    skeins := fieldAt bs 0x14 2, banks := fieldAt bs 0x16 1, twin := flags % 2 == 1, coop := flags / 2 % 2 == 1
    raceTrap := flags / 4 % 2 == 1, joinTrap := flags / 8 % 2 == 1, scratch := fieldAt bs 0x18 4, tiles := fieldAt bs 0x1C 2
    priv := fieldAt bs 0x1E 2, args := BitVec.ofNat 64 (fieldAt bs 0x20 8), sched := BitVec.ofNat 64 (fieldAt bs 0x28 8)
    entries := fieldAt bs 0x30 2, priority := fieldAt bs 0x32 1, dies := fieldAt bs 0x33 1, index := fieldAt bs 0x34 4
    trapvec := BitVec.ofNat 64 (fieldAt bs 0x38 8), preds := (List.range 8).map fun i => fieldAt bs (0x40 + i) 1
    graph := fieldAt bs 0x48 4, phase := fieldAt bs 0x4C 4, job := fieldAt bs 0x50 4 }
def LRec.groups (r : LRec) : Nat := r.gx * r.gy * r.gz
/-- The limits of R22 and the group rules of R23. -/
def lrecLimits (bs : List Byte) : Bool :=
  let r := lrecOfBytes bs
  bs.length == 256 && r.entry.toNat % 8 == 0 && r.gx ≥ 1 && r.gy ≥ 1 && r.gz ≥ 1 && r.groups ≤ 2 ^ 40 && 1 ≤ r.skeins && r.skeins ≤ 32
    && 1 ≤ r.banks && r.banks ≤ 16 && fieldAt bs 0x17 1 < 16 && r.scratch % 9472 == 0 && r.scratch ≤ 1212416 && r.tiles ≤ 128
    && r.priv % 16 == 0 && (r.entries == 0 || r.sched.toNat % 16 == 0) && r.entries ≤ 256 && r.priority ≤ 7 && r.dies ≥ 1
    && r.dies < 16 && r.index ≤ 254 && r.trapvec.toNat % 8 == 0 && r.preds.all (fun p => p == 255 || p < r.index) && zeroAt bs 0x54 172
    && (if r.twin then r.skeins ≥ 2 && share r * r.banks ≤ 128 else r.skeins * r.banks ≤ 128)

def LRec.dieList (r : LRec) : List Nat := [0, 1, 2, 3].filter fun d => r.dies / 2 ^ d % 2 == 1
/-- Groups that `n` skeins' share lets an empty core hold (R46). -/
def LRec.perCore (r : LRec) (n : Nat) : Nat :=
  let cap (total need : Nat) : Nat := if need == 0 then 128 else total / need
  min (min (cap 32 n) (cap 128 (n * r.banks))) (min (cap 128 (r.scratch / 9472)) (cap 128 r.tiles))
/-- Do all groups of a launch fit on the empty cores of its die mask (R33)? -/
def LRec.fitsWhole (r : LRec) : Bool :=
  let n := r.dieList.length
  r.groups ≤ (if r.twin then 64 * n * r.perCore (share r) else 128 * n * r.perCore r.skeins)

def LRec.lid (r : LRec) : LaunchId := ⟨r.job, r.graph, r.index⟩
def LRec.queue (r : LRec) : Nat := 16 * r.dieList.headD 0 + r.graph % 16
/-- The rules of R23 that the state decides. -/
def State.admits (s : State) (r : LRec) (job : Nat) : Bool :=
  r.job == job && (!r.coop || r.fitsWhole) && (s.launch? r.lid).isNone
    && !(s.work.held.any fun (_, x, _) => x.lid == r.lid)
    && (match s.job? job with | some j => !j.closed && j.status.isNone | none => false)
    && (match s.graph? job r.graph with | some g => !g.closed && g.status.isNone && g.phase == r.phase | none => false)
/-- Answer a submission: to the host, or to the SVC of a skein. -/
def State.answerLaunch (s : State) (job : Nat) (tag : W64) (svc : Option (Nat × Nat)) (accepted : Bool) : State :=
  match svc with
  | none => s.send ⟨0x07, 1, 32, tag, job, if accepted then 0 else stRejected, 0, []⟩
  | some (g, i) => s.svcReply g i (if accepted then 0 else 1)
/-- Launches in a queue (R43); a cancelled or failed one counts until its status is set (log 110). -/
def State.queued (s : State) (q : Nat) : Nat := (s.work.launches.filter fun l => l.queue == q && l.status.isNone).length
/-- Does a launch depend on one that ended cancelled or failed (R31)? -/
def State.predEnded (s : State) (r : LRec) : Bool :=
  r.preds.any fun p => s.dependsOn r p && match s.launch? ⟨r.job, r.graph, p⟩ with
    | some x => x.status == some stCancelled || x.status == some stFailed
    | none => false
/-- A record is accepted: its launch enters its queue, its graph's counter rises (R27, R42). One that depends on a launch ended
cancelled or failed, or whose graph was cancelled while it was held, is cancelled (R31; log 73). -/
def State.acceptLaunch (s : State) (r : LRec) (tag : W64) (svc : Option (Nat × Nat)) : State :=
  let l : Launch :=
    { lid := r.lid, lrec := r, queue := r.queue, counter := r.groups, eligible := none, lastPlaced := 0, next := 0, status := none
      ending := none, cause := 0, failPc := 0, failVa := 0, failGroup := 0, failSkein := 0, failCore := 0
      sched := if r.entries == 0 then some [] else none, tag := tag, placedAll := false, noFit := [] }
  let s := s.modWork fun w => { w with launches := w.launches ++ [l] }
  let s := s.modGraph r.job r.graph fun g => { g with counter := g.counter + 1 }
  let s := s.answerLaunch r.job tag svc true
  if s.predEnded r || (s.graph? r.job r.graph).any (·.cancelled) then s.stopLaunch r.lid stCancelled else s.markEligible
/-- A submission is checked, then accepted or held (R23, R43). One through the SVC service takes its skein's job ID, whatever the
record's field holds. -/
def State.submit (s : State) (bs : List Byte) (job : Nat) (tag : W64) (svc : Option (Nat × Nat)) : State :=
  let r := if svc.isSome then { lrecOfBytes bs with job := job } else lrecOfBytes bs
  if !lrecLimits bs || !s.admits r job then s.answerLaunch job tag svc false
  else if s.queued r.queue ≥ 512 || s.work.held.any (fun (q, _) => q == r.queue) then
    s.modWork fun w => { w with held := w.held ++ [(r.queue, r, tag, svc)] }
  else s.acceptLaunch r tag svc
/-- HELD_SUBMISSION_ACCEPT (R43): the first submission held for a queue that has a place. It was checked when it was submitted (R23), and
is not rejected now. -/
def execHeldSubmissionAccept (s : State) : Out :=
  match s.work.held.find? fun (q, _) => s.queued q < 512 with
  | none => .next s
  | some (q, r, tag, svc) =>
    .next ((s.modWork fun w => { w with held := w.held.erase (q, r, tag, svc) }).acceptLaunch r tag svc)

/-! ## Room on cores (R46, R47, R51) -/

/-- Slots claimed on a core. -/
def State.slotsTaken (s : State) (core : Nat) : List Nat :=
  s.groups.flatMap fun (_, g) =>
    if g.st == .saved || !g.cores.contains core then []
    else (g.slots.zipIdx.filter fun (_, i) => g.coreOf (s.lrecOfGroup g) i == core).map (·.1)
/-- Slots for `n` skeins in skein order (R51). -/
def pickSlots : Nat → List Nat → List Nat
  | 0, _ => []
  | n + 1, free =>
    let f0 := free.filter (· < 16)
    let f1 := free.filter (16 ≤ ·)
    let x := if f1.length > f0.length then f1.headD 0 else f0.headD 0
    x :: pickSlots n (free.filter (· != x))
def State.freeSlots (s : State) (core : Nat) : List Nat := (List.range 32).filter fun i => !(s.slotsTaken core).contains i
/-- Is a core reserved for another launch (R48)? -/
def State.reservedAgainst (s : State) (lid : LaunchId) (core : Nat) : Bool :=
  (s.die (dieOf core)).reserve.any fun (l, c, _) => l != lid && (c == core || (c + 1 == core && (s.launch? l).any (·.lrec.twin)))
/-- Does a die take no group: it is being drained, or shut down (R60, R263)? -/
def State.dieShut (s : State) (die : Nat) : Bool := s.host.drains.any (·.1 == die) || (s.die die).shutdown
/-- Does a core fit `n` skeins of a group (R46)? -/
def State.fitsCore (s : State) (lid : LaunchId) (r : LRec) (core n : Nat) : Bool :=
  let c := s.core core
  !c.frozen && !s.dieShut (dieOf core) && !s.reservedAgainst lid core && (s.freeSlots core).length ≥ n && c.banks + n * r.banks ≤ 128
    && c.granules.length + r.scratch / 9472 ≤ 128 && c.tiles.length + r.tiles ≤ 128
/-- Does a core, or the twin of an even core, fit a group? -/
def State.fits (s : State) (lid : LaunchId) (r : LRec) (core : Nat) : Bool :=
  if r.twin then s.fitsCore lid r core (share r) && s.fitsCore lid r (core + 1) (r.skeins - share r)
  else s.fitsCore lid r core r.skeins
/-- Occupied slots of a core or twin. -/
def State.occupied (s : State) (r : LRec) (core : Nat) : Nat :=
  (s.slotsTaken core).length + (if r.twin then (s.slotsTaken (core + 1)).length else 0)
/-- The cores, or even cores of twins, of a die. -/
def placesOf (r : LRec) (die : Nat) : List Nat :=
  if r.twin then (List.range 64).map fun i => 128 * die + 2 * i else (List.range 128).map fun i => 128 * die + i
/-- The least element of a list by a measure, the first among equals. -/
def leastBy (f : Nat → Nat) : List Nat → Option Nat
  | [] => none
  | x :: xs => match leastBy f xs with
    | some y => if f y < f x then some y else some x
    | none => some x
/-- The place R47 chooses on some dies. -/
def State.pickPlace (s : State) (lid : LaunchId) (r : LRec) (dies : List Nat) : Option Nat :=
  leastBy (s.occupied r) ((dies.flatMap (placesOf r)).filter (s.fits lid r))

/-! ## Claiming and freeing -/

/-- The lowest free numbers below 128. -/
def lowestFree (taken : List Nat) (n : Nat) : List Nat := ((List.range 128).filter fun i => !taken.contains i).take n
/-- Clear what a group gets on a core (R35). -/
def State.clearCore (s : State) (core : Nat) (gm tm : List Nat) : State :=
  { s with
    scratch := gm.foldl (fun m g => Sparse.dropRange m (core * 2 ^ 21 + g * 9472) (core * 2 ^ 21 + (g + 1) * 9472)) s.scratch
    tiles := tm.foldl (fun m t => Sparse.dropRange m (core * 2 ^ 21 + t * 16384) (core * 2 ^ 21 + (t + 1) * 16384)) s.tiles
    soft := s.soft.filter fun p => match p with
      | .scratch w => !(w / 2 ^ 19 == core && gm.contains (w % 2 ^ 19 / 2368))
      | .tile key => !(key / 2 ^ 21 == core && tm.contains (key % 2 ^ 21 / 16384))
      | .word _ _ => true }
/-- Claim resources of a core for `n` skeins: granule map, tile map and slots. -/
def State.claim (s : State) (core : Nat) (r : LRec) (n : Nat) : State × List Nat × List Nat × List Nat :=
  let c := s.core core
  let gm := lowestFree c.granules (r.scratch / 9472)
  let tm := lowestFree c.tiles r.tiles
  let sl := pickSlots n (s.freeSlots core)
  let s := s.modCore core fun c =>
    { c with granules := c.granules ++ gm, tiles := c.tiles ++ tm, banks := c.banks + n * r.banks
             lastTileType := c.lastTileType.filter fun (t, _) => !tm.contains t }
  (s.clearCore core gm tm, gm, tm, sl)
/-- Claim a place for a group, giving the maps and slots to it. -/
def State.claimFor (s : State) (g : Group) (r : LRec) (core : Nat) : State × Group :=
  if r.twin then
    let (s, gm, tm, sl) := s.claim core r (share r)
    let (s, gm2, tm2, sl2) := s.claim (core + 1) r (r.skeins - share r)
    (s, { g with core := core, gmap := gm, tmap := tm, gmap2 := gm2, tmap2 := tm2, slots := sl ++ sl2 })
  else
    let (s, gm, tm, sl) := s.claim core r r.skeins
    (s, { g with core := core, gmap := gm, tmap := tm, slots := sl })
/-- A group's start acquires for its cores (R29). -/
def State.acquireCores (s : State) (g : Group) : State := g.cores.foldl (fun s c => s.selfInvalidate (s.l1 c) 0xFFFF) s

/-! ## A group's private memory (R105, R236): the areas in skein order, then the trap frames -/

def upTo (n x : Nat) : Nat := (x + n - 1) / n * n
def areaOf (r : LRec) (i : Nat) : Nat :=
  let first := upTo 1024 (privSize r 0)
  if i == 0 then 0 else first + (i - 1) * upTo 1024 (privSize r 1)
def framesAt (r : LRec) : Nat := upTo 2048 (areaOf r r.skeins)
def privBytesOf (r : LRec) : Nat := framesAt r + 2048 * r.skeins

/-! ## Starting a group (R21, R29, R34, R35) -/

/-- State of a skein at entry (R34). -/
def entrySkein (r : LRec) (group lin i clock : Nat) (base : Nat) : Skein :=
  let v0 : List (Nat × W32) := (List.range 32).filterMap fun l =>
    if 32 * i + l == 0 then none else some (l, BitVec.ofNat 32 (32 * i + l))
  let area : W64 := BitVec.ofNat 64 (base + areaOf r i)
  let st : Strand :=
    { pc := r.entry, mask := 0xFFFFFFFF, blk := none, count := 0, wait := .none, nest := [], lastIssue := clock, replay := none
      act0 := none, part := none, brkPassed := false, passNamed := false, atSafe := false, ownScr := [], fencedAt := clock, seenRegs := v0 }
  let k : Skein :=
    { group := group, index := i, vregs := v0, sregs := [], preds := List.replicate 7 0, rj := List.replicate 8 0
      handles := List.replicate 16 .none, cntL := 0, cntS := 0, cntC := 0, cntM := 0, fifoL := [], fifoS := [], fifoC := [], fifoM := []
      joinLost := false, raceTrap := r.raceTrap, raceReport := true, seed := 0, streams := []
      trapFrame := BitVec.ofNat 64 (base + framesAt r + 2048 * i), privBase := area, strands := [some st, none, none, none], records := []
      exited := 0, park := none, trap := none, pendTraps := [], pendErrs := [], paired := none, stopped := false, stepping := none, svcWait := none
      yielded := false, ops := [], failed := [], exitedAll := false, started := false, passed := [], hazards := [], soft := [] }
  ((((k.setS 1 r.args).setS 2 (BitVec.ofNat 64 lin)).setS 3 (BitVec.ofNat 64 i)).setS 4 area).reseed 0

/-- Install a group's private pages, reading zero (R35). -/
def State.installPrivate (s : State) (j : Job) (die base bytes : Nat) : State :=
  (List.range ((bytes + 65535) / 65536)).foldl (fun s i => s.installPage j die (base + 65536 * i) 3 fun _ => ⟨3, false, 0, 0, 0⟩) s

/-- Place the next group of a launch at a core or twin (R45, R50). -/
def State.placeNew (s : State) (l : Launch) (core : Nat) : State :=
  match s.job? l.lid.job with
  | none => s
  | some j =>
    let r := l.lrec
    let (s, gid) := s.fresh
    let base := window63 + 65536 * s.nextPriv
    let bytes := privBytesOf r
    let s := { s with nextPriv := s.nextPriv + (bytes + 65535) / 65536 }
    let g : Group :=
      { launch := l.lid, lin := l.next, core := core, twin := r.twin, st := .running, stage := 0, schedPos := 0, released := [], raises := []
        gmap := [], gmap2 := [], tmap := [], tmap2 := [], slots := [], exited := [], patterns := [], openPleat := []
        privBase := BitVec.ofNat 64 base, privBytes := bytes, entryHdr := none, entryBad := false, cancelled := false, placedAt := s.clock
        restoredAt := none, sSeen := [], saved := [], savedScratch := [], savedScratch2 := [], savedTiles := [], savedTiles2 := [], savedTypes := []
        savedEntries := [], preOrder := 0, prev := none, sealOp := 0, heldArr := [], saveArea := [], savedSoft := [] }
    let (s, g) := s.claimFor g r core
    let s := { s with groups := s.groups ++ [(gid, g)] }
    let s := s.installPrivate j (dieOf core) base bytes
    let s := (List.range r.skeins).foldl (fun s i => s.setSkein (g.skId r i) (entrySkein r gid g.lin i s.clock base)) s
    let s := s.modLaunch l.lid fun x => { x with next := x.next + 1, lastPlaced := s.clock, placedAll := x.placedAll || x.next + 1 == r.groups }
    (s.acquireCores g).release_ gid
/-- Claim a place for a saved group: its restore follows (R65). -/
def State.placeSaved (s : State) (gid core : Nat) : State :=
  match s.group? gid with
  | none => s
  | some g0 =>
    let old : Place := ⟨g0.core, g0.gmap, g0.gmap2, g0.tmap, g0.tmap2, g0.slots⟩
    let (s, g) := s.claimFor { g0 with st := .restoring, prev := some old } (s.lrecOfGroup g0) core
    s.modGroup gid fun _ => g

/-! ## The placement step (R44, R45, R48, R49) -/

/-- Effective priority (R44). -/
def State.effective (s : State) (l : Launch) : Nat :=
  let w := s.clock - max (l.eligible.getD 0) l.lastPlaced
  min (l.lrec.priority + w / 2 ^ 20) (l.lrec.priority + 2)
/-- Saved groups of a launch, in the order in which they were pre-empted. -/
def State.savedGroups (s : State) (lid : LaunchId) : List Nat :=
  let gs := s.groups.filter fun (_, g) => g.launch == lid && g.st == .saved
  let ids := gs.map (·.1)
  let ord (g : Nat) : Nat := ((s.group? g).map (·.preOrder)).getD 0
  let rec sort : List Nat → List Nat
    | [] => []
    | x :: xs => let r := sort xs; r.takeWhile (fun y => ord y < ord x) ++ [x] ++ r.dropWhile fun y => ord y < ord x
  sort ids
def Launch.unplaced (l : Launch) : Bool := l.next < l.lrec.groups
/-- Does one launch come before another (R45)? -/
def State.before (s : State) (a b : Launch) : Bool :=
  let ea := s.effective a
  let eb := s.effective b
  ea > eb || (ea == eb && (a.eligible.getD 0 < b.eligible.getD 0 || (a.eligible == b.eligible && a.queue < b.queue)))
/-- Put a launch in its place; equal ones stay in the order of acceptance (log 78). -/
def State.insertLaunch (s : State) (l : Launch) : List Launch → List Launch
  | [] => [l]
  | x :: xs => if s.before l x then l :: x :: xs else x :: s.insertLaunch l xs
/-- The launches a distributor considers, in order. -/
def State.candidates (s : State) (die : Nat) : List Launch :=
  let ls := s.work.launches.filter fun l =>
    l.eligible.isSome && l.sched.isSome && l.status.isNone && l.ending.isNone && l.lrec.dieList.contains die
      && (l.unplaced || !(s.savedGroups l.lid).isEmpty)
  ls.foldl (fun acc l => s.insertLaunch l acc) []
/-- Is a launch held back on a die by an eligible cooperative one that is not placed, its schedule read or not (R33)? Restores are not held
back. Of two cooperative launches of one effective priority, of which each would hold the other back, the first in the order goes
(log 83). -/
def State.blocked (s : State) (die : Nat) (l : Launch) : Bool :=
  s.work.launches.any fun (c : Launch) =>
    c.lrec.coop && !c.placedAll && c.lid != l.lid && c.eligible.isSome && c.status.isNone && c.ending.isNone && c.lrec.dieList.contains die
      && s.effective l ≤ s.effective c && (!l.lrec.coop || s.before c l)

/-- Place every group of a cooperative launch, or restore all of them; none where they do not fit (R33, R49). The cores of all dies of the
mask are one pool (log 111). -/
def State.placeWhole (s : State) (l : Launch) : Option State :=
  let dies := l.lrec.dieList
  let saved := s.savedGroups l.lid
  if !saved.isEmpty then
    if saved.length != (s.groupsOf l.lid).length then none
    else saved.foldl (fun (acc : Option State) g => match acc with
      | some s => (s.pickPlace l.lid l.lrec dies).map fun c => s.placeSaved g c
      | none => none) (some s)
  else
    (List.range (l.lrec.groups - l.next)).foldl (fun (acc : Option State) _ => match acc with
      | some s => match s.pickPlace l.lid l.lrec dies, s.launch? l.lid with
        | some c, some l => some (s.placeNew l c)
        | _, _ => none
      | none => none) (some s)
/-- Place a launch's next group on a die; none where it fits nowhere. -/
def State.placeOne (s : State) (die : Nat) (l : Launch) : Option State :=
  if l.lrec.coop then
    if l.lrec.dieList.headD 0 == die && (!(s.savedGroups l.lid).isEmpty || !l.lrec.dieList.any fun d => s.blocked d l) then s.placeWhole l else none
  else match s.pickPlace l.lid l.lrec [die], s.savedGroups l.lid with
    | none, _ => none
    | some c, g :: _ => some (s.placeSaved g c)
    | some c, [] => if s.blocked die l then none else some (s.placeNew l c)
/-- A launch's reservations end, on every die, when its waiting group is placed on any (R48). -/
def State.endReserve (s : State) (lid : LaunchId) : State :=
  { s with dies := s.dies.map fun ((d, x) : Nat × Die) => (d, { x with reserve := x.reserve.filter (·.1 != lid) }) }
/-- Note for each launch since when its next group has fitted nowhere on the die (R48). -/
def State.noteFits (s : State) (die : Nat) (ls : List Launch) : State :=
  ls.foldl (fun (s : State) (l : Launch) =>
    let fit := (s.pickPlace l.lid l.lrec [die]).isSome
    s.modLaunch l.lid fun l =>
      if fit then { l with noFit := Tab.erase l.noFit die }
      else if (Tab.get? l.noFit die).isSome then l else { l with noFit := Tab.set l.noFit die s.clock }) s
/-- Is there a launch for which that is not noted yet? -/
def State.fitsToNote (s : State) (die : Nat) : Bool :=
  !s.dieShut die && (s.candidates die).any fun l => (s.pickPlace l.lid l.lrec [die]).isSome == (Tab.get? l.noFit die).isSome
/-- The first launch in the order that can be placed. -/
def State.placeFirst (s : State) (die : Nat) : List Launch → Option (State × LaunchId)
  | [] => none
  | l :: ls => match s.placeOne die l with
    | some s => some (s, l.lid)
    | none => s.placeFirst die ls
/-- Can the distributor place something now? -/
def State.canPlace (s : State) (die : Nat) : Bool :=
  !s.dieShut die && (s.placeFirst die (s.candidates die)).isSome
/-- PLACEMENT_STEP (R45, R48 to R50): once in 8 cycles. A launch that has a group placed waits anew for its next one. -/
def execPlacementStep (die : Nat) (s : State) : Out :=
  if (s.die die).lastStep != 0 && s.clock < (s.die die).lastStep + 8 then .next s
  else
    let s := (s.modDie die fun d => { d with lastStep := s.clock }).markEligible
    if s.dieShut die then .next s
    else
      let s := s.noteFits die (s.candidates die)
      match s.placeFirst die (s.candidates die) with
      | some (s', lid) => .next ((s'.modLaunch lid fun l => { l with noFit := [] }).endReserve lid)
      | none => .next s

/-! ## Reservations (R48) -/

/-- Free resources of a core or twin, counted in slots, banks, granules and tiles. -/
def State.freeSum (s : State) (r : LRec) (core : Nat) : Nat :=
  let one (c : Nat) : Nat := 416 - (s.slotsTaken c).length - (s.core c).banks - (s.core c).granules.length - (s.core c).tiles.length
  one core + (if r.twin then one (core + 1) else 0)
/-- May a launch reserve a core or twin: no other launch holds a reservation of it? -/
def State.reservable (s : State) (l : Launch) (core : Nat) : Bool :=
  !(s.core core).frozen && !s.reservedAgainst l.lid core && (!l.lrec.twin || !s.reservedAgainst l.lid (core + 1))
/-- PLACEMENT_RESERVATION (R48): the next group of the first launch in the order has fitted nowhere for 2^22 cycles, and the launch holds
no reservation yet. A reservation of a launch that was the first before stands. -/
def execPlacementReservation (die : Nat) (s : State) : Out :=
  match s.candidates die with
  | l :: _ =>
    match Tab.get? l.noFit die with
    | some t =>
      if s.clock < t + 2 ^ 22 || (s.die die).reserve.any (·.1 == l.lid) then .next s
      else match leastBy (fun c => 2000 - s.freeSum l.lrec c) ((placesOf l.lrec die).filter (s.reservable l)) with
        | some c => .next (s.modDie die fun d => { d with reserve := d.reserve ++ [(l.lid, c, s.clock)] })
        | none => .next s
    | none => .next s
  | [] => .next s

/-! ## Pre-emption (R60, R61) -/

/-- Bytes of a save area (R63): all banks, since their LIVE masks are not known yet (log 74). -/
def saveBytes (r : LRec) : Nat :=
  4096 * (1 + r.skeins + r.skeins * r.banks) + (if r.twin then 2 else 1) * (r.scratch + 65536 * r.tiles)
/-- A yield request ends every YIELD delay of its group (R395). -/
def Skein.endDelays (k : Skein) : Skein :=
  k.live.foldl (fun k (i, x) => match x.wait with
    | .delay _ => k.modStrand i fun x => { x with wait := .none }
    | _ => k) k
/-- A group's save area is allocated and the group begins to stop, its delays over; none where it cannot be (R61). -/
def State.stopGroup (s : State) (gid : Nat) : Option State :=
  match s.group? gid with
  | none => some s
  | some g =>
    let r := s.lrecOfGroup g
    if g.st != .running || g.cancelled || g.exited.length ≥ r.skeins then some s
    else match s.allocPieces (s.queueSlice g) ((saveBytes r + 4095) / 4096) with
      | some (s, ps) =>
        let s := s.skeins.foldl (fun (s : State) ((id, k) : SkId × Skein) =>
          if k.group == gid && k.endDelays != k then (s.setSkein id k.endDelays).settle id else s) s
        some (s.modGroup gid fun g => { g with st := .stopping, sealOp := 0, saveArea := ps })
      | none => none
/-- A group is pre-empted, a cooperative launch with all its groups (R33, R60). Where a save area cannot be allocated, or the service
core is frozen, the pre-emption is abandoned (R61). -/
def State.startPreempt (s : State) (gid : Nat) : State :=
  match s.group? gid with
  | none => s
  | some g =>
    let ids := if (s.lrecOfGroup g).coop then s.groupsOf g.launch else [gid]
    if (s.slice (s.queueSlice g)).frozenService then s
    else (ids.foldl (fun (acc : Option State) i => match acc with | some s => s.stopGroup i | none => none) (some s)).getD s
/-- Groups of dies that are being drained (R60). -/
def State.preemptDrained (s : State) : State :=
  if s.host.drains.isEmpty then s
  else (s.groups.filter fun (_, g) => g.st == .running && s.host.drains.any (·.1 == dieOf g.core)).foldl (fun s (gid, _) => s.startPreempt gid) s
/-- Is a group's rest after a restore over: has each of its skeins issued an S header since, or have 2^20 cycles passed (R60)? -/
def State.rested (s : State) (g : Group) : Bool :=
  match g.restoredAt with
  | none => true
  | some t => (List.range (s.lrecOfGroup g).skeins).all (fun i => g.sSeen.contains i || g.exited.contains i) || s.clock ≥ t + 2 ^ 20
/-- May R60's first case take a group? Of a cooperative launch, which goes whole (R33), every group must be rested. -/
def State.preemptable (s : State) (g : Group) : Bool :=
  g.st == .running && !g.cancelled
    && if (s.lrecOfGroup g).coop then (s.groupsOf g.launch).all fun i => (s.group? i).all s.rested else s.rested g
/-- Sets of `n` elements, in the order of the list. -/
def choose : Nat → List Nat → List (List Nat)
  | 0, _ => [[]]
  | _ + 1, [] => []
  | n + 1, x :: xs => (choose n xs).map (x :: ·) ++ choose (n + 1) xs
/-- Would a launch's group fit once these groups are gone? -/
def State.fitsWithout (s : State) (lid : LaunchId) (r : LRec) (core : Nat) (gs : List Nat) : Bool :=
  let s' := gs.foldl (fun (s : State) g => match s.group? g with
    | some x => { s.freeClaims x with groups := Tab.erase s.groups g }
    | none => s) s
  s'.fits lid r core
/-- The groups that R60's first case takes for a reservation, where its launch still waits and nothing there stops already. A restored
group counts as placed when it was first placed (log 84). -/
def State.reserveTakes (s : State) (die : Nat) (r : LaunchId × Nat × Nat) : Option (List Nat) :=
  let (lid, core, t) := r
  match (s.candidates die).find? (·.lid == lid) with
  | none => none
  | some l =>
    let here := s.groups.filter fun (_, g) => g.st != .saved && (g.cores.contains core || (l.lrec.twin && g.cores.contains (core + 1)))
    if s.clock < t + 2 ^ 18 || s.fits lid l.lrec core || here.any fun (_, g) => g.st != .running then none
    else
      let mine := here.filter fun (_, g) => s.preemptable g && (s.lrecOfGroup g).priority + 2 ≤ s.effective l
      let key (x : Nat × Group) : Nat := (s.lrecOfGroup x.2).priority * 2 ^ 64 + (2 ^ 64 - 1 - x.2.placedAt)
      let sorted := mine.foldl (fun (acc : List (Nat × Group)) x =>
        acc.takeWhile (fun y => key y ≤ key x) ++ [x] ++ acc.dropWhile fun y => key y ≤ key x) []
      let ids := sorted.map (·.1)
      (List.range ids.length).findSome? fun n => (choose (n + 1) ids).find? (s.fitsWithout lid l.lrec core)
/-- RESERVATION_PREEMPT (R60). -/
def execReservationPreempt (die : Nat) (s : State) : Out :=
  match (s.die die).reserve.findSome? (s.reserveTakes die) with
  | some gs => .next (gs.foldl (fun s g => s.startPreempt g) s)
  | none => .next s

/-- A wait in which a skein may be saved (R61). A strand at its join PC waits for strands that have stopped. -/
def Wait.savable : Wait → Bool
  | .join | .rjoin _ | .arrive _ _ _ | .barGen _ _ | .barwt _ _ | .tbwait _ _ | .waitc _ _ _ _ | .waith _ | .mtwin _ => true
  | _ => false
/-- Has a skein of a stopping group reached a state of R61? A skein whose strands stand mixed, some at S headers and some waiting, counts
(log 38). In trap mode it stops at the entry, where the handler waits, or, no other strand having to run, at the handler's S header (log 53);
the other strands stand still meanwhile. -/
def Skein.canYield (k : Skein) : Bool :=
  k.park.isSome || k.stopped || k.svcWait.isSome || match k.trap with
    | some t => t.vecHdr.isNone || (k.strand? t.strand).any fun x => x.atSafe || x.wait.savable
    | none => k.live.all fun (_, x) => x.atSafe || x.wait.savable
/-- Skeins of stopping groups that have reached such a state stop there. -/
def State.yieldSkeins (s : State) : State :=
  if s.groups.all fun (_, g) => g.st != .stopping then s
  else { s with skeins := s.skeins.map fun (id, k) =>
    if !k.yielded && ((s.group? k.group).map (·.st)) == some GState.stopping && k.canYield then (id, { k with yielded := true }) else (id, k) }

/-! ## Save (R62 to R64, R125) -/

/-- Operations that have to end before the save (R62): those without a handle, Pleat, and any that was asked to stop. -/
def EngOp.mustEnd (o : EngOp) : Bool :=
  o.cancelReq || o.kind.isPleat || (match o.stat with | .bad _ _ => true | _ => false) || !o.remote.isEmpty
    || (o.sk.isSome && o.entry.isNone) || o.members.any (·.entry.isNone)
/-- Are the group's skeins and operations where the save can take them? -/
def State.savable (s : State) (gid : Nat) (g : Group) : Bool :=
  let mine := s.skeins.filter fun (_, k) => k.group == gid
  let _ := g
  -- a skein that waits for a remote reply is saved when it, or the timeout, arrives (R61)
  mine.all (fun (id, k) => k.yielded && !(s.fab.remotes.any fun r => r.sk == id) && k.cntL == 0 && k.cntS == 0 && k.cntC == 0 && k.cntM == 0)
    && !(s.memops.any fun o => mine.any fun (id, _) => id == o.sk) && !(s.ops.any fun o => o.group == gid && o.mustEnd)
/-- Send SEAL for the write-sets of the group's cores under one name. -/
def State.sealGroup (s : State) (gid : Nat) (g : Group) : State :=
  let (s, op) := s.sealCores g.cores
  s.modGroup gid fun x => { x with sealOp := op }
/-- Is every SEALACK of that name there? -/
def State.sealed (s : State) (g : Group) : Bool := g.sealOp != 0 && (s.memop? g.sealOp).isNone

/-- Scratch bytes of a window, by offset. -/
def State.windowBytes (s : State) (core : Nat) (gm : List Nat) : List (Nat × Byte) :=
  gm.zipIdx.flatMap fun (p, i) =>
    (s.scratch.filter fun e => core * 2 ^ 21 + p * 9472 ≤ e.1 && e.1 < core * 2 ^ 21 + (p + 1) * 9472).map fun e =>
      (e.1 - (core * 2 ^ 21 + p * 9472) + 9472 * i, e.2)
def State.windowTiles (s : State) (core : Nat) (tm : List Nat) : List (Nat × W32) :=
  tm.zipIdx.flatMap fun (p, i) =>
    (s.tiles.filter fun e => core * 2 ^ 21 + p * 16384 ≤ e.1 && e.1 < core * 2 ^ 21 + (p + 1) * 16384).map fun e =>
      (e.1 - (core * 2 ^ 21 + p * 16384) + 16384 * i, e.2)
def State.putWindow (s : State) (core : Nat) (gm : List Nat) (bs : List (Nat × Byte)) : State :=
  { s with scratch := bs.foldl (fun m (o, b) => Sparse.put 0 m (core * 2 ^ 21 + gm.getD (o / 9472) 0 * 9472 + o % 9472) b) s.scratch }
def State.putTiles (s : State) (core : Nat) (tm : List Nat) (ws : List (Nat × W32)) : State :=
  { s with tiles := ws.foldl (fun m (o, w) => Sparse.put 0 m (core * 2 ^ 21 + tm.getD (o / 16384) 0 * 16384 + o % 16384) w) s.tiles }

/-- Physical tile numbers of a group on its cores, with the tile's own number: 128 and up on the odd core. -/
def Group.tileNames (g : Group) : List ((Nat × Nat) × Nat) :=
  (g.tmap.zipIdx.map fun (p, i) => ((g.core, p), i)) ++ (g.tmap2.zipIdx.map fun (p, i) => ((g.core + 1, p), 128 + i))

/-- Is an on-chip error in a group's scratch windows or tiles? -/
def Group.ownsSoft (g : Group) (p : SoftPlace) : Bool :=
  let own (c x : Nat) (m m2 : List Nat) : Bool := (c == g.core && m.contains x) || (g.twin && c == g.core + 1 && m2.contains x)
  match p with
  | .scratch w => own (w / 2 ^ 19) (w % 2 ^ 19 / 2368) g.gmap g.gmap2
  | .tile key => own (key / 2 ^ 21) (key % 2 ^ 21 / 16384) g.tmap g.tmap2
  | .word _ _ => false

/-- What the save keeps of a skein (R63). -/
def State.savedSkein (s : State) (id : SkId) (k : Skein) : Skein :=
  let atS := k.park.isNone && k.trap.isNone && !k.stopped && k.svcWait.isNone
    && k.live.all fun (_, x) => x.atSafe || match x.wait with | .rjoin _ | .join => true | _ => false
  let k := if atS then k.keepBanks (s.liveUnion id k) else k
  { k with yielded := false }
/-- Engine entries that the group's handles and operations hold, freed on their cores. -/
def State.takeEntries (s : State) (gid : Nat) (g : Group) : State × List ((Nat × Nat) × EngEntry) :=
  g.cores.foldl (fun ((s, acc) : State × List ((Nat × Nat) × EngEntry)) c =>
    let named (e gen : Nat) : Bool := s.skeins.any fun (id, k) => id.core == c && k.group == gid && k.handles.any (· == .entry e gen)
    let used (e : Nat) : Bool :=
      (s.ops.any fun o => o.group == gid && o.core == c && o.entry == some e)
        || s.rendezvous.any fun v => v.group == gid && v.sk.core == c && v.entry == some e
    let mine := (s.core c).entries.filter fun (e, x) => x.live && (named e x.gen || used e)
    let drop (y : Nat × EngEntry) : Nat × EngEntry := if mine.any (·.1 == y.1) then (y.1, { y.2 with live := false }) else y
    let s := s.modCore c fun k => { k with entries := k.entries.map drop }
    (s, acc ++ mine.map fun (e, x) => ((c - g.core, e), x))) (s, [])
/-- The save itself; groups of a launch count as pre-empted in the order of their saves (log 97). -/
def State.saveGroup (s : State) (gid : Nat) (g : Group) : State :=
  let mine := s.skeins.filter fun (_, k) => k.group == gid
  let kept := mine.map fun (id, k) => (k.index, s.savedSkein id k)
  let types := g.tileNames.filterMap fun ((c, p), n) => (Tab.get? (s.core c).lastTileType p).map fun t => (n, t)
  let order := s.work.nextOrder
  let (s, es) := s.takeEntries gid g
  let g' : Group := { g with
    st := .saved, saved := kept, savedScratch := s.windowBytes g.core g.gmap
    savedScratch2 := if g.twin then s.windowBytes (g.core + 1) g.gmap2 else []
    savedTiles := s.windowTiles g.core g.tmap, savedTiles2 := if g.twin then s.windowTiles (g.core + 1) g.tmap2 else []
    savedTypes := types, savedEntries := es, preOrder := order, savedSoft := s.soft.filter g.ownsSoft }
  let s := mine.foldl (fun s (id, _) => s.dropSkein id) s
  let s := s.modWork fun w => { w with nextOrder := w.nextOrder + 1 }
  let s := { s with ops := s.ops.map fun (o : EngOp) => if o.group == gid then { o with stat := .preempted o.stat.slot? } else o
                    soft := s.soft.filter fun p => !g.ownsSoft p }
  (s.modGroup gid fun _ => g').freeClaims g
/-- Reply to drains whose die holds no group any more (R254). -/
def State.settleDrains (s : State) : State :=
  let empty := s.host.drains.filter fun (d, _) => s.groups.all fun (_, g) => g.st == .saved || dieOf g.core != d
  let s := s.modHost fun h => { h with drains := h.drains.filter fun x => !empty.contains x }
  empty.foldl (fun s (_, tag) => s.send ⟨0x0C, 1, 32, tag, 0, 0, 0, []⟩) s
/-- Can a stopping group's save go on? -/
def State.saveReady (s : State) (gid : Nat) (g : Group) : Bool :=
  (g.st == .stopping && s.savable gid g) || (g.st == .saving && s.sealed g)
/-- The groups that are saved, or restored, with a group: those of a cooperative launch that have not exited, else itself (R33). -/
def State.peers (s : State) (gid : Nat) (g : Group) : List Nat :=
  if (s.lrecOfGroup g).coop then
    (s.groupsOf g.launch).filter fun i => (s.group? i).any fun x => x.exited.length < (s.lrecOfGroup x).skeins
  else [gid]
/-- PREEMPTION_SAVE_COMPLETE (R61 to R64): the write-sets are sealed, then the state is saved and the resources return, of all groups of
a cooperative launch at once (R33). -/
def execPreemptionSaveComplete (gid : Nat) (s : State) : Out :=
  match s.group? gid with
  | none => .next s
  | some g =>
    if g.exited.length ≥ (s.lrecOfGroup g).skeins then
      .next (if g.st == .stopping then (s.freeArea gid).modGroup gid fun g => { g with st := .running } else s)
    else if !s.saveReady gid g then .next s
    else if g.st == .stopping then .next ((s.sealGroup gid g).modGroup gid fun g => { g with st := .saving })
    else if (s.peers gid g).all fun i => (s.group? i).any fun x => x.st == .saving && s.saveReady i x then
      .next ((s.peers gid g).foldl (fun (s : State) i => match s.group? i with
        | some x => s.saveGroup i { x with sealOp := 0 }
        | none => s) s).settleDrains
    else .next s

/-! ## Restore (R65, R160) -/

/-- A physical scratch key of the old place at the new one. -/
def moveKey (old new : Group) (key : Nat) : Nat :=
  let c := key / 2 ^ 21
  let p := key % 2 ^ 21 / 9472
  let (gm, gm', c') := if old.twin && c != old.core then (old.gmap2, new.gmap2, new.core + 1) else (old.gmap, new.gmap, new.core)
  c' * 2 ^ 21 + gm'.getD (gm.idxOf p) 0 * 9472 + key % 2 ^ 21 % 9472
/-- A key of the old tiles at the new place. -/
def moveTileKey (old new : Group) (key : Nat) : Nat :=
  let c := key / 2 ^ 21
  let p := key % 2 ^ 21 / 16384
  let (tm, tm', c') := if old.twin && c != old.core then (old.tmap2, new.tmap2, new.core + 1) else (old.tmap, new.tmap, new.core)
  c' * 2 ^ 21 + tm'.getD (tm.idxOf p) 0 * 16384 + key % 2 ^ 21 % 16384
/-- An on-chip error moves with the word that holds it. -/
def moveSoft (old new : Group) : SoftPlace → SoftPlace
  | .scratch w => .scratch (moveKey old new (4 * w) / 4)
  | .tile key => .tile (moveTileKey old new key)
  | p => p
/-- A core of the old place at the new one. -/
def moveCore (old new : Group) (c : Nat) : Nat := if c == old.core then new.core else new.core + 1
def moveBarKey (old new : Group) (key : Nat) : Nat := moveCore old new (key / 2 ^ 31) * 2 ^ 31 + key % 2 ^ 31

/-- Are there pieces on the other die for every piece of a group's private pages that is in DRAM, and for its compressed blocks (R160)? -/
def State.canMigrate (s : State) (j : Job) (g : Group) (old new : Nat) : Bool :=
  old == new || (List.range 8).all fun i =>
    let sl := 8 * new + i
    let moved : List (Nat × Indir) := (List.range ((g.privBytes + 4095) / 4096)).filterMap fun p =>
      let va := g.privBase.toNat + 4096 * p
      match s.home j old va, s.home j new va, s.leafOf j.asid va with
      | .here a, .here b, some (f, large) => if b == sl then some (a, (s.slice a).entry (pieceKey (leafFrame f large va) va)) else none
      | _, _, _ => none
    let blocks := ((moved.filter (·.2.kind == 2)).map fun (a, e) => (a, e.loc)).eraseDups.map fun (a, r) =>
      ((Tab.get? (s.slice a).blocks r).map (·.place.length)).getD 0
    (s.allocPieces sl ((moved.filter (·.2.kind == 1)).length + blocks.sum)).isSome
/-- Copy a piece's bytes and symbol errors to another stack. -/
def State.shiftPiece (s : State) (a p b q : Nat) : State :=
  let src := sectorOf (physKey a p 0)
  let dst := sectorOf (physKey b q 0)
  let bad := (s.slice a).errs.filter fun x => x.1 / 32 == src / 32
  let s := { s with mem := Sparse.putBlock 0 s.mem (physKey b q 0) (Sparse.getList 0 s.mem (physKey a p 0) 4096) }
  (s.modSlice a fun x => x.clearErrs fun y => y / 32 == src / 32).modSlice b fun x => { x with errs := x.errs ++ bad.map fun y => (y.1 - src + dst, y.2) }
/-- Move one indirection entry to another slice with what it names (R160): a piece with its bytes, VER and symbol errors, a compressed
block's record, or a paging token. A move within the old stack that was under way ends there. -/
def State.moveEntry (s : State) (a b pk : Nat) : Option State :=
  let e := (s.slice a).entry pk
  let gone (s : State) : State := s.modSlice a fun x => { x with indir := Tab.erase x.indir pk }
  match e.kind with
  | 0 => match Tab.get? (s.slice a).tokens e.loc with
    | none => some ((gone s).modSlice b fun x => x.setEntry pk e)
    | some tok => some ((gone (s.modSlice a fun x => x.release e)).modSlice b fun x =>
        let n := firstFree (x.tokens.map (·.1))
        { x.setEntry pk { e with loc := n } with tokens := Tab.set x.tokens n tok })
  | 1 => match s.allocPiece b with
    | (_, none) => none
    | (s, some q) =>
      some ((gone ((s.shiftPiece a e.loc b q).modSlice a fun x => x.release e)).modSlice b fun x => x.setEntry pk { e with loc := q, mig := false })
  | 2 => match Tab.get? (s.slice a).blocks e.loc with
    | none => some ((gone s).modSlice b fun x => x.setEntry pk e)
    | some blk =>
      let there := (s.slice b).blocks.find? fun (_, y) => y.first == blk.first
      match (if there.isSome then some (s, blk.place) else s.allocPieces b blk.place.length) with
      | none => none
      | some (s, qs) =>
        let s := if there.isSome then s else (blk.place.zip qs).foldl (fun (s : State) (p, q) => s.shiftPiece a p b q) s
        let s := gone s
        let shared := (s.slice a).indir.any fun (_, x) => x.kind == 2 && x.loc == e.loc
        let s := if shared then s else s.modSlice a fun x => x.release e
        some (s.modSlice b fun x =>
          let n := (there.map (·.1)).getD (firstFree (x.blocks.map (·.1)))
          { x.setEntry pk { e with loc := n } with blocks := if there.isSome then x.blocks else Tab.set x.blocks n { blk with place := qs } })
  | _ => some ((gone s).modSlice b fun x => x.setEntry pk e)
/-- Move the pieces of a group's private pages to the slices of another die (R160). -/
def State.migratePrivate (s : State) (j : Job) (g : Group) (old new : Nat) : State :=
  if old == new then s
  else (List.range ((g.privBytes + 4095) / 4096)).foldl (fun (s : State) i =>
    let va := g.privBase.toNat + 4096 * i
    match s.home j old va, s.home j new va, s.leafOf j.asid va with
    | .here a, .here b, some (p, large) =>
      let pk := pieceKey (leafFrame p large va) va
      ((s.moveEntry a b pk).getD s).modHost fun h => { h with storage := h.storage.map fun q => match q.piece with
        | some (sl, k, rest) => if sl == a && k == pk then { q with piece := some (b, k, rest) } else q
        | none => q }
    | _, _, _ => s) s

/-- Give the saved entries places on the new cores: old core half and index to the new index and generation. -/
def State.giveEntries (s : State) (g : Group) : State × List ((Nat × Nat) × (Nat × Nat)) :=
  g.savedEntries.foldl (fun ((s, acc) : State × List ((Nat × Nat) × (Nat × Nat))) ((half, e), x) =>
    match s.allocEntry (g.core + half) x.op x.pleat with
    | (s, some (e', gen)) =>
      (s.modCore (g.core + half) fun c => { c with entries := Tab.set c.entries e' { x with gen := gen } }, acc ++ [((half, e), (e', gen))])
    | (s, none) => (s, acc)) (s, [])

/-- The DRAM reads of a save area at the restore, each sector under its check (R63, R172), and whether one fails. -/
def State.readArea (s : State) (g : Group) : State × Bool :=
  let sl := s.queueSlice g
  let hit := (s.slice sl).errs.filter fun e => g.saveArea.contains (sectorPiece e.1)
  (hit.foldl (fun (s : State) e => s.checkSector sl (128 * e.1)) s, hit.any fun e => s.sectorFailed sl (128 * e.1))

/-- Put a saved group back (R65). The old place is in `old`. A save area with a failed sector traps every skein that is restored from it with
0x07 before its next word (R173; log 74). -/
def State.restoreGroup (s : State) (gid : Nat) (old new : Group) : State :=
  let r := s.lrecOfGroup new
  let (s, lost) := s.readArea new
  let (s, es) := s.giveEntries new
  let entryOf (c e : Nat) : Option (Nat × Nat) := Tab.get? es (c - old.core, e)
  let idOf (id : SkId) : SkId :=
    match (old.slots.zipIdx).find? fun (sl, i) => sl == id.slot && old.coreOf r i == id.core with
    | some (_, i) => new.skId r i
    | none => id
  let mapE (c : Nat) (o : Option Nat) : Option Nat := match o with | some e => (entryOf c e).map (·.1) | none => none
  let own (l : List (Nat × Byte × Nat)) : List (Nat × Byte × Nat) := l.map fun (k, x) => (moveKey old new k, x)
  let s := new.saved.foldl (fun (s : State) ((i, k) : Nat × Skein) =>
    let c := old.coreOf r i
    let k := if lost then k.addErr 0x07 0 0 else k
    let k : Skein := { k with
      handles := k.handles.map fun h => match h with
        | .entry e _ => match entryOf c e with | some (e', gen) => HReg.entry e' gen | none => HReg.done false
        | h => h
      hazards := k.hazards.map fun h => { h with entry := mapE c h.entry }
      passed := k.passed.map fun ((c, key), m) => ((moveCore old new c, moveBarKey old new key), m)
      strands := k.strands.map fun o => o.map fun x => { x with atSafe := false, ownScr := own x.ownScr } }
    s.setSkein (new.skId r i) k) s
  let moved (o : EngOp) : EngOp :=
    if o.group != gid then o
    else { o with
      core := moveCore old new o.core, entry := mapE o.core o.entry, sk := o.sk.map idOf
      stat := match o.stat with | .preempted (some n) => .spilled n | .preempted none => .queued | x => x
      tainted := o.tainted.map (moveKey old new), stale := o.stale.map fun (k, b) => (moveKey old new k, b)
      members := o.members.map fun (m : JointMember) => { m with sk := idOf m.sk, entry := mapE o.core m.entry, ownScr := own m.ownScr } }
  let s := { s with
    ops := s.ops.map moved, past := s.past.map moved
    rendezvous := s.rendezvous.map fun (v : Rendezvous) =>
      if v.group == gid then { v with sk := idOf v.sk, entry := mapE v.sk.core v.entry } else v
    jointSets := s.jointSets.map fun (x : JointSet) =>
      if x.group == gid then
        { x with core := moveCore old new x.core, tainted := x.tainted.map fun (k, id) => (moveKey old new k, idOf id)
                 members := x.members.map fun (m : JointMember) => { m with sk := idOf m.sk, entry := mapE x.core m.entry, ownScr := own m.ownScr } }
      else x }
  -- its operations arrive at their engines anew, behind those that are there (R211)
  let s := { s with ops := s.ops.filter (fun (o : EngOp) => o.group != gid) ++ s.ops.filter fun (o : EngOp) => o.group == gid }
  let s := s.modWork fun w => { w with svcs := w.svcs.map fun (q : SvcReq) => if q.group == gid then { q with slot := new.skId r q.index } else q }
  let s := s.modHost fun h => { h with dbg := h.dbg.map fun (id, t) => (idOf id, t) }
  let s := (s.putWindow new.core new.gmap new.savedScratch).putTiles new.core new.tmap new.savedTiles
  let s := if new.twin then (s.putWindow (new.core + 1) new.gmap2 new.savedScratch2).putTiles (new.core + 1) new.tmap2 new.savedTiles2 else s
  let s := new.tileNames.foldl (fun (s : State) ((c, p), n) => match Tab.get? new.savedTypes n with
    | some t => s.modCore c fun k => { k with lastTileType := Tab.set k.lastTileType p t }
    | none => s) s
  let s := { s with soft := s.soft ++ new.savedSoft.map (moveSoft old new) }
  let s := match s.job? new.launch.job with
    | some j => s.migratePrivate j new (dieOf old.core) (dieOf new.core)
    | none => s
  let s := s.modGroup gid fun _ => { new with
    st := .running, prev := none, restoredAt := some s.clock, sSeen := [], saved := [], savedScratch := [], savedScratch2 := [], savedTiles := []
    savedTiles2 := [], savedTypes := [], savedEntries := [], savedSoft := []
    heldArr := new.heldArr.map fun (k, e) => (moveBarKey old new k, e) }
  ((s.freeArea gid).acquireCores new).release_ gid
/-- The group at its place before the save. -/
def Group.at_ (g : Group) (p : Place) : Group :=
  { g with core := p.core, gmap := p.gmap, gmap2 := p.gmap2, tmap := p.tmap, tmap2 := p.tmap2, slots := p.slots }
/-- Have the queues of its engines room for a saved group's operations: the Shuttles and matrix engines of its cores, and the Geyser units
(R190, R197, R211)? -/
def State.queueRoom (s : State) (gid : Nat) (g : Group) (p : Place) : Bool :=
  let mine := s.ops.filter fun o => o.group == gid && o.saved
  let at_ (half : Nat) : List EngOp := mine.filter fun o => o.core == p.core + half
  ((List.range g.cores.length).all fun h =>
      s.shuttleOnChip (g.core + h) + ((at_ h).filter fun o => o.kind.isShuttle && o.stat == .preempted none).length ≤ 64
        && s.matQueue (g.core + h) + ((at_ h).filter (·.kind.isMatrix)).length ≤ 32)
    && mine.all fun o => match o.geySlice? with
      | some sl => s.geyQueue sl + (mine.filter fun x => x.geySlice? == some sl).length ≤ 16
      | none => true
/-- Can a restore end: has the new place entries and queue places for its engine operations, and the new die pieces for its private pages? No
skein of the group issues before (R65). -/
def State.canRestore (s : State) (gid : Nat) (g : Group) : Bool :=
  match g.st, g.prev with
  | .restoring, some p =>
    s.queueRoom gid g p && (g.cores.all fun c => (g.savedEntries.filter fun x => g.core + x.1.1 == c).length ≤ s.freeEntryCount c)
      && match s.job? g.launch.job with
        | some j => s.canMigrate j g (dieOf p.core) (dieOf g.core)
        | none => true
  | _, _ => false
/-- GROUP_RESTORE_COMPLETE (R65), of all groups of a cooperative launch at once (R33). -/
def execGroupRestoreComplete (gid : Nat) (s : State) : Out :=
  match s.group? gid with
  | none => .next s
  | some g =>
    if g.st != .restoring then .next s
    else .next (((s.peers gid g).foldl (fun (acc : Option State) i => acc.bind fun s =>
      match s.group? i with
      | none => none
      | some x => match s.canRestore i x, x.prev with
        | true, some p => some (s.restoreGroup i (x.at_ p) x)
        | _, _ => none) (some s)).getD s)

/-! ## The end of a group (R28, R29, R125) -/

/-- Has every skein exited or been discarded, with no continuation held (R243), every released entry and every operation done? -/
def State.groupOver (s : State) (gid : Nat) (g : Group) : Bool :=
  g.exited.length ≥ (s.lrecOfGroup g).skeins && !(s.work.svcs.any (·.group == gid)) && g.st != .saved
    && !(s.ops.any (·.group == gid)) && !(s.skeins.any fun (_, k) => k.group == gid)
    && !(s.memops.any fun o => g.cores.contains o.sk.core && !(s.skeins.any fun (id, _) => id == o.sk))
/-- Can its end go on? -/
def State.endReady (s : State) (gid : Nat) (g : Group) : Bool := s.groupOver gid g && (g.sealOp == 0 || s.sealed g)
/-- GROUP_END (R28): the cores send SEAL for their write-sets first, and the resources return once these are acknowledged. -/
def execGroupEnd (gid : Nat) (s : State) : Out :=
  match s.group? gid with
  | none => .next s
  | some g =>
    if !s.endReady gid g then .next s
    else if g.sealOp == 0 then .next (s.sealGroup gid g)
    else .next (s.dropGroup gid)

/-! ## The governor (R56, R57, R263) -/

/-- The limit on k of the window that a core's governor begins: 0 while its die is throttled or its clock below 1.25 GHz, and for the two
windows that begin next after a droop, one that did not come before the window preceding the one that now ends (R56, R263). -/
def State.kLimit (s : State) (core : Nat) : Nat :=
  let d := s.die (dieOf core)
  if d.throttled || d.powerThrottled || d.droopAt.any (fun t => (s.core core).winPrev ≤ t) || d.clockKHz != 1250000 then 0 else 8
/-- GOVERNOR_WINDOW (R56): a window of a core ends with this many gated lane-cycles, 32 for each idle pipe-cycle among them, and the next
begins. -/
def execGovernorWindow (core gated : Nat) (s : State) : Out :=
  let lim := s.kLimit core
  .next (s.modCore core fun c => { c with winPrev := c.winAt, winAt := s.clock, kLimit := lim, k := min (min 8 (16 * gated / 131072)) lim })
/-- A core's vector clock: the die's arithmetic clock while that is below 1.25 GHz (R56). -/
def State.vectorKHz (s : State) (core : Nat) : Nat :=
  let d := s.die (dieOf core)
  if d.clockKHz < 1250000 then d.clockKHz else 1250000 + 31250 * (s.core core).k

end Sys2Proof.Machine
end

