-- ==== Sys2Proof/Machine/Services.lean ====
section
/-! DEFINITION. The services that an SVC reaches, storage requests, and respawn (R132, R169, R243 to R246, R257, R258). -/

namespace Sys2Proof.Machine

/-! ## Requests -/

/-- The request a service number is asked for by the skein of a slot, not yet answered. -/
def State.request? (s : State) (id : SkId) (n : Nat) : Option SvcReq :=
  s.work.svcs.find? fun q => q.slot == id && q.service == n && q.reply.isNone && q.posted
def State.modRequest (s : State) (q : SvcReq) (f : SvcReq → SvcReq) : State :=
  s.modWork fun w => { w with svcs := w.svcs.map fun x => if x.group == q.group && x.index == q.index then f x else x }
def State.answer (s : State) (q : SvcReq) (x : W64) : State := s.svcReply q.group q.index x
/-- The request has been taken up; its answer comes later. -/
def State.takeUp (s : State) (q : SvcReq) : State := s.modRequest q fun x => { x with posted := false }
def SvcReq.arg (q : SvcReq) (i : Nat) : Nat := (q.args.getD i 0).toNat
/-- The slice whose service core serves a skein (R244). -/
def SvcReq.slice (q : SvcReq) : Nat := homeSliceOf q.slot q.cont
/-- A service, run where the service core is not frozen (R260). -/
def State.serviceOf (s : State) (id : SkId) (n : Nat) (f : SvcReq → Job → Nat → State) : Out :=
  match s.request? id n with
  | none => .next s
  | some q =>
    if (s.slice q.slice).frozenService then .next s
    else match s.group? q.group with
      | none => .next s
      | some g => match s.job? g.launch.job with
        | some j => .next (f q j (dieOf g.core))
        | none => .next s

/-- Bytes that a service core reads for a request: none yet where a page has to be resolved first. -/
def State.svcRead (s : State) (q : SvcReq) (j : Job) (die va n : Nat) (go : State → List Byte → State) : State :=
  match s.engFate j die .read va n with
  | (s, .park a) => s.reportFault j.asid a
  | (s, .bad cause _) => s.answer q (svcErr (if cause == 0x07 then 0x07 else 0x06))
  | (s, .good) => let (s, bs) := s.engRead j.asid (s.serviceAgent q.slice) va n q.cont.raceReport; go s bs

/-! ## Page-in, cancel, launch -/

/-- The first 4 KiB piece of a range that is not resolved: none, one to wait for, or one that cannot be (R163). -/
def State.pageInNext (s : State) (j : Job) (die : Nat) : Nat → Nat → State × Option Xl × Nat
  | 0, va => (s, none, va)
  | n + 1, va =>
    match s.place j die j.asid va .read with
    | (s, .at _ _) | (s, .zero _) => s.pageInNext j die n (va + 4096)
    | (s, x) => (s, some x, va)
/-- SVC_PAGE_IN (R246). -/
def execSvcPageIn (id : SkId) (s : State) : Out :=
  s.serviceOf id 0 fun q j die =>
    let va := q.arg 0 / 4096 * 4096
    let n := if q.arg 1 == 0 then 0 else (q.arg 0 + q.arg 1 - 1) / 4096 - q.arg 0 / 4096 + 1
    match s.pageInNext j die n va with
    | (s, none, _) => s.answer q 0
    | (s, some (.park _), a) => s.reportFault j.asid a
    | (s, some _, _) => s.answer q (svcErr 0x06)

/-- A cancel, with the one who asked told when the unit has ended (R32). -/
def State.cancelFor (s : State) (job kind a b : Nat) (w : Waiter) : State × Option Nat :=
  let unit : Nat × Nat × Nat × Nat := match kind with
    | 0 => (0, job, a, b)
    | 3 => (3, a, 0, 0)
    | k => (k, job, a, 0)
  let s1 := s.modHost fun h => { h with waiters := h.waiters ++ [(unit, w)] }
  match s1.cancelUnit job kind a b with
  | (s2, none) => (s2, none)
  | (_, some st) => (s, some st)
/-- The IDs of a cancel: for a launch its graph ID and index (R246). -/
def cancelIds (kind x : Nat) : Nat × Nat := if kind == 0 then (x / 2 ^ 32, x % 2 ^ 32) else (x, 0)
/-- SVC_CANCEL (R30 to R32, R246). -/
def execSvcCancel (id : SkId) (s : State) : Out :=
  s.serviceOf id 1 fun q j _ =>
    let (a, b) := cancelIds (q.arg 0) (q.arg 1)
    match (s.takeUp q).cancelFor j.id (q.arg 0) a b (.skein q.group q.index) with
    | (s, some st) => s.answer q (BitVec.ofNat 64 st)
    | (s, none) => s
/-- SVC_LAUNCH (R23, R246). -/
def execSvcLaunch (id : SkId) (s : State) : Out :=
  s.serviceOf id 2 fun q j die =>
    if q.arg 0 % 64 != 0 then s.answer q (svcErr 0x04)
    else s.svcRead q j die (q.arg 0) 256 fun s bs => (s.takeUp q).submit bs j.id 0 (some (q.group, q.index))

/-! ## Regions (R132) -/

/-- The region list of a job with one entry changed. -/
def Job.setRegion (j : Job) (i : Nat) (e : Nat × Nat × Nat) : Job :=
  { j with regions := (List.range 15).map fun n => if n + 1 == i then e else j.regions.getD n (0, 0, 0) }
def inRange (e : Nat × Nat × Nat) (wa : Nat) : Bool := e.1 == 1 && e.2.1 ≤ wa / 16384 && wa / 16384 ≤ e.2.2
/-- Declare a region: the Valid words of its old and new ranges go, the others take their region anew. -/
def State.declareRegion (s : State) (j : Job) (i : Nat) (e : Nat × Nat × Nat) : State :=
  let old := j.regions.getD (i - 1) (0, 0, 0)
  let j' := j.setRegion i e
  let s := s.modJob j.id fun x => x.setRegion i e
  let kept := s.caches.filter fun ((k, w) : CKey × CWord) =>
    !(k.asid == j.asid && w.stale && (inRange old k.wa || inRange e k.wa))
  let fix (x : CKey × CWord) : CKey × CWord := if x.1.asid == j.asid then (x.1, { x.2 with region := regionOf j' (4 * x.1.wa) }) else x
  { s with caches := kept.map fix }
/-- SVC_REGION (R132, R246). -/
def execSvcRegion (id : SkId) (s : State) : Out :=
  s.serviceOf id 3 fun q j die =>
    if q.arg 1 % 16 != 0 then s.answer q (svcErr 0x04)
    else if q.arg 0 < 1 || q.arg 0 > 15 then s.answer q (svcErr 0x12)
    else s.svcRead q j die (q.arg 1) 16 fun s bs =>
      let x := ofBytesLE bs
      let e := (x % 2, bitsNat x 56 16, bitsNat x 120 80)
      if bitsNat x 127 121 != 0 || bitsNat x 79 57 != 0 || bitsNat x 15 1 != 0 || e.2.2 < e.2.1 then s.answer q (svcErr 0x12)
      else (s.declareRegion j (q.arg 0) e).answer q 0

/-! ## Storage (R257, R258) -/

/-- Mapping generation of a page. -/
def State.gen (s : State) (asid page : Nat) : Nat := Tab.getD s.host.gens (asid, page) 0
def State.bumpGen (s : State) (asid page : Nat) : State := s.modHost fun h => { h with gens := Tab.update h.gens (asid, page) 0 (· + 1) }
/-- Post a write in consecutive chunks, each record within R251's 65,536 bytes. -/
def State.postWrite (s : State) (job obj off bytes num : Nat) : Nat → Nat → List Byte → State
  | 0, _, _ => s
  | n + 1, chunk, data =>
    (s.postStorage job 1 obj off bytes chunk num (data.take 65440)).postWrite job obj off bytes num n (chunk + 1) (data.drop 65440)
/-- A storage request enters the list of those in progress. -/
def State.openStorage (s : State) (q : SvcReq) (j : Job) (op obj bytes buf : Nat) : State × Nat :=
  let n := s.host.nextReq
  let pages := if op == 0 && bytes != 0 then (List.range ((buf + bytes - 1) / 65536 - buf / 65536 + 1)).map (buf / 65536 + ·) else []
  let r : StoreReq :=
    { num := n, job := j.id, group := q.group, index := q.index, op := op, obj := BitVec.ofNat 64 obj, bytes := bytes
      buf := BitVec.ofNat 64 buf, gens := pages.map fun p => (p, s.gen j.asid p), got := [], chunk := 0, kobj := none, piece := none
      slice := q.slice, report := q.cont.raceReport }
  ((s.modHost fun h => { h with storage := h.storage ++ [r], nextReq := n + 1 }).takeUp q, n)
/-- SVC_STORAGE (R257): a write copies its buffer when it is posted. -/
def execSvcStorage (id : SkId) (s : State) : Out :=
  s.serviceOf id 4 fun q j die =>
    if q.arg 0 % 64 != 0 then s.answer q (svcErr 0x04)
    else s.svcRead q j die (q.arg 0) 64 fun s bs =>
      let op := fieldAt bs 0 1
      let obj := fieldAt bs 0x08 8
      let off := fieldAt bs 0x10 8
      let bytes := fieldAt bs 0x18 8
      let buf := fieldAt bs 0x20 8
      if op > 2 || !zeroAt bs 1 7 || !zeroAt bs 0x28 24 || (if op == 2 then bytes != 0 else bytes == 0 || bytes > 2 ^ 30) then
        s.answer q (svcErr 0x12)
      else if op == 1 then
        s.svcRead q j die buf bytes fun s data =>
          let (s, n) := s.openStorage q j op obj bytes buf
          s.postWrite j.id obj off bytes n ((bytes + 65439) / 65440) 0 data
      else
        let (s, n) := s.openStorage q j op obj bytes buf
        s.postStorage j.id op obj off bytes 0 n []

/-- May a page of the buffer still be written (R258)? -/
def State.mayCopy (s : State) (j : Job) (page gen : Nat) : Bool :=
  !j.cancelled && !j.closed && j.status.isNone && s.gen j.asid page == gen
/-- Part of a buffer that lies in a page: its first address and bytes. -/
def StoreReq.part (r : StoreReq) (page : Nat) : Nat × List Byte :=
  let lo := max r.buf.toNat (page * 65536)
  let hi := min (r.buf.toNat + r.bytes) (page * 65536 + 65536)
  (lo, (r.got.drop (lo - r.buf.toNat)).take (hi - lo))
/-- Copy the pages that can be copied; the pages left wait for a fault to be resolved. -/
def State.copyPages (s : State) (r : StoreReq) (j : Job) : List (Nat × Nat) → State × List (Nat × Nat)
  | [] => (s, [])
  | (page, gen) :: rest =>
    if !s.mayCopy j page gen then s.copyPages r j rest
    else
      let (va, bs) := r.part page
      let agent := s.serviceAgent r.slice
      match s.engFate j (s.dieOfVa va) .write va bs.length with
      | (s, .park a) =>
        let (s, left) := (s.reportFault j.asid a).copyPages r j rest
        (s, (page, gen) :: left)
      | (s, .bad _ _) => s.copyPages r j rest
      | (s, .good) => ((s.engWrite j.asid agent va bs r.report).engineSeal agent ((wordsOf va bs.length).map fun w => (j.asid, w))).copyPages r j rest
/-- Go on with every read whose data is whole (chunk 2^31) and whose service core runs: its buffer, then its reply (R258, R260). -/
def State.copyStorage (s : State) : State :=
  (s.host.storage.filter fun r => r.chunk ≥ 2 ^ 31 && !(s.slice r.slice).frozenService).foldl (fun (s : State) r =>
    match s.job? r.job with
    | none => s.modHost fun h => { h with storage := h.storage.filter (·.num != r.num) }
    | some j =>
      let (s, left) := s.copyPages r j r.gens
      if left.isEmpty then
        (s.modHost fun h => { h with storage := h.storage.filter (·.num != r.num) }).svcReply r.group r.index 0
      else s.modHost fun h => { h with storage := h.storage.map fun x => if x.num == r.num then { x with gens := left } else x }) s

/-! ## Discard, clock query -/

/-- Pages of a job's MAPs in a range of pages. -/
def mappedIn (j : Job) (first n : Nat) : List Nat :=
  j.maps.flatMap fun ((f, m, _) : Nat × Nat × Nat × Nat × Nat) =>
    let lo := max f first
    let hi := min (f + m) (first + n)
    (List.range (hi - lo)).map (lo + ·)
/-- SVC_DISCARD (R169, R246). -/
def execSvcDiscard (id : SkId) (s : State) : Out :=
  s.serviceOf id 5 fun q j _ =>
    if q.arg 0 % 65536 != 0 || q.arg 1 % 65536 != 0 then s.answer q (svcErr 0x04)
    else ((mappedIn j (q.arg 0 / 65536) (q.arg 1 / 65536)).foldl (fun s p => s.discardPage j p) s).answer q 0
/-- SVC_CLOCK_QUERY (R246). -/
def execSvcClockQuery (id : SkId) (s : State) : Out :=
  s.serviceOf id 6 fun q _ _ =>
    s.answer q (if q.arg 0 == s.pkg.id then 0 else Config.otherNanos (q.arg 0) s.clock - BitVec.ofNat 64 (nanos s.clock))

/-! ## Respawn (R245) -/

/-- The answered request of a slot whose group runs there: a reply that comes while the group is pre-empted is kept until it is restored,
and a frozen core creates no skein (R245, R260). -/
def State.answered? (s : State) (id : SkId) : Option SvcReq :=
  s.work.svcs.find? fun q => q.slot == id && q.reply.isSome && (s.group? q.group).any fun g => g.st == .running
/-- Can a skein respawn in a slot? -/
def State.canRespawn (s : State) (id : SkId) : Bool := (s.answered? id).isSome && (s.skein? id).isNone && !(s.core id.core).frozen
/-- SVC_REPLY_RESPAWN (R245, R386): the reply acts as an acquire over all regions. -/
def execSvcReplyRespawn (id : SkId) (s : State) : Out :=
  if !s.canRespawn id then .next s
  else match s.answered? id with
    | some q =>
      let s := (s.modWork fun w => { w with svcs := w.svcs.erase q }).selfInvalidate (s.l1 id.core) 0xFFFF
      let k := q.cont.setS 1 (q.reply.getD 0)
      let start (x : Strand) : Strand := { x with lastIssue := s.clock, ownScr := [], fencedAt := s.clock, seenRegs := k.vregs }
      .next ((s.setSkein id { k with strands := k.strands.map fun o => o.map start }).settle id)
    | none => .next s

end Sys2Proof.Machine
end

