-- ==== Sys2Proof/Machine/Records.lean ====
section
/-! DEFINITION. The host's records on ports 1024 to 1026: the job protocol, memory maps, kernel objects, storage replies (R25 to
R32, R156, R158, R162, R168, R250 to R253, R257, R258, R286 to R290, R415). -/

namespace Sys2Proof.Machine

/-! ## The common part (R251, R261) -/

/-- Types that the host sends. -/
def hostTypes : List Nat := [1, 2, 3, 4, 5, 6, 7, 8, 0x0A, 0x0B, 0x0C, 0x0E, 0x0F]
/-- A record reaches the device: until the boot is done every type but IMAGE and ATTEST is answered with 5 (R261); answered with 4 where it is malformed or of unknown type,
else it has its effect. A record of a type that the event does not name is no such event. -/
def State.onRecord (s : State) (r : HostRec) (typ : Nat) (f : State → State) : State :=
  if s.pkg.boot != .running && r.typ != 0x0E && r.typ != 0x0F then s.reply r 5
  else if r.len != 32 + r.body.length || r.len % 8 != 0 || r.len > 65536 || !hostTypes.contains r.typ then s.reply r stUnknown
  else if r.typ != typ then s
  else f s
/-- A record about a job that has not ended. -/
def State.onJob (s : State) (r : HostRec) (typ : Nat) (f : State → Job → State) : State :=
  s.onRecord r typ fun s =>
    match s.job? r.job with
    | some j => if j.status.isSome then s.reply r stUnknown else f s j
    | none => s.reply r stUnknown
def arg32 (r : HostRec) (hi : Bool) : Nat := if hi then r.arg.toNat / 2 ^ 32 else r.arg.toNat % 2 ^ 32

/-! ## JOB_OPEN and the units (R415, R252, R26) -/

/-- The lowest number from `n` up that is not in a list. -/
def lowestFrom (taken : List Nat) : Nat → Nat → Nat
  | 0, n => n
  | k + 1, n => if taken.contains n then lowestFrom taken k (n + 1) else n
/-- An entry that JOB_OPEN accepts at an index (R102, R415). -/
def homeEntryOk (i e : Nat) : Bool :=
  e % 8 != 6 && e % 8 != 7 && e / 2 ^ 24 == 0 && bitsNat e 6 3 == 0 && (i != 63 || e == 5)
/-- JOB_OPEN (R415): rejected where no stack piece is left for the root table (log 6). -/
def execJobOpen (r : HostRec) (s : State) : Out :=
  .next (s.onRecord r 0x01 fun s =>
    let map := (List.range 64).map fun i => fieldAt r.body (8 * i) 8
    let timeout := fieldAt r.body 512 4
    let live := s.work.jobs.filter (·.status.isNone)
    let asid := lowestFrom (live.map (·.asid)) live.length 1
    let key := lowestFrom (live.map (·.key)) live.length 1
    if r.len != 552 || !(timeout == 0 || (12 ≤ timeout && timeout ≤ 1000)) || !(map.zipIdx.all fun (e, i) => homeEntryOk i e)
        || asid ≥ 65536 || key ≥ 256 then s.reply r stRejected
    else
      let id := s.work.nextJob
      let j : Job :=
        { id := id, asid := asid, key := key, homeMap := map.map (BitVec.ofNat 64 ·), timeoutMs := timeout, closed := false
          cancelled := false, counter := 0, status := none, debugger := false, tag := r.tag, regions := [], maps := [] }
      match s.newSpace asid key with
      | none => s.reply r stRejected
      | some s =>
        let s := s.modWork fun w => { w with jobs := w.jobs ++ [j], nextJob := id + 1 }
        s.send (replyTo r id 0 (BitVec.ofNat 64 (id % 2 ^ 32 + asid * 2 ^ 32 + key * 2 ^ 48)) []))
/-- JOB_CLOSE (R27, R252). -/
def execJobClose (r : HostRec) (s : State) : Out :=
  .next (s.onJob r 0x02 fun s j => ((s.modJob j.id fun x => { x with closed := true }).reply r 0).endJob j.id)
/-- PHASE_OPEN (R26, R27). -/
def execPhaseOpen (r : HostRec) (s : State) : Out :=
  .next (s.onJob r 0x03 fun s j =>
    let p := arg32 r false
    if j.closed || (s.phase? j.id p).isSome || j.counter ≥ 65535 then s.reply r stRejected
    else
      let n := s.work.nextOrder
      let ph : Phase := ⟨j.id, p, false, false, 0, none, r.tag, n⟩
      ((s.modWork fun w => { w with phases := w.phases ++ [ph], nextOrder := n + 1 }).modJob j.id fun x =>
        { x with counter := x.counter + 1 }).reply r 0)
/-- PHASE_CLOSE (R26). -/
def execPhaseClose (r : HostRec) (s : State) : Out :=
  .next (s.onJob r 0x04 fun s j =>
    let p := arg32 r false
    match s.phase? j.id p with
    | none => s.reply r stUnknown
    | some _ => (((s.modPhase j.id p fun x => { x with closed := true }).reply r 0).endPhase j.id p).markEligible)
/-- GRAPH_OPEN (R27): rejected where the 16-bit counter of its phase is at its end (log 82). -/
def execGraphOpen (r : HostRec) (s : State) : Out :=
  .next (s.onJob r 0x05 fun s j =>
    let g := arg32 r false
    let p := arg32 r true
    match s.phase? j.id p with
    | none => s.reply r stUnknown
    | some ph =>
      if j.closed || ph.closed || ph.status.isSome || (s.graph? j.id g).isSome || ph.counter ≥ 65535 then s.reply r stRejected
      else
        let gr : Graph := ⟨j.id, g, p, false, false, 0, none, r.tag, []⟩
        ((s.modWork fun w => { w with graphs := w.graphs ++ [gr] }).modPhase j.id p fun x => { x with counter := x.counter + 1 }).reply r 0)
/-- GRAPH_CLOSE (R25): a predecessor that names no launch of the graph counts as completed from now on. -/
def execGraphClose (r : HostRec) (s : State) : Out :=
  .next (s.onJob r 0x06 fun s j =>
    let g := arg32 r false
    match s.graph? j.id g with
    | none => s.reply r stUnknown
    | some _ => (((s.closeGraph j.id g).reply r 0).endGraph j.id g).markEligible)
/-- LAUNCH (R22, R23, R43). -/
def execLaunch (r : HostRec) (s : State) : Out :=
  .next (s.onRecord r 0x07 fun s => s.submit r.body r.job r.tag none)
/-- CANCEL (R30 to R32): the record's status field holds the kind, its arg the ID (the manual gives both no place of their own). -/
def execCancel (r : HostRec) (s : State) : Out :=
  .next (s.onRecord r 0x08 fun s =>
    let (a, b) := cancelIds r.status r.arg.toNat
    match s.cancelFor r.job r.status a b (.host r.tag r.job) with
    | (s, some st) => s.reply r st
    | (s, none) => s)

/-! ## Maps (R153, R156, R253, R290) -/

/-- Kind of the window of an address; windows 63, unmapped and of another package take no MAP. -/
def State.mappable (s : State) (j : Job) (first n : Nat) : Bool :=
  let lo := first * 65536
  let hi := (first + n) * 65536 - 1
  hi < window63 && (List.range (hi / 2 ^ 51 + 1 - lo / 2 ^ 51)).all fun i =>
    let e := homeEntry j ((lo / 2 ^ 51 + i) * 2 ^ 51)
    [1, 2, 3, 5].contains (entryKind e) || (entryKind e == 4 && bitsNat e 23 14 == s.pkg.id)
/-- GL is for pinned windows only (R154). -/
def glOk (j : Job) (first n gl : Nat) : Bool :=
  gl == 0 || (List.range ((first + n) * 65536 / 2 ^ 51 + 1 - first * 65536 / 2 ^ 51)).all fun i =>
    entryKind (homeEntry j ((first * 65536 / 2 ^ 51 + i) * 2 ^ 51)) == 3
/-- Does a range of pages meet an object that a launch of the job still uses (R290)? -/
def KObj.pages (o : KObj) : Nat := 1 + o.codePages + o.dataPages
def State.objectBusy (s : State) (j : Job) (first n : Nat) : Bool :=
  s.work.objects.any fun o =>
    o.job == j.id && o.loadVa / 65536 < first + n && first < o.loadVa / 65536 + o.pages
      && s.work.launches.any fun l =>
        l.lid.job == j.id && l.status.isNone && o.loadVa ≤ l.lrec.entry.toNat && l.lrec.entry.toNat < o.loadVa + 65536 * o.pages
/-- Maps with a range of pages cut out. -/
def cutMaps (ms : List (Nat × Nat × Nat × Nat × Nat)) (a m : Nat) : List (Nat × Nat × Nat × Nat × Nat) :=
  ms.flatMap fun (first, n, perm, src, arg) =>
    let left := if first < a then [(first, min n (a - first), perm, src, arg)] else []
    let lo := max first (a + m)
    let right := if lo < first + n then [(lo, first + n - lo, perm, src, arg + mapStep src * (lo - first))] else []
    left ++ right
/-- Unmap the mapped pages of a range (R156, R173, R258). -/
def State.unmapRange (s : State) (j : Job) (first n : Nat) : State :=
  let s := (mappedIn j first n).foldl (fun s p => ((s.recallPage j.asid p).unmapPage j 0 (p * 65536)).bumpGen j.asid p) s
  let gone (o : KObj) : Bool := o.job == j.id && o.loadVa / 65536 < first + n && first < o.loadVa / 65536 + o.pages
  (s.modWork fun w => { w with objects := w.objects.filter fun o => !gone o }).modJob j.id fun x => { x with maps := cutMaps x.maps first n }
/-- Map a range of pages, replacing what was there. -/
def State.mapRange (s : State) (j : Job) (first n perm src arg : Nat) : State :=
  let s := s.unmapRange j first n
  let s := (List.range n).foldl (fun s i => (s.mapOne j 0 (first + i) perm src (arg + mapStep src * i)).bumpGen j.asid (first + i)) s
  s.modJob j.id fun x => { x with maps := x.maps ++ [(first, n, perm, src, arg)] }
/-- The common checks of a MAP body (R253). DESIGN CHOICE (log 90): a body whose zero fields at 0x04 and 0x28 are not zero is rejected;
R253 states no handling of them, nor does it of the other records' zero fields, which the model ignores. -/
def mapBodyOk (b : List Byte) : Bool :=
  b.length == 64 && zeroAt b 4 4 && fieldAt b 8 8 % 65536 == 0 && fieldAt b 0x10 8 % 65536 == 0 && zeroAt b 0x28 24
/-- Does a MAP record of any kind have a known op? One that does not is rejected. -/
def State.onMap (s : State) (r : HostRec) (op : Nat) (f : State → Job → State) : State :=
  s.onJob r 0x0A fun s j =>
    let o := fieldAt r.body 0 1
    if o > 2 || !mapBodyOk r.body then s.reply r stRejected else if o != op then s else f s j
/-- MAP_PAGES (R153, R162, R253, R290): the device kernel maps no page with W and X (R247). -/
def execMapPages (r : HostRec) (s : State) : Out :=
  .next (s.onMap r 0 fun s j =>
    let b := r.body
    let perm := fieldAt b 1 1
    let src := fieldAt b 2 1
    let first := fieldAt b 8 8 / 65536
    let n := fieldAt b 0x10 8 / 65536
    let arg := fieldAt b 0x18 8
    let volOk := match Tab.get? s.host.volumes (arg / 2 ^ 56) with
      | some v => arg % 65536 == 0 && arg % 2 ^ 56 + 65536 * n ≤ v.capacity
      | none => false
    if perm ≥ 16 || (perm / 2 % 2 == 1 && perm / 4 % 2 == 1) || src > 2 || (src == 1 && !volOk) || n == 0
        || !s.mappable j first n || !glOk j first n (perm / 8) || s.objectBusy j first n then s.reply r stRejected
    else (s.mapRange j first n perm src arg).reply r 0)
/-- MAP_UNMAP (R156, R253, R258, R290). -/
def execMapUnmap (r : HostRec) (s : State) : Out :=
  .next (s.onMap r 1 fun s j =>
    let first := fieldAt r.body 8 8 / 65536
    let n := fieldAt r.body 0x10 8 / 65536
    if s.objectBusy j first n then s.reply r stRejected else (s.unmapRange j first n).reply r 0)
/-- MAP_REGISTER_OBJECT (R253, R290): the file is read from the host first. -/
def execMapRegisterObject (r : HostRec) (s : State) : Out :=
  .next (s.onMap r 2 fun s j =>
    let slot := fieldAt r.body 3 1
    let obj := fieldAt r.body 0x18 8
    let len := fieldAt r.body 0x20 8
    if slot ≥ 16 || len == 0 then s.reply r stRejected
    else
      let n := s.host.nextReq
      let q : StoreReq := { num := n, job := j.id, group := 0, index := 0, op := 0, obj := BitVec.ofNat 64 obj, bytes := len, buf := 0, gens := []
                            got := [], chunk := 0, kobj := some (slot, len, r.tag), piece := none
                            slice := 0, report := false }
      (s.modHost fun h => { h with storage := h.storage ++ [q], nextReq := n + 1 }).postStorage j.id 0 obj 0 len 0 n [])

/-! ## Kernel objects (R286 to R290) -/

/-- The header's and the manifest's limits (R287, R289). -/
def objectOk (f : List Byte) : Bool :=
  let h (o n : Nat) : Nat := fieldAt f o n
  let code := h 0x10 4
  let data := h 0x14 4
  let image := 65536 * (1 + code + data)
  let mf := h 0x28 4
  let m := (f.drop mf).take (h 0x2C 4)
  h 0 4 == 0x4F4B584A && h 4 2 == 1 && (h 6 1 == 1 || h 6 1 == 2) && h 7 1 == 0 && h 8 8 % 65536 == 0 && code ≥ 1
    && 1 ≤ h 0x18 4 && h 0x18 4 ≤ 255 && h 0x1C 4 % 64 == 0 && h 0x1C 4 + 64 * h 0x18 4 ≤ 65536 && h 0x20 8 == 0 && image ≤ mf
    && h 0x2C 4 == 16 + 72 * code && h 0x30 4 == mf + h 0x2C 4 && h 0x30 4 + 3309 ≤ f.length && zeroAt f 0x34 204
    && fieldAt m 0 4 == 0x464D584A && fieldAt m 4 4 == code && fieldAt m 8 8 == h 8 8
    && (List.range code).all fun i => fieldAt m (16 + 72 * i) 8 == 65536 * (i + 1)
def objectSigned (s : State) (f : List Byte) (slot : Nat) : Bool :=
  match Tab.get? s.host.codeKeys slot with
  | some key => mldsaValid key ((f.drop (fieldAt f 0x28 4)).take (fieldAt f 0x2C 4)) ((f.drop (fieldAt f 0x30 4)).take 3309)
  | none => false
/-- Write a page's bytes where it is mapped. -/
def State.fillPage (s : State) (j : Job) (page : Nat) (bs : List Byte) : State :=
  match s.leafOf j.asid (page * 65536) with
  | none => s
  | some (p, large) =>
    (List.range 16).foldl (fun (s : State) k =>
      match s.home j 0 (page * 65536 + 4096 * k) with
      | .here sl => (s.installPieces sl 1 (leafFrame p large (page * 65536) * 16 + k) ((bs.drop (4096 * k)).take 4096)).getD s
      | _ => s) s
/-- Register an object whose file has been read (R290): refused, or mapped: header R, code R and X, data R and W. -/
def State.registerObject (s : State) (j : Job) (f : List Byte) (slot : Nat) : Option State :=
  let load := fieldAt f 8 8
  let code := fieldAt f 0x10 4
  let data := fieldAt f 0x14 4
  let first := load / 65536
  let n := 1 + code + data
  let meets (a m : Nat) : Bool := a < first + n && first < a + m
  if !objectOk f || !objectSigned s f slot || !s.mappable j first n
      || s.work.objects.any (fun o => o.job == j.id && meets (o.loadVa / 65536) o.pages)
      || j.maps.any (fun (a, m, perm, _) => perm / 2 % 2 == 1 && meets a m) then none
  else
    let file := f.take 0x20 ++ toBytesLE 8 Config.libVa.toNat ++ f.drop 0x28
    let s := ((s.mapRange j first 1 1 0 0).mapRange j (first + 1) code 5 0 0)
    let s := if data == 0 then s else s.mapRange j (first + 1 + code) data 3 0 0
    let s := (List.range n).foldl (fun s i => s.fillPage j (first + i) ((file.drop (65536 * i)).take 65536)) s
    let m := f.drop (fieldAt f 0x28 4)
    let o : KObj :=
      { job := j.id, loadVa := load, codePages := code, dataPages := data
        digests := (List.range code).map fun i => (fieldAt m (16 + 72 * i) 8, (m.drop (24 + 72 * i)).take 64), measure := shake256 f }
    some (s.modWork fun w => { w with objects := w.objects ++ [o] })

/-! ## Storage replies (R255, R257, R258) -/

/-- A request is over: what its data was for. -/
def State.endStorage (s : State) (q : StoreReq) (ok : Bool) (asJob : Nat → Option Job) : State :=
  let drop (s : State) : State := s.modHost fun h => { h with storage := h.storage.filter (·.num != q.num) }
  match q.kobj, q.piece with
  | some (slot, _, tag), _ =>
    let answer (s : State) (st : Nat) : State := (drop s).send ⟨0x0A, 1, 32, tag, q.job, st, 0, []⟩
    match ok, asJob q.job with
    | true, some j => match s.registerObject j q.got slot with
      | some s => answer s 0
      | none => answer s stRejected
    | _, _ => answer s stRejected
  | none, some (sl, pk, _, _) =>
    let s := drop s
    let e := (s.slice sl).entry pk
    if e.kind != 0 then s
    else if ok then s.fillPiece sl pk q.got
    else s.modSlice sl fun x => { x with tokens := Tab.erase x.tokens e.loc }
  | none, none =>
    if !ok then (drop s).svcReply q.group q.index (svcErr 0x09)
    else if q.op == 0 then
      (s.modHost fun h => { h with storage := h.storage.map fun x => if x.num == q.num then { x with chunk := 2 ^ 31 } else x }).copyStorage
    else (drop s).svcReply q.group q.index 0
/-- STORAGE_REPLY (R255, R258): chunks of a read come in order; bit 31 of the chunk index ends the request. -/
def execStorageReply (r : HostRec) (s : State) : Out :=
  .next (s.onRecord r 0x0B fun s =>
    let n := arg32 r false
    match s.host.storage.find? fun q => q.num == n && q.chunk < 2 ^ 31 with
    | none => s
    | some q =>
      let job (i : Nat) : Option Job := s.job? i
      if r.status != 0 then s.endStorage q false job
      else if q.op != 0 then s.endStorage q true job
      else
        let c := fieldAt r.body 4 4
        if c % 2 ^ 31 != q.chunk then s
        else
          let q := { q with got := (q.got ++ r.body.drop 8).take q.bytes, chunk := q.chunk + 1 }
          let s := s.modHost fun h => { h with storage := h.storage.map fun x => if x.num == q.num then q else x }
          if c ≥ 2 ^ 31 then s.endStorage q true job else s)

end Sys2Proof.Machine
end

