-- ==== Sys2Proof/Machine/Health.lean ====
section
/-! DEFINITION. Sensors, throttling, freezing, boot, attestation, management, volumes, registers that the host or the service
cores write (R6, R60, R80, R81, R130, R213 to R215, R221, R250, R254 to R256, R259 to R263, R289). -/

namespace Sys2Proof.Machine

/-! ## Heat and current (R56, R263) -/

/-- HEALTH event 1: a threshold is crossed. -/
def State.crossed (s : State) (die slice source : Nat) (x : Int) : State := s.health 1 die slice source 0 (wrapNat 64 x) 0 []
def State.reading (s : State) (die kind i : Nat) (x : Int) : State :=
  s.modDie die fun d => { d with readings := Tab.set d.readings (kind, i) x }
/-- A die begins to be throttled, its clock to fall 1 ms after k_limit is 0, from the governor window that begins next (R263). -/
def State.slowFrom (s : State) (d : Die) : Nat := if d.throttled || d.powerThrottled then d.slowAt else (s.clock / 1024 + 1) * 1024 + ms 1
/-- DIE_TEMPERATURE_THROTTLE. -/
def execDieTemperatureThrottle (die sensor : Nat) (milliC : Int) (s : State) : Out :=
  let s := s.reading die 0 sensor milliC
  if milliC < (s.die die).threshold then .next s
  else .next ((s.modDie die fun d => { d with throttled := true, slowAt := s.slowFrom d }).crossed die 0xFF sensor milliC)
/-- DIE_TEMPERATURE_SHUTDOWN: at 105 °C every master stops, until a reset. -/
def execDieTemperatureShutdown (die sensor : Nat) (milliC : Int) (s : State) : Out :=
  let s := s.reading die 0 sensor milliC
  if milliC < 105000 then .next s
  else
    let s := s.health 8 die 0xFF sensor 0 (wrapNat 64 milliC) 0 []
    .next ([0, 1, 2, 3].foldl (fun s d => s.modDie d fun x => { x with shutdown := true }) s)
/-- DRAM_STACK_TEMPERATURE: above its limit a stack's refresh rate doubles. -/
def execDramStackTemperature (slice : Nat) (milliC : Int) (s : State) : Out :=
  let limit := Tab.getD s.pkg.dramLimit (slice / 8) 85000
  let s := { s with pkg := { s.pkg with dramTemps := Tab.set s.pkg.dramTemps slice milliC } }
  let hot := milliC ≥ limit
  let s' := s.modSlice slice fun x => { x with refresh2 := hot }
  .next (if hot && !(s.slice slice).refresh2 then s'.crossed (slice / 8) (slice % 8) 0 milliC else s')
/-- DROOP_EVENT: k_limit is 0 for the next two governor windows. A monitor with a threshold reports readings below it. -/
def execDroopEvent (die monitor : Nat) (reading : Int) (s : State) : Out :=
  let s := s.reading die 1 monitor reading
  match Tab.get? (s.die die).droops monitor with
  | some t =>
    if reading ≥ t then .next s
    else .next ((s.modDie die fun d => { d with droopAt := some s.clock }).crossed die 0xFF monitor reading)
  | none => .next (s.modDie die fun d => { d with droopAt := some s.clock })
/-- PACKAGE_POWER_THRESHOLD: the average of 1 ms is above the limit. HEALTH tells the reading, a free value above it (log 95). -/
def execPackagePowerThreshold (s : State) : Out :=
  let (s, v) := s.free
  .next (([0, 1, 2, 3].foldl (fun s d => s.modDie d fun x => { x with powerThrottled := true, slowAt := s.slowFrom x }) s).crossed 0 0xFF 0
    (max (s.pkg.powerLimit + 1) (v.toNat % 2 ^ 32) : Nat))
/-- THROTTLE_CLOCK_STEP: another ms of throttling is over. The vector clocks go with the arithmetic clock (R56). -/
def execThrottleClockStep (s : State) : Out :=
  let due (d : Nat) : Bool := ((s.die d).throttled || (s.die d).powerThrottled) && (s.die d).slowAt ≤ s.clock
  let s1 := [0, 1, 2, 3].foldl (fun s d =>
    if due d then s.modDie d fun x => { x with clockKHz := max 625000 (x.clockKHz - 62500), slowAt := s.clock + ms 1 } else s) s
  .next { s1 with cores := s1.cores.map fun ((n, c) : Nat × Core) => if due (dieOf n) then (n, { c with k := 0, kLimit := 0 }) else (n, c) }
/-- THROTTLE_RECOVERY: temperature and power are below their limits again. -/
def execThrottleRecovery (die : Nat) (milliC : Int) (watts : Nat) (s : State) : Out :=
  .next (s.modDie die fun d =>
    let hot := d.throttled && milliC ≥ d.threshold
    let drawn := d.powerThrottled && watts ≥ s.pkg.powerLimit
    { d with throttled := hot, powerThrottled := drawn, clockKHz := if hot || drawn then d.clockKHz else 1250000 })

/-! ## Freezing (R259, R260) -/

/-- The slice and bit of the freeze list that a master has: cores and engine agents of a die by their numbers over its eight slices,
the service core of a slice at bit 63 of its own. -/
def freezeBit : MasterId → Nat × Nat
  | .core c => (8 * dieOf c + c % 128 / 16, c % 16)
  | .engine a => (8 * (a / 2 ^ 20 % 4) + a % 2 ^ 20 % 8, 16 + a % 2 ^ 20 / 8 % 47)
  | .service n => (n, 63)
def masterNumber : MasterId → Nat
  | .core c => c % 128
  | .engine a => a
  | .service n => n % 8
/-- Set or clear what says that a master is frozen. -/
def State.setFrozen (s : State) (m : MasterId) (on : Bool) : State :=
  let (sl, b) := freezeBit m
  let s := s.modSlice sl fun x => { x with frz := if on then x.frz ||| (1#64 <<< b) else x.frz &&& ~~~(1#64 <<< b) }
  match m with
  | .core c => s.modCore c fun x => { x with frozen := on }
  | .engine a =>
    { s with pkg := { s.pkg with frozenEngines := (s.pkg.frozenEngines.filter (· != a)) ++ (if on then [a] else []) } }
  | .service n =>
    let s := s.modSlice n fun x => { x with frozenService := on }
    if on then s.modHost fun h => { h with needsReset := if h.needsReset.contains (n + 34) then h.needsReset else h.needsReset ++ [n + 34] }
    else s.modHost fun h => { h with needsReset := h.needsReset.filter (· != n + 34) }
/-- MASTER_FREEZE (R260): a master attempted an access outside its limits at this address. -/
def execMasterFreeze (m : MasterId) (va : Nat) (s : State) : Out :=
  let (sl, _) := freezeBit m
  .next ((s.setFrozen m true).health 4 (sl / 8) (sl % 8) (masterNumber m) va 0 0 [])
/-- Release discards the groups of a released core; their launches fail. A service core's kernel instance starts again (R260). -/
def State.releaseMaster (s : State) (m : MasterId) : State :=
  let s := s.setFrozen m false
  match m with
  | .core c =>
    let gs := s.groups.filter fun (_, g) => g.st != .saved && g.cores.contains c
    gs.foldl (fun (s : State) ((gid, g) : Nat × Group) =>
      let mine := s.skeins.filter fun (_, k) => k.group == gid
      let s := mine.foldl (fun s (id, _) => s.discardSkein id) s
      let s := s.modGroup gid fun x => { x with exited := List.range (s.lrecOfGroup g).skeins }
      s.failLaunch g.launch 0 0 0 g.lin 0 c) s
  | .service n => s.modSlice n fun x => { x with starts := x.starts + 1 }
  | .engine _ => s

/-! ## Boot (R261) -/

/-- Does the boot ROM accept an image? -/
def imageOk (img : List Byte) : Bool :=
  !img.isEmpty && mldsaValid Config.firmwareKey img (Config.imageSignature img) && Config.imageVersion img ≥ Config.rollbackFuse
/-- The package starts again: only the flash keeps what it held, and the model's own fields go on. A good image starts every service
core. -/
def State.powerOn (s : State) : State :=
  let r := State.reset
  let good := imageOk s.host.flash
  { r with
    agenda := s.agenda, freeCtr := s.freeCtr, host := { r.host with flash := s.host.flash }
    pkg := { r.pkg with boot := if good then .running else .recovery }
    slices := if good then (List.range 32).map fun n => (n, { Slice.empty with starts := 1 }) else r.slices }
/-- POWER_ON_RESET. -/
def execPowerOnReset (s : State) : Out := .next s.powerOn
/-- IMAGE (R255, R261): taken in recovery only. A chunk out of order, or an image that fails, starts the transfer over. The write of a
whole image begins with the flash holding none: a reset before it is done finds none (log 96). -/
def execImage (r : HostRec) (s : State) : Out :=
  .next (s.onRecord r 0x0F fun s =>
    let b := r.body
    let n := fieldAt b 4 4
    let data := (b.drop 0x18).take n
    let fail (s : State) : State := (s.modHost fun h => { h with imgParts := [], imgNext := 0 }).reply r stRejected
    if s.pkg.boot != .recovery then s.reply r stRejected
    else if fieldAt b 0 4 != s.host.imgNext || n > 65480 || data.length != n then fail s
    else
      let img := s.host.imgParts ++ data
      if fieldAt b 0x10 4 % 2 == 0 then (s.modHost fun h => { h with imgParts := img, imgNext := h.imgNext + 1 }).reply r 0
      else if img.length != fieldAt b 8 8 || img.length > 2 ^ 26 || !imageOk img then fail s
      else
        (s.reply r 0).modHost fun h => { h with flash := [], flashing := some (s.clock, img), imgParts := [], imgNext := 0 })
/-- The write of an image ends, and the package resets (R261). -/
def State.finishFlash (s : State) : State :=
  match s.host.flashing with
  | some (t, img) =>
    if t < s.clock then
      let s' := (s.modHost fun h => { h with flash := img }).powerOn
      { s' with host := { s'.host with out := s.host.out } }
    else s
  | none => s

/-! ## ATTEST (R255, R262) -/

/-- A measurement record. -/
def measureRec (kind i : Nat) (m : List Byte) : List Byte := toBytesLE 4 kind ++ toBytesLE 4 i ++ m
/-- ATTEST. -/
def execAttest (r : HostRec) (s : State) : Out :=
  .next (s.onRecord r 0x0E fun s =>
    let job := fieldAt r.body 0x20 4
    if job != 0 && (s.job? job).isNone then s.reply r stUnknown
    else
      let objs := if job == 0 then [] else s.work.objects.filter (·.job == job)
      let ms := [measureRec 0 0 (Config.measurement 0), measureRec 1 0 (shake256 s.host.flash), measureRec 2 0 (Config.measurement 2)]
        ++ (objs.zipIdx.map fun (o, i) => measureRec 3 i o.measure)
      let cert := Config.deviceCertificate
      let body := toBytesLE 4 cert.length ++ toBytesLE 4 ms.length ++ r.body.take 32 ++ ms.flatten ++ cert
      s.reply r 0 0 (body ++ Config.deviceSign body))

/-! ## MGMT (R254) -/

def mgOp (r : HostRec) : Nat := fieldAt r.body 0 2
def mgDie (r : HostRec) : Nat := fieldAt r.body 2 1
def mgKind (r : HostRec) : Nat := fieldAt r.body 3 1
def mgIndex (r : HostRec) : Nat := fieldAt r.body 4 2
def mgValue (r : HostRec) : Nat := fieldAt r.body 8 8
def mgJob (r : HostRec) : Nat := fieldAt r.body 0x10 4
def mgAux (r : HostRec) : Nat := fieldAt r.body 0x14 4
def mgGroup (r : HostRec) : Nat := fieldAt r.body 0x18 8
def mgTail (r : HostRec) : List Byte := r.body.drop 0x40
/-- A MGMT record for one operation; one that names no operation is rejected. -/
def State.onMgmt (s : State) (r : HostRec) (op : Nat) (f : State → State) : State :=
  s.onRecord r 0x0C fun s =>
    if r.body.length < 64 || mgOp r == 0 || mgOp r > 13 then s.reply r stRejected else if mgOp r != op then s else f s
/-- SENSOR_READ: what the sensor has reported last. One that has reported nothing, as every process monitor, reads a free value (log 11). -/
def execSensorRead (r : HostRec) (s : State) : Out :=
  .next (s.onMgmt r 1 fun s =>
    let n := [96, 64, 32].getD (mgKind r) 0
    if mgDie r > 3 || mgIndex r ≥ n then s.reply r stRejected
    else s.reply r 0 (match Tab.get? (s.die (mgDie r)).readings (mgKind r, mgIndex r) with
      | some x => BitVec.ofInt 64 x
      | none => Config.reading (mgDie r) (mgKind r) (mgIndex r) s.clock))
/-- THRESHOLD_SET (R263): temperatures in milli-degrees, power in watts, droop in millivolts. -/
def execThresholdSet (r : HostRec) (s : State) : Out :=
  .next (s.onMgmt r 2 fun s =>
    let v := sextInt 64 (mgValue r)
    let d := mgDie r
    if d > 3 then s.reply r stRejected
    else match mgKind r with
      | 0 => if 70000 ≤ v && v ≤ 100000 then (s.modDie d fun x => { x with threshold := v }).reply r 0 else s.reply r stRejected
      | 1 =>
        if 70000 ≤ v && v ≤ 90000 then { s with pkg := { s.pkg with dramLimit := Tab.set s.pkg.dramLimit d v } }.reply r 0
        else s.reply r stRejected
      | 2 => if 2000 ≤ v && v ≤ 6000 then { s with pkg := { s.pkg with powerLimit := v.toNat } }.reply r 0 else s.reply r stRejected
      | 3 => if mgIndex r < 64 then (s.modDie d fun x => { x with droops := Tab.set x.droops (mgIndex r) v }).reply r 0 else s.reply r stRejected
      | _ => s.reply r stRejected)
/-- DIE_DRAIN (R60): answered once every group of the die is saved. -/
def execDieDrain (r : HostRec) (s : State) : Out :=
  .next (s.onMgmt r 3 fun s =>
    let d := mgDie r
    if d > 3 then s.reply r stRejected
    else
      let s := s.modHost fun h => { h with drains := h.drains ++ [(d, r.tag)] }
      ((s.groups.filter fun (_, g) => dieOf g.core == d && g.st == .running).foldl (fun s (g, _) => s.startPreempt g) s).settleDrains)

/-- The skein that a debugger message names: of the job's placed groups the first of that linear index. -/
def State.mgSkein (s : State) (r : HostRec) : Option SkId :=
  match s.groups.find? fun (_, g) => g.launch.job == mgJob r && g.lin == mgGroup r with
  | some (gid, _) => (s.skeins.find? fun (_, k) => k.group == gid && k.index == mgIndex r).map (·.1)
  | none => none
def State.onSkein (s : State) (r : HostRec) (op : Nat) (f : State → SkId → State) : State :=
  s.onMgmt r op fun s => match s.mgSkein r with
    | some id => f s id
    | none => s.reply r stUnknown
/-- DEBUGGER_STOP (R80): it attaches the debugger to the job. -/
def execDebuggerStop (r : HostRec) (s : State) : Out :=
  .next (s.onSkein r 4 fun s id =>
    let s := s.modJob (mgJob r) fun j => { j with debugger := true }
    let stop (x : SkId × Skein) : SkId × Skein :=
      if x.1 == id || (mgKind r % 2 == 1 && x.1.core == id.core) then (x.1, { x.2 with stopped := true, stepping := none }) else x
    { s with skeins := s.skeins.map stop }.reply r 0)
/-- SINGLE_STEP (R81): answered after the step, or at once where the strand waits still. -/
def execSingleStep (r : HostRec) (s : State) : Out :=
  .next (s.onSkein r 5 fun s id =>
    match s.skein? id with
    | none => s.reply r stUnknown
    | some k => match k.stopped, k.strand? (mgKind r) with
      | true, some x =>
        if !s.waitOver id k x || k.park.isSome then s.reply r 0 1
        else (s.modSkein id fun k => { k with stepping := some (mgKind r, false) }).modHost fun h => { h with dbg := h.dbg ++ [(id, r.tag)] }
      | _, _ => s.reply r stRejected)
/-- RESUME (R254). -/
def execResume (r : HostRec) (s : State) : Out :=
  .next (s.onSkein r 6 fun s id => ((s.modSkein id fun k => { k with stopped := false, stepping := none }).settle id).reply r 0)
/-- RACE_LOG_READ (R130): the oldest records, which are freed, and the drop count, which is cleared. -/
def execRaceLogRead (r : HostRec) (s : State) : Out :=
  .next (s.onMgmt r 7 fun s =>
    let sl := 8 * mgDie r + mgKind r
    if mgDie r > 3 || mgKind r > 7 then s.reply r stRejected
    else
      let x := s.slice sl
      let log := Tab.getD x.raceLog (mgJob r) []
      let n := min (mgIndex r) 2046
      let s := s.modSlice sl fun x =>
        { x with raceLog := Tab.set x.raceLog (mgJob r) (log.drop n), raceDrop := Tab.erase x.raceDrop (mgJob r) }
      s.reply r 0 (BitVec.ofNat 64 (Tab.getD x.raceDrop (mgJob r) 0)) (log.take n).flatten)
/-- MASTER_RELEASE (R260). -/
def execMasterRelease (r : HostRec) (s : State) : Out :=
  .next (s.onMgmt r 8 fun s =>
    let d := mgDie r
    let m : Option MasterId := match mgKind r with
      | 0 => if mgIndex r < 128 then some (.core (128 * d + mgIndex r)) else none
      | 1 => some (.engine (s.agent d (mgIndex r)))
      | 2 => if mgIndex r < 8 then some (.service (8 * d + mgIndex r)) else none
      | _ => none
    match m with
    | some m => if d > 3 then s.reply r stRejected else (s.releaseMaster m).reply r 0
    | none => s.reply r stRejected)
/-- CODE_KEY_ENROL (R289). -/
def execCodeKeyEnrol (r : HostRec) (s : State) : Out :=
  .next (s.onMgmt r 9 fun s =>
    if mgIndex r ≥ 16 || (mgTail r).length < 1952 then s.reply r stRejected
    else (s.modHost fun h => { h with codeKeys := Tab.set h.codeKeys (mgIndex r) ((mgTail r).take 1952) }).reply r 0)
/-- WEIGHT_VOLUME_CREATE (R256). -/
def execWeightVolumeCreate (r : HostRec) (s : State) : Out :=
  .next (s.onMgmt r 10 fun s =>
    if mgIndex r ≥ 32 || mgKind r > 1 || mgValue r > 2 ^ 36 || mgValue r == 0 || mgValue r % 4096 != 0 || mgAux r == 0
        || (Tab.get? s.host.volumes (mgIndex r)).isSome then s.reply r stRejected
    else (s.modHost fun h => { h with volumes := Tab.set h.volumes (mgIndex r) ⟨mgKind r == 1, mgValue r, mgAux r, []⟩ }).reply r 0)
/-- WEIGHT_VOLUME_DELETE (R254). -/
def execWeightVolumeDelete (r : HostRec) (s : State) : Out :=
  .next (s.onMgmt r 11 fun s =>
    match Tab.get? s.host.volumes (mgIndex r) with
    | none => s.reply r stUnknown
    | some v => ((v.chunks.foldl (fun (s : State) (_, c) => s.modSlice c.slice (·.free c.pieces)) s).modHost fun h => { h with volumes := Tab.erase h.volumes (mgIndex r) }).reply r 0)
/-- DEBUGGER_DETACH (R254). -/
def execDebuggerDetach (r : HostRec) (s : State) : Out :=
  .next (s.onMgmt r 13 fun s =>
    if (s.job? (mgJob r)).isNone then s.reply r stUnknown
    else (s.modJob (mgJob r) fun j => { j with debugger := false }).reply r 0)

/-! ## Weight volumes over virtio-blk (R256) -/

/-- Is a chunk mapped into a job that has not ended? -/
def State.chunkMapped (s : State) (vol c : Nat) : Bool :=
  s.work.jobs.any fun j => j.status.isNone && j.maps.any fun (_, n, _, src, arg) =>
    src == 1 && arg / 2 ^ 56 == vol && arg % 2 ^ 56 / 65536 ≤ c && c < arg % 2 ^ 56 / 65536 + n
def State.blkDone (s : State) (vol : Nat) (ok : Bool) (data : List Byte) : State :=
  s.modHost fun h => { h with blkStatus := h.blkStatus ++ [(vol, ok, data)] }
/-- The slice that takes a chunk: the named slices take chunks in turn (log 91). -/
def Volume.sliceOf (v : Volume) (c : Nat) : Nat :=
  let ns := (List.range 32).filter fun i => v.slices.testBit i
  ns.getD (c % ns.length) 0
/-- The chunks of a volume, each of its touched ones allocated for plain data; none where its slice is full. -/
def State.plainChunks (s : State) (v : Volume) : List Nat → Option (State × Volume)
  | [] => some (s, v)
  | c :: cs => match Tab.get? v.chunks c with
    | some _ => s.plainChunks v cs
    | none => match s.allocPieces (v.sliceOf c) 16 with
      | none => none
      | some (s, ps) => s.plainChunks { v with chunks := Tab.set v.chunks c ⟨v.sliceOf c, ps, 65536⟩ } cs
/-- Put plain bytes at an offset of a volume whose chunks are allocated. -/
def State.putPlain (v : Volume) : Nat → State → Nat → List Byte → State
  | 0, s, _, _ => s
  | n + 1, s, off, data =>
    let m := 65536 - off % 65536
    let s := match Tab.get? v.chunks (off / 65536) with
      | some c => s.chunkWrite c (off % 65536) (data.take m)
      | none => s
    if data.length ≤ m then s else State.putPlain v n s (off + m) (data.drop m)
/-- A write's data goes to DRAM: an LZ4 block into pieces of its own, plain data where it belongs (R256); none where a slice has no room. -/
def State.volWrite (s : State) (v : Volume) (off : Nat) (data : List Byte) (chunks : List Nat) : Option (State × Volume) :=
  if v.lz4 then
    let s := match Tab.get? v.chunks (off / 65536) with
      | some c => s.modSlice c.slice (·.free c.pieces)
      | none => s
    let sl := v.sliceOf (off / 65536)
    (s.allocPieces sl ((data.length + 4095) / 4096)).map fun (s, ps) =>
      let c : VChunk := ⟨sl, ps, data.length⟩
      (s.chunkWrite c 0 data, { v with chunks := Tab.set v.chunks (off / 65536) c })
  else (s.plainChunks v chunks).map fun (s, v) => (State.putPlain v (data.length / 65536 + 2) s off data, v)
/-- VIRTIO_BLK_WRITE: an LZ4 volume takes one block at a multiple of 64 KiB. -/
def execVirtioBlkWrite (vol off : Nat) (data : List (BitVec 8)) (s : State) : Out :=
  match Tab.get? s.host.volumes vol with
  | none => .next s
  | some v =>
    let span := if v.lz4 then 65536 else data.length
    let chunks := (List.range ((off + span + 65535) / 65536 - off / 65536)).map (off / 65536 + ·)
    if data.isEmpty || off % 512 != 0 || (!v.lz4 && data.length % 512 != 0) || off + span > v.capacity || (v.lz4 && off % 65536 != 0)
        || chunks.any (s.chunkMapped vol) then .next (s.blkDone vol false [])
    else match s.volWrite v off data chunks with
      | none => .next (s.blkDone vol false [])
      | some (s, v) => .next ((s.modHost fun h => { h with volumes := Tab.set h.volumes vol v }).blkDone vol true [])
/-- VIRTIO_BLK_READ: expanded data; a block that fails its check is an I/O error. -/
def execVirtioBlkRead (vol off bytes : Nat) (s : State) : Out :=
  match Tab.get? s.host.volumes vol with
  | none => .next s
  | some v =>
    if off % 512 != 0 || bytes % 512 != 0 || off + bytes > v.capacity then .next (s.blkDone vol false [])
    else
      let (s, blocks) := (List.range ((off + bytes + 4095) / 4096 - off / 4096)).foldl
        (fun ((s, acc) : State × List (Option (List Byte))) i => let (s, b) := s.volBlock v (off / 4096 + i); (s, acc ++ [b])) (s, [])
      if blocks.any (·.isNone) then .next (s.blkDone vol false [])
      else .next (s.blkDone vol true ((((blocks.filterMap id).flatten).drop (off % 4096)).take bytes))
/-- VIRTIO_BLK_FLUSH: every earlier write is in device DRAM already. -/
def execVirtioBlkFlush (vol : Nat) (s : State) : Out :=
  .next (if (Tab.get? s.host.volumes vol).isSome then s.blkDone vol true [] else s)

/-! ## Virtio features, console, registers (R6, R250, R259) -/

/-- Limits and configuration of the virtio devices (R250): descriptors of a queue; CIDs of the host's side and of the device; a volume's
block size, most segments of a request, and queues. -/
def queueDescriptors : Nat := 1024
def guestCid : Nat := 3
def deviceCid : Nat := 2
def blkSize : Nat := 4096
def segMax : Nat := 128
def blkQueues : Nat := 8
/-- Is a function there (R250)? Function 0 is the vsock device, 1 to 32 the volumes that have been created, 34 to 65 the consoles. -/
def State.hasDevice (s : State) (device : Nat) : Bool :=
  device == 0 || (34 ≤ device && device ≤ 65) || (1 ≤ device && device ≤ 32 && (Tab.get? s.host.volumes (device - 1)).isSome)
/-- A volume's capacity in 512 B sectors, as its configuration gives it. -/
def State.blkCapacity (s : State) (vol : Nat) : Nat := match Tab.get? s.host.volumes vol with | some v => v.capacity / 512 | none => 0
/-- What a device offers. -/
def offered (device : Nat) : List VirtioFeature :=
  let all : List VirtioFeature := [.version1, .ringPacked, .accessPlatform, .ringEventIdx]
  if device == 0 then all ++ [.seqpacket] else if device ≤ 32 then all ++ [.blkSize, .segMax, .flush, .mq] else all
/-- FEATURES_OK: what the driver finds on read-back. A function that is not there, or that does not answer before the boot is done
(R261), takes nothing. -/
def execFeaturesOk (device : Nat) (features : List VirtioFeature) (s : State) : Out :=
  let ok := features.contains .version1 && features.contains .ringPacked && (device != 0 || features.contains .seqpacket)
    && features.all (offered device).contains
  if !s.hasDevice device || (device != 0 && s.pkg.boot != .running) then .next s
  else .next (s.modHost fun h => { h with featuresOk := Tab.set h.featuresOk device ok })
/-- CONSOLE_INPUT: input bytes are discarded. -/
def execConsoleInput (s : State) : Out := .next s
/-- An indirection entry written whole (R157): reserved bits are ignored. -/
def indirOf (v : W64) : Indir :=
  ⟨bitsNat v.toNat 63 62, v.getLsbD 61, bitsNat v.toNat 55 32, bitsNat v.toNat 31 24, bitsNat v.toNat 23 0⟩
/-- A service core's own CSRs, as it reads them (R259): jxslice, jxpkg, jxfrz, jxtime. Its RV64 program is no part of the model (log 115). -/
def State.csr (s : State) (slice n : Nat) : Option W64 :=
  match n with
  | 0x7C0 => some (BitVec.ofNat 64 slice)
  | 0x7C1 => some (BitVec.ofNat 64 s.pkg.id)
  | 0x7C2 => some (s.slice slice).frz
  | 0x7C3 => some (BitVec.ofNat 64 (nanos s.clock))
  | _ => none
/-- REGISTER_WRITE (R6): a CSR of a service core, where only jxfrz takes a write (WZC); a home map entry, whose fields are RO; an
indirection entry, whose fields are RW. -/
def execRegisterWrite (r : RegName) (v : BitVec 64) (s : State) : Out :=
  match r with
  | .csr sl n => .next (if n == 0x7C2 then s.modSlice sl fun x => { x with frz := x.frz &&& v } else s)
  | .homeMap _ _ => .next s
  | .indirection sl dfn piece => .next (s.modSlice sl fun x => x.setEntry (dfn * 16 + piece % 16) (indirOf v))

end Sys2Proof.Machine
end

