-- ==== Sys2Proof/Machine/Fabric.lean ====
section
/-! DEFINITION. The Yunal fabric: links, flits, packets in and out, requests served for other packages, management messages
(R15, R124 to R129, R200, R213 to R226). -/

namespace Sys2Proof.Machine

/-! ## Registration messages in packets (R120, R220) -/

def nodePkg : Node → Nat
  | .agent a => a.toNat / 2 ^ 22
  | .home p _ => p
def msgCode : MsgKind → Nat
  | .reg => 1 | .seal => 2 | .rdq => 3 | .fwd => 4 | .recall => 5 | .wb => 6 | .race => 7 | .regack => 8 | .sealack => 10
  | .data => 11 | .gone => 12
def codeMsg : Nat → Option MsgKind
  | 1 => some .reg | 2 => some .seal | 3 => some .rdq | 4 => some .fwd | 5 => some .recall | 6 => some .wb | 7 => some .race
  | 8 => some .regack | 9 => some .regack | 10 => some .sealack | 11 => some .data | 12 => some .gone | _ => none
def raceCode : RaceKind → Nat
  | .read => 0 | .register => 1 | .atomic => 2
/-- The agent a message is from or for: the end that is no home. -/
def Msg.agentEnd (m : Msg) : Nat := match m.src with | .agent a => a.toNat | .home _ _ => nodeAgent m.dst
/-- Byte mask and bytes of a sector. -/
def sectorBytes (ws : List (Nat × W32 × BitVec 4)) : List Byte :=
  let mask := ws.foldl (fun (x : Nat) ((w, _, m) : Nat × W32 × BitVec 4) => x ||| (m.toNat * 2 ^ (4 * w))) 0
  let word (i : Nat) : W32 := match ws.find? (·.1 == i) with | some (_, x, _) => x | none => 0
  toBytesLE 16 mask ++ (List.range 32).flatMap fun i => toBytesLE 4 (word i).toNat
/-- KIND 0x07 (R220). The AGENT field names the agent that sends, or that a home's message is for; every REGACK is followed by a mask
and a sector (log 18). -/
def Msg.toPacket (m : Msg) (own : Nat) : Packet :=
  let body := if m.words.isEmpty && m.kind != MsgKind.regack then [] else sectorBytes m.words
  mkPacket (nodePkg m.dst) own 0x07 0 m.agentEnd m.asid 0 0
    (toBytesLE 8 m.sva ++ toBytesLE 4 m.mask.toNat
      ++ toBytesLE 1 (if m.raced && m.kind == MsgKind.regack then 9 else msgCode m.kind) ++ toBytesLE 1 (raceCode m.rkind) ++ [0, 0]
      ++ toBytesLE 4 m.other ++ toBytesLE 4 m.rmask.toNat) body
def Packet.toMsg (p : Packet) (s : State) : Option Msg :=
  match codeMsg (pfield p 0x1C 1) with
  | none => none
  | some k =>
    let sva := pfield p 0x10 8
    let a := agentNode p.agent
    let toAgent := k == MsgKind.fwd || k == MsgKind.recall || k == MsgKind.race || k == MsgKind.regack || k == MsgKind.sealack || k == MsgKind.data
    let mask := BitVec.ofNat 32 (pfield p 0x18 4)
    let body := (p.drop 1).flatten
    let bm := ofBytesLE (body.take 16)
    let ws := if body.isEmpty || bm == 0 then [] else (Mask.lanes mask).map fun w =>
      (w, BitVec.ofNat 32 (fieldAt body (16 + 4 * w) 4), BitVec.ofNat 4 (bm / 2 ^ (4 * w)))
    some { blankMsg with
      src := if toAgent then .home p.src (f5 sva) else a, dst := if toAgent then a else .home s.pkg.id (s.homeSlice p.asid sva)
      kind := k, asid := p.asid, sva := sva, mask := mask, rmask := BitVec.ofNat 32 (pfield p 0x24 4), words := ws, other := pfield p 0x20 4
      rkind := match pfield p 0x1D 1 with | 0 => .read | 1 => .register | _ => .atomic
      raced := pfield p 0x1C 1 == 9 }
/-- Does a message leave the package? FWD and RECALL to another package's engine are answered at the home, where the bytes are. -/
def State.leaves (s : State) (m : Msg) : Bool :=
  nodePkg m.dst != s.pkg.id
    && !((m.kind == MsgKind.fwd || m.kind == MsgKind.recall) && s.homeHere m.src && !isL1 (nodeAgent m.dst))
/-- Put such messages on the fabric. -/
def State.exportMsgs (s : State) : State :=
  let away := s.net.filter s.leaves
  if away.isEmpty then s
  else away.foldl (fun s m => s.sendPacket (nodePkg m.dst) (m.toPacket s.pkg.id)) { s with net := s.net.filter fun m => !s.leaves m }

/-! ## Management messages out (R221) -/

/-- A VC 6 flit's payload. -/
def mgmtPacket (dst src kind port mseq token count : Nat) (body : List Byte) : List Byte :=
  padTo 56 (toBytesLE 2 dst ++ toBytesLE 2 src ++ [BitVec.ofNat 8 kind, BitVec.ofNat 8 port] ++ toBytesLE 2 mseq ++ toBytesLE 4 token
    ++ [BitVec.ofNat 8 count, 0, 0, 0] ++ body)
/-- Send a management message back by a port; 0xFFFF is this package's own host, told by HEALTH event 6 (R254). -/
def State.mgmtOut (s : State) (port : Nat) (p : List Byte) (input : Nat := ownInput) : State :=
  if port == 0xFFFF then s.health 6 0 0 0 0 0 0 (p ++ List.replicate 8 0) else s.enqueue port 6 false [p] input
/-- The way to a package: its route, or the port its message came by. -/
def State.mgmtTo (s : State) (dst port : Nat) (p : List Byte) : State :=
  if port == 0xFFFF || dst == 0xFFFF then s.mgmtOut port p
  else match s.route dst with
    | (s, some q) => s.mgmtOut q p
    | (s, none) => s.mgmtOut port p
def State.nextMseq (s : State) : State × Nat := (s.modFab fun f => { f with mseqNext := (f.mseqNext + 1) % 65536 }, s.fab.mseqNext)
/-- An EVENT to the fabric manager (R221). -/
def State.fabEvent (s : State) (port ev lane : Nat) : State :=
  match s.fab.manager with
  | none => s
  | some (pkg, via) =>
    let (s, n) := s.nextMseq
    s.mgmtTo pkg via (mgmtPacket pkg s.pkg.id 0x26 port n (s.fab.token.getD 0) 0
      ([BitVec.ofNat 8 port, BitVec.ofNat 8 ev, BitVec.ofNat 8 (s.port port).width, BitVec.ofNat 8 lane] ++ toBytesLE 4 0 ++ toBytesLE 8 s.clock))

/-! ## Links (R214 to R216, R225, R226) -/

/-- A change in which links are up resets the counters of the routes that have the port in a slot of nonzero weight (R214). -/
def State.resetCounters (s : State) (port : Nat) : State :=
  s.modFab fun f => { f with counters := f.counters.filter fun (d, _) =>
    !((routeSlots (Tab.getD f.routes d 0)).any fun x => x.1 == port && x.2 != 0) }
/-- LINK_UP. -/
def execLinkUp (port width : Nat) (s : State) : Out :=
  if port ≥ 48 || !([2, 4, 8].contains width) || (s.port port).up then .next s
  else .next ((s.modPort port fun p =>
    { Port.empty with up := true, width := width, thr := p.thr }).resetCounters port)
/-- Every flit sent by a link that goes down is lost with it; its packets are sent again under R219. -/
def State.linkDown (s : State) (port : Nat) : State :=
  ((s.modPort port fun p => { Port.empty with thr := p.thr }).resetCounters port).fabEvent port 1 0
/-- The link begins to retrain at a width; below 2 lanes it goes down. -/
def State.startRetrain (s : State) (port width : Nat) : State :=
  if width < 2 then s.linkDown port else s.modPort port fun p => { p with retraining := some width, fails := (0, 0), naks := 0 }
/-- LINK_RETRAIN_COMPLETE (R225, R226): at most the width asked for; the retry buffer is sent again. -/
def execLinkRetrainComplete (port width : Nat) (s : State) : Out :=
  let p := s.port port
  match p.retraining with
  | none => .next s
  | some w =>
    if width > w then .next s
    else if width < 2 then .next (s.linkDown port)
    else .next ((s.modPort port fun p =>
      ({ p with retraining := none, width := width, spare := p.spare || !p.repair.isEmpty, repair := [], wire := p.wire ++ p.buf }).pumpAll).fabEvent
        port 2 0)

/-- Does flit `seq` come before or at `ack` in the window of the retry buffer? -/
def seqUpTo (seq ack : Nat) : Bool := (ack + 4096 - seq) % 4096 < 512
/-- A repair that waits for replays is made once none is outstanding; with the spare in use, another lane that waits has the link retrain
(R226). -/
def State.tryRepair (s : State) (port : Nat) : State :=
  let p := s.port port
  match p.repair with
  | lane :: rest =>
    if p.fails.1 == 0 && p.retraining.isNone then
      let s := (s.modPort port fun p => { p with spare := true, repair := [] }).fabEvent port 3 lane
      if rest.isEmpty then s else s.startRetrain port (p.width / 2)
    else s
  | [] => s
/-- LINK_ACK (R225): flits up to this one have arrived. -/
def execLinkAck (port ack : Nat) (s : State) : Out :=
  .next ((s.modPort port fun p =>
    let buf := p.buf.filter fun f => !seqUpTo f.seq ack
    if buf.any (fun f => f.seq == p.fails.2) then { p with buf := buf } else { p with buf := buf, fails := (0, 0), naks := 0 }).tryRepair port)
/-- LINK_NAK (R225): replay from the expected flit; after three replays of it have failed, the link retrains at half its width. Every flit
that was behind it on the link is rejected too and draws a NAK of its own, which tells no failure of the replay (log 79). -/
def execLinkNak (port seq : Nat) (s : State) : Out :=
  let p := s.port port
  let buf := p.buf.filter fun f => f.seq == seq || !seqUpTo f.seq seq
  let again := p.fails.2 == seq && p.fails.1 > 0
  let naks := if again then p.fails.1 + 1 else 1
  if p.retraining.isSome || !p.up || !(buf.any fun f => f.seq == seq) then .next s
  else if again && p.naks > 0 then .next (s.modPort port fun p => { p with naks := p.naks - 1 })
  else if naks > 3 then .next ((s.modPort port fun p => { p with buf := buf }).startRetrain port (p.width / 2))
  else .next (s.modPort port fun p => { p with buf := buf, fails := (naks, seq), naks := buf.length - 1, wire := p.wire ++ buf })
/-- CREDIT_UPDATE (R215, R216). -/
def execCreditUpdate (port vc credits : Nat) (s : State) : Out :=
  .next (s.modPort port fun p => ({ p with credits := Tab.update p.credits vc 0 (· + credits) }).pumpAll)
/-- LANE_ERROR_THRESHOLD (R226): the traffic of a data lane goes to the spare lane 8; with the spare in use the link retrains. The spare
that carries no traffic has none to move. -/
def execLaneErrorThreshold (port lane : Nat) (s : State) : Out :=
  let p := s.port port
  if !p.up then .next s
  else if p.spare then .next (if p.retraining.isSome then s else s.startRetrain port (p.width / 2))
  else if lane ≥ 8 || p.repair.contains lane then .next s
  else .next ((s.modPort port fun p => { p with repair := p.repair ++ [lane] }).tryRepair port)

/-! ## Packets in (R215, R217, R219, R220) -/

def kindListed (k : Nat) : Bool := 1 ≤ k && k ≤ 0x0B
/-- A packet is delivered in its order: registration messages to their ends, the others to be served. -/
def State.deliverPacket (s : State) (p : Packet) : State :=
  if p.kind == 7 then match p.toMsg s with
    | some m => s.post m
    | none => s.modFab fun f => { f with lost := f.lost + 1 }
  else if kindListed p.kind then s.modFab fun f => { f with inbox := f.inbox ++ [(p.src, p)] }
  else (s.modFab fun f => { f with lost := f.lost + 1 }).logEvent (.unknownKind p.src p.kind s.clock)
/-- Packets that came early and are now in order. -/
def State.deliverEarly (s : State) (src : Nat) : Nat → State
  | 0 => s
  | n + 1 =>
    let e := Tab.getD s.fab.rxEseq src 0
    match s.fab.early.find? fun (q, p) => q == src && p.eseq == e with
    | none => s
    | some (_, p) =>
      ((s.modFab fun f => { f with early := f.early.eraseP (fun (q, x) => q == src && x.eseq == e)
                                   rxEseq := Tab.set f.rxEseq src ((e + 1) % 65536) }).deliverPacket p).deliverEarly src n
/-- A whole packet for this package (R219): in ESEQ order, without duplicates. -/
def State.receivePacket (s : State) (p : Packet) : State :=
  if p.kind == 0x0B then s.modFab fun f => { f with inbox := f.inbox ++ [(p.src, p)] }
  else
    let e := Tab.getD s.fab.rxEseq p.src 0
    let ahead := (p.eseq + 65536 - e) % 65536
    let s := s.modFab fun f => { f with toAck := Tab.update f.toAck p.src 0 (· + 1) }
    if ahead == 0 then
      ((s.modFab fun f => { f with rxEseq := Tab.set f.rxEseq p.src ((e + 1) % 65536) }).deliverPacket p).deliverEarly p.src 1024
    else if ahead < 1024 && !(s.fab.early.any fun (q, x) => q == p.src && x.eseq == p.eseq) then
      s.modFab fun f => { f with early := f.early ++ [(p.src, p)] }
    else s
/-- A NACK (R220). -/
def nackPacket (s : State) (dst asid agent cls rseq lanes fva : Nat) : Packet :=
  mkPacket dst s.pkg.id 0x05 0 agent asid (8 * cls) 0
    (List.replicate 8 0 ++ toBytesLE 2 rseq ++ toBytesLE 2 0 ++ toBytesLE 4 lanes ++ toBytesLE 8 fva) []
/-- Send a NACK; the service core logs it (R223). -/
def State.sendNack (s : State) (dst asid agent cls rseq lanes fva : Nat) : State :=
  (s.sendPacket dst (nackPacket s dst asid agent cls rseq lanes fva)).logEvent (.nackSent dst cls rseq s.clock)
/-- The VA of the lowest lane of a packet (R220): page and offset, the first destination byte, or the sector. -/
def Packet.firstVa (p : Packet) : Nat :=
  if [1, 2, 3].contains p.kind then pfield p 0x10 8 + p.offsets.headD 0 else if p.kind == 9 then pfield p 0x18 8
  else if p.kind == 6 || p.kind == 7 then pfield p 0x10 8 else 0
/-- A packet addressed elsewhere goes on by one more hop, or is dropped with an unreachable NACK to its source, be it a request or a
response (R214, R215). -/
def State.forward (s : State) (port vc : Nat) (rsp : Bool) (p : Packet) : State :=
  let drop (s : State) : State :=
    (s.sendNack p.src p.asid p.agent 6 p.eseq (2 ^ max p.count 1 - 1) p.firstVa).fabEvent port 4 0
  if vc ≥ 5 then drop s
  else match s.route p.dst with
    | (s, some q) => s.enqueue q (vc + 1) rsp p port
    | (s, none) => drop s
/-- A VC 6 flit enters the management store, or is lost when that is full. -/
def State.storeMgmt (s : State) (port : Nat) (bs : List Byte) : State :=
  if s.fab.store.length < 64 then s.modFab fun f => { f with store := f.store ++ [(port, bs)] }
  else (s.modFab fun f => { f with mgmtDropped := f.mgmtDropped + 1 }).fabEvent port 5 0
/-- FLIT_RECEIVE (R215, R216, R225): a flit in order with a good CRC is taken and acknowledged, any other answered with NAK. Until
the package has an ID its ports take management traffic only (R15). -/
def execFlitReceive (port : Nat) (f : Flit) (s : State) : Out :=
  let p := s.port port
  if !p.up || p.retraining.isSome then .next s
  else if f.ctl != 0 && f.crc == flitCrc f.payload (flitTrailer f.seq f.vc f.rsp f.ack f.ctl) then
    match f.ctl with
    | 1 => execLinkAck port f.ack s
    | 2 => execLinkNak port f.ack s
    | 3 => execCreditUpdate port (flitClass f.vc f.rsp) f.ack s
    | _ => .next s
  else if f.payload.length != 56 || f.seq ≥ 4096 || f.vc ≥ 7 || f.crc != flitCrc f.payload (flitTrailer f.seq f.vc f.rsp f.ack f.ctl) || f.seq != p.rxSeq then
    .next (s.modPort port fun p => p.control 2 p.rxSeq 0)
  else
    let s := s.modPort port fun p =>
      let p := { p with rxSeq := (p.rxSeq + 1) % 4096 }
      (p.control 1 f.seq 0).control 3 1 f.vc f.rsp
    if f.vc == 6 then .next (s.storeMgmt port f.payload)
    else if !s.pkg.assigned then .next s
    else
      let cls := flitClass f.vc f.rsp
      let got := Tab.getD (s.port port).asm cls [] ++ [f.payload]
      if got.length < packetFlits (got.headD []) then .next (s.modPort port fun p => { p with asm := Tab.set p.asm cls got })
      else
        let s := s.modPort port fun p => { p with asm := Tab.erase p.asm cls }
        let q : Packet := got
        .next (if q.dst == s.pkg.id then s.receivePacket q else s.forward port f.vc f.rsp q)

/-- END_TO_END_ACK (R219): cumulative. -/
def execEndToEndAck (spkg : Nat) (s : State) : Out :=
  match s.fab.inbox.find? fun (q, p) => q == spkg && p.kind == 0x0B with
  | none => .next s
  | some (_, p) =>
    let e := p.eseq
    let s := s.modFab fun f =>
      { f with inbox := f.inbox.eraseP (fun (q, p) => q == spkg && p.kind == 0x0B)
               unacked := f.unacked.filter fun u => !(u.dst == spkg && (e + 65536 - u.eseq) % 65536 < 1024) }
    .next (s.sendWaiting spkg s.fab.waiting.length)
/-- END_TO_END_ACK_SEND (R219): for every source with packets not acknowledged. -/
def execEndToEndAckSend (s : State) : Out :=
  let due := s.fab.toAck
  let s := s.modFab fun f => { f with toAck := [] }
  .next (due.foldl (fun (s : State) ((src, _) : Nat × Nat) =>
    let e := (Tab.getD s.fab.rxEseq src 0 + 65535) % 65536
    s.transmit src true (setEseq (mkPacket src s.pkg.id 0x0B 0 0 0 0 0 [] []) e)) s)
/-- PACKET_RETRANSMIT_TIMEOUT (R219): packets unacknowledged for 1 ms are sent again. -/
def execPacketRetransmitTimeout (s : State) : Out :=
  let due := s.fab.unacked.filter fun u => u.sentAt + ms 1 ≤ s.clock
  let again (u : Unacked) : Unacked := if u.sentAt + ms 1 ≤ s.clock then { u with sentAt := s.clock } else u
  let s := s.modFab fun f => { f with unacked := f.unacked.map again }
  .next (due.foldl (fun s u => s.transmit u.dst u.rsp u.packet) s)

/-! ## Requests of other packages, served here (R128, R218, R220, R222, R223) -/

/-- What a request's lane meets at its target: nothing, a fault to resolve, or the class of a NACK. -/
inductive Served where
  | good
  | park (va : Nat)
  | nack (cls : Nat)
  deriving DecidableEq, Repr
def State.targetFate (s : State) (j : Job) (acc : Acc) (va n : Nat) : State × Served :=
  if isPrivate va then (s, .nack 3)
  else match s.place j 0 j.asid va acc with
    | (s, .at sl key) =>
      if acc == .write then (s, .good)
      else (s.checkSector sl key, if s.sectorFailed sl key || (s.softIn j.asid va n).isSome then .nack 5 else .good)
    | (s, .zero _) => if acc != .write && (s.softIn j.asid va n).isSome then (s, .nack 5) else (s, .good)
    | (s, .park _) => (s, .park va)
    | (s, .bad c) => (s, .nack c)
    | (s, .remote _) => (s, .nack 3)
/-- An atomic needs W, and data that does not fail its check (R128, R153, R173). -/
def State.targetFates (s : State) (j : Job) (kind va n : Nat) : State × Served :=
  if kind == 1 then s.targetFate j .read va n
  else if kind == 2 then s.targetFate j .write va n
  else match s.targetFate j .write va n with
    | (s, .good) =>
      match s.place j 0 j.asid va .write with
      | (s, .at sl key) =>
        (s.checkSector sl key, if s.sectorFailed sl key || (s.softIn j.asid va n).isSome then .nack 5 else .good)
      | (s, _) => (s, if (s.softIn j.asid va n).isSome then .nack 5 else .good)
    | r => r

/-- Whether races that a request of another package meets are logged here: bit 1 of the issuing skein's SR_RACECTL decides (R130), and no
field of the packet carries it (R217), so it is a free value (log 62). -/
def State.reportsRaces (s : State) : State × Bool := let (s, v) := s.free; (s, v.getLsbD 1)
/-- A read of a lane's bytes under R127, and whether it met a race; the race is logged at this home (R130). -/
def State.targetRead (s : State) (asid agent va n : Nat) (report : Bool) : State × List Byte × Bool :=
  let raced := (wordsOf va n).any fun w => match s.owner asid w with | some (a, unpub) => unpub && a != agent | none => false
  let (s, bs) := s.engRead asid agent va n report
  (s, bs, raced)
/-- A write of a lane at the atomic unit (R128): a published value, whether STR or not. -/
def State.targetWrite (s : State) (asid agent va : Nat) (bs : List Byte) (report : Bool) : State × Bool :=
  (wordPieces va bs).foldl (fun ((s, r) : State × Bool) (wa, x, m) =>
    let (s, y) := s.atomicReach asid wa agent report
    let s := if m == 0xF#4 then s.cleanWords asid [wa] else s
    (((s.mergeHome asid wa x m false).setHword asid wa .valid), r || y)) (s, false)

/-- Carry out the lanes of a request that met no fault, in order: the answered lanes' bytes, and the lanes that met a race. -/
def State.serveLanes (s : State) (p : Packet) (ls : List (Nat × Nat)) : State × List Byte × List Nat :=
  let size := 2 ^ (p.opsz % 8)
  let op := p.opsz / 8
  let data := p.body
  let (s, rep) := s.reportsRaces
  ls.foldl (fun ((s, bs, rs) : State × List Byte × List Nat) (i, va) =>
    match p.kind with
    | 1 =>
      let (s, b, r) := s.targetRead p.asid p.agent va size rep
      (s, bs ++ b, if r then rs ++ [i] else rs)
    | 2 =>
      let (s, r) := s.targetWrite p.asid p.agent va ((data.drop (size * i)).take size) rep
      (s, bs, if r then rs ++ [i] else rs)
    | _ =>
      let w := if op == 9 then 2 * size else size
      let v := fieldAt data (w * i) size
      let c := if op == 9 then fieldAt data (w * i + size) size else 0
      let (s, old, r) := s.homeAtomic p.asid p.agent va size op v c rep
      (s, bs ++ toBytesLE size old, if r then rs ++ [i] else rs)) (s, [], [])
def bitsOf (is : List Nat) : Nat := (Mask.ofLanes is).toNat
/-- A reply (R220). -/
def replyPacket (s : State) (p : Packet) (lanes races done : Nat) (bs : List Byte) : Packet :=
  mkPacket p.src s.pkg.id 0x04 0 p.agent p.asid (if bs.isEmpty then 7 else p.opsz % 8) 0
    (toBytesLE 8 (pfield p 0x10 8) ++ toBytesLE 2 p.eseq ++ toBytesLE 2 0 ++ toBytesLE 4 lanes ++ toBytesLE 4 races ++ [BitVec.ofNat 8 done]) bs
/-- Answer a vector request; lanes still not present count as class 1 (R223). -/
def State.answerVector (s : State) (p : Packet) (fs : List ((Nat × Nat) × Served)) : State :=
  let good := (fs.filter fun x => x.2 == Served.good).map (·.1)
  let s := if good.isEmpty then s
    else
      let (s, bs, rs) := s.serveLanes p good
      s.sendPacket p.src (replyPacket s p (bitsOf (good.map (·.1))) (bitsOf rs) 0 bs)
  [1, 2, 3, 4, 5].foldl (fun (s : State) cls =>
    let mine := fs.filter fun x => match x.2 with | .nack c => c == cls | .park _ => cls == 1 | .good => false
    match mine with
    | [] => s
    | x :: _ => s.sendNack p.src p.asid p.agent cls p.eseq (bitsOf (mine.map (·.1.1))) x.1.2) s
/-- Serve a vector request; `last` after 10 ms. A fault that can be resolved holds it here (R223). -/
def State.serveVector (s : State) (p : Packet) (since : Nat) (last : Bool) : State :=
  let page := pfield p 0x10 8
  let lanes := p.offsets.zipIdx.map fun (o, i) => (i, page + o)
  match s.jobOfAsid? p.asid with
  | none => s.sendNack p.src p.asid p.agent 7 p.eseq (bitsOf (lanes.map (·.1))) ((lanes.headD (0, page)).2)
  | some j =>
    let (s, fs) := lanes.foldl (fun ((s, acc) : State × List ((Nat × Nat) × Served)) x =>
      let (s, f) := s.targetFates j p.kind x.2 (2 ^ (p.opsz % 8))
      (s, acc ++ [(x, f)])) (s, [])
    match fs.findSome? fun x => match x.2 with | .park va => some va | _ => none with
    | some va =>
      if last then s.answerVector p fs
      else
        let s := fs.foldl (fun (s : State) x => match x.2 with | .park a => s.reportFault j.asid a | _ => s) s
        s.modFab fun f => { f with held := f.held ++ [⟨p.src, p.eseq, p, since, BitVec.ofNat 64 va⟩] }
    | none => s.answerVector p fs
/-- Serve a packet of a bulk copy (R185, R220, R222): registered to the initiating agent and sealed, then answered, with LANES = 1
(log 18). -/
def State.serveBulk (s : State) (p : Packet) (since : Nat) (last : Bool) : State :=
  let va := pfield p 0x10 8
  let n := pfield p 0x18 4
  let bs := p.body.take n
  let nack (s : State) (cls a : Nat) : State := s.sendNack p.src p.asid p.agent cls p.eseq 1 a
  match s.jobOfAsid? p.asid with
  | none => nack s 7 va
  | some j =>
    let sectors := (List.range ((va % 128 + n + 127) / 128)).map fun i => if i == 0 then va else va / 128 * 128 + 128 * i
    let (s, f) := sectors.foldl (fun ((s, f) : State × Option (Served × Nat)) a => match f with
      | some x => (s, some x)
      | none => match s.targetFate j .write a 1 with
        | (s, .good) => (s, none)
        | (s, x) => (s, some (x, a))) (s, none)
    match f with
    | none =>
      let (s, rep) := s.reportsRaces
      let s := (s.engWrite j.asid p.agent va bs rep).engineSeal p.agent (wordKeys j.asid va n)
      s.sendPacket p.src (replyPacket s p 1 0 (pfield p 0x20 1 % 2) [])
    | some (.nack c, a) => nack s c a
    | some (_, a) =>
      if last then nack s 1 a
      else (s.reportFault j.asid a).modFab fun f => { f with held := f.held ++ [⟨p.src, p.eseq, p, since, BitVec.ofNat 64 a⟩] }
/-- A request of a kind from a package: one that is held and whose fault is resolved, else the next in order. -/
def State.serveKind (s : State) (spkg kind : Nat) (f : State → Packet → Nat → State) : State :=
  let ready (h : Held) : Bool := h.spkg == spkg && h.packet.kind == kind && !s.faults.contains (h.packet.asid, h.va.toNat / 4096 * 4096)
  match s.fab.held.find? ready with
  | some h => f (s.modFab fun g => { g with held := g.held.erase h }) h.packet h.since
  | none => s.serve spkg kind fun s p => f s p s.clock
/-- VECTOR_READ. -/
def execVectorRead (spkg : Nat) (s : State) : Out := .next (s.serveKind spkg 1 fun s p t => s.serveVector p t false)
/-- VECTOR_WRITE. -/
def execVectorWrite (spkg : Nat) (s : State) : Out := .next (s.serveKind spkg 2 fun s p t => s.serveVector p t false)
/-- VECTOR_ATOMIC. -/
def execVectorAtomic (spkg : Nat) (s : State) : Out := .next (s.serveKind spkg 3 fun s p t => s.serveVector p t false)
/-- BULK_COPY_DATA. -/
def execBulkCopyData (spkg : Nat) (s : State) : Out := .next (s.serveKind spkg 6 fun s p t => s.serveBulk p t false)
/-- TARGET_HOLD_TIMEOUT (R223): requests held for 10 ms are answered. -/
def execTargetHoldTimeout (s : State) : Out :=
  let due := s.fab.held.filter fun h => [1, 2, 3, 6].contains h.packet.kind && h.since + ms 10 ≤ s.clock
  .next (due.foldl (fun (s : State) h =>
    let s := s.modFab fun f => { f with held := f.held.erase h }
    if h.packet.kind == 6 then s.serveBulk h.packet h.since true else s.serveVector h.packet h.since true) s)

/-! ## Answers to this package's own requests (R220, R222 to R224) -/

/-- Divide a packet's record: its lanes of `hit` take an outcome, the others wait on. -/
def RemPkt.part (p : RemPkt) (hit : List Nat) (outcome fva : Nat) : List RemPkt :=
  let a := p.lanes.filter hit.contains
  let b := p.lanes.filter (! hit.contains ·)
  (if a.isEmpty then [] else [{ p with lanes := a, outcome := outcome, fva := BitVec.ofNat 64 fva }])
    ++ if b.isEmpty then [] else [{ p with lanes := b }]
/-- Lanes that a mask of offsets names. -/
def RemPkt.named (p : RemPkt) (mask : Nat) : List Nat := (p.all.zipIdx.filter fun (_, i) => mask / 2 ^ i % 2 == 1).map (·.1)
/-- Does a record await an answer of a package to this sequence number? -/
def RemPkt.awaits (p : RemPkt) (pkg rseq : Nat) : Bool := p.outcome == 0 && p.eseq == rseq && p.dst == pkg
/-- The package whose request a NACK refuses: an unreachable NACK comes from a package on the way (R215), and names the request by its
number, agent and address. -/
def State.nackOf (s : State) (spkg : Nat) (p : Packet) : Nat :=
  if p.opsz / 8 != 6 then spkg
  else match s.jobOfAsid? p.asid with
    | some j => match s.home j 0 (pfield p 0x20 8) with
      | .there d _ => d
      | _ => spkg
    | none => spkg

/-- A reply to a remote access writes its lanes' registers (R222). -/
def State.takeReply (s : State) (spkg : Nat) (p : Packet) (r : Remote) : State :=
  let rseq := pfield p 0x18 2
  match r.pkts.find? fun x => x.awaits spkg rseq with
  | none => s
  | some x =>
    let hit := x.named (pfield p 0x1C 4)
    let races := x.named (pfield p 0x20 4)
    let body := p.body
    let upd (r : Remote) : Remote := { r with
      pkts := r.pkts.flatMap fun y => if y.awaits spkg rseq then y.part hit 1 0 else [y]
      got := if r.handle.isSome then body.take 8 else r.got
      raced := (r.lanes.filter fun a => races.contains a.lane).foldl (fun (acc : Option (Nat × W64)) a => match acc with
        | some (l, va) => if a.lane < l then some (a.lane, a.va) else some (l, va)
        | none => some (a.lane, a.va)) r.raced }
    let s := s.modFab fun f => { f with remotes := f.remotes.map fun y => if y.op == r.op then upd y else y }
    if !r.isLoad || r.handle.isSome then s
    else
      let s := s.modSkein r.sk fun k => hit.zipIdx.foldl (fun (k : Skein) ((l, i) : Nat × Nat) =>
        match r.lanes.find? fun a => a.lane == l with
        | some a => k.putBytes r.uniform a.reg l ((body.drop (r.size * i)).take r.size)
        | none => k) k
      if r.uniform then s else s.landMembers r.sk r.op ((r.lanes.filter fun a => hit.contains a.lane).flatMap fun a => a.keys r.size)
/-- A pull's reply: the bytes go to the unit they are for; it lands when its last part has come. -/
def State.takePull (s : State) (o : EngOp) (d : CpyDesc) (tag : Nat) (bs : List Byte) : State :=
  let u := tag / 2
  let (at_, n) := d.unit u
  let src := d.src + (at_ - d.dst)
  let (chunk, _) := (pullChunks src n).getD (tag % 2) (src, 1)
  let lo := max chunk src
  let hi := min (chunk + bs.length) (src + n)
  let part := (bs.drop (lo - chunk)).take (hi - lo)
  match s.group? o.group with
  | none => s
  | some g =>
    let s := s.cpyStore o g d (at_ + (lo - src)) part
    if o.remote.any (fun ((_, _, _, t) : Nat × Nat × Nat × Nat) => t / 2 == u) then s.modOp o.id fun o =>
      { o with written := if d.ds then o.written else o.written ++ wordKeys (s.jobOfGroup o.group).asid (at_ + (lo - src)) part.length }
    else s.landed o o.progress (if d.ds then [] else wordKeys (s.jobOfGroup o.group).asid at_ n)
/-- The operation and entry that an answer is for. -/
def State.opFor (s : State) (pkg rseq : Nat) : Option (EngOp × (Nat × Nat × Nat × Nat)) :=
  s.ops.findSome? fun (o : EngOp) => (o.remote.find? fun (q, e, _, _) => e == rseq && q == pkg).map fun x => (o, x)
/-- REPLY (R220, R222): one that nothing waits for is discarded and counted. -/
def execReply (spkg : Nat) (s : State) : Out :=
  .next (s.serve spkg 0x04 fun s p =>
    let rseq := pfield p 0x18 2
    match s.fab.remotes.find? fun r => r.pkts.any fun x => x.awaits spkg rseq with
    | some r => s.takeReply spkg p r
    | none => match s.opFor spkg rseq with
      | some (o, x) =>
        let s := s.modOp o.id fun o => { o with remote := o.remote.erase x }
        match s.op? o.id, o.kind with
        | some o, .cpy d =>
          if p.body.isEmpty then s.landed o o.progress [] else s.takePull o d x.2.2.2 p.body
        | _, _ => s
      | none => (s.modFab fun f => { f with lost := f.lost + 1 }).logEvent (.lateReply spkg rseq s.clock))
/-- NACK (R223): the service core logs it. A copy that has met an error keeps the first. -/
def execNack (spkg : Nat) (s : State) : Out :=
  .next (s.serve spkg 0x05 fun s p =>
    let rseq := pfield p 0x18 2
    let dst := s.nackOf spkg p
    let fva := pfield p 0x20 8
    let s := s.logEvent (.nackTaken spkg (p.opsz / 8) rseq s.clock)
    match s.fab.remotes.find? fun r => r.pkts.any fun x => x.awaits dst rseq with
    | some r =>
      let part (y : RemPkt) : List RemPkt := if y.awaits dst rseq then y.part (y.named (pfield p 0x1C 4)) 2 fva else [y]
      let upd (r : Remote) : Remote := { r with pkts := r.pkts.flatMap part }
      s.modFab fun f => { f with remotes := f.remotes.map fun y => if y.op == r.op then upd y else y }
    | none => match s.opFor dst rseq with
      | some (o, x) =>
        let s := s.modOp o.id fun o => { o with remote := o.remote.erase x }
        match o.stat with
        | .bad _ _ => s
        | _ => s.engBad o 0x09 fva
      | none => s.modFab fun f => { f with lost := f.lost + 1 })
/-- The limit of a job's remote accesses (R224). -/
def remoteLimit (j : Job) : Nat := ms (if j.timeoutMs == 0 then 20 else j.timeoutMs)
/-- Has an answer to a request come that has not been taken yet? It wins over a limit that expires in the same cycle (R224). -/
def State.answerHere (s : State) (dst eseq : Nat) : Bool :=
  s.fab.inbox.any fun (q, p) => (p.kind == 4 || p.kind == 5) && pfield p 0x18 2 == eseq && (if p.kind == 5 then s.nackOf q p else q) == dst
/-- REMOTE_TIMEOUT (R185, R224): packets without an answer within the limit, counted from their sending, have timed out. A copy that
has met an error keeps the first. -/
def execRemoteTimeout (s : State) : Out :=
  let late (lim dst eseq t : Nat) : Bool := t + lim ≤ s.clock && !s.unsent dst eseq && !s.answerHere dst eseq
  let upd (r : Remote) : Remote :=
    let lim := remoteLimit (((s.skein? r.sk).map s.jobOf).getD default)
    { r with pkts := r.pkts.map fun (x : RemPkt) => if x.outcome == 0 && late lim x.dst x.eseq x.sentAt then { x with outcome := 3 } else x }
  let s1 := s.modFab fun f => { f with remotes := f.remotes.map upd }
  .next (s1.ops.foldl (fun (s : State) (o : EngOp) =>
    let lim := remoteLimit (s.jobOfGroup o.group)
    match o.remote.find? fun (q, e, t, _) => late lim q e t with
    | some _ =>
      let s := s.modOp o.id fun o => { o with remote := [] }
      match o.stat with
      | .bad _ _ => s
      | _ => s.engBad o 0x0A 0
    | none => s) s1)

/-! ## Management messages in (R213, R215, R221, R226) -/

/-- The first message of the store that came by a port. -/
def State.firstMgmt (s : State) (port : Nat) : Option (List Byte) := (s.fab.store.find? (·.1 == port)).map (·.2)
def forUs (s : State) (bs : List Byte) : Bool := fieldAt bs 0 2 == 0xFFFF || (s.pkg.assigned && fieldAt bs 0 2 == s.pkg.id)
/-- Acknowledge a message to its sender: 0 applied, 1 refused, 2 malformed. -/
def State.ackMgmt (s : State) (port : Nat) (bs : List Byte) (status : Nat) : State :=
  let src := fieldAt bs 2 2
  let (s, n) := s.nextMseq
  s.mgmtTo src port (mgmtPacket src (if s.pkg.assigned then s.pkg.id else 0xFFFF) 0x27 (fieldAt bs 5 1) n (fieldAt bs 8 4) 0
    (toBytesLE 2 (fieldAt bs 6 2) ++ [BitVec.ofNat 8 status]))
/-- The sequence numbers applied within the window of the last 64, the newest first, once `n` has been applied too (R221). -/
def seenWith (n : Nat) (seen : List Nat) : List Nat :=
  let newest := match seen with | m :: _ => if (n + 65536 - m) % 65536 < 32768 then n else m | [] => n
  newest :: (n :: seen).filter fun m => m != newest && (newest + 65536 - m) % 65536 < 64
/-- A message of one kind for this package: applied once, acknowledged always (R221). `f` answers its status. -/
def State.onMgmtMsg (s : State) (port kind : Nat) (f : State → List Byte → State × Nat) : State :=
  match s.firstMgmt port with
  | none => s
  | some bs =>
    if !forUs s bs || fieldAt bs 4 1 != kind then s
    else
      let s := s.modFab fun g => { g with store := g.store.eraseP (·.1 == port) }
      let src := fieldAt bs 2 2
      let n := fieldAt bs 6 2
      let seen := Tab.getD s.fab.mseqSeen src []
      if seen.contains n then s.ackMgmt port bs 0
      else
        let (s, st) := f s bs
        let s := if st == 0 then s.modFab fun g => { g with mseqSeen := Tab.set g.mseqSeen src (seenWith n seen) } else s
        s.ackMgmt port bs st
/-- Does a message carry the session's token? -/
def tokenOk (s : State) (bs : List Byte) : Bool := s.fab.token == some (fieldAt bs 8 4)
/-- ASSIGN (R15, R221). Words registered or cached under agent IDs of the old package ID keep them (log 108). -/
def execAssign (port : Nat) (s : State) : Out :=
  .next (s.onMgmtMsg port 0x20 fun s bs =>
    let id := fieldAt bs 0x10 2
    if id ≥ 1024 then (s, 2)
    else if s.pkg.assigned && !tokenOk s bs then (s, 1)
    else
      let s := { s with pkg := { s.pkg with id := id, assigned := true } }
      (s.modFab fun f => { f with token := some (f.token.getD (fieldAt bs 8 4)), manager := some (fieldAt bs 2 2, port) }, 0))
/-- ROUTE (R213, R214, R221). -/
def execRoute (port : Nat) (s : State) : Out :=
  .next (s.onMgmtMsg port 0x21 fun s bs =>
    let n := fieldAt bs 0x0C 1
    let recs := (List.range n).map fun i => (fieldAt bs (0x10 + 10 * i) 2, fieldAt bs (0x12 + 10 * i) 8 % 2 ^ 40)
    if n < 1 || n > 4 || recs.any (fun x => x.1 ≥ 1024) then (s, 2)
    else if !tokenOk s bs then (s, 1)
    else (recs.foldl (fun (s : State) ((d, e) : Nat × Nat) =>
      s.modFab fun f => { f with routes := Tab.set f.routes d (BitVec.ofNat 64 e), counters := Tab.erase f.counters d }) s, 0))
/-- QUERY (R221): answered by STATE. -/
def execQuery (port : Nat) (s : State) : Out :=
  .next (s.onMgmtMsg port 0x22 fun s bs =>
    let bits (f : Port → Bool) : Nat := (List.range 48).foldl (fun (x : Nat) i => if f (s.port i) then x + 2 ^ i else x) 0
    let src := fieldAt bs 2 2
    let (s, n) := s.nextMseq
    (s.mgmtTo src port (mgmtPacket src (if s.pkg.assigned then s.pkg.id else 0xFFFF) 0x23 0 n (fieldAt bs 8 4) 0
      (toBytesLE 8 (bits (·.up)) ++ toBytesLE 8 (bits fun p => p.up && p.spare) ++ toBytesLE 8 (bits fun p => p.up && p.width < 8)
        ++ toBytesLE 8 s.fab.mgmtDropped ++ toBytesLE 8 s.clock)), 0))
/-- THRESH (R221, R226). -/
def execThresh (port : Nat) (s : State) : Out :=
  .next (s.onMgmtMsg port 0x24 fun s bs =>
    let p := fieldAt bs 0x10 1
    let lane := fieldAt bs 0x11 1
    if p ≥ 48 || lane > 8 || !zeroAt bs 0x12 2 then (s, 2)
    else if !tokenOk s bs then (s, 1)
    else (s.modPort p fun x => { x with thr := Tab.set x.thr lane (fieldAt bs 0x14 4) }, 0))
/-- RETRAIN (R221, R226). -/
def execRetrain (port : Nat) (s : State) : Out :=
  .next (s.onMgmtMsg port 0x25 fun s bs =>
    let p := fieldAt bs 0x10 1
    let w := fieldAt bs 0x11 1
    if p ≥ 48 || !([2, 4, 8].contains w) then (s, 2)
    else if !tokenOk s bs || !(s.port p).up then (s, 1)
    else (s.startRetrain p w, 0))
/-- MGMT_PACKET_FORWARD (R215): the first message of the store that is for another package goes on; one for this package's host, a
STATE, an EVENT or an ACK, is given to it (R254). -/
def execMgmtPacketForward (s : State) : Out :=
  let own (bs : List Byte) : Bool := [0x20, 0x21, 0x22, 0x24, 0x25].contains (fieldAt bs 4 1)
  match s.fab.store.find? fun (_, bs) => !(forUs s bs && own bs) with
  | none => .next s
  | some (port, bs) =>
    let s := s.modFab fun f => { f with store := f.store.erase (port, bs) }
    if forUs s bs then .next (s.mgmtOut 0xFFFF bs)
    else match s.route (fieldAt bs 0 2) with
      | (s, some q) => .next (s.mgmtOut q bs (min port ownInput))
      | (s, none) => .next ((s.modFab fun f => { f with mgmtDropped := f.mgmtDropped + 1 }).fabEvent port 5 0)
/-- FABRIC_SEND (R221, R254): to a port, or into the fabric at this package. -/
def execFabricSend (r : HostRec) (s : State) : Out :=
  .next (s.onMgmt r 12 fun s =>
    let bs := padTo 56 ((mgTail r).take 56)
    if (mgTail r).length < 64 then s.reply r stRejected
    else if mgIndex r == 0xFFFF then (s.storeMgmt 0xFFFF bs).reply r 0
    else if mgIndex r ≥ 48 then s.reply r stRejected
    else (s.enqueue (mgIndex r) 6 false [bs]).reply r 0)

end Sys2Proof.Machine
end

