-- ==== Sys2Proof/Machine/Floating.lean ====
section
/-! DEFINITION. Floating-point arithmetic, conversions and packed halves (R320 to R333, R338, R343). -/

namespace Sys2Proof.Machine
open Arith

/-- A two-operand floating-point word with one rounding (R320, R329). -/
def fpBinary (s : State) (f : RFmt) (g : FVal → FVal → FVal) : Out :=
  let n := pairOf f.t
  let t := f.t.toNat
  rExec s f ⟨n, n, n, 0⟩ (f.immF t) fun _ _ o =>
    fres (roundT t f.mode f.sat (g (fopnd t f.negA o.a) (fopnd t f.negB o.b)))
/-- FADD (R329). -/
def execFadd (f : RFmt) (s : State) : Out := fpBinary s f fun a b => exactSum f.mode [a, b]
/-- FSUB (R329). -/
def execFsub (f : RFmt) (s : State) : Out := fpBinary s f fun a b => exactSum f.mode [a, b.negate]
/-- FMUL (R329). -/
def execFmul (f : RFmt) (s : State) : Out := fpBinary s f fun a b => Arith.mul a b

/-- FMIN and FMAX return one operand bit for bit, or the canonical NaN (R91, R329). -/
def fpMinMax (s : State) (f : RFmt) (mx : Bool) : Out :=
  let n := pairOf f.t
  let t := f.t.toNat
  rExec s f ⟨n, n, n, 0⟩ (f.immF t) fun _ _ o =>
    fres (minMaxBits t mx (f.m == 1) (fbits t f.negA o.a) (fbits t f.negB o.b))
/-- FMIN (R329). -/
def execFmin (f : RFmt) (s : State) : Out := fpMinMax s f false
/-- FMAX (R329). -/
def execFmax (f : RFmt) (s : State) : Out := fpMinMax s f true

/-- FFMA (R96, R333). -/
def execFfma (f : RFmt) (s : State) : Out :=
  let n := pairOf f.t
  let t := f.t.toNat
  rExec s f ⟨n, n, n, n⟩ (f.immF t) fun _ _ o =>
    fres (roundT t f.mode f.sat
      (exactSum f.mode [Arith.mul (fopnd t f.negA o.a) (fopnd t f.negB o.b), fopnd t f.flag0 o.c]))

/-- Element `i` of a packed register (R84). -/
def elem (t i : Nat) (x : W64) : W64 := BitVec.ofNat 64 (x.toNat / 2 ^ (i * tBits t) % 2 ^ tBits t)
/-- A dot product of `cnt` packed elements with an F32 addend (R96). -/
def fpDot (s : State) (f : RFmt) (cnt : Nat) : Out :=
  let t := f.t.toNat
  rExec s f ⟨1, 1, 1, 1⟩ 0 fun _ _ o =>
    let prods := (List.range cnt).map fun i => Arith.mul (fopnd t f.negA (elem t i o.a)) (fopnd t f.negB (elem t i o.b))
    fres (roundT 8 f.mode f.sat (exactSum f.mode (prods ++ [fopnd 8 f.flag0 o.c])))
/-- FDOT2 (R333). -/
def execFdot2 (f : RFmt) (s : State) : Out := fpDot s f 2
/-- FDOT4 (R333). -/
def execFdot4 (f : RFmt) (s : State) : Out := fpDot s f 4

/-- FCMP (R295, R330). -/
def execFcmp (f : RFmt) (s : State) : Out :=
  let n := pairOf f.t
  let t := f.t.toNat
  pExec s f ⟨0, n, n, 0⟩ (f.immF t) (f.d.toNat % 8) fun _ _ o => cmpFloat f.m.toNat (fopnd t f.negA o.a) (fopnd t f.negB o.b)
/-- FCLASS (R331): D is a single register. -/
def execFclass (f : RFmt) (s : State) : Out :=
  let t := f.t.toNat
  rExec s f ⟨1, pairOf f.t, 0, 0⟩ 0 fun _ _ o => fres (classBit t (o.a.toNat % 2 ^ tBits t))

/-- A special function (R95, R332). -/
def fpSpecial (s : State) (f : RFmt) (g : FFmt → FVal → Nat) : Out :=
  let n := pairOf f.t
  let t := f.t.toNat
  rExec s f ⟨n, n, 0, 0⟩ 0 fun _ _ o => fres (g (fmtOf t) (fopnd t f.negA o.a))
/-- FRCP (R332). -/
def execFrcp (f : RFmt) (s : State) : Out := fpSpecial s f Arith.frcp
/-- FRSQ (R332). -/
def execFrsq (f : RFmt) (s : State) : Out := fpSpecial s f Arith.frsq
/-- FSQRT (R332). -/
def execFsqrt (f : RFmt) (s : State) : Out := fpSpecial s f Arith.fsqrt
/-- FEXP2 (R332). -/
def execFexp2 (f : RFmt) (s : State) : Out := fpSpecial s f Arith.fexp2
/-- FLOG2 (R332). -/
def execFlog2 (f : RFmt) (s : State) : Out := fpSpecial s f Arith.flog2
/-- FSIN (R332). -/
def execFsin (f : RFmt) (s : State) : Out := fpSpecial s f Arith.fsin
/-- FCOS (R332). -/
def execFcos (f : RFmt) (s : State) : Out := fpSpecial s f Arith.fcos
/-- FTANH (R332). -/
def execFtanh (f : RFmt) (s : State) : Out := fpSpecial s f Arith.ftanh

/-- Registers of a source type held in C (R324, R325, R343). -/
def pairOfCode (t : Nat) : Nat := if tBits t == 64 then 2 else 1
/-- FCVT of one value; `u` is the stream's (R324). -/
def cvtVal (f : RFmt) (a : W64) (u : Nat) : W64 := fres (roundT f.t.toNat f.mode f.sat (fopnd f.c.toNat f.negA a) u)
/-- FCVT (R93, R94, R324): under SR each element rounded draws its lane's stream. -/
def execFcvt (f : RFmt) (s : State) : Out :=
  let sh : RShape := ⟨pairOf f.t, pairOfCode f.c.toNat, 0, 0⟩
  withStrand s fun c =>
    if !f.regsOk sh (s.vlimit c.k) then c.illegal s
    else
      let one (k : Skein) (l : Nat) : Skein :=
        let (k1, u) := if f.m == 5 then k.drawStream l else (k, 0)
        k1.putD f.u sh.d f.d.toNat l (cvtVal f (c.k.opnd f.u sh.a f.a.toNat l) u)
      if f.u then (if c.acts f.g f.gn then c.done s (one c.k c.low) else c.skip s)
      else c.done s ((Mask.lanes (c.active f.g f.gn)).foldl one c.k)
/-- F2I (R93, R325). -/
def execF2i (f : RFmt) (s : State) : Out :=
  rExec s f ⟨pairOf f.t, pairOfCode f.c.toNat, 0, 0⟩ 0 fun _ _ o =>
    fitInt f.t.toNat false (toIntClamped f.t.toNat f.mode (fopnd f.c.toNat f.negA o.a))
/-- I2F (R343). -/
def execI2f (f : RFmt) (s : State) : Out :=
  rExec s f ⟨pairOf f.t, pairOfCode f.c.toNat, 0, 0⟩ 0 fun _ _ o =>
    fres (roundT f.t.toNat f.mode f.sat (FVal.ofInt (intOf f.c.toNat o.a)))

/-- Replace element `i` of width `w` in a register (R84). -/
def putElem (w i : Nat) (r : W32) (x : Nat) : W32 :=
  let m := BitVec.ofNat 32 ((2 ^ w - 1) * 2 ^ (w * i))
  (r &&& ~~~m) ||| (BitVec.ofNat 32 (x * 2 ^ (w * i)) &&& m)
/-- FPACK (R326): e0 is rounded before e1; the other elements of D are kept. -/
def execFpack (f : RFmt) (s : State) : Out :=
  let sh : RShape := ⟨1, 1, 1, 0⟩
  let t := f.t.toNat
  let w := tBits t
  let p := f.c.toNat / 16
  withStrand s fun c =>
    if !f.regsOk sh (s.vlimit c.k) then c.illegal s
    else
      let one (k : Skein) (l : Nat) : Skein :=
        let o := f.opnds sh (f.immF 8) c.k l
        let (k, u0) := if f.m == 5 then k.drawStream l else (k, 0)
        let (k, u1) := if f.m == 5 then k.drawStream l else (k, 0)
        let e0 := roundT t f.mode f.sat (fopnd 8 f.negA o.a) u0
        let e1 := roundT t f.mode f.sat (fopnd 8 f.negB o.b) u1
        k.setV f.d.toNat l (putElem w (2 * p + 1) (putElem w (2 * p) (c.k.v f.d.toNat l) e0) e1)
      c.done s ((Mask.lanes (c.active f.g f.gn)).foldl one c.k)
/-- FUNPK (R327). -/
def execFunpk (f : RFmt) (s : State) : Out :=
  let src := f.c.toNat % 16
  rExec s f ⟨1, 1, 0, 0⟩ 0 fun _ _ o => fres (roundT 8 .rne false (valueOf src (elem src (f.c.toNat / 16) o.a).toNat))
/-- FRND (R328): a zero result takes the sign of the source. -/
def roundIntegral (t : Nat) (m : Mode) (x : FVal) : Nat :=
  match x with
  | .fin neg mm e => let r := roundInt m neg mm e; roundT t .rne false (.fin neg r.natAbs 0)
  | x => roundT t .rne false x
/-- FRND (R328). -/
def execFrnd (f : RFmt) (s : State) : Out :=
  let n := pairOf f.t
  rExec s f ⟨n, n, 0, 0⟩ 0 fun _ _ o => fres (roundIntegral f.t.toNat f.mode (fopnd f.t.toNat f.negA o.a))

/-- A packed-half word (R338): an immediate stands in both elements. -/
def halfWord (s : State) (f : RFmt) (cUsed : Bool) (g : FVal → FVal → FVal → FVal) : Out :=
  let t := f.t.toNat
  let i := f.immF t
  rExec s f ⟨1, 1, 1, if cUsed then 1 else 0⟩ (i ||| (i <<< 16)) fun _ _ o =>
    let e (i : Nat) : Nat :=
      roundT t f.mode f.sat (g (fopnd t f.negA (elem t i o.a)) (fopnd t f.negB (elem t i o.b)) (fopnd t f.flag0 (elem t i o.c)))
    fres (e 0 + 2 ^ 16 * e 1)
/-- HADD2 (R338). -/
def execHadd2 (f : RFmt) (s : State) : Out := halfWord s f false fun a b _ => exactSum f.mode [a, b]
/-- HMUL2 (R338). -/
def execHmul2 (f : RFmt) (s : State) : Out := halfWord s f false fun a b _ => Arith.mul a b
/-- HFMA2 (R338). -/
def execHfma2 (f : RFmt) (s : State) : Out := halfWord s f true fun a b c => exactSum f.mode [Arith.mul a b, c]

end Sys2Proof.Machine
end

