-- ==== Sys2Proof/Machine/Integer.lean ====
section
/-! DEFINITION. Integer arithmetic: IADD to ISAD, IMUL to IMADW (R342 to R347). -/

namespace Sys2Proof.Machine
open Arith

/-- A two-operand integer word: the exact result of its operands, wrapped or clamped (R342). -/
def intBinary (s : State) (f : RFmt) (r : Int → Int → Int) : Out :=
  let n := pairOf f.t
  rExec s f ⟨n, n, n, 0⟩ f.immI fun _ _ o =>
    fitInt f.t.toNat f.sat (r (iopnd f.t.toNat f.negA o.a) (iopnd f.t.toNat f.negB o.b))
/-- A three-operand integer word. -/
def intTernary (s : State) (f : RFmt) (r : Int → Int → Int → Int) : Out :=
  let n := pairOf f.t
  rExec s f ⟨n, n, n, n⟩ f.immI fun _ _ o =>
    fitInt f.t.toNat f.sat (r (iopnd f.t.toNat f.negA o.a) (iopnd f.t.toNat f.negB o.b) (iopnd f.t.toNat f.flag0 o.c))

/-- IADD (R344). -/
def execIadd (f : RFmt) (s : State) : Out := intBinary s f fun a b => a + b
/-- ISUB (R344). -/
def execIsub (f : RFmt) (s : State) : Out := intBinary s f fun a b => a - b
/-- IMIN (R344). -/
def execImin (f : RFmt) (s : State) : Out := intBinary s f fun a b => min a b
/-- IMAX (R344). -/
def execImax (f : RFmt) (s : State) : Out := intBinary s f fun a b => max a b
/-- IABS (R344). -/
def execIabs (f : RFmt) (s : State) : Out :=
  let n := pairOf f.t
  rExec s f ⟨n, n, 0, 0⟩ 0 fun _ _ o => fitInt f.t.toNat f.sat (intOf f.t.toNat o.a).natAbs
/-- ISAD (R344): |a − b| exactly, then the addend. -/
def execIsad (f : RFmt) (s : State) : Out := intTernary s f fun a b c => (a - b).natAbs + c
/-- IMUL (R347). -/
def execImul (f : RFmt) (s : State) : Out := intBinary s f fun a b => a * b
/-- IMULH (R347). -/
def execImulh (f : RFmt) (s : State) : Out := intBinary s f fun a b => (a * b) / (2 ^ tBits f.t.toNat : Nat)
/-- IMAD (R347). -/
def execImad (f : RFmt) (s : State) : Out := intTernary s f fun a b c => a * b + c
/-- IMADW (R347): C and D are 64-bit, A and B 32-bit. -/
def execImadw (f : RFmt) (s : State) : Out :=
  let t := f.t.toNat
  let w := if tSigned t then 7 else 6
  rExec s f ⟨2, 1, 1, 2⟩ f.immI fun _ _ o =>
    fitInt w f.sat (iopnd t f.negA o.a * iopnd t f.negB o.b + iopnd w f.flag0 o.c)

/-- IADDC's operands of a lane: a, b or its complement, and the carry predicate (R345). -/
def addcSum (f : RFmt) (k : Skein) (l : Nat) (o : Opnds) : Nat :=
  let w := tBits f.t.toNat
  let b := o.b.toNat % 2 ^ w
  o.a.toNat % 2 ^ w + (if f.flag0 then 2 ^ w - 1 - b else b) + (if (k.p (f.c.toNat % 8)).getLsbD l then 1 else 0)
/-- IADDC (R345): the sum to D, the carry to the predicate of C; every lane's carry is read before any is written. -/
def execIaddc (f : RFmt) (s : State) : Out :=
  let n := pairOf f.t
  let sh : RShape := ⟨n, n, n, 0⟩
  withStrand s fun c =>
    if !f.regsOk sh (s.vlimit c.k) then c.illegal s
    else
      let act := c.active f.g f.gn
      let w := tBits f.t.toNat
      let sum (l : Nat) : Nat := addcSum f c.k l (f.opnds sh f.immI c.k l)
      let k := (Mask.lanes act).foldl (fun k l => k.setVw (n == 2) f.d.toNat l (BitVec.ofNat 64 (sum l % 2 ^ w))) c.k
      c.done s (k.setPIn (f.c.toNat % 8) act (Mask.ofLanes ((Mask.lanes act).filter fun l => carryOut w (sum l))))

end Sys2Proof.Machine
end

