-- ==== Sys2Proof/Machine/Dispatch.lean ====
section
/-! DEFINITION. Which meaning each instruction and event has: one arm per constructor, one direct call each. -/

namespace Sys2Proof.Machine

open Sys2Proof

def exec (i : Instr) (s : State) : Host.Outcome State Fault Refusal :=
  match i with
  | .blockHeader h => Sys2Proof.Machine.execBlockHeader h s
  | .bra f => Sys2Proof.Machine.execBra f s
  | .brc f => Sys2Proof.Machine.execBrc f s
  | .bru f => Sys2Proof.Machine.execBru f s
  | .brx f => Sys2Proof.Machine.execBrx f s
  | .call f => Sys2Proof.Machine.execCall f s
  | .callx f => Sys2Proof.Machine.execCallx f s
  | .ret f => Sys2Proof.Machine.execRet f s
  | .exitOp f => Sys2Proof.Machine.execExitOp f s
  | .lastExitRelease id st => Sys2Proof.Machine.execLastExitRelease id st s
  | .yield f => Sys2Proof.Machine.execYield f s
  | .nop f => Sys2Proof.Machine.execNop f s
  | .rjset f => Sys2Proof.Machine.execRjset f s
  | .rjoin f => Sys2Proof.Machine.execRjoin f s
  | .rjdrop f => Sys2Proof.Machine.execRjdrop f s
  | .svc f => Sys2Proof.Machine.execSvc f s
  | .svcPost id st => Sys2Proof.Machine.execSvcPost id st s
  | .trapOp f => Sys2Proof.Machine.execTrapOp f s
  | .bkpt f => Sys2Proof.Machine.execBkpt f s
  | .rte f => Sys2Proof.Machine.execRte f s
  | .rdsr f => Sys2Proof.Machine.execRdsr f s
  | .wrsr f => Sys2Proof.Machine.execWrsr f s
  | .iadd f => Sys2Proof.Machine.execIadd f s
  | .isub f => Sys2Proof.Machine.execIsub f s
  | .iaddc f => Sys2Proof.Machine.execIaddc f s
  | .imin f => Sys2Proof.Machine.execImin f s
  | .imax f => Sys2Proof.Machine.execImax f s
  | .iabs f => Sys2Proof.Machine.execIabs f s
  | .isad f => Sys2Proof.Machine.execIsad f s
  | .imul f => Sys2Proof.Machine.execImul f s
  | .imulh f => Sys2Proof.Machine.execImulh f s
  | .imad f => Sys2Proof.Machine.execImad f s
  | .imadw f => Sys2Proof.Machine.execImadw f s
  | .andOp f => Sys2Proof.Machine.execAnd f s
  | .orOp f => Sys2Proof.Machine.execOr f s
  | .xorOp f => Sys2Proof.Machine.execXor f s
  | .andn f => Sys2Proof.Machine.execAndn f s
  | .notOp f => Sys2Proof.Machine.execNot f s
  | .lmix f => Sys2Proof.Machine.execLmix f s
  | .shl f => Sys2Proof.Machine.execShl f s
  | .shr f => Sys2Proof.Machine.execShr f s
  | .sar f => Sys2Proof.Machine.execSar f s
  | .rot f => Sys2Proof.Machine.execRot f s
  | .fshl f => Sys2Proof.Machine.execFshl f s
  | .bfe f => Sys2Proof.Machine.execBfe f s
  | .bfi f => Sys2Proof.Machine.execBfi f s
  | .popc f => Sys2Proof.Machine.execPopc f s
  | .clz f => Sys2Proof.Machine.execClz f s
  | .brev f => Sys2Proof.Machine.execBrev f s
  | .rbyte f => Sys2Proof.Machine.execRbyte f s
  | .icmp f => Sys2Proof.Machine.execIcmp f s
  | .sel f => Sys2Proof.Machine.execSel f s
  | .mov f => Sys2Proof.Machine.execMov f s
  | .lea f => Sys2Proof.Machine.execLea f s
  | .movi f => Sys2Proof.Machine.execMovi f s
  | .plop f => Sys2Proof.Machine.execPlop f s
  | .pmov f => Sys2Proof.Machine.execPmov f s
  | .ballot f => Sys2Proof.Machine.execBallot f s
  | .vchk f => Sys2Proof.Machine.execVchk f s
  | .fadd f => Sys2Proof.Machine.execFadd f s
  | .fsub f => Sys2Proof.Machine.execFsub f s
  | .fmul f => Sys2Proof.Machine.execFmul f s
  | .fmin f => Sys2Proof.Machine.execFmin f s
  | .fmax f => Sys2Proof.Machine.execFmax f s
  | .ffma f => Sys2Proof.Machine.execFfma f s
  | .fdot2 f => Sys2Proof.Machine.execFdot2 f s
  | .fdot4 f => Sys2Proof.Machine.execFdot4 f s
  | .fcmp f => Sys2Proof.Machine.execFcmp f s
  | .fclass f => Sys2Proof.Machine.execFclass f s
  | .frcp f => Sys2Proof.Machine.execFrcp f s
  | .frsq f => Sys2Proof.Machine.execFrsq f s
  | .fsqrt f => Sys2Proof.Machine.execFsqrt f s
  | .fexp2 f => Sys2Proof.Machine.execFexp2 f s
  | .flog2 f => Sys2Proof.Machine.execFlog2 f s
  | .fsin f => Sys2Proof.Machine.execFsin f s
  | .fcos f => Sys2Proof.Machine.execFcos f s
  | .ftanh f => Sys2Proof.Machine.execFtanh f s
  | .fcvt f => Sys2Proof.Machine.execFcvt f s
  | .f2i f => Sys2Proof.Machine.execF2i f s
  | .i2f f => Sys2Proof.Machine.execI2f f s
  | .fpack f => Sys2Proof.Machine.execFpack f s
  | .funpk f => Sys2Proof.Machine.execFunpk f s
  | .frnd f => Sys2Proof.Machine.execFrnd f s
  | .hadd2 f => Sys2Proof.Machine.execHadd2 f s
  | .hmul2 f => Sys2Proof.Machine.execHmul2 f s
  | .hfma2 f => Sys2Proof.Machine.execHfma2 f s
  | .slx f => Sys2Proof.Machine.execSlx f s
  | .lred f => Sys2Proof.Machine.execLred f s
  | .lscan f => Sys2Proof.Machine.execLscan f s
  | .lcnt f => Sys2Proof.Machine.execLcnt f s
  | .ldOp f => Sys2Proof.Machine.execLdOp f s
  | .lda f => Sys2Proof.Machine.execLda f s
  | .expld f => Sys2Proof.Machine.execExpld f s
  | .prf f => Sys2Proof.Machine.execPrf f s
  | .stOp f => Sys2Proof.Machine.execStOp f s
  | .str f => Sys2Proof.Machine.execStr f s
  | .cmpst f => Sys2Proof.Machine.execCmpst f s
  | .lds f => Sys2Proof.Machine.execLds f s
  | .sts f => Sys2Proof.Machine.execSts f s
  | .atom op f => Sys2Proof.Machine.execAtom op f s
  | .atoms op f => Sys2Proof.Machine.execAtoms op f s
  | .bar f => Sys2Proof.Machine.execBar f s
  | .bararv f => Sys2Proof.Machine.execBararv f s
  | .barwt f => Sys2Proof.Machine.execBarwt f s
  | .tbinit f => Sys2Proof.Machine.execTbinit f s
  | .tbarv f => Sys2Proof.Machine.execTbarv f s
  | .tbwait f => Sys2Proof.Machine.execTbwait f s
  | .tbtest f => Sys2Proof.Machine.execTbtest f s
  | .fence f => Sys2Proof.Machine.execFence f s
  | .acq f => Sys2Proof.Machine.execAcq f s
  | .rel f => Sys2Proof.Machine.execRel f s
  | .ofence f => Sys2Proof.Machine.execOfence f s
  | .waitc f => Sys2Proof.Machine.execWaitc f s
  | .classCounterFall id c => Sys2Proof.Machine.execClassCounterFall id c s
  | .waith f => Sys2Proof.Machine.execWaith f s
  | .htest f => Sys2Proof.Machine.execHtest f s
  | .hcancel f => Sys2Proof.Machine.execHcancel f s
  | .hsave f => Sys2Proof.Machine.execHsave f s
  | .hload f => Sys2Proof.Machine.execHload f s
  | .cpy f => Sys2Proof.Machine.execCpy f s
  | .cpyt f => Sys2Proof.Machine.execCpyt f s
  | .cpyr f => Sys2Proof.Machine.execCpyr f s
  | .advst f => Sys2Proof.Machine.execAdvst f s
  | .mloop f => Sys2Proof.Machine.execMloop f s
  | .mloopl f => Sys2Proof.Machine.execMloopl f s
  | .mzero f => Sys2Proof.Machine.execMzero f s
  | .mrd f => Sys2Proof.Machine.execMrd f s
  | .mwr f => Sys2Proof.Machine.execMwr f s
  | .mtwin f => Sys2Proof.Machine.execMtwin f s
  | .gmv f => Sys2Proof.Machine.execGmv f s
  | .gmvl f => Sys2Proof.Machine.execGmvl f s
  | .pleat f => Sys2Proof.Machine.execPleat f s
  | .patld f => Sys2Proof.Machine.execPatld f s
  | .udf rest => Sys2Proof.Machine.execUdf rest s
  | .addressBreakpoint id st => Sys2Proof.Machine.execAddressBreakpoint id st s
  | .codePageVerify asid page => Sys2Proof.Machine.execCodePageVerify asid page s
  | .skeinUnpark id => Sys2Proof.Machine.execSkeinUnpark id s
  | .pageFaultResolved asid va => Sys2Proof.Machine.execPageFaultResolved asid va s
  | .pieceMigrationStart slice dfn piece alt => Sys2Proof.Machine.execPieceMigrationStart slice dfn piece alt s
  | .pieceMigrationSwing slice dfn piece => Sys2Proof.Machine.execPieceMigrationSwing slice dfn piece s
  | .discardReclaim asid page => Sys2Proof.Machine.execDiscardReclaim asid page s
  | .regMsg src dst victim => Sys2Proof.Machine.execRegMsg src dst victim s
  | .seal src dst => Sys2Proof.Machine.execSeal src dst s
  | .rdq src dst victim => Sys2Proof.Machine.execRdq src dst victim s
  | .fwd src dst => Sys2Proof.Machine.execFwd src dst s
  | .recall src dst => Sys2Proof.Machine.execRecall src dst s
  | .wb src dst => Sys2Proof.Machine.execWb src dst s
  | .race src dst => Sys2Proof.Machine.execRace src dst s
  | .regack src dst => Sys2Proof.Machine.execRegack src dst s
  | .sealack src dst => Sys2Proof.Machine.execSealack src dst s
  | .dataMsg src dst victim => Sys2Proof.Machine.execDataMsg src dst victim s
  | .gone src dst => Sys2Proof.Machine.execGone src dst s
  | .shuttleSectorLanded op => Sys2Proof.Machine.execShuttleSectorLanded op s
  | .shuttleComplete op => Sys2Proof.Machine.execShuttleComplete op s
  | .engineFaultResume op => Sys2Proof.Machine.execEngineFaultResume op s
  | .engineUnresolvableFault op => Sys2Proof.Machine.execEngineUnresolvableFault op s
  | .engineCancelStop op => Sys2Proof.Machine.execEngineCancelStop op s
  | .prefetchComplete op => Sys2Proof.Machine.execPrefetchComplete op s
  | .matrixKStep op => Sys2Proof.Machine.execMatrixKStep op s
  | .matrixOpComplete op => Sys2Proof.Machine.execMatrixOpComplete op s
  | .twinMloopStart op => Sys2Proof.Machine.execTwinMloopStart op s
  | .geyserRowGroup op => Sys2Proof.Machine.execGeyserRowGroup op s
  | .geyserComplete op => Sys2Proof.Machine.execGeyserComplete op s
  | .pleatComplete op => Sys2Proof.Machine.execPleatComplete op s
  | .pleatTimeout op => Sys2Proof.Machine.execPleatTimeout op s
  | .placementStep die => Sys2Proof.Machine.execPlacementStep die s
  | .placementReservation die => Sys2Proof.Machine.execPlacementReservation die s
  | .reservationPreempt die => Sys2Proof.Machine.execReservationPreempt die s
  | .preemptionSaveComplete group => Sys2Proof.Machine.execPreemptionSaveComplete group s
  | .groupEnd group => Sys2Proof.Machine.execGroupEnd group s
  | .copyScheduleRead launch => Sys2Proof.Machine.execCopyScheduleRead launch s
  | .copyEntryUnresolvableFault op => Sys2Proof.Machine.execCopyEntryUnresolvableFault op s
  | .governorWindow core gated => Sys2Proof.Machine.execGovernorWindow core gated s
  | .dieTemperatureThrottle die sensor milliC => Sys2Proof.Machine.execDieTemperatureThrottle die sensor milliC s
  | .dieTemperatureShutdown die sensor milliC => Sys2Proof.Machine.execDieTemperatureShutdown die sensor milliC s
  | .dramStackTemperature slice milliC => Sys2Proof.Machine.execDramStackTemperature slice milliC s
  | .droopEvent die monitor reading => Sys2Proof.Machine.execDroopEvent die monitor reading s
  | .masterFreeze m va => Sys2Proof.Machine.execMasterFreeze m va s
  | .jobOpen r => Sys2Proof.Machine.execJobOpen r s
  | .jobClose r => Sys2Proof.Machine.execJobClose r s
  | .phaseOpen r => Sys2Proof.Machine.execPhaseOpen r s
  | .phaseClose r => Sys2Proof.Machine.execPhaseClose r s
  | .graphOpen r => Sys2Proof.Machine.execGraphOpen r s
  | .graphClose r => Sys2Proof.Machine.execGraphClose r s
  | .launch r => Sys2Proof.Machine.execLaunch r s
  | .cancel r => Sys2Proof.Machine.execCancel r s
  | .mapPages r => Sys2Proof.Machine.execMapPages r s
  | .mapUnmap r => Sys2Proof.Machine.execMapUnmap r s
  | .mapRegisterObject r => Sys2Proof.Machine.execMapRegisterObject r s
  | .storageReply r => Sys2Proof.Machine.execStorageReply r s
  | .sensorRead r => Sys2Proof.Machine.execSensorRead r s
  | .thresholdSet r => Sys2Proof.Machine.execThresholdSet r s
  | .dieDrain r => Sys2Proof.Machine.execDieDrain r s
  | .debuggerStop r => Sys2Proof.Machine.execDebuggerStop r s
  | .singleStep r => Sys2Proof.Machine.execSingleStep r s
  | .resume r => Sys2Proof.Machine.execResume r s
  | .raceLogRead r => Sys2Proof.Machine.execRaceLogRead r s
  | .masterRelease r => Sys2Proof.Machine.execMasterRelease r s
  | .codeKeyEnrol r => Sys2Proof.Machine.execCodeKeyEnrol r s
  | .weightVolumeCreate r => Sys2Proof.Machine.execWeightVolumeCreate r s
  | .weightVolumeDelete r => Sys2Proof.Machine.execWeightVolumeDelete r s
  | .fabricSend r => Sys2Proof.Machine.execFabricSend r s
  | .debuggerDetach r => Sys2Proof.Machine.execDebuggerDetach r s
  | .attest r => Sys2Proof.Machine.execAttest r s
  | .image r => Sys2Proof.Machine.execImage r s
  | .virtioBlkWrite vol offset data => Sys2Proof.Machine.execVirtioBlkWrite vol offset data s
  | .virtioBlkRead vol offset bytes => Sys2Proof.Machine.execVirtioBlkRead vol offset bytes s
  | .virtioBlkFlush vol => Sys2Proof.Machine.execVirtioBlkFlush vol s
  | .featuresOk device features => Sys2Proof.Machine.execFeaturesOk device features s
  | .registerWrite r v => Sys2Proof.Machine.execRegisterWrite r v s
  | .svcPageIn id => Sys2Proof.Machine.execSvcPageIn id s
  | .svcCancel id => Sys2Proof.Machine.execSvcCancel id s
  | .svcLaunch id => Sys2Proof.Machine.execSvcLaunch id s
  | .svcRegion id => Sys2Proof.Machine.execSvcRegion id s
  | .svcStorage id => Sys2Proof.Machine.execSvcStorage id s
  | .svcDiscard id => Sys2Proof.Machine.execSvcDiscard id s
  | .svcClockQuery id => Sys2Proof.Machine.execSvcClockQuery id s
  | .svcReplyRespawn id => Sys2Proof.Machine.execSvcReplyRespawn id s
  | .vectorRead spkg => Sys2Proof.Machine.execVectorRead spkg s
  | .vectorWrite spkg => Sys2Proof.Machine.execVectorWrite spkg s
  | .vectorAtomic spkg => Sys2Proof.Machine.execVectorAtomic spkg s
  | .reply spkg => Sys2Proof.Machine.execReply spkg s
  | .nack spkg => Sys2Proof.Machine.execNack spkg s
  | .bulkCopyData spkg => Sys2Proof.Machine.execBulkCopyData spkg s
  | .pleatReady spkg => Sys2Proof.Machine.execPleatReady spkg s
  | .pleatData spkg => Sys2Proof.Machine.execPleatData spkg s
  | .pleatAbort spkg => Sys2Proof.Machine.execPleatAbort spkg s
  | .endToEndAck spkg => Sys2Proof.Machine.execEndToEndAck spkg s
  | .assign port => Sys2Proof.Machine.execAssign port s
  | .route port => Sys2Proof.Machine.execRoute port s
  | .query port => Sys2Proof.Machine.execQuery port s
  | .thresh port => Sys2Proof.Machine.execThresh port s
  | .retrain port => Sys2Proof.Machine.execRetrain port s
  | .flitReceive port flit => Sys2Proof.Machine.execFlitReceive port flit s
  | .linkAck port ack => Sys2Proof.Machine.execLinkAck port ack s
  | .linkNak port seq => Sys2Proof.Machine.execLinkNak port seq s
  | .creditUpdate port vc credits => Sys2Proof.Machine.execCreditUpdate port vc credits s
  | .linkRetrainComplete port width => Sys2Proof.Machine.execLinkRetrainComplete port width s
  | .laneErrorThreshold port lane => Sys2Proof.Machine.execLaneErrorThreshold port lane s
  | .groupRestoreComplete group => Sys2Proof.Machine.execGroupRestoreComplete group s
  | .throttleRecovery die milliC watts => Sys2Proof.Machine.execThrottleRecovery die milliC watts s
  | .linkUp port width => Sys2Proof.Machine.execLinkUp port width s
  | .retiredB5Operation w => Sys2Proof.Machine.execRetiredB5Operation w s
  | .illegalInstructionWord w => Sys2Proof.Machine.execIllegalInstructionWord w s
  | .yieldDelayEnd => Sys2Proof.Machine.execYieldDelayEnd s
  | .pleatHeldMessageTimeout => Sys2Proof.Machine.execPleatHeldMessageTimeout s
  | .heldSubmissionAccept => Sys2Proof.Machine.execHeldSubmissionAccept s
  | .throttleClockStep => Sys2Proof.Machine.execThrottleClockStep s
  | .packagePowerThreshold => Sys2Proof.Machine.execPackagePowerThreshold s
  | .powerOnReset => Sys2Proof.Machine.execPowerOnReset s
  | .consoleInput => Sys2Proof.Machine.execConsoleInput s
  | .endToEndAckSend => Sys2Proof.Machine.execEndToEndAckSend s
  | .packetRetransmitTimeout => Sys2Proof.Machine.execPacketRetransmitTimeout s
  | .remoteTimeout => Sys2Proof.Machine.execRemoteTimeout s
  | .targetHoldTimeout => Sys2Proof.Machine.execTargetHoldTimeout s
  | .mgmtPacketForward => Sys2Proof.Machine.execMgmtPacketForward s

end Sys2Proof.Machine
end

