-- ==== Sys2Proof/Machine/Sources.lean ====
section
/-! DEFINITION. The registers that an instruction word reads and writes: the scoreboard (R52), and on-chip errors in registers (R174). -/

namespace Sys2Proof.Machine

/-- Registers a word reads (vector, uniform, predicate, rejoin) and those it writes. Vector registers are read and written in the
lanes of Active(); the guard stands apart. -/
structure RegUse where
  v : List Nat := []
  s : List Nat := []
  p : List Nat := []
  rj : List Nat := []
  wv : List Nat := []
  ws : List Nat := []
  wp : List Nat := []
  wrj : List Nat := []
  deriving DecidableEq, Repr

/-- `n` registers from `r` on. -/
def span (r n : Nat) : List Nat := (List.range n).map (r + ·)
/-- A word of format R whose fields name so many registers (R83, R266, R270). -/
def useR (f : RFmt) (d a b c : Nat) : RegUse :=
  let one (n r : Nat) : List Nat := if n == 0 then [] else [r]
  if f.u then
    { s := one a f.a.toNat ++ (if f.bk == 2 then [] else one b f.b.toNat) ++ one c f.c.toNat, ws := one d f.d.toNat }
  else
    { v := span f.a.toNat a ++ (if f.bk == 0 then span f.b.toNat b else []) ++ span f.c.toNat c
      s := if f.bk == 1 then one b f.b.toNat else [], wv := span f.d.toNat d }
/-- Predicates read, or written, besides. -/
def RegUse.reads (u : RegUse) (ps : List Nat) : RegUse := { u with p := ps }
def RegUse.sets (u : RegUse) (ps : List Nat) : RegUse := { u with wp := ps }
/-- A result to an s-register in place of D. -/
def RegUse.toS (u : RegUse) (on : Bool) (d : Nat) : RegUse := if on then { u with wv := [], ws := [d] } else u
/-- The address of a word of format M (R274). -/
def useAddr (f : MFmt) : RegUse :=
  let base := if f.am == 3 then [] else [f.sb.toNat]
  if f.u then { s := f.a.toNat :: base } else { v := span f.a.toNat (if f.am == 3 then 2 else 1), s := base }
/-- A load and a store (R275); `f` of EXPLD and CMPST names no A. -/
def useLoad (f : MFmt) (u : RegUse) : RegUse :=
  if f.u then { u with ws := [f.d.toNat] } else { u with wv := span f.d.toNat (szRegs (szBytes f.sz)) }
def useStore (f : MFmt) (u : RegUse) : RegUse :=
  if f.u then { u with s := f.d.toNat :: u.s } else { u with v := span f.d.toNat (szRegs (szBytes f.sz)) ++ u.v }
/-- ATOM and ATOMS (R302): v and, for `.cas`, c lie behind the address. -/
def useAtom (op : BitVec 4) (f : MFmt) : RegUse :=
  let u := useAddr f
  let n := szRegs (szBytes f.sz)
  let u := { u with v := u.v ++ span (f.a.toNat + 2) n ++ if op == 9 then span (f.a.toNat + 2 + n) n else [] }
  if f.ch == 0 then { u with wv := span f.d.toNat n } else u
/-- An indirect target (R310). -/
def useTarget (f : CFmt) : RegUse :=
  let r := f.imm.toNat % 512
  if f.imm.getLsbD 9 then { v := span r 2 } else { s := [r] }

/-- The registers of a word. -/
def regUse (i : Instr) : RegUse :=
  let n (f : RFmt) : Nat := pairOf f.t
  let src (f : RFmt) : Nat := pairOfCode f.c.toNat
  match i with
  | .bru f | .ret f => { s := [f.sx.toNat] }
  | .brx f => useTarget f
  | .call f => { ws := [f.sx.toNat] }
  | .callx f => { useTarget f with ws := [f.sx.toNat] }
  | .rjset f => { s := if f.imm == 1 then [] else [f.sx.toNat], wrj := [f.rj.toNat] }
  | .rjoin f | .rjdrop f => { rj := [f.rj.toNat] }
  | .svc _ => { s := [2, 3, 4, 5] }
  | .rdsr f => useR f (srRegs f.a.toNat) 0 0 0
  | .wrsr f => useR f 0 0 1 0
  | .iadd f | .isub f | .imin f | .imax f | .imul f | .imulh f | .andOp f | .orOp f | .xorOp f | .andn f | .bfe f
  | .fadd f | .fsub f | .fmul f | .fmin f | .fmax f => useR f (n f) (n f) (n f) 0
  | .iaddc f => ((useR f (n f) (n f) (n f) 0).reads [f.c.toNat % 8]).sets [f.c.toNat % 8]
  | .iabs f | .notOp f | .brev f | .frcp f | .frsq f | .fsqrt f | .fexp2 f | .flog2 f | .fsin f | .fcos f | .ftanh f | .frnd f =>
    useR f (n f) (n f) 0 0
  | .isad f | .imad f | .bfi f | .ffma f => useR f (n f) (n f) (n f) (n f)
  | .imadw f => useR f 2 1 1 2
  | .lmix f | .rbyte f | .fdot2 f | .fdot4 f | .hfma2 f => useR f 1 1 1 1
  | .hadd2 f | .hmul2 f | .slx f => useR f 1 1 1 0
  | .shl f | .shr f | .sar f | .rot f => useR f (n f) (n f) 1 0
  | .fshl f => useR f (n f) (n f) 1 (n f)
  | .popc f | .clz f | .fclass f => useR f 1 (n f) 0 0
  | .icmp f | .fcmp f => (useR f 0 (n f) (n f) 0).sets [f.d.toNat % 8]
  | .sel f => (useR f (n f) (n f) (n f) 0).reads [f.c.toNat % 8]
  | .mov f => useR f (n f) 0 (n f) 0
  | .lea f => useR f 2 2 (n f) 0
  | .movi f => if f.u then { ws := [f.d.toNat] } else { wv := span f.d.toNat (pairOf f.t) }
  | .plop f => { p := [f.a.toNat, f.b.toNat, f.c.toNat], wp := [f.d.toNat % 8] }
  | .pmov f =>
    if f.flag0 then { v := [f.a.toNat], wp := (List.range 7).filter fun j => f.c.getLsbD j } else (useR f 1 0 0 0).reads (List.range 7)
  | .ballot f => (useR f 1 0 0 0).reads [f.a.toNat % 8]
  | .vchk f => if f.u then { p := [f.a.toNat % 8], ws := [f.d.toNat] } else { p := [f.a.toNat % 8], wp := [f.d.toNat % 8] }
  | .fcvt f | .f2i f | .i2f f => useR f (n f) (src f) 0 0
  | .fpack f => let u := useR f 1 1 1 0; { u with v := f.d.toNat :: u.v }
  | .funpk f => useR f 1 1 0 0
  | .lred f => (useR f (n f) (n f) 0 0).toS f.flag0 f.d.toNat
  | .lscan f => useR f (n f) (n f) 0 0
  | .lcnt f => ((useR f (n f) 0 0 0).toS f.flag0 f.d.toNat).reads [f.a.toNat % 8]
  | .ldOp f | .lda f | .lds f => useLoad f (useAddr f)
  | .expld f => useLoad f { s := [f.sb.toNat] }
  | .prf f => useAddr f
  | .stOp f | .str f | .sts f => useStore f (useAddr f)
  | .cmpst f => useStore f { s := [f.sb.toNat] }
  | .atom op f | .atoms op f => useAtom op f
  | .bar f | .tbinit f => { s := [f.sa.toNat] }
  | .bararv f | .tbtest f => { s := [f.sa.toNat], ws := [f.d.toNat] }
  | .barwt f | .tbarv f | .tbwait f => { s := [f.sa.toNat, f.d.toNat] }
  | .hsave f | .hload f => { s := [f.sa.toNat] }
  | .htest f => { ws := [f.d.toNat] }
  | .cpyt f | .cpyr f | .mloop f | .mloopl f | .gmv f | .gmvl f => { s := [f.sd.toNat, f.sx.toNat, f.sy.toNat] }
  | .cpy f | .patld f => { s := [f.sd.toNat] }
  | .mrd f | .mwr f => { s := [f.sx.toNat, f.sy.toNat] }
  | .advst f | .pleat f => { s := [f.sx.toNat] }
  | _ => {}

/-- Lanes in which a word reads vector register `r`: Active(), for SLX's A the lanes it takes values from (R381). -/
def Ctx.readLanes (c : Ctx) (s : State) (i : Instr) (act : Mask) (r : Nat) : Mask :=
  match i with
  | .slx f =>
    if r == f.a.toNat then
      Mask.ofLanes ((Mask.lanes act).map fun l =>
        (slxSource (s.h16 c.k) f.m.toNat l (f.opnds ⟨1, 1, 1, 0⟩ f.immI c.k l).b).getD l) ||| (if f.bk == 0 && r == f.b.toNat then act else 0)
    else act
  | _ => act
/-- Does an instruction evaluate its guard in the lowest lane only and act once (R265)? -/
def actsOnce : Instr → Bool
  | .rdsr f | .wrsr f | .iadd f | .isub f | .iaddc f | .imin f | .imax f | .iabs f | .isad f | .imul f | .imulh f | .imad f
  | .imadw f | .andOp f | .orOp f | .xorOp f | .andn f | .notOp f | .lmix f | .shl f | .shr f | .sar f | .rot f | .fshl f
  | .bfe f | .bfi f | .popc f | .clz f | .brev f | .rbyte f | .icmp f | .sel f | .mov f | .lea f | .plop f | .pmov f | .ballot f
  | .vchk f | .fadd f | .fsub f | .fmul f | .fmin f | .fmax f | .ffma f | .fdot2 f | .fdot4 f | .fcmp f | .fclass f | .frcp f
  | .frsq f | .fsqrt f | .fexp2 f | .flog2 f | .fsin f | .fcos f | .ftanh f | .fcvt f | .f2i f | .i2f f | .fpack f | .funpk f
  | .frnd f | .hadd2 f | .hmul2 f | .hfma2 f | .slx f | .lred f | .lscan f | .lcnt f => f.u
  | .movi f => f.u
  | .ldOp f | .lda f | .expld f | .prf f | .stOp f | .str f | .cmpst f | .lds f | .sts f | .atom _ f | .atoms _ f => f.u
  | .bar _ | .bararv _ | .barwt _ | .tbinit _ | .tbarv _ | .tbwait _ | .tbtest _ | .waitc _ | .waith _ | .htest _ | .hcancel _ | .hsave _
  | .hload _ => true
  | .cpy _ | .cpyt _ | .cpyr _ | .advst _ | .mloop _ | .mloopl _ | .mzero _ | .mrd _ | .mwr _ | .mtwin _ | .gmv _ | .gmvl _ | .pleat _
  | .patld _ => true
  | _ => false
/-- The lanes in which a word acts: Active(), of a form that acts once the lowest lane (R265). -/
def Ctx.actsIn (c : Ctx) (i : Instr) : Mask :=
  let g := fld c.iw 51 3
  let gn := flag c.iw 50
  if actsOnce i then (if c.acts g gn then Mask.lane c.low else 0) else c.active g gn

/-! ## The scoreboard (R52) -/

/-- Will a load in flight write a vector register, or an s-register, that a word of these uses reads in its strand's lanes? -/
def MemOp.feeds (o : MemOp) (u : RegUse) (mask : Mask) : Bool :=
  o.isLoad && o.lanes.any fun a =>
    if o.uniform then u.s.contains a.reg && !o.dead.contains a.reg
    else mask.getLsbD a.lane && (List.range ((o.size + 3) / 4)).any fun i =>
      u.v.contains (a.reg + i) && !o.dead.contains (32 * (a.reg + i) + a.lane)
/-- Does the scoreboard hold the word of a strand back (R52): is a source of it pending? An s-register that any strand's load will write is
pending. -/
def State.scoreboarded (s : State) (id : SkId) (st : Nat) (x : Strand) (i : Instr) : Bool :=
  s.memops.any fun o => o.sk == id && (o.uniform || o.strands.contains st) && o.feeds (regUse i) x.mask
/-- The lanes that the word of a strand, issued as `x`, has been performed for by now. -/
def Strand.performed (x : Strand) (act : Mask) (now : Option Strand) : Mask :=
  match now with
  | none => 0
  | some y =>
    if y.pc != x.pc then act
    else match y.replay with
      | some (true, m) => Mask.diff act m
      | _ => if y.begun then act else 0
/-- A load in flight of the strand does not write what a later word has written (R52). -/
def State.overwrite (s : State) (sk : SkId) (st : Nat) (older : List Nat) (u : RegUse) (lanes : Mask) : State :=
  if lanes == 0 || older.isEmpty then s
  else { s with memops := s.memops.map fun (o : MemOp) =>
    if o.sk == sk && older.contains o.id && o.strands.contains st then
      { o with dead := o.dead ++ if o.uniform then u.ws else u.wv.flatMap fun r => (Mask.lanes lanes).map (32 * r + ·) }
    else o }

/-! ## Errors in registers (R174) -/

/-- Does a word read a register that holds an uncorrectable error (R174)? -/
def Ctx.readsSoft (c : Ctx) (s : State) (i : Instr) : Bool :=
  let u := regUse i
  let act := c.actsIn i
  c.k.soft.any fun r => match r with
    | .v key => u.v.contains (key / 32) && (c.readLanes s i act (key / 32)).getLsbD (key % 32)
    | .s x => act != 0 && x != 0 && u.s.contains x
    | .p x => (!isHeader c.iw && (fld c.iw 51 3).toNat == x) || (act != 0 && u.p.contains x)
    | .rj x => act != 0 && u.rj.contains x
/-- Does the word take a trap of checks 3 to 8 of R294, which come before an error in a register (R298)? It is run apart, its trap held. -/
def Ctx.refused (c : Ctx) (s : State) (i : Instr) : Bool :=
  let k := { c.k with trap := none, pendTraps := [], paired := some ⟨c.k.vregs, false⟩ }
  match exec i (s.setSkein c.id k) with
  | .next t => (t.skein? c.id).any fun k => k.pendTraps.any fun p => p.1.strand == c.st && [0x01, 0x02, 0x14].contains p.1.cause
  | _ => false
/-- A register written holds good check bits again. -/
def Skein.cleanRegs (k : Skein) (u : RegUse) (act : Mask) : Skein :=
  { k with soft := k.soft.filter fun r => !(act != 0 && match r with
      | .v key => u.wv.contains (key / 32) && act.getLsbD (key % 32)
      | .s x => u.ws.contains x
      | .p x => u.wp.contains x && act == 0xFFFFFFFF
      | .rj x => u.wrj.contains x) }
/-- What a word that has not trapped leaves of the loads in flight and the errors in registers: no load of its strand issued before it
writes what it has written, and that holds good check bits. -/
def Ctx.wrote (c : Ctx) (s : State) (i : Instr) (t : State) : State :=
  match t.skein? c.id with
  | none => t
  | some k =>
    if k.trap != c.k.trap || k.pendTraps != c.k.pendTraps then t
    else
      let u := regUse i
      let act := c.x.performed (match i with | .call _ | .callx _ => c.x.mask | _ => c.actsIn i) (k.strand? c.st)
      let t := t.overwrite c.id c.st (s.memops.map (·.id)) u act
      if c.k.soft.isEmpty || act == 0 then t else t.modSkein c.id (·.cleanRegs u act)
/-- A word's own meaning, or trap 0x07 where a register it reads holds an error (R174): no lane of it is performed. -/
def Ctx.run (c : Ctx) (s : State) (i : Instr) : Out :=
  if !c.k.soft.isEmpty && c.readsSoft s i && !c.refused s i then c.trap s 0x07 (c.active (fld c.iw 51 3) (flag c.iw 50))
  else match exec i s with
    | .next t => .next (c.wrote s i t)
    | r => r

end Sys2Proof.Machine
end

