-- ==== Sys2Proof/Machine/Issue.lean ====
section
/-! DEFINITION. Issuing a strand's next word: which strands may issue, the traps taken before a word, safe points, fetch, the count,
single-stepping (R30, R52 to R54, R58, R59, R61, R68, R80, R81, R130, R163 to R165, R173, R176, R235, R247, R248, R294). -/

namespace Sys2Proof.Machine

/-! ## Strands that may issue -/

/-- Does a skein issue for a strand at all now (R52, R54, R60, R80, R243, R260)? A word that has issued completes (R80, R235). -/
def State.skeinIssues (s : State) (id : SkId) (k : Skein) (st : Nat) : Bool :=
  k.park.isNone && !k.yielded && !(s.core id.core).frozen
    && ((k.strand? st).any (·.issued) || (k.svcWait.isNone && (!k.stopped || k.stepping == some (st, false))))
    && match s.group? k.group with
      | some g => g.st == .running || g.st == .stopping
      | none => false
/-- Is a strand's group stopping it at safe points (R30, R61)? -/
def State.stopsAtSafe (s : State) (k : Skein) : Bool :=
  match s.group? k.group with
  | some g => g.cancelled || g.st == .stopping
  | none => false
/-- May a strand of such a skein issue, apart from what its next word needs (R237)? -/
def State.strandIssues (s : State) (id : SkId) (k : Skein) (st : Nat) (x : Strand) : Bool :=
  (x.issued || k.trap.all (·.strand == st)) && !(x.atSafe && s.stopsAtSafe k) && s.waitOver id k x

/-- Does a strand's next word have to wait: for a register of a load in flight (R52), for its class counter (R176), or for the race
reports of an access that holds it (R130)? A word that is counted under a name goes on. -/
def State.wordHeld (s : State) (id : SkId) (k : Skein) (st : Nat) (x : Strand) (i : Instr) : Bool :=
  (x.wait == .none && (s.scoreboarded id st x i || s.memops.any fun o => o.sk == id && o.onRace && o.strands.contains st))
    || (x.part.isNone && match memClass i with | some c => k.cnt c ≥ 63 | none => false)

/-! ## Single-stepping (R81) -/

def Skein.stepsTo (k : Skein) (st : Nat) : Bool := k.stepping == some (st, false)
/-- The step is over: the debugger is told. -/
def State.endStep (s : State) (id : SkId) (waiting : Bool) : State :=
  (s.modSkein id fun k => { k with stepping := none }).tellDebugger id waiting
/-- After a strand that is stepped has had its turn: has its word issued, or not yet? -/
def State.afterStep (s : State) (id : SkId) (st : Nat) : State :=
  match s.skein? id with
  | none => s.tellDebugger id
  | some k =>
    match k.stepsTo st, k.strand? st with
    | false, _ => s
    | true, none => s.endStep id false
    | true, some x =>
      let notReady := !x.begun && (match x.wait with | .memops [] 1 => true | _ => false)
      if notReady || x.lastIssue != s.clock then s else s.modSkein id fun k => { k with stepping := some (st, true) }
/-- Has the word just issued trapped: does its strand stand at the trap vector, or its trap pend? -/
def Skein.justTrapped (k : Skein) (st : Nat) : Bool :=
  (k.trap.any fun t => t.strand != st || t.vecHdr.isNone) || k.pendTraps.any fun p => p.1.strand == st
/-- The end of a step whose word has issued (R81, R249): trap 0x0F once the word has completed with every access that it made, in trap mode
too, where the debugger is told (R80); nothing more where the strand waits, has trapped or is gone. -/
def State.endStepOf (s : State) (id : SkId) (k : Skein) : State :=
  match k.stepping with
  | some (st, true) => match k.strand? st with
    | none => s.endStep id false
    | some x =>
      if x.issued || k.park.isSome then s
      else if k.justTrapped st then s.endStep id false
      else if x.wait != .none then s.endStep id true
      else if (s.unperformed id st).isEmpty then s.takeTrap id ⟨0x0F, x.pc, 0, 0, 0, true, st⟩ 0 else s
  | _ => s
def State.endSteps (s : State) : State :=
  if s.skeins.all fun ((_, k) : SkId × Skein) => k.stepping.isNone then s
  else s.skeins.foldl (fun (s : State) ((id, k) : SkId × Skein) => s.endStepOf id k) s

/-! ## The word -/

def isSHeader : Instr → Bool
  | .blockHeader h => h.s
  | _ => false

/-- Does a strand stop at its S headers now (R30, R61)? A handler does where no other strand of its skein has still to run. -/
def Skein.stopsHere (k : Skein) (st : Nat) : Bool :=
  k.trap.isNone || k.live.all fun (i, y) => i == st || y.atSafe || match y.wait with | .rjoin _ | .join => true | _ => false
/-- A word that has been fetched: a safe point, a trap of checks 1 and 2 of R294, or the word's own meaning (R174). -/
def State.issueWord (s : State) (id : SkId) (st : Nat) (k : Skein) (x : Strand) (w : W64) : Out :=
  let i := decode w
  let c : Ctx := ⟨id, st, k, x, w⟩
  if isSHeader i && x.atHeader && !x.again && k.stopsHere st && s.stopsAtSafe k then
    .next ((s.modStrand id st fun x => { x with atSafe := true }).discardIfSafe id)
  else if s.wordHeld id k st x i then .next s
  else if !x.again && x.count ≥ 4096 && !isSHeader i then
    if (s.unperformed id st).isEmpty then (if isHeader w then c.trap s 0x0C x.mask else c.illegal s 0x0C) else .next s
  else if x.atHeader && !isHeader w then
    if (s.unperformed id st).isEmpty then c.trap (s.noteBadEntry id k) 0x03 (x.mask &&& k.guard (fld w 51 3) (flag w 50)) x.pc else .next s
  else
    let s := s.modStrand id st fun x => { x with lastIssue := s.clock, count := if x.again then x.count else x.count + 1 }
    c.run { s with cur := some ⟨id, st, w, x.again⟩ } i

/-- Firmware runs for a strand in trap mode. -/
def State.runFirmware (s : State) (id : SkId) (st : Nat) (x : Strand) (dflt : Bool) : State :=
  let s := s.modStrand id st fun x => { x with lastIssue := s.clock }
  match s.skein? id with
  | none => s
  | some k => match k.trap with
    | some t => s.firmware id st k x t dflt
    | none => s
/-- Fetch the strand's next word and issue it. A fetch fault parks the skein with nothing issued. -/
def State.fetchIssue (s : State) (id : SkId) (st : Nat) (k : Skein) (x : Strand) : Out :=
  let j := s.jobOf k
  match s.fetchWord j (dieOf id.core) x.pc with
  | (s, .word w) => s.issueWord id st k x w
  | (s, .park) =>
    .next ((s.reportFault j.asid x.pc.toNat).modSkein id fun k => { k with park := some (st, .fault [x.pc]) })
  | (s, .bad cause) =>
    -- a handler of the program has branched to the firmware library (R240)
    if k.trap.isSome && x.pc == Config.libVa then .next (s.runFirmware id st x false)
    else if (s.unperformed id st).isEmpty then .next ((if cause == 0x06 then s.logFault id k .fetch x.pc.toNat else s).takeTrap id ⟨cause, x.pc, x.mask, x.pc, 0, false, st⟩ 0)
      else .next s
  | (s, .failed) => .next (s.fetchFailed id st)
  | (s, .unverified) => .next (s.verifyPage j.asid (x.pc.toNat / 65536))

/-- The issue of a strand that R52 lets issue: an error that is trapped first, firmware, or its next word. -/
def State.issueReady (s : State) (id : SkId) (st : Nat) (k : Skein) (x : Strand) : Out :=
  match k.errFor st x with
  | some e => if (s.unperformed id st).isEmpty then .next (s.takeErr id st k x e) else .next s
  | none =>
    if k.trap.any fun t => t.strand == st && s.atDefaultVector k x t then .next (s.runFirmware id st x true)
    else match k.stepsTo st, s.fetchIssue id st k x with
      | true, .next s' => .next (s'.afterStep id st)
      | _, r => r

/-- What the issue of a strand does: nothing where it is not ready, a trap held pending, or its next word. -/
def State.issue (s : State) (id : SkId) (st : Nat) : Out :=
  match s.skein? id with
  | none => .next s
  | some k =>
    match k.strand? st with
    | none => .next s
    | some x =>
      if !s.skeinIssues id k st then .next s
      else match k.trap, k.svcWait, k.pendTraps with
        | none, none, (t, bs) :: r =>
          let s := s.enterPending id k t bs r
          -- a step of another strand ends with it
          .next (if k.stepping.any (·.1 != t.strand) then s.endStep id false else s)
        | _, _, _ => if !s.strandIssues id k st x then .next s else s.issueReady id st k x

/-! ## Two strands of one skein in one cycle (R52, R73, R87) -/

/-- Does a strand's next word apply after one of another kind in its cycle: a WRSR, before which the others find the old value (R87), or
an EXIT (R73, R322)? And may it issue beside a trap: an SVC does not (R243)? -/
def State.pairWord (s : State) (id : SkId) (k : Skein) (x : Strand) : Bool × Bool :=
  match (s.peekCode id k x.pc).map decode with
  | some (.wrsr _) | some (.exitOp _) => (true, false)
  | some (.svc _) => (false, true)
  | _ => (false, false)
/-- The cycle of two words is over: a lost reconvergence stands (R87), of two traps that of the lower ID is entered and the other pends
(R235), and completions and lost reconvergence follow (R73). -/
def State.endPair (s : State) (id : SkId) : State :=
  match s.skein? id with
  | none => s
  | some k =>
    let ts := [0, 1, 2, 3].flatMap fun i => k.pendTraps.filter fun p => p.1.strand == i
    let k := { k with paired := none, joinLost := k.joinLost || k.paired.any (·.lost), pendTraps := ts }
    let s := s.setSkein id k
    let s := match ts with
      | (t, bs) :: r => if k.svcWait.isNone && k.park.isNone && !k.stopped then s.enterPending id k t bs r else s
      | [] => s
    s.settle id
/-- The words of strands `a` and `b`, both ready, apply in ascending ID, a WRSR and an EXIT after a word of another kind. Where the first
parks the skein, the second does not issue. -/
def State.issuePair (s : State) (id : SkId) (a b : Nat) : Out :=
  match s.skein? id with
  | none => .next s
  | some k => match k.strand? a, k.strand? b with
    | some x, some y =>
      if b ≤ a || !k.pendTraps.isEmpty || k.trap.isSome || k.stopped || !s.skeinIssues id k a || !s.strandIssues id k a x
          || !s.skeinIssues id k b || !s.strandIssues id k b y then .next s
      else
        let swap := (s.pairWord id k x).1 && !(s.pairWord id k y).1
        let first := if swap then (b, y) else (a, x)
        let second := if swap then (a, x) else (b, y)
        let k := { k with paired := some ⟨k.vregs, false⟩ }
        match (s.setSkein id k).issueReady id first.1 k first.2 with
        | .next s =>
          let r : Out := match s.skein? id with
            | some k' =>
              if k'.park.isNone && k'.strand? second.1 == some second.2 && (k'.pendTraps.isEmpty || !(s.pairWord id k' second.2).2) then
                s.issueReady id second.1 k' second.2
              else .next s
            | none => .next s
          match r with
          | .next s => .next (s.endPair id)
          | r => r
        | r => r
    | _, _ => .next s

end Sys2Proof.Machine
end

