-- ==== Sys2Proof/Machine/Misuse.lean ====
section
/-! DEFINITION. What a program's writes before the matching wait do to the results of an engine operation that is done (R149, log 100):
each result element that depends on a source byte, or an operand register, written since the issue is an undefined value. -/

namespace Sys2Proof.Machine

/-- Elements of a tile become undefined values. -/
def State.spoilTile (s : State) (g : Group) (core tile : Nat) (bad : Nat → Nat → Bool) : State :=
  let vs := (List.range 128).flatMap fun i => (List.range 128).map fun j =>
    if bad i j then (Config.freeW64 (s.freeCtr + 128 * i + j)).truncate 32 else s.tileElem g core tile i j
  { s with tiles := Sparse.putBlock 0 s.tiles (tileKey g core tile) vs, freeCtr := s.freeCtr + 16384 }
/-- Rows of the tile with a written byte in A or its scales, and columns with one in B or its scales, over all steps (R202). `o` is the
operation, `p` the one whose engine fetched B. -/
def State.matBad (s : State) (o p : EngOp) (g : Group) (d : MatDesc) : List Nat × List Nat :=
  let steps := List.range d.steps
  let as := steps.map fun (t : Nat) => (s.aRows o g o.core d t, s.scales o g o.core d d.saOff d.saInc t)
  let bs := steps.map fun (t : Nat) =>
    (if d.bGlobal then [] else (List.range d.bRows.1).map fun i => s.opBytes p g p.core d.bOff (t * d.bInc + (i * d.bPitch : Nat)) d.bRows.2,
      s.scales p g p.core d d.sbOff d.sbInc t)
  let scale (sc : List OByte) (i : Nat) : Bool := (List.range d.blocks).any fun n => (sc.getD (128 * n + i) (0, false)).2
  ((List.range 128).filter fun i => as.any fun (a, sa) => (a.getD i []).any (·.2) || scale sa i,
   (List.range 128).filter fun j => bs.any fun (b, sb) => scale sb j ||
      if d.lookup || d.transB then (b.getD j []).any (·.2) else b.any fun row => (elemAt (elemWidth d.bFmt) row j).2)
/-- A matrix operation. -/
def State.spoilMatrix (s : State) (o : EngOp) (g : Group) : State :=
  match o.kind with
  | .mat d =>
    let p := if d.twin && o.core % 2 == 1 then { o with core := twinOf o.core } else o
    let (rows, cols) := s.matBad o p g d
    s.spoilTile g o.core d.acc fun i j => rows.contains i || cols.contains j
  | .mwr tile form off pitch =>
    let z := formBytes form
    let rows := (List.range 128).map fun i => s.opBytes o g o.core off (i * pitch : Nat) (128 * z)
    s.spoilTile g o.core tile fun i j => (((rows.getD i []).drop (j * z)).take z).any (·.2)
  | _ => s
/-- A Geyser operation: all of y depends on every byte of x (R210). -/
def State.spoilGeyser (s : State) (o : EngOp) (g : Group) : State :=
  match o.kind with
  | .gey d =>
    if !o.xTainted g d then s
    else
      let bytes := (List.range d.rows).flatMap fun i => toBytesLE 4 ((Config.freeW64 (s.freeCtr + i)).truncate 32 : W32).toNat
      let s := { s with freeCtr := s.freeCtr + d.rows }
      if d.yScratch then s.scrWrite g o.core d.y bytes
      else (s.engWrite (s.jobOfGroup o.group).asid (s.geyser d.slice) d.y bytes o.report).publish o (s.agentOf o)
  | _ => s
/-- A copy out of scratch: the bytes of a CPY, the elements' bytes of a CPYT and whole elements of a CPYR (R185, R187, R188). What a copy has
sent to another package stays. -/
def State.spoilCopy (s : State) (o : EngOp) (g : Group) : State :=
  let dirty (off : Nat) : Bool := o.tainted.contains (scrKey g (scrCore o.core off) (off % 2 ^ 31))
  let asid := (s.jobOfGroup o.group).asid
  let agent := s.shuttle o.core
  let tile (d : TileDesc) : List (Nat × Nat) := (List.range d.rows).flatMap fun r => (List.range (d.rowUnits r)).flatMap fun u =>
    (d.elems r u).filterMap fun (sa, ga) => ga.map fun a => (sa, a)
  match o.kind with
  | .cpy d =>
    if !d.ss || (s.cpyHomes o d).1.isSome then s
    else ((List.range d.len).foldl (fun (s : State) i =>
      if dirty (d.src + i) then let (s, x) := s.free; s.cpyStore o g d (d.dst + i) [x.truncate 8] else s) s).publish o agent
  | .cpyt d =>
    if !d.dir then s
    else ((tile d).foldl (fun (s : State) ((sa, a) : Nat × Nat) => (List.range (2 ^ d.lesz)).foldl (fun (s : State) b =>
      if dirty (sa + b) then let (s, x) := s.free; s.engWrite asid agent (a + b) [x.truncate 8] o.report else s) s) s).publish o agent
  | .cpyr d =>
    let es := 2 ^ d.lesz
    (tile d).foldl (fun (s : State) ((sa, a) : Nat × Nat) =>
      if (List.range es).any fun b => dirty (sa + b) then
        let (s, x) := s.free
        s.atomicUpdate asid agent a es (fun _ => x.toNat % 2 ^ (8 * es)) o.report
      else s) s
  | _ => s

/-- Has the program written an operand register of a member since its issue? -/
def State.regsWritten (s : State) (m : JointMember) : Bool :=
  match s.skein? m.sk with
  | some k => m.oldRegs.any fun (key, x) => Sparse.get 0 k.vregs key != x
  | none => false
/-- What the skeins of a member's operand registers hold now. -/
def State.seenNow (s : State) (m : JointMember) : JointMember :=
  match s.skein? m.sk with
  | some k => { m with oldRegs := m.oldRegs.map fun (key, _) => (key, Sparse.get 0 k.vregs key) }
  | none => m
/-- Is the matching wait of an operation, or of a member of one, still to come: its handle register names its entry, or it is counted? -/
def State.unwaited (s : State) (core : Nat) (sk : Option SkId) (entry : Option Nat) (op : Nat) : Bool :=
  match entry with
  | some e => let x := (s.core core).entry e; x.live && x.op == op
  | none => match sk with
    | some id => (s.skein? id).isSome
    | none => false
/-- The results of operations that are done take note of what the program has written since; those that have been waited for, or whose
group is gone, are forgotten. -/
def State.settlePast (s : State) : State :=
  if s.past.isEmpty then s
  else
    let s := s.past.foldl (fun (s : State) (o : EngOp) => match s.group? o.group with
      | none => s
      | some g =>
        if o.tainted.isEmpty && !o.members.any s.regsWritten then s
        else ((s.spoilMatrix o g).spoilGeyser o g).spoilCopy o g) s
    { s with past := s.past.filterMap fun o =>
        let here := (s.group? o.group).any (·.st == .running)
        let members := o.members.filter fun m => !here || s.unwaited o.core (some m.sk) m.entry m.op
        let waits := !here || !members.isEmpty || (o.sk.isSome && s.unwaited o.core o.sk o.entry o.id)
        if (s.group? o.group).isSome && waits then some { o with tainted := [], members := members.map s.seenNow } else none }

end Sys2Proof.Machine
end

