-- ==== Sys2Proof/Machine/Policy.lean ====
section
/-! DEFINITION. Which event or issue comes next where the agenda names none (log 1), and what the package does by itself after every
step. R52 picks among ready strands; the manual orders no other two events that are both possible. -/

namespace Sys2Proof.Machine

/-! ## Events that may be due -/

def msgEvent (m : Msg) : Instr :=
  match m.kind with
  | .reg => .regMsg m.src m.dst none
  | .seal => .seal m.src m.dst
  | .rdq => .rdq m.src m.dst none
  | .fwd => .fwd m.src m.dst
  | .recall => .recall m.src m.dst
  | .wb => .wb m.src m.dst
  | .race => .race m.src m.dst
  | .regack => .regack m.src m.dst
  | .sealack => .sealack m.src m.dst
  | .data => .dataMsg m.src m.dst none
  | .gone => .gone m.src m.dst

/-- The events of an engine operation (R166, R167, R181, R189, R202, R206, R210, R232). -/
def opEvents (o : EngOp) : List Instr :=
  [.engineCancelStop o.id, .engineFaultResume o.id, .copyEntryUnresolvableFault o.id, .engineUnresolvableFault o.id]
    ++ match o.kind with
      | .cpy _ | .cpyt _ | .cpyr _ => [.shuttleSectorLanded o.id, .shuttleComplete o.id]
      | .prefetch _ _ => [.prefetchComplete o.id]
      | .mat _ => [.twinMloopStart o.id, .matrixKStep o.id, .matrixOpComplete o.id]
      | .mzero _ _ | .mrd .. | .mwr .. => [.matrixKStep o.id, .matrixOpComplete o.id]
      | .gey _ => [.geyserRowGroup o.id, .geyserComplete o.id]
      | .pleat .. => [.pleatComplete o.id, .pleatTimeout o.id]
/-- The operation that an engine's event is about. -/
def opOf : Instr → Option Nat
  | .engineCancelStop o | .engineFaultResume o | .copyEntryUnresolvableFault o | .engineUnresolvableFault o | .shuttleSectorLanded o
  | .shuttleComplete o | .prefetchComplete o | .twinMloopStart o | .matrixKStep o | .matrixOpComplete o | .geyserRowGroup o
  | .geyserComplete o | .pleatComplete o | .pleatTimeout o => some o
  | _ => none
/-- A frozen engine's operations stand still (R260). -/
def State.opFrozen (s : State) (i : Instr) : Bool :=
  match (opOf i).bind s.op? with
  | some o => s.pkg.frozenEngines.contains (s.agentOf o)
  | none => false

/-- Events of a skein: falling counters, unparking, waits that end by an event (R54, R176, R243, R321, R395). -/
def skeinEvents (id : SkId) (k : Skein) : List Instr :=
  ([Cls.load, .store, .copy, .matrix].filter fun c => match k.fifo c with | (_, true) :: _ => true | _ => false).map (.classCounterFall id ·)
    ++ (if k.park.isSome then [.skeinUnpark id] else [])
    ++ k.live.filterMap fun ((i, x) : Nat × Strand) => match x.wait with
      | .lastExit => some (.lastExitRelease id i)
      | .svc => some (.svcPost id i)
      | .delay _ => some .yieldDelayEnd
      | _ => none
/-- The service that a request asks for, or its reply (R245, R246). -/
def svcEvent (q : SvcReq) : Instr :=
  if q.reply.isSome then .svcReplyRespawn q.slot
  else match q.service with
    | 0 => .svcPageIn q.slot
    | 1 => .svcCancel q.slot
    | 2 => .svcLaunch q.slot
    | 3 => .svcRegion q.slot
    | 4 => .svcStorage q.slot
    | 5 => .svcDiscard q.slot
    | _ => .svcClockQuery q.slot
/-- Requests and answers of other packages (R219, R220). -/
def packetEvent (src : Nat) (p : Packet) : Instr :=
  match p.kind with
  | 1 => .vectorRead src
  | 2 => .vectorWrite src
  | 3 => .vectorAtomic src
  | 4 => .reply src
  | 5 => .nack src
  | 6 => .bulkCopyData src
  | 8 => .pleatReady src
  | 9 => .pleatData src
  | 10 => .pleatAbort src
  | _ => .endToEndAck src
/-- Management messages (R215, R221). -/
def mgmtEvent (port : Nat) (bs : List Byte) : Instr :=
  match fieldAt bs 4 1 with
  | 0x20 => .assign port
  | 0x21 => .route port
  | 0x22 => .query port
  | 0x24 => .thresh port
  | 0x25 => .retrain port
  | _ => .mgmtPacketForward
/-- Events of a die's distributor (R45, R48, R60). -/
def State.dieEvents (s : State) (d : Nat) : List Instr :=
  (if (s.canPlace d || s.fitsToNote d) && ((s.die d).lastStep == 0 || (s.die d).lastStep + 8 ≤ s.clock) then [.placementStep d] else [])
    ++ [.placementReservation d, .reservationPreempt d]

/-- Masters whose access has met a frame of key ID 0, which only service cores and the save path reach: they freeze (R260). -/
def State.breaches (s : State) : List Instr :=
  (s.skeins.filterMap fun ((id, k) : SkId × Skein) => match k.park with
    | some (_, .fault vas) =>
      if (s.core id.core).frozen then none
      else (vas.find? fun (va : W64) => s.keyZero (s.asidOf k) va.toNat).map fun va => Instr.masterFreeze (.core id.core) va.toNat
    | _ => none)
  ++ s.ops.filterMap fun (o : EngOp) => match o.stat with
    | .paused va =>
      if s.keyZero (s.jobOfGroup o.group).asid va.toNat && !s.pkg.frozenEngines.contains (s.agentOf o) then
        some (.masterFreeze (.engine (s.agentOf o)) va.toNat)
      else none
    | _ => none

/-- Everything that may be due, in the order in which it is tried. -/
def State.due (s : State) : List Instr :=
  let orNone (b : Bool) (l : List Instr) : List Instr := if b then [] else l
  List.flatten (α := Instr) [
    s.breaches,
    s.net.map msgEvent,
    s.ops.flatMap opEvents,
    s.skeins.flatMap fun ((id, k) : SkId × Skein) => skeinEvents id k,
    s.fab.inbox.map fun ((src, p) : Nat × Packet) => packetEvent src p,
    s.fab.held.map fun h => packetEvent h.spkg h.packet,
    s.faults.map fun ((asid, va) : Nat × Nat) => Instr.pageFaultResolved asid va,
    s.work.svcs.map svcEvent,
    s.fab.store.map fun ((port, bs) : Nat × List Byte) => mgmtEvent port bs,
    orNone s.fab.store.isEmpty [.mgmtPacketForward],
    orNone s.work.held.isEmpty [.heldSubmissionAccept],
    (s.work.launches.filter (·.sched.isNone)).map fun l => Instr.copyScheduleRead l.lid,
    s.groups.flatMap fun ((g, _) : Nat × Group) => [Instr.groupEnd g, Instr.preemptionSaveComplete g, Instr.groupRestoreComplete g],
    [0, 1, 2, 3].flatMap s.dieEvents,
    orNone s.fab.toAck.isEmpty [.endToEndAckSend],
    orNone s.fab.unacked.isEmpty [.packetRetransmitTimeout],
    orNone (s.fab.remotes.isEmpty && s.ops.isEmpty) [.remoteTimeout],
    orNone s.fab.held.isEmpty [.targetHoldTimeout, .pleatHeldMessageTimeout],
    orNone (s.dies.all fun ((_, d) : Nat × Die) => !(d.throttled || d.powerThrottled) || s.clock < d.slowAt) [.throttleClockStep]]
/-- Does an event change anything now? -/
def State.enabled (s : State) (i : Instr) : Bool :=
  !s.opFrozen i && match exec i s with
    | .next t => t != s
    | _ => false

/-! ## The strand that R52 picks -/

/-- Can a strand issue now (R52)? -/
def State.ready (s : State) (id : SkId) (k : Skein) (st : Nat) (x : Strand) : Bool :=
  s.skeinIssues id k st
    && ((k.trap.isNone && k.svcWait.isNone && !k.pendTraps.isEmpty)
      || (s.strandIssues id k st x
        && ((k.errFor st x).isSome || match s.peekCode id k x.pc with
          | some w => !s.wordHeld id k st x (decode w)
          | none => true)))
/-- Launch priority of a skein. -/
def State.priorityOf (s : State) (k : Skein) : Nat := (s.lrecOf k).priority
/-- A ready strand with what R52 compares: its scheduler, priority, last issue, slot and ID. -/
structure Runner where
  id : SkId
  st : Nat
  prio : Nat
  last : Nat
  deriving DecidableEq, Repr
def Runner.before (a b : Runner) : Bool :=
  a.prio > b.prio || (a.prio == b.prio && (a.last < b.last || (a.last == b.last && (a.id.slot < b.id.slot || (a.id.slot == b.id.slot && a.st < b.st)))))
def Runner.sched (a : Runner) : Nat := 2 * a.id.core + a.id.slot / 16
def State.runners (s : State) : List Runner :=
  s.skeins.flatMap fun ((id, k) : SkId × Skein) =>
    (k.live.filter fun ((i, x) : Nat × Strand) => s.ready id k i x).map fun ((i, x) : Nat × Strand) => ⟨id, i, s.priorityOf k, x.lastIssue⟩
/-- The choice of each scheduler under R52, and among the schedulers' choices the one that has waited longest. -/
def State.pickRunner (s : State) : Option Runner :=
  let rs := s.runners
  let firsts := rs.filter fun a => rs.all fun b => b.sched != a.sched || b == a || a.before b
  firsts.foldl (fun (acc : Option Runner) a => match acc with
    | some b => if a.last < b.last then some a else some b
    | none => some a) none

/-! ## The next choice -/

/-- Is a constructor a word, or a row for words? Those run only by a strand's issue. -/
def isWord (i : Instr) : Bool :=
  (encodeNat i).isSome || match i with
    | .retiredB5Operation _ | .illegalInstructionWord _ => true
    | _ => false
/-- After a die's shutdown every master stands still until reset (R263). -/
def State.down (s : State) : Bool := s.dies.any fun ((_, d) : Nat × Die) => d.shutdown

/-- The head of the agenda, or what is due, or the strand that R52 picks. -/
def State.choose (s : State) : Option Choice :=
  match s.agenda with
  | c :: _ => some c
  | [] =>
    if s.down then none
    else match s.due.find? s.enabled with
      | some i => some (.event i)
      | none => s.pickRunner.map fun r => .issue r.id r.st
/-- Carry out a choice. -/
def State.perform (s : State) : Option Choice → Out
  | none => .next s
  | some (.issue id st) => if s.down then .next s else s.issue id st
  | some (.pair id a b) => if s.down then .next s else s.issuePair id a b
  | some (.event i) => if isWord i || s.opFrozen i || (s.down && i != .powerOnReset) then .next s else exec i s

/-! ## After every step -/

/-- Skeins of cancelled groups that wait, or have all stopped at safe points, are discarded (R30). -/
def State.discardCancelled (s : State) : State :=
  if s.groups.all fun ((_, g) : Nat × Group) => !g.cancelled then s
  else s.skeins.foldl (fun (s : State) ((id, k) : SkId × Skein) =>
    if ((s.group? k.group).map (·.cancelled)) == some true then
      (if k.discardsAtOnce then s.discardSkein id else s.discardIfSafe id)
    else s) s
/-- Operations that a cancelled group has issued on its way to safe points stop as well once its skeins have gone: none that waits for the
issue of another skein is left to wait (R30). -/
def State.stopLateOps (s : State) : State :=
  if s.ops.all fun (o : EngOp) => o.cancelReq then s
  else (s.groups.filter fun ((gid, g) : Nat × Group) => g.cancelled && !s.skeins.any fun (_, k) => k.group == gid).foldl
    (fun (s : State) ((gid, _) : Nat × Group) => s.stopOps gid) s
/-- What follows by itself from a step: launches become eligible, cancelled skeins go, skeins stop for a pre-emption, drains are
answered, storage requests go on, messages leave the package, a flash write ends (R26, R30, R61, R220, R254, R258, R261). Nothing of it goes on after a shutdown
(R263). -/
def State.tidy (s : State) : State :=
  if s.down then { s with cur := none }
  else { (((((s.endSteps.holdErrs.markEligible).discardCancelled).stopLateOps.preemptDrained).yieldSkeins).settleDrains).settlePast.copyStorage.exportMsgs.finishFlash with cur := none }

end Sys2Proof.Machine
end

