-- ==== Sys2Proof/Machine/Loader.lean ====
section
/-! DEFINITION. A program given from outside (log 19): one job, one launch of one skein, its code page mapped and verified, and the
strand inside a block at a word. The package itself comes to a program by IMAGE, JOB_OPEN, PHASE_OPEN, GRAPH_OPEN, MAP, LAUNCH and
PLACEMENT_STEP. -/

namespace Sys2Proof.Machine

/-- VA of the code page and of the word that stands first in its block. -/
def codeVa : Nat := 0x10000
def wordVa : Nat := 0x10008
/-- The header of the block: LEN 255, LIVE all, E, ISAREV 2. -/
def loadHdr : HFmt := ⟨255, 0xFFFF, 0, 0, false, true, false, 0, 2⟩
/-- One group of one skein with every bank, granule and tile of a core. -/
def loadRec (job : Nat) : LRec :=
  { entry := BitVec.ofNat 64 codeVa, gx := 1, gy := 1, gz := 1, skeins := 1, banks := 16, twin := false, coop := false, raceTrap := false
    joinTrap := false, scratch := 1212416, tiles := 128, priv := 0, args := 0, sched := 0, entries := 0, priority := 0, dies := 1, index := 0
    trapvec := 0, preds := List.replicate 8 255, graph := 1, phase := 1, job := job }
def loadLaunch (job clock : Nat) : Launch :=
  { lid := ⟨job, 1, 0⟩, lrec := loadRec job, queue := 1, counter := 1, eligible := some clock, lastPlaced := clock, next := 0
    status := none, ending := none, cause := 0, failPc := 0, failVa := 0, failGroup := 0, failSkein := 0, failCore := 0, sched := some []
    tag := 0, placedAll := false, noFit := [] }

/-- The job with its address space: window 0 and all others interleaved over the package, window 63 private. -/
def State.loadJob (s : State) : State × Job :=
  let live := s.work.jobs.filter (·.status.isNone)
  let asid := lowestFrom (live.map (·.asid)) live.length 1
  let key := lowestFrom (live.map (·.key)) live.length 1
  let id := s.work.nextJob
  let j : Job :=
    { id := id, asid := asid, key := key, homeMap := List.replicate 63 1 ++ [5], timeoutMs := 0, closed := false, cancelled := false
      counter := 1, status := none, debugger := false, tag := 0, regions := [], maps := [] }
  let s := (s.newSpace asid key).getD s
  let ph : Phase := { job := id, id := 1, closed := false, cancelled := false, counter := 1, status := none, tag := 0, order := s.work.nextOrder }
  let gr : Graph := { job := id, id := 1, phase := 1, closed := false, cancelled := false, counter := 1, status := none, tag := 0, present := [] }
  (s.modWork fun w => { w with
    jobs := w.jobs ++ [j], nextJob := id + 1, phases := w.phases ++ [ph], nextOrder := w.nextOrder + 1, graphs := w.graphs ++ [gr]
    launches := w.launches ++ [loadLaunch id s.clock] }, j)
/-- The code page, readable and executable, its first piece holding the words; verified. -/
def State.loadCode (s : State) (j : Job) (words : List W64) : State :=
  let sl := f5 codeVa
  match s.allocPiece sl with
  | (s, none) => s
  | (s, some p) =>
    let s := s.installPage j 0 codeVa 5 fun i => if i == 0 then ⟨1, false, 0, 0, p⟩ else ⟨3, false, 0, 0, 0⟩
    { s with mem := Sparse.putList 0 s.mem (physKey sl p 0) (words.flatMap fun w => toBytesLE 8 w.toNat)
             verified := s.verified ++ [(j.asid, codeVa / 65536)] }
/-- The skein of the launch, placed on core 0, its strand at the word. -/
def State.loadSkein (s : State) (j : Job) (header : Bool) : State :=
  let gid := s.nextName
  let s := s.placeNew (loadLaunch j.id s.clock) 0
  match s.group? gid with
  | none => s
  | some g =>
    let id := g.skId (loadRec j.id) 0
    let s := if header then s else
      (s.modStrand id 0 fun x => { x with pc := BitVec.ofNat 64 wordVa, blk := some ⟨BitVec.ofNat 64 codeVa, loadHdr, 255⟩ }).modGroup gid
        fun g => { g with entryHdr := some (loadHdr.isarev, loadHdr.h16) }
    { s with agenda := [.issue id 0] }
/-- Load one word, so that the next step issues it. A header stands at the entry VA, any other word in a block. -/
def State.loadWord (s : State) (w : W64) : State :=
  let (s, j) := s.loadJob
  let hdr := isHeader w
  (s.loadCode j (if hdr then [w] else [BitVec.ofNat 64 (encH loadHdr), w])).loadSkein j hdr

end Sys2Proof.Machine
end

