-- ==== Sys2Proof/Machine/Step.lean ====
section
/-! DEFINITION. One step of the package: the clock, one event or the issue of one word, and what follows by itself (log 1, log 7). -/

namespace Sys2Proof.Machine

/-- The state with the clock advanced and the choice taken off the agenda. -/
def State.tick (s : State) : State := { s with clock := s.clock + 1, agenda := s.agenda.drop 1 }

/-- One step. -/
def step (s : State) : Host.Outcome State Fault Refusal :=
  match s.tick.perform s.choose with
  | .next t => .next t.tidy
  | .fault r => .fault r
  | .refused r => .refused r

/-- The state with one instruction word, its low `nbits` bits given, stored where the next step fetches (log 19). -/
def State.withFetchWord (s : State) (nbits w : Nat) : State := s.loadWord (BitVec.ofNat 64 (w % 2 ^ min nbits 64))

end Sys2Proof.Machine
end

