-- ==== Sys2Proof/Safety.lean ====
section
/-! DEFINITION. The terms that claims use: the canonical form of stores, the strand that issues, the state in which a word
completes, and what holds between any two steps. -/

namespace Sys2Proof.Arith

/-- The rational number that a finite value is (R88). -/
def FVal.rat : FVal → ℚ
  | .fin neg m e => (if neg then -1 else 1) * (m : ℚ) * (2 : ℚ) ^ e
  | _ => 0

end Sys2Proof.Arith

namespace Sys2Proof.Machine

/-- The canonical form of DRAM: addresses strictly rise, and no listed byte is the 0 that an unlisted one reads as (log 2). -/
abbrev Memory.wf (m : List Host.Cell) : Prop := Sparse.wf (0 : Byte) m = true

/-- `c` describes the strand that is issuing its word in `s`. -/
def Issuing (s : State) (c : Ctx) : Prop :=
  (∃ again, s.cur = some ⟨c.id, c.st, c.iw, again⟩) ∧ s.skein? c.id = some c.k ∧ c.k.strand? c.st = some c.x

/-- The state in which the word of `c` has completed with its skein as `k'` gives it: the strand stands at its next word, and the
skein has done what R70 to R76 let it do by itself. -/
def Ctx.completed (c : Ctx) (s : State) (k' : Skein) : State := (s.setSkein c.id k').retire c.id c.st

/-- The state in which the strand of `c` has gone to the header at `target`. -/
def Ctx.landed (c : Ctx) (s : State) (target : W64) : State :=
  ({ s with cur := none }.modStrand c.id c.st fun x => x.jumped target).settle c.id

/-- `k'` is `k` with registers d to d + n − 1 of the lanes of `act` written, register d + i taking bits [32·i + 31 : 32·i] of the
lane's value (R84). -/
def LanesWritten (k k' : Skein) (act : Mask) (d n : Nat) (v : Nat → W64) : Prop :=
  k' = { k with vregs := k'.vregs } ∧
  ∀ l, l < 32 → ∀ r, k'.raw r l =
    if act.getLsbD l = true ∧ d ≤ r ∧ r < d + n then ((v l) >>> (32 * (r - d))).truncate 32 else k.raw r l

/-- `k'` is `k` with predicate `dst` written in the lanes of `act`; a write to p7 is discarded (R82). -/
def PredWritten (k k' : Skein) (act : Mask) (dst : Nat) (v : Nat → Bool) : Prop :=
  k' = { k with preds := k'.preds } ∧
  ∀ l, l < 32 → ∀ i, (k'.p i).getLsbD l =
    if act.getLsbD l = true ∧ i = dst ∧ dst ≠ 7 then v l else (k.p i).getLsbD l

/-- A trap of a word that issues: cause, unfinished lanes, fault VA and INFO; the frame PC is the word's own (R234, R235). -/
def Ctx.trapped (c : Ctx) (s : State) (cause : Nat) (unfin : Mask) (fva info : W64) : State :=
  s.takeTrap c.id ⟨cause, c.x.pc, unfin, fva, info, false, c.st⟩ c.iw
/-- The lanes of the strand where bits [53:50] of its word hold as a guard (R236, R294). -/
def Ctx.guarded (c : Ctx) : Mask := c.x.mask &&& c.k.guard (fld c.iw 51 3) (flag c.iw 50)

/-- A skein none of whose strands holds a spilled stack entry (R72): completing a word touches no memory. -/
def Skein.Shallow (k : Skein) : Prop :=
  ∀ st x, k.strand? st = some x → stackDepth x.nest ≤ 16 ∧ NestItem.spilled ∉ x.nest

/-- A skein in which strand `st`, divided by nothing, is alone, and its next word lies in its block. -/
def Skein.Alone (k : Skein) (st : Nat) (x : Strand) : Prop :=
  k.live = [(st, x)] ∧ x.nest = [] ∧ x.mask ≠ 0 ∧ k.records = []

/-- Between two steps no strand is in the middle of a word, and in a package that runs no registration message waits that has to leave
it (R120, R220, R263). -/
def Settled (s : State) : Prop := s.cur = none ∧ (s.down = false → ∀ m ∈ s.net, s.leaves m = false)

/-- Every store of the package in its canonical form. -/
def State.storesWf (s : State) : Prop :=
  Memory.wf s.mem ∧ Sparse.wf (0 : Byte) s.scratch = true ∧ Sparse.wf (0 : W32) s.tiles = true

/-! ## Values as the rules word them -/

/-- The low bits of an operand, as many as a T code has (R88). -/
def lowBits (t : Nat) (x : W64) : BitVec (Arith.tBits t) := x.setWidth _
/-- Those bits as the signed or unsigned integer that T says they are (R88). -/
def intVal (t : Nat) (y : BitVec (Arith.tBits t)) : Int := if Arith.tSigned t then y.toInt else y.toNat
/-- A result in a register: sign-extended for a signed T, else zero-extended (R84, R266). -/
def extended (t : Nat) (y : BitVec (Arith.tBits t)) : W64 := if Arith.tSigned t then y.signExtend 64 else y.setWidth 64
/-- An integer operand, negated modulo 2^w where its flag says so (R272, R342). -/
def operand (t : Nat) (neg : Bool) (x : W64) : Int := intVal t (if neg then -lowBits t x else lowBits t x)
/-- The exact result of an integer word, clamped under the saturate flag and otherwise taken modulo 2^w (R342). -/
def intResult (t : Nat) (sat : Bool) (r : Int) : W64 :=
  extended t (BitVec.ofInt _ (if sat then max (Arith.intMin t) (min (Arith.intMax t) r) else r))

/-- An R-format word whose register fields are in place completes, and each lane that takes part gets a value that `P` allows: in
D's registers for a vector form, once in the s-register for a uniform form that acts (R82, R84, R265, R266, R270). -/
def RRule (i : Instr) (f : RFmt) (sh : RShape) (imm : W64) (P : Ctx → Nat → Opnds → W64 → Prop) : Prop :=
  WellFormed i = true → ∀ s c, Issuing s c → f.regsOk sh (s.vlimit c.k) = true →
    ∃ val : Nat → W64, (∀ l, P c l (f.opnds sh imm c.k l) (val l)) ∧
      (f.u = false → ∃ k', LanesWritten c.k k' (c.active f.g f.gn) f.d.toNat sh.d val ∧ exec i s = .next (c.completed s k')) ∧
      (f.u = true → exec i s = .next (c.completed s (if c.acts f.g f.gn then c.k.setS f.d.toNat (val c.low) else c.k)))
/-- An R-format word that writes a predicate in the lanes that take part. -/
def PRule (i : Instr) (f : RFmt) (sh : RShape) (imm : W64) (dst : Nat) (v : Ctx → Nat → Opnds → Bool) : Prop :=
  WellFormed i = true → ∀ s c, Issuing s c → f.regsOk sh (s.vlimit c.k) = true →
    ∃ k', PredWritten c.k k' (c.active f.g f.gn) dst (fun l => v c l (f.opnds sh imm c.k l)) ∧ exec i s = .next (c.completed s k')

/-- The register shape of an R-format word: how many registers each of D, A, B and C names (R83), 0 where the field is no register. -/
def rForm : Instr → Option (RFmt × RShape)
  | .rdsr f => some (f, ⟨if [2, 11, 12, 14, 15].contains f.a.toNat then 2 else 1, 0, 0, 0⟩)
  | .wrsr f => some (f, ⟨0, 0, 1, 0⟩)
  | .iadd f | .isub f | .imin f | .imax f | .imul f | .imulh f | .andOp f | .orOp f | .xorOp f | .andn f | .sel f | .fadd f | .fsub f
  | .fmul f | .fmin f | .fmax f | .iaddc f | .bfe f =>
    let n := pairOf f.t
    some (f, ⟨n, n, n, 0⟩)
  | .iabs f | .notOp f | .brev f | .frcp f | .frsq f | .fsqrt f | .fexp2 f | .flog2 f | .fsin f | .fcos f | .ftanh f | .frnd f =>
    let n := pairOf f.t
    some (f, ⟨n, n, 0, 0⟩)
  | .isad f | .imad f | .bfi f | .ffma f =>
    let n := pairOf f.t
    some (f, ⟨n, n, n, n⟩)
  | .imadw f => some (f, ⟨2, 1, 1, 2⟩)
  | .lmix f | .rbyte f | .fdot2 f | .fdot4 f | .hfma2 f => some (f, ⟨1, 1, 1, 1⟩)
  | .shl f | .shr f | .sar f | .rot f => some (f, ⟨pairOf f.t, pairOf f.t, 1, 0⟩)
  | .fshl f => some (f, ⟨pairOf f.t, pairOf f.t, 1, pairOf f.t⟩)
  | .popc f | .clz f | .fclass f => some (f, ⟨1, pairOf f.t, 0, 0⟩)
  | .icmp f | .fcmp f => some (f, ⟨0, pairOf f.t, pairOf f.t, 0⟩)
  | .mov f => some (f, ⟨pairOf f.t, 0, pairOf f.t, 0⟩)
  | .lea f => some (f, ⟨2, 2, pairOf f.t, 0⟩)
  | .plop f => some (f, ⟨0, 0, 0, 0⟩)
  | .pmov f => some (f, if f.flag0 then ⟨0, 1, 0, 0⟩ else ⟨1, 0, 0, 0⟩)
  | .ballot f => some (f, ⟨1, 0, 0, 0⟩)
  | .vchk f => some (f, ⟨if f.u then 1 else 0, 0, 0, 0⟩)
  | .fcvt f | .f2i f | .i2f f => some (f, ⟨pairOf f.t, pairOfCode f.c.toNat, 0, 0⟩)
  | .fpack f | .hadd2 f | .hmul2 f | .slx f => some (f, ⟨1, 1, 1, 0⟩)
  | .funpk f => some (f, ⟨1, 1, 0, 0⟩)
  | .lred f => some (f, ⟨if f.flag0 then 0 else pairOf f.t, pairOf f.t, 0, 0⟩)
  | .lscan f => some (f, ⟨pairOf f.t, pairOf f.t, 0, 0⟩)
  | .lcnt f => some (f, ⟨if f.flag0 then 0 else 1, 0, 0, 0⟩)
  | _ => none

/-! ## Bytes that lanes read and write -/

/-- Bytes of words that a core's L1 serves to a load (R127). -/
def State.l1Bytes (s : State) (core asid va n : Nat) (acq : Bool) : List Byte :=
  (((wordsOf va n).flatMap fun w => toBytesLE 4 ((s.served (s.l1 core) asid w acq).getD 0).toNat).drop (va % 4)).take n
/-- The bytes that lanes write, in ascending lane and address, each with its address as `at_` gives it from the lane's address and the byte's number. -/
def writesOf (ls : List LaneAcc) (at_ : Nat → Nat → Nat) (data : LaneAcc → List Byte) : List (Nat × Byte) :=
  ls.flatMap fun a => (data a).zipIdx.map fun p => (at_ a.va.toNat p.2, p.1)
/-- What stands at an address after such writes: the last of them there (R136), or what stood before. -/
def lastWrite (ws : List (Nat × Byte)) (a : Nat) (before : Byte) : Byte :=
  match ws.reverse.find? fun w => w.1 == a with
  | some (_, b) => b
  | none => before

/-! ## Ordering, barriers, descriptors -/

/-- A strand at a fresh issue of its word, for which a release of this scope waits for nothing: its accesses are performed, and, beyond
the group, its core holds no unpublished word and awaits no SEALACK (R123, R140). -/
def Ctx.Released (c : Ctx) (s : State) (sc : Nat) : Prop :=
  c.x.wait = .none ∧ s.unperformed c.id c.st = [] ∧ (s.beyondGroup c.k sc = true →
    (∀ p ∈ s.caches, p.1.agent = s.l1 c.id.core → p.2.st ≠ .owned) ∧ ∀ o ∈ s.memops, o.sk.core = c.id.core → o.isSeal = false)
/-- The state after such a release: beyond the group it has used up a name (log 4). -/
def Ctx.afterRelease (c : Ctx) (s : State) (sc : Nat) : State := if s.beyondGroup c.k sc then { s with nextName := s.nextName + 1 } else s
/-- The state after an acquire of this scope over these regions: beyond the group the L1 drops what R133 has it drop. -/
def Ctx.acquired (c : Ctx) (s : State) (sc : Nat) (regions : BitVec 16) : State :=
  if s.beyondGroup c.k sc then s.selfInvalidate (s.l1 c.id.core) regions else s

/-- R196's arrivals of several halves in turn: the word after them and the generation each met; none where EXPECTED differs from n. -/
def arriveAll (n : Nat) : BarWord → List Nat → Option (BarWord × List Nat)
  | w, [] => some (w, [])
  | w, _ :: us =>
    let expected := if w.arrived = 0 then n else w.expected
    if expected ≠ n then none
    else
      let w' : BarWord := if w.arrived + 1 = n then ⟨(w.gen + 1) % 16, 0, n⟩ else ⟨w.gen, w.arrived + 1, n⟩
      (arriveAll n w' us).map fun y => (y.1, w.gen :: y.2)

/-- The descriptor at a VA is read: its bytes, and the state after the read (R183). -/
def Ctx.Described (c : Ctx) (s : State) (va : W64) (align n : Nat) (s1 : State) (bs : List Byte) : Prop :=
  va.toNat % align = 0 ∧ ∃ s0 a raced, s.descFate c n va (n / 16) = (s0, .good, a)
    ∧ s0.awaited c.id.core (s0.asidOf c.k) va.toNat n = false ∧ s0.coreRead c.id c.k va.toNat n = (s1, bs, raced)
    ∧ (raced && c.k.raceTrap) = false
/-- An engine word finds what it has to allocate: an entry under HV = 1, else a place in its class counter (R175, R178). -/
def Ctx.Room (c : Ctx) (s : State) (f : EFmt) (cls : Cls) : Prop :=
  if f.hv then ∃ e, (s.core c.id.core).freeEntry = some e else c.k.cnt cls < 63
/-- The operation `id` has been issued: under HV = 1 the handle register names its pending entry, else it is counted (R175, R178). -/
def Ctx.Counted (c : Ctx) (t : State) (f : EFmt) (cls : Cls) (id : Nat) : Prop :=
  ∃ k', t.skein? c.id = some k' ∧ id ∈ k'.ops
    ∧ (f.hv = true → ∃ e gen x, k'.handle f.hd.toNat = .entry e gen ∧ Tab.get? (t.core c.id.core).entries e = some x ∧ x.gen = gen ∧ x.live = true
        ∧ x.st = 1 ∧ x.op = id)
    ∧ (f.hv = false → (id, false) ∈ k'.fifo cls)
/-- An operation of this kind stands in its engine's queue. -/
def Ctx.Queued (c : Ctx) (t : State) (f : EFmt) (cls : Cls) (kind : OpKind) (stat : OpStat) : Prop :=
  ∃ o, o ∈ t.ops ∧ o.kind = kind ∧ o.core = c.id.core ∧ o.group = c.k.group ∧ o.sk = some c.id ∧ o.cls = cls ∧ o.stat = stat
    ∧ c.Counted t f cls o.id

/-! ## What a descriptor has to hold, field by field -/

/-- A list of checks at issue (R183, R203): the first that holds is taken, with its cause and address; where none holds the word goes on. -/
def Checked (trap : Nat → W64 → Prop) (go : Prop) : List (Prop × Nat × W64) → Prop
  | [] => go
  | (p, cause, a) :: rest => (p → trap cause a) ∧ (¬ p → Checked trap go rest)
/-- Bytes at a distance from a scratch offset leave its window (R108, R203). -/
def Leaves (r : LRec) (off : Nat) (delta : Int) (n : Nat) : Prop :=
  (2 ^ 31 ≤ off ∧ r.twin = false) ∨ ((off % 2 ^ 31 : Nat) : Int) + delta < 0 ∨ (r.scratch : Int) < ((off % 2 ^ 31 : Nat) : Int) + delta + n
/-- A tb field in its limits (R183): none, or a multiple of 16; and one that names bytes outside the window. -/
def TbField (tb : Nat) : Prop := tb = 0xFFFFFFFF ∨ tb % 16 = 0
def TbLeaves (r : LRec) (tb : Nat) : Prop := tb ≠ 0xFFFFFFFF ∧ Leaves r tb 0 16
def tbOf (tb : Nat) : Option Nat := if tb = 0xFFFFFFFF then none else some tb
def va64 (x : Nat) : W64 := BitVec.ofNat 64 x

/-- The CPY descriptor by its table (R184). -/
def cpyOf (bs : List Byte) : CpyDesc :=
  let u := fieldAt bs
  let flags := u 0x18 2
  { dst := u 0 8, src := u 8 8, len := u 0x10 8, ds := flags.testBit 0, ss := flags.testBit 1
    regTo := if flags.testBit 2 then some (u 0x1C 4) else none, tb := tbOf (u 0x7C 4) }
/-- Its checks (R107, R183 to R185): the fields; an end in window 63 or in a window with no home, one of two homes; the rest of R185; the
scratch ranges. -/
def cpyChecks (s : State) (j : Job) (die : Nat) (r : LRec) (va : W64) (bs : List Byte) : List (Prop × Nat × W64) :=
  let u := fieldAt bs
  let d := cpyOf bs
  let (flags, agent, tb) := (u 0x18 2, u 0x1C 4, u 0x7C 4)
  let fields : Prop := d.len ≤ 2 ^ 36 ∧ flags < 8 ∧ u 0x1A 2 = 0 ∧ u 0x20 92 = 0 ∧ (flags.testBit 2 = true ∨ agent = 0)
    ∧ (d.ds = true → d.dst < 2 ^ 32) ∧ (d.ss = true → d.src < 2 ^ 32) ∧ TbField tb
  let lost (scratch : Bool) (a : Nat) : Prop := scratch = false ∧ (privateIn a d.len ≠ none ∨ s.home j die a = .nowhere)
  let split (scratch : Bool) (a : Nat) : Prop := scratch = false ∧ s.rangeHome j die a d.len = .error ()
  let away (scratch : Bool) (a : Nat) : Prop := scratch = false ∧ ∃ p, s.rangeHome j die a d.len = .ok (some p)
  let shared : Prop := d.ds = d.ss ∧ (d.ds = true → d.dst / 2 ^ 31 = d.src / 2 ^ 31)
    ∧ ∃ b, d.dst ≤ b ∧ b < d.dst + d.len ∧ d.src ≤ b ∧ b < d.src + d.len
  let register : Prop := flags.testBit 2 = true
    ∧ (d.ds = true ∨ away d.ds d.dst ∨ ¬ (agent / 2 ^ 22 = s.pkg.id ∧ agent % 2 ^ 20 < 128))
  [(¬ fields, 0x12, va),
   (lost d.ds d.dst, 0x06, va64 ((privateIn d.dst d.len).getD d.dst)), (split d.ds d.dst, 0x12, va),
   (lost d.ss d.src, 0x06, va64 ((privateIn d.src d.len).getD d.src)), (split d.ss d.src, 0x12, va),
   (shared ∨ register ∨ (away d.ds d.dst ∧ away d.ss d.src), 0x12, va),
   (d.ds = true ∧ Leaves r d.dst 0 d.len, 0x05, va64 d.dst), (d.ss = true ∧ Leaves r d.src 0 d.len, 0x05, va64 d.src),
   (TbLeaves r tb, 0x05, va64 tb)]

/-- The tile descriptor by its table, with what SX and SY add (R182, R186). -/
def tileOf (bs : List Byte) (sx sy : W64) : TileDesc :=
  let u := fieldAt bs
  let rank := u 0x75 1
  let below (d : Nat) (g : Nat → Nat) (i : Nat) : Nat := if i < rank then g i else d
  let add (i : Nat) : Int := if i = 0 then (sy.truncate 32 : W32).toInt else if i = 1 then ((sy >>> 32).truncate 32 : W32).toInt else 0
  { gbase := u 0 8, strides := [1, 2, 3, 4].map (below 0 fun i => u (8 * i) 8), extents := [0, 1, 2, 3, 4].map (below 1 fun i => u (0x28 + 4 * i) 4)
    edge := decide (u 0x3C 1 = 1), coords := [0, 1, 2, 3, 4].map fun i => if i < rank then signedAt bs (0x40 + 4 * i) 4 + add i else 0
    boxes := [0, 1, 2, 3, 4].map (below 1 fun i => u (0x54 + 2 * i) 2), soff := (u 0x60 4 + sx.toNat) % 2 ^ 32
    pitches := [1, 2, 3, 4].map (below 0 fun i => u (0x60 + 4 * i) 4), lesz := u 0x74 1, rank := rank, dir := decide (u 0x76 1 = 1)
    redOp := u 0x77 1, fill := BitVec.ofNat 32 (u 0x78 4), tb := tbOf (u 0x7C 4) }
/-- Its checks (R183, R186 to R188). -/
def tileChecks (r : LRec) (use : TileUse) (va : W64) (bs : List Byte) (sx sy : W64) : List (Prop × Nat × W64) :=
  let u := fieldAt bs
  let d := tileOf bs sx sy
  let es := 2 ^ d.lesz
  let (op, t) := (d.redOp % 16, d.redOp / 16)
  let box (i : Nat) : Nat := d.boxes.getD i 1
  let pitch (i : Nat) : Nat := d.pitches.getD (i - 1) 0
  let fields : Prop := 1 ≤ d.rank ∧ d.rank ≤ 5 ∧ d.lesz ≤ 4 ∧ d.gbase % es = 0
    ∧ (∀ i, 1 ≤ i → i < d.rank → u (8 * i) 8 % es = 0 ∧ u (0x60 + 4 * i) 4 % es = 0) ∧ (∀ i, i < d.rank → 1 ≤ u (0x54 + 2 * i) 2)
    ∧ u 0x3C 1 ≤ 1 ∧ u 0x76 1 ≤ 1 ∧ u 0x3D 3 = 0 ∧ u 0x5E 2 = 0 ∧ d.soff % es = 0
    ∧ (u 0x3C 1 = 1 → u 0x76 1 = 0 ∧ use = .cpyt ∧ ∀ i, i < d.rank → u (0x28 + 4 * i) 4 ≠ 0)
    ∧ (if use = .cpyr then
        u 0x76 1 = 1 ∧ Arith.tBits t = 8 * es ∧ ((op ≤ 2 ∧ (t ≤ 10 ∨ t = 14)) ∨ (3 ≤ op ∧ op ≤ 5 ∧ t ≤ 7))
       else d.redOp = 0)
    ∧ TbField (u 0x7C 4)
  [(¬ fields, 0x12, va),
   (Leaves r d.soff 0 ((box 0 - 1) * es + (box 1 - 1) * pitch 1 + (box 2 - 1) * pitch 2 + (box 3 - 1) * pitch 3 + (box 4 - 1) * pitch 4 + es),
     0x05, va64 d.soff),
   (TbLeaves r (u 0x7C 4), 0x05, va64 (u 0x7C 4))]

/-- The matrix descriptor by its table, with what SX and SY add (R199), for N steps. -/
def matOf (lookup : Bool) (f : EFmt) (bs : List Byte) (sx sy : W64) : MatDesc :=
  let u := fieldAt bs
  let fl := (u 0x33 1).testBit
  { aOff := if fl 4 then u 0 4 else (u 0 4 + sx.toNat) % 2 ^ 32, bOff := (u 4 4 + sx.toNat / 2 ^ 32) % 2 ^ 32, bVa := (u 8 8 + sy.toNat) % 2 ^ 64
    aInc := signedAt bs 0x10 4, bInc := signedAt bs 0x14 4, aPitch := u 0x18 4, bPitch := u 0x1C 4, saOff := tbOf (u 0x20 4)
    sbOff := tbOf (u 0x24 4), saInc := signedAt bs 0x28 4, sbInc := signedAt bs 0x2C 4, aFmt := u 0x30 1, bFmt := u 0x31 1, acc := u 0x32 1
    bGlobal := fl 0, twin := fl 1, transB := fl 2, overwrite := fl 3, joint := fl 4, jtag := u 0x34 2, steps := f.n.toNat, lookup := lookup }
/-- Formats that pair, and scales that are there or are not (R200). -/
def MatFormats (d : MatDesc) : Prop :=
  let narrow (x : Nat) : Prop := x ∈ [11, 12, 13, 16, 17]
  let int (x : Nat) : Prop := x ∈ [4, 5, 18]
  let scale (x : Nat) (present : Bool) : Prop := (x ∈ [13, 16, 17] → present = true) ∧ (x ∈ [4, 5, 9, 10, 18] → present = false)
  if d.lookup = true then
    d.aFmt ∈ [9, 10, 11] ∧ d.bFmt ∈ [0x18, 0x19, 0x1A, 0x1B] ∧ d.saOff = none ∧ d.sbOff ≠ none ∧ d.transB = true
  else ((d.aFmt = d.bFmt ∧ d.aFmt ∈ [9, 10]) ∨ (narrow d.aFmt ∧ narrow d.bFmt) ∨ (int d.aFmt ∧ int d.bFmt))
    ∧ scale d.aFmt d.saOff.isSome ∧ scale d.bFmt d.sbOff.isSome
/-- Its checks (R107, R199 to R204); the address of a global B that lies in window 63 is that of the first row end there. -/
def matChecks (s : State) (j : Job) (die : Nat) (r : LRec) (lim : Nat) (va : W64) (f : EFmt) (bs : List Byte) (d : MatDesc) :
    List (Prop × Nat × W64) :=
  let u := fieldAt bs
  let fields : Prop := u 0x33 1 < 32 ∧ ¬ (d.twin = true ∧ d.joint = true) ∧ (d.joint = true ↔ d.aOff = 0xFFFFFFFF)
    ∧ (d.joint = false → d.aOff % 16 = 0 ∧ d.jtag = 0) ∧ d.bOff % 16 = 0 ∧ d.bVa % 16 = 0 ∧ d.aInc % 16 = 0 ∧ d.bInc % 16 = 0
    ∧ d.aPitch % 16 = 0 ∧ d.bPitch % 16 = 0 ∧ u 0x36 10 = 0 ∧ MatFormats d ∧ d.acc < r.tiles
  let ends : List Nat := (List.range d.steps).flatMap fun t => (d.bRanges t).flatMap fun x => [x.1, (x.1 + x.2 - 1) % 2 ^ 64]
  let rows (off : Nat) (inc : Int) (count pitch n : Nat) : Prop :=
    ∃ t i, t < d.steps ∧ i < count ∧ Leaves r off ((t : Int) * inc + (i * pitch : Nat)) n
  let scales (off : Option Nat) (inc : Int) : Prop := ∃ o t, off = some o ∧ t < d.steps ∧ Leaves r o ((t : Int) * inc) (128 * (d.k / 32))
  [(¬ fields, 0x12, va),
   (d.bGlobal = true ∧ ∃ a ∈ ends, ∃ p n, s.home j die a = .there p n, 0x12, va64 d.bVa),
   (d.bGlobal = true ∧ ∃ a ∈ ends, isPrivate a = true, 0x06, va64 ((ends.find? isPrivate).getD 0)),
   (d.joint = false ∧ rows d.aOff d.aInc 128 d.aPitch d.aRow, 0x05, va64 d.aOff),
   (d.bGlobal = false ∧ rows d.bOff d.bInc d.bRows.1 d.bPitch d.bRows.2, 0x05, va64 d.bOff),
   (scales d.saOff d.saInc, 0x05, va64 (u 0x20 4)), (scales d.sbOff d.sbInc, 0x05, va64 (u 0x24 4)),
   (d.joint = true ∧ lim < f.imm.toNat / 4 % 512 + d.steps * d.regs, 0x01, 0), (d.joint = false ∧ f.imm.toNat % 2048 ≠ 0, 0x12, 0)]

/-- The Geyser descriptor by its table, with what SX and SY add (R209); its unit is that of W's window (R211). -/
def geyOf (j : Job) (lookup : Bool) (bs : List Byte) (sx sy : W64) : GeyDesc :=
  let u := fieldAt bs
  { wVa := u 0 8, y := (u 8 8 + sy.toNat) % 2 ^ (if u 0x22 1 = 1 then 32 else 64), xOff := (u 0x10 4 + sx.toNat) % 2 ^ 32, rows := u 0x14 4
    cols := u 0x18 4, wPitch := u 0x1C 4, wFmt := u 0x20 1, xFmt := u 0x21 1, yScratch := decide (u 0x22 1 = 1), tb := tbOf (u 0x24 4)
    slice := bitsNat (homeEntry j (u 0 8)) 13 9, lookup := lookup }
/-- Its checks (R209, R211, R337). -/
def geyChecks (s : State) (j : Job) (die : Nat) (r : LRec) (va : W64) (bs : List Byte) (d : GeyDesc) : List (Prop × Nat × W64) :=
  let u := fieldAt bs
  let fields : Prop := d.wVa % 128 = 0 ∧ d.y % 4 = 0 ∧ d.xOff % 16 = 0 ∧ 1 ≤ d.rows ∧ d.rows ≤ 65536 ∧ d.cols % 32 = 0 ∧ 32 ≤ d.cols ∧ d.cols ≤ 16384
    ∧ d.wPitch % 128 = 0 ∧ d.rowBytes ≤ d.wPitch ∧ u 0x22 1 < 2 ∧ u 0x23 1 = 0 ∧ u 0x28 24 = 0
    ∧ d.wFmt ∈ (if d.lookup then [0x18, 0x19, 0x1A, 0x1B] else [11, 13, 18]) ∧ d.xFmt ∈ [9, 10, 11] ∧ TbField (u 0x24 4)
    ∧ d.wVa < 2 ^ 57 ∧ entryKind (homeEntry j d.wVa) = 3 ∧ d.wVa / 2 ^ 51 = (d.wVa + d.wSpan - 1) / 2 ^ 51
    ∧ d.xOff < 2 ^ 31 ∧ (d.yScratch = true → d.y < 2 ^ 31)
    ∧ (d.yScratch = false → ∀ a ∈ [d.y, (d.y + 4 * d.rows - 1) % 2 ^ 64], ∀ p n, s.home j die a ≠ .there p n)
  [(¬ fields, 0x12, va), (Leaves r d.xOff 0 d.xSize, 0x05, va64 d.xOff),
   (d.yScratch = true ∧ Leaves r d.y 0 (4 * d.rows), 0x05, va64 d.y), (TbLeaves r (u 0x24 4), 0x05, va64 (u 0x24 4))]

/-! ## Messages and records -/

/-- The next registration message from one end to another is `m`, of this kind. -/
def State.Next (s : State) (src dst : Node) (kind : MsgKind) (m : Msg) : Prop := s.firstMsg src dst = some m ∧ m.kind = kind
/-- The state once it has been taken. -/
def State.taking (s : State) (src dst : Node) : State := { s with net := removeFirst src dst s.net }
/-- A host record of this type that the running package takes up (R251, R261). -/
def State.Takes (s : State) (r : HostRec) (typ : Nat) : Prop :=
  s.pkg.boot = .running ∧ r.typ = typ ∧ r.len = 32 + r.body.length ∧ r.len % 8 = 0 ∧ r.len ≤ 65536
/-- A MGMT record for this operation that the running package takes up (R254). -/
def State.TakesMgmt (s : State) (r : HostRec) (op : Nat) : Prop := s.Takes r 0x0C ∧ 64 ≤ r.body.length ∧ mgOp r = op
/-- A request of service `n` that its service core takes up, with its job and die (R243, R260). -/
def State.Serves (s : State) (id : SkId) (n : Nat) (q : SvcReq) (j : Job) (die : Nat) : Prop :=
  s.request? id n = some q ∧ (s.slice q.slice).frozenService = false
    ∧ ∃ g, s.group? q.group = some g ∧ s.job? g.launch.job = some j ∧ dieOf g.core = die

/-- A pre-emption of this group alone gets its save area: its launch is not cooperative, and the service core that allocates it is not
frozen and has the pieces (R61; log 74). -/
def State.CanStop (s : State) (g : Group) : Prop :=
  (s.lrecOfGroup g).coop = false ∧ (s.slice (s.queueSlice g)).frozenService = false
    ∧ (s.allocPieces (s.queueSlice g) ((saveBytes (s.lrecOfGroup g) + 4095) / 4096)).isSome = true

/-- Requests of other packages (R223): what each lane of a vector request meets at this target, in order. -/
def State.laneFates (s : State) (j : Job) (kind n : Nat) (ls : List (Nat × Nat)) : State × List ((Nat × Nat) × Served) :=
  ls.foldl (fun ((s, acc) : State × List ((Nat × Nat) × Served)) x =>
    let (s, f) := s.targetFates j kind x.2 n
    (s, acc ++ [(x, f)])) (s, [])
/-- Lanes of a vector packet: number and address. -/
def Packet.laneVas (p : Packet) : List (Nat × Nat) := p.offsets.zipIdx.map fun (o, i) => (i, pfield p 0x10 8 + o)
/-- The next request of a kind from a package, with no held one of that kind ready (R219, R223). -/
def State.Asks (s : State) (spkg kind : Nat) (p : Packet) : Prop :=
  s.firstPacket spkg = some p ∧ p.kind = kind
    ∧ ∀ h ∈ s.fab.held, h.spkg = spkg → h.packet.kind = kind → (h.packet.asid, h.va.toNat / 4096 * 4096) ∈ s.faults
/-- A fabric manager's message of a kind, for this package and not seen before, is next at a port (R221). -/
def State.Manages (s : State) (port kind : Nat) (bs : List Byte) : Prop :=
  s.firstMgmt port = some bs ∧ forUs s bs = true ∧ fieldAt bs 4 1 = kind ∧ fieldAt bs 6 2 ∉ Tab.getD s.fab.mseqSeen (fieldAt bs 2 2) []

/-! ## Classes of events, by what they leave unchanged -/

/-- Readings, throttling and freezing (R56, R260, R263). -/
def heatEvent : Instr → Bool
  | .dieTemperatureThrottle .. | .dieTemperatureShutdown .. | .dramStackTemperature .. | .droopEvent .. | .packagePowerThreshold
  | .throttleClockStep | .throttleRecovery .. | .masterFreeze .. | .governorWindow .. => true
  | _ => false
/-- Every byte of DRAM keeps its value but for those of free pieces, and of pieces that `own` names (log 2). -/
def State.Keeps (s t : State) (own : List (Nat × Nat)) : Prop :=
  Memory.wf s.mem → ∀ key,
    (∀ sl p, p ∈ (s.slice sl).freePieces ∨ (sl < 32 ∧ (s.slice sl).nextPiece ≤ p ∧ p < stackPieces) ∨ (sl, p) ∈ own →
      key < physKey sl p 0 ∨ physKey sl p 4096 ≤ key) → Sparse.get 0 t.mem key = Sparse.get 0 s.mem key
/-- Links, flits, numbering and the fabric manager's messages (R214 to R221, R225, R226). -/
def linkEvent : Instr → Bool
  | .linkUp .. | .linkRetrainComplete .. | .linkAck .. | .linkNak .. | .creditUpdate .. | .laneErrorThreshold .. | .flitReceive ..
  | .endToEndAck _ | .endToEndAckSend | .packetRetransmitTimeout | .assign _ | .route _ | .query _ | .thresh _ | .retrain _
  | .mgmtPacketForward => true
  | _ => false
/-- Registration messages that complete no memory instruction and bring no byte home (R121 to R127). -/
def registrationEvent : Instr → Bool
  | .regMsg .. | .rdq .. | .seal .. | .fwd .. | .recall .. | .gone .. => true
  | _ => false
/-- What the host reads and sets without touching work that runs (R130, R250, R254 to R256, R259, R262, R289). -/
def managementEvent : Instr → Bool
  | .sensorRead _ | .thresholdSet _ | .raceLogRead _ | .codeKeyEnrol _ | .weightVolumeCreate _ | .weightVolumeDelete _ | .fabricSend _
  | .debuggerDetach _ | .attest _ | .featuresOk .. | .consoleInput | .registerWrite .. | .virtioBlkWrite .. | .virtioBlkRead ..
  | .virtioBlkFlush _ => true
  | _ => false
/-- Units of work that come to be or close (R22 to R27, R252, R415), but for launches. -/
def unitEvent : Instr → Bool
  | .jobOpen _ | .jobClose _ | .phaseOpen _ | .phaseClose _ | .graphOpen _ | .graphClose _ => true
  | _ => false

end Sys2Proof.Machine
end

