-- ==== Sys2Proof/Certificates/Slice0/Obligations.lean ====
section
/-! DEFINITION. The statements for the provers. Each names the rules of spec/ that it formalises; a clause that rests on a choice of
the model names its log entry. -/

open Sys2Proof Sys2Proof.Machine

/-! ## Integer words -/

/-- IADD, ISUB, IMIN, IMAX, IABS, ISAD (R344): the exact integer result of the operands, wrapped or clamped. IADDC (R345): the sum modulo
2^w in D, the carry in the predicate that C names, from the predicate as it was. -/
def Obligations.IntegerArithmeticResults : Prop :=
  (∀ f : RFmt,
     let t := f.t.toNat
     let n := pairOf f.t
     let a (o : Opnds) := operand t f.negA o.a
     let b (o : Opnds) := operand t f.negB o.b
     RRule (.iadd f) f ⟨n, n, n, 0⟩ f.immI (fun _ _ o x => x = intResult t f.sat (a o + b o))
     ∧ RRule (.isub f) f ⟨n, n, n, 0⟩ f.immI (fun _ _ o x => x = intResult t f.sat (a o - b o))
     ∧ RRule (.imin f) f ⟨n, n, n, 0⟩ f.immI (fun _ _ o x => x = intResult t false (min (a o) (b o)))
     ∧ RRule (.imax f) f ⟨n, n, n, 0⟩ f.immI (fun _ _ o x => x = intResult t false (max (a o) (b o)))
     ∧ RRule (.iabs f) f ⟨n, n, 0, 0⟩ 0 (fun _ _ o x => x = intResult t f.sat |operand t false o.a|)
     ∧ RRule (.isad f) f ⟨n, n, n, n⟩ f.immI (fun _ _ o x =>
         x = intResult t f.sat (|operand t false o.a - operand t false o.b| + operand t false o.c)))
  ∧ (∀ f : RFmt, WellFormed (.iaddc f) = true →
     let w := Arith.tBits f.t.toNat
     let n := pairOf f.t
     let sh : RShape := ⟨n, n, n, 0⟩
     ∀ (s : State) (c : Ctx), Issuing s c → f.regsOk sh (s.vlimit c.k) = true →
       let act := c.active f.g f.gn
       let sum (l : Nat) : Nat :=
         let o := f.opnds sh f.immI c.k l
         let b := lowBits f.t.toNat o.b
         (lowBits f.t.toNat o.a).toNat + (if f.flag0 then ~~~b else b).toNat + ((c.k.p (f.c.toNat % 8)).getLsbD l).toNat
       ∃ (k1 : Skein) (k' : Skein), LanesWritten c.k k1 act f.d.toNat n (fun l => BitVec.ofNat 64 (sum l % 2 ^ w))
         ∧ PredWritten k1 k' act (f.c.toNat % 8) (fun l => decide (2 ^ w ≤ sum l))
         ∧ exec (.iaddc f) s = .next (c.completed s k'))

/-- IMUL, IMULH, IMAD, IMADW (R347). -/
def Obligations.IntegerMultiplyResults : Prop := ∀ f : RFmt,
  let t := f.t.toNat
  let n := pairOf f.t
  let a (o : Opnds) := operand t f.negA o.a
  let b (o : Opnds) := operand t f.negB o.b
  RRule (.imul f) f ⟨n, n, n, 0⟩ f.immI (fun _ _ o x => x = intResult t f.sat (a o * b o))
  ∧ RRule (.imulh f) f ⟨n, n, n, 0⟩ f.immI (fun _ _ o x => x = intResult t false ((a o * b o) >>> Arith.tBits t))
  ∧ RRule (.imad f) f ⟨n, n, n, n⟩ f.immI (fun _ _ o x => x = intResult t f.sat (a o * b o + operand t f.flag0 o.c))
  ∧ (let w := if Arith.tSigned t then 7 else 6
     RRule (.imadw f) f ⟨2, 1, 1, 2⟩ f.immI (fun _ _ o x => x = intResult w f.sat (a o * b o + operand w f.flag0 o.c)))

/-! ## Bitwise words, shifts, fields, counts -/

/-- AND, ANDN (R301), OR, NOT (R365), XOR (R394), LMIX (R357); SHL, SHR, SAR, ROT (R378), FSHL (R335), whose count is B as an unsigned
32-bit number. -/
def Obligations.BitwiseResults : Prop := ∀ f : RFmt,
  let t := f.t.toNat
  let n := pairOf f.t
  let w := Arith.tBits t
  let cnt (o : Opnds) : Nat := (o.b.truncate 32).toNat
  let a (o : Opnds) := lowBits t o.a
  let b (o : Opnds) := lowBits t o.b
  RRule (.andOp f) f ⟨n, n, n, 0⟩ f.immI (fun _ _ o x => x = extended t (a o &&& b o))
  ∧ RRule (.andn f) f ⟨n, n, n, 0⟩ f.immI (fun _ _ o x => x = extended t (a o &&& ~~~b o))
  ∧ RRule (.orOp f) f ⟨n, n, n, 0⟩ f.immI (fun _ _ o x => x = extended t (a o ||| b o))
  ∧ RRule (.xorOp f) f ⟨n, n, n, 0⟩ f.immI (fun _ _ o x => x = extended t (a o ^^^ b o))
  ∧ RRule (.notOp f) f ⟨n, n, 0, 0⟩ 0 (fun _ _ o x => x = extended t (~~~a o))
  ∧ RRule (.lmix f) f ⟨1, 1, 1, 1⟩ f.immI (fun _ _ o x =>
      ∀ i, i < (if f.u then 64 else 32) →
        x.getLsbD i = (f.t ++ f.f).getLsbD ((o.a.getLsbD i).toNat + 2 * (o.b.getLsbD i).toNat + 4 * (o.c.getLsbD i).toNat))
  ∧ RRule (.shl f) f ⟨n, n, 1, 0⟩ f.immI (fun _ _ o x => x = extended t (lowBits t o.a <<< cnt o))
  ∧ RRule (.shr f) f ⟨n, n, 1, 0⟩ f.immI (fun _ _ o x => x = extended t (lowBits t o.a >>> cnt o))
  ∧ RRule (.sar f) f ⟨n, n, 1, 0⟩ f.immI (fun _ _ o x => x = extended t ((lowBits t o.a).sshiftRight (cnt o)))
  ∧ RRule (.rot f) f ⟨n, n, 1, 0⟩ f.immI (fun _ _ o x => x = extended t ((lowBits t o.a).rotateLeft (cnt o)))
  ∧ RRule (.fshl f) f ⟨n, n, 1, n⟩ f.immI (fun _ _ o x =>
      x = extended t (((lowBits t o.a ++ lowBits t o.c) <<< (cnt o % w)).extractLsb' w w))

/-- BFE, BFI (R307), whose position and length come from B's low two bytes, clamped to the width; POPC (R371), CLZ, BREV (R309) and
RBYTE (R373). -/
def Obligations.BitFieldResults : Prop := ∀ f : RFmt,
  let t := f.t.toNat
  let n := pairOf f.t
  let w := Arith.tBits t
  let pos (o : Opnds) : Nat := min (o.b.truncate 8).toNat w
  let len (o : Opnds) : Nat := min ((o.b >>> 8).truncate 8).toNat (w - pos o)
  RRule (.bfe f) f ⟨n, n, n, 0⟩ 0 (fun _ _ o x =>
    let y := lowBits t o.a
    ∀ i, i < w → x.getLsbD i =
      if i < len o then y.getLsbD (pos o + i) else Arith.tSigned t && decide (0 < len o) && y.getLsbD (pos o + len o - 1))
  ∧ RRule (.bfi f) f ⟨n, n, n, n⟩ 0 (fun _ _ o x =>
    ∀ i, i < w → x.getLsbD i =
      if pos o ≤ i ∧ i < pos o + len o then (lowBits t o.c).getLsbD (i - pos o) else (lowBits t o.a).getLsbD i)
  ∧ RRule (.popc f) f ⟨1, n, 0, 0⟩ 0 (fun _ _ o x => x.toNat = ((List.range w).filter fun i => (lowBits t o.a).getLsbD i).length)
  ∧ RRule (.clz f) f ⟨1, n, 0, 0⟩ 0 (fun _ _ o x => x.toNat ≤ w
      ∧ (∀ i, i < x.toNat → (lowBits t o.a).getLsbD (w - 1 - i) = false)
      ∧ (x.toNat < w → (lowBits t o.a).getLsbD (w - 1 - x.toNat) = true))
  ∧ RRule (.brev f) f ⟨n, n, 0, 0⟩ 0 (fun _ _ o x => x = extended t (lowBits t o.a).reverse)
  ∧ RRule (.rbyte f) f ⟨1, 1, 1, 1⟩ f.immI (fun _ _ o x => ∀ i, i < 4 →
      let sel := (o.b >>> (8 * i)).truncate 8
      let pool : W64 := (o.c.truncate 32 : W32) ++ (o.a.truncate 32 : W32)
      let y : BitVec 8 := (pool >>> (8 * (sel.toNat % 8))).truncate 8
      (x >>> (8 * i)).truncate 8 =
        if sel.toNat / 8 % 4 = 0 then y else if sel.toNat / 8 % 4 = 1 then 0
        else if sel.toNat / 8 % 4 = 2 then (if y.msb then 0xFF#8 else 0#8) else ~~~y)

/-! ## Comparison, selection, moves, predicates -/

/-- ICMP (R295, R346), SEL (R380), MOV (R359), LEA (R356); MOVI (R360): the 32-bit immediate is extended by the signedness of T; under
F64 it is an F32 value, widened. -/
def Obligations.CompareSelectMoveResults : Prop :=
  (∀ f : RFmt,
     let t := f.t.toNat
     let n := pairOf f.t
     let flt := t = 8 ∨ t = 14
     PRule (.icmp f) f ⟨0, n, n, 0⟩ f.immI (f.d.toNat % 8) (fun _ _ o =>
       let a := operand t false o.a
       let b := operand t false o.b
       match f.m.toNat with
       | 0 => decide (a = b) | 1 => decide (a ≠ b) | 2 => decide (a < b) | 3 => decide (a ≤ b) | 4 => decide (a > b) | _ => decide (a ≥ b))
     ∧ RRule (.sel f) f ⟨n, n, n, 0⟩ (if [8, 14].contains t then f.immF t else f.immI) (fun c l o x =>
         let y := lowBits t (if xor ((c.k.p (f.c.toNat % 8)).getLsbD l) f.flag0 then o.a else o.b)
         x = if flt then y.setWidth 64 else extended t y)
     ∧ RRule (.mov f) f ⟨n, 0, n, 0⟩ f.immI (fun _ _ o x => x = extended t (lowBits t o.b))
     ∧ RRule (.lea f) f ⟨2, 2, n, 0⟩ f.immI (fun _ _ o x =>
         x = o.a + (if f.bk = 2 then o.b else BitVec.ofInt 64 (operand t false o.b)) <<< f.c.toNat))
  ∧ (∀ f : WFmt, WellFormed (.movi f) = true → ∀ (s : State) (c : Ctx), Issuing s c →
     let n := pairOf f.t
     let x : W64 :=
       if f.t = 14 then BitVec.ofNat 64 (Arith.roundT 14 .rne false (Arith.valueOf 8 f.imm.toNat))
       else if f.t = 1 ∨ f.t = 7 then f.imm.signExtend 64 else f.imm.zeroExtend 64
     (f.u = false → vregOk (s.vlimit c.k) f.d.toNat n = true →
       ∃ (k' : Skein), LanesWritten c.k k' (c.active f.g f.gn) f.d.toNat n (fun _ => x) ∧ exec (.movi f) s = .next (c.completed s k'))
     ∧ (f.u = true → f.d.toNat < 64 →
       exec (.movi f) s = .next (c.completed s (if c.acts f.g f.gn then c.k.setS f.d.toNat x else c.k))))

/-- PLOP (R369), PMOV to a register and PMOV to predicates (R370), BALLOT (R305) and VCHK (R390). -/
def Obligations.PredicateWordResults : Prop :=
  (∀ f : RFmt,
     PRule (.plop f) f ⟨0, 0, 0, 0⟩ 0 (f.d.toNat % 8) (fun c l _ =>
       (f.t ++ f.f).getLsbD (((c.k.p f.c.toNat).getLsbD l).toNat + 2 * ((c.k.p f.b.toNat).getLsbD l).toNat
         + 4 * ((c.k.p f.a.toNat).getLsbD l).toNat))
     ∧ (f.flag0 = false → RRule (.pmov f) f ⟨1, 0, 0, 0⟩ 0 (fun c l _ x =>
         ∀ i, i < 64 → x.getLsbD i = (decide (i < 7) && (c.k.p i).getLsbD l)))
     ∧ (f.flag0 = true → WellFormed (.pmov f) = true → ∀ (s : State) (c : Ctx), Issuing s c → vregOk (s.vlimit c.k) f.a.toNat 1 = true →
         ∃ (k' : Skein), k' = { c.k with preds := k'.preds }
           ∧ (∀ l, l < 32 → ∀ i, i < 7 → (k'.p i).getLsbD l =
               if (c.active f.g f.gn).getLsbD l = true ∧ f.c.getLsbD i = true then (c.k.v f.a.toNat l).getLsbD i else (c.k.p i).getLsbD l)
           ∧ exec (.pmov f) s = .next (c.completed s k')))
  ∧ (∀ f : RFmt, ∀ (s : State) (c : Ctx), Issuing s c →
     let act := c.active f.g f.gn
     let holds (j : Nat) : Bool := xor ((c.k.p (f.a.toNat % 8)).getLsbD j) f.negA
     let h := s.h16 c.k
     (WellFormed (.ballot f) = true → f.regsOk ⟨1, 0, 0, 0⟩ (s.vlimit c.k) = true →
       (f.u = false → ∃ k' val, LanesWritten c.k k' act f.d.toNat 1 val ∧ exec (.ballot f) s = .next (c.completed s k')
         ∧ ∀ l, l < 32 → ∀ i, i < 32 → (val l).getLsbD i =
             (let j := if h then l / 16 * 16 + i else i
              (!h || decide (i < 16)) && act.getLsbD j && holds j))
       ∧ (f.u = true → ∃ x : W64, (∀ i, i < 64 → x.getLsbD i = (decide (i < 32) && c.x.mask.getLsbD i && holds i))
           ∧ exec (.ballot f) s = .next (c.completed s (if c.acts f.g f.gn then c.k.setS f.d.toNat x else c.k))))
     ∧ (WellFormed (.vchk f) = true → (f.u = true → f.d.toNat < 64) →
       let verdict (src : Nat → Prop) : Prop :=
         match f.c.toNat with
         | 0 => ∀ j, j < 32 → src j → holds j = true
         | 1 => ∃ j, j < 32 ∧ src j ∧ holds j = true
         | 2 => (∀ j, j < 32 → src j → holds j = true) ∨ (∀ j, j < 32 → src j → holds j = false)
         | _ => ∀ j, j < 32 → src j → holds j = false
       (f.u = false → ∃ k' v, PredWritten c.k k' act (f.d.toNat % 8) v ∧ exec (.vchk f) s = .next (c.completed s k')
         ∧ ∀ l, l < 32 → (v l = true ↔ verdict fun j => act.getLsbD j = true ∧ (h = false ∨ l / 16 = j / 16)))
       ∧ (f.u = true → ∃ b : Bool, (b = true ↔ verdict fun j => c.x.mask.getLsbD j = true)
           ∧ exec (.vchk f) s = .next (c.completed s (if c.acts f.g f.gn then c.k.setS f.d.toNat (if b then 1 else 0) else c.k)))))

/-! ## Floating point -/

/-- FADD, FSUB, FMUL (R329), FFMA, FDOT2, FDOT4 (R96, R333): the exact result of the operands, rounded once. -/
def Obligations.FloatArithmeticResults : Prop := ∀ f : RFmt,
  let t := f.t.toNat
  let n := pairOf f.t
  let a (o : Opnds) := fopnd t f.negA o.a
  let b (o : Opnds) := fopnd t f.negB o.b
  let round (t : Nat) (v : Arith.FVal) : W64 := BitVec.ofNat 64 (Arith.roundT t f.mode f.sat v)
  let products (cnt : Nat) (o : Opnds) : List Arith.FVal :=
    (List.range cnt).map fun i => Arith.mul (fopnd t f.negA (elem t i o.a)) (fopnd t f.negB (elem t i o.b))
  RRule (.fadd f) f ⟨n, n, n, 0⟩ (f.immF t) (fun _ _ o x => x = round t (Arith.exactSum f.mode [a o, b o]))
  ∧ RRule (.fsub f) f ⟨n, n, n, 0⟩ (f.immF t) (fun _ _ o x => x = round t (Arith.exactSum f.mode [a o, (b o).negate]))
  ∧ RRule (.fmul f) f ⟨n, n, n, 0⟩ (f.immF t) (fun _ _ o x => x = round t (Arith.mul (a o) (b o)))
  ∧ RRule (.ffma f) f ⟨n, n, n, n⟩ (f.immF t) (fun _ _ o x =>
      x = round t (Arith.exactSum f.mode [Arith.mul (a o) (b o), fopnd t f.flag0 o.c]))
  ∧ RRule (.fdot2 f) f ⟨1, 1, 1, 1⟩ 0 (fun _ _ o x =>
      x = round 8 (Arith.exactSum f.mode (products 2 o ++ [fopnd 8 f.flag0 o.c])))
  ∧ RRule (.fdot4 f) f ⟨1, 1, 1, 1⟩ 0 (fun _ _ o x =>
      x = round 8 (Arith.exactSum f.mode (products 4 o ++ [fopnd 8 f.flag0 o.c])))

/-- FCMP (R295, R330) and FCLASS (R331). FMIN and FMAX (R91, R329): one of the operands after negation, bit for bit, −0 below +0; a NaN
operand gives the other operand, or with `.prop` the canonical NaN. -/
def Obligations.FloatCompareResults : Prop :=
  (∀ f : RFmt,
     let t := f.t.toNat
     let n := pairOf f.t
     let fm := Arith.fmtOf t
     PRule (.fcmp f) f ⟨0, n, n, 0⟩ (f.immF t) (f.d.toNat % 8) (fun _ _ o =>
       let a := fopnd t f.negA o.a
       let b := fopnd t f.negB o.b
       let ordered := !a.isNan && !b.isNan
       match f.m.toNat with
       | 0 => ordered && Arith.eqVal a b
       | 1 => !(ordered && Arith.eqVal a b)
       | 2 => ordered && Arith.ltVal a b
       | 3 => ordered && (Arith.ltVal a b || Arith.eqVal a b)
       | 4 => ordered && Arith.ltVal b a
       | 5 => ordered && (Arith.ltVal b a || Arith.eqVal a b)
       | 6 => ordered
       | _ => !ordered)
     ∧ RRule (.fclass f) f ⟨1, n, 0, 0⟩ 0 (fun _ _ o x =>
       let y := lowBits t o.a
       let v := Arith.valueOf t y.toNat
       let e := y.toNat / 2 ^ fm.mb % 2 ^ fm.eb
       let m := y.toNat % 2 ^ fm.mb
       x = 1 <<< (if v.isNan then 8 else if v.isInf then (if y.msb then 0 else 7)
         else if e ≠ 0 then (if y.msb then 1 else 6) else if m ≠ 0 then (if y.msb then 2 else 5) else if y.msb then 3 else 4)))
  ∧ (∀ f : RFmt,
     let t := f.t.toNat
     let n := pairOf f.t
     let bits (neg : Bool) (x : W64) : Nat := (lowBits t x ^^^ (if neg then BitVec.intMin _ else 0)).toNat
     let rule (before : Arith.FVal → Arith.FVal → Bool) (o : Opnds) (x : W64) : Prop :=
       let a := bits f.negA o.a
       let b := bits f.negB o.b
       let va := Arith.valueOf t a
       let vb := Arith.valueOf t b
       if va.isNan ∨ vb.isNan then
         x.toNat = if (va.isNan ∧ vb.isNan) ∨ f.m = 1 then (Arith.fmtOf t).nanCode else if va.isNan then b else a
       else (x.toNat = a ∨ x.toNat = b) ∧ before va (Arith.valueOf t x.toNat) = false ∧ before vb (Arith.valueOf t x.toNat) = false
     RRule (.fmin f) f ⟨n, n, n, 0⟩ (f.immF t) (fun _ _ o x => rule Arith.ltMin o x)
     ∧ RRule (.fmax f) f ⟨n, n, n, 0⟩ (f.immF t) (fun _ _ o x => rule (fun u v => Arith.ltMin v u) o x))

/-- FRCP, FRSQ, FSQRT, FEXP2, FLOG2, FSIN, FCOS, FTANH (R95, R332). FRCP, FRSQ and FSQRT give the correctly rounded value: on both sides
of the exact one lie values that round to the result. Every function gives its special cases of R95, FEXP2 of an integer and FLOG2 of a
power of two exactly; elsewhere the last five give the model's arithmetic on 640 fraction bits (log 9). -/
def Obligations.SpecialFunctionResults : Prop := ∀ f : RFmt,
  let t := f.t.toNat
  let n := pairOf f.t
  let fm := Arith.fmtOf t
  let near (v : Arith.FVal) : Nat := Arith.roundTo fm .rne false v
  /- `y` is the rounding of every value between two, between which the exact result `P` lies -/
  let between (y : Nat) (P : ℚ → ℚ → Prop) : Prop := ∃ lo hi : Arith.FVal, near lo = y ∧ near hi = y ∧ P lo.rat hi.rat
  let rule (g : Arith.FFmt → Arith.FVal → Nat) (P : Arith.FVal → Nat → Prop) (_ : Ctx) (_ : Nat) (o : Opnds) (x : W64) : Prop :=
    let v := fopnd t f.negA o.a
    let y := g fm v
    x = BitVec.ofNat 64 y ∧ (v = .nan → y = fm.nanCode) ∧ P v y
  RRule (.frcp f) f ⟨n, n, 0, 0⟩ 0 (rule Arith.frcp fun v y => match v with
    | .nan => True | .inf neg => y = fm.signBit neg | .fin neg 0 _ => y = fm.infCode neg
    | .fin .. => between y fun lo hi => lo ≤ v.rat⁻¹ ∧ v.rat⁻¹ ≤ hi)
  ∧ RRule (.frsq f) f ⟨n, n, 0, 0⟩ 0 (rule Arith.frsq fun v y => match v with
    | .nan => True | .inf neg => y = if neg then fm.nanCode else 0 | .fin neg 0 _ => y = fm.infCode neg | .fin true _ _ => y = fm.nanCode
    | .fin false _ _ => between y fun lo hi => 0 ≤ lo ∧ lo * lo * v.rat ≤ 1 ∧ 0 ≤ hi ∧ 1 ≤ hi * hi * v.rat)
  ∧ RRule (.fsqrt f) f ⟨n, n, 0, 0⟩ 0 (rule Arith.fsqrt fun v y => match v with
    | .nan => True | .inf neg => y = if neg then fm.nanCode else fm.infCode false | .fin neg 0 _ => y = fm.signBit neg
    | .fin true _ _ => y = fm.nanCode
    | .fin false _ _ => between y fun lo hi => 0 ≤ lo ∧ lo * lo ≤ v.rat ∧ 0 ≤ hi ∧ v.rat ≤ hi * hi)
  ∧ RRule (.fexp2 f) f ⟨n, n, 0, 0⟩ 0 (rule Arith.fexp2 fun v y => match v with
    | .nan => True | .inf neg => y = if neg then 0 else fm.infCode false
    | .fin .. => ∀ k : Int, v.rat = k → y = near (.fin false 1 k))
  ∧ RRule (.flog2 f) f ⟨n, n, 0, 0⟩ 0 (rule Arith.flog2 fun v y => match v with
    | .nan => True | .inf neg => y = if neg then fm.nanCode else fm.infCode false | .fin _ 0 _ => y = fm.infCode true
    | .fin true _ _ => y = fm.nanCode
    | .fin false _ _ => ∀ k : Int, v.rat = (2 : ℚ) ^ k → y = near (.ofInt k))
  ∧ RRule (.fsin f) f ⟨n, n, 0, 0⟩ 0 (rule Arith.fsin fun v y => match v with
    | .nan => True | .inf _ => y = fm.nanCode | .fin neg m _ => m = 0 → y = fm.signBit neg)
  ∧ RRule (.fcos f) f ⟨n, n, 0, 0⟩ 0 (rule Arith.fcos fun v y => match v with
    | .nan => True | .inf _ => y = fm.nanCode | .fin _ m _ => m = 0 → y = near (.ofInt 1))
  ∧ RRule (.ftanh f) f ⟨n, n, 0, 0⟩ 0 (rule Arith.ftanh fun v y => match v with
    | .nan => True | .inf neg => y = near (.fin neg 1 0) | .fin neg m _ => m = 0 → y = fm.signBit neg)

/-- F2I (R93, R325), I2F (R343), FUNPK (R327), FRND (R328), HADD2, HMUL2, HFMA2 (R338); FCVT (R93, R94, R324) and FPACK (R326), where
under M = 101 each element rounded takes its lane's stream value and advances it. -/
def Obligations.FloatConversionResults : Prop :=
  (∀ f : RFmt,
     let t := f.t.toNat
     let src := f.c.toNat
     let n := pairOf f.t
     let i := f.immF t
     let halves (g : Arith.FVal → Arith.FVal → Arith.FVal → Arith.FVal) (o : Opnds) (x : W64) : Prop :=
       x.toNat < 2 ^ 32 ∧ ∀ e, e < 2 → (x.toNat / 2 ^ (16 * e)) % 2 ^ 16 = Arith.roundT t f.mode f.sat
         (g (fopnd t f.negA (o.a >>> (16 * e))) (fopnd t f.negB (o.b >>> (16 * e))) (fopnd t f.flag0 (o.c >>> (16 * e))))
     RRule (.f2i f) f ⟨n, pairOfCode src, 0, 0⟩ 0 (fun _ _ o x =>
       x = match fopnd src f.negA o.a with
         | .nan => 0
         | .inf neg => extended t (BitVec.ofInt _ (if neg then Arith.intMin t else Arith.intMax t))
         | .fin neg m e => intResult t true (Arith.roundInt f.mode neg m e))
     ∧ RRule (.i2f f) f ⟨n, pairOfCode src, 0, 0⟩ 0 (fun _ _ o x =>
       x = BitVec.ofNat 64 (Arith.roundT t f.mode f.sat (.ofInt (operand src false o.a))))
     ∧ RRule (.funpk f) f ⟨1, 1, 0, 0⟩ 0 (fun _ _ o x =>
       let w := Arith.tBits (src % 16)
       x = BitVec.ofNat 64 (Arith.roundT 8 .rne false (Arith.valueOf (src % 16) (o.a.toNat / 2 ^ (w * (src / 16)) % 2 ^ w))))
     ∧ RRule (.frnd f) f ⟨n, n, 0, 0⟩ 0 (fun _ _ o x =>
       x = BitVec.ofNat 64 (Arith.roundT t .rne false (match fopnd t f.negA o.a with
         | .fin neg m e => .fin neg (Arith.roundInt f.mode neg m e).natAbs 0
         | v => v)))
     ∧ RRule (.hadd2 f) f ⟨1, 1, 1, 0⟩ (i ||| (i <<< 16)) (fun _ _ o x => halves (fun a b _ => Arith.exactSum f.mode [a, b]) o x)
     ∧ RRule (.hmul2 f) f ⟨1, 1, 1, 0⟩ (i ||| (i <<< 16)) (fun _ _ o x => halves (fun a b _ => Arith.mul a b) o x)
     ∧ RRule (.hfma2 f) f ⟨1, 1, 1, 1⟩ (i ||| (i <<< 16)) (fun _ _ o x =>
         halves (fun a b c => Arith.exactSum f.mode [Arith.mul a b, c]) o x))
  ∧ (∀ f : RFmt, ∀ (s : State) (c : Ctx), Issuing s c →
     let t := f.t.toNat
     let n := pairOf f.t
     let act := c.active f.g f.gn
     let sr := f.m = 5
     let src := f.c.toNat
     let next (j : Nat) (x : W32) : W32 := if sr then Arith.advanceStream^[j] x else x
     let drawn (j : Nat) (k k' : Skein) (on : Nat → Prop) : Prop :=
       k' = { k with streams := k'.streams } ∧ ∀ l, l < 32 → (on l → k'.stream l = next j (k.stream l)) ∧ (¬ on l → k'.stream l = k.stream l)
     let u (j l : Nat) : Nat := if sr then (next j (c.k.stream l)).toNat else 0
     let cvt (l : Nat) : W64 :=
       BitVec.ofNat 64 (Arith.roundT t f.mode f.sat (fopnd src f.negA (c.k.opnd f.u (pairOfCode src) f.a.toNat l)) (u 0 l))
     (WellFormed (.fcvt f) = true → f.regsOk ⟨n, pairOfCode src, 0, 0⟩ (s.vlimit c.k) = true →
       (f.u = false → ∃ (k1 : Skein) (k' : Skein), LanesWritten c.k k1 act f.d.toNat n cvt ∧ drawn 1 k1 k' (fun l => act.getLsbD l = true)
         ∧ exec (.fcvt f) s = .next (c.completed s k'))
       ∧ (f.u = true → c.acts f.g f.gn = true → ∃ (k' : Skein), drawn 1 (c.k.setS f.d.toNat (cvt c.low)) k' (fun l => l = c.low)
         ∧ exec (.fcvt f) s = .next (c.completed s k'))
       ∧ (f.u = true → c.acts f.g f.gn = false → exec (.fcvt f) s = .next (c.completed s c.k)))
     ∧ (WellFormed (.fpack f) = true → f.regsOk ⟨1, 1, 1, 0⟩ (s.vlimit c.k) = true →
       let w := Arith.tBits t
       let p := src / 16
       let o (l : Nat) := f.opnds ⟨1, 1, 1, 0⟩ (f.immF 8) c.k l
       let e0 (l : Nat) : Nat := Arith.roundT t f.mode f.sat (fopnd 8 f.negA (o l).a) (u 0 l)
       let e1 (l : Nat) : Nat := Arith.roundT t f.mode f.sat (fopnd 8 f.negB (o l).b) (u 1 l)
       ∃ (val : Nat → W64) (k1 k' : Skein),
         (∀ l i, i < 32 → (val l).getLsbD i =
           if i / w = 2 * p then (e0 l).testBit (i % w) else if i / w = 2 * p + 1 then (e1 l).testBit (i % w)
           else (c.k.v f.d.toNat l).getLsbD i)
         ∧ LanesWritten c.k k1 act f.d.toNat 1 val ∧ drawn 2 k1 k' (fun l => act.getLsbD l = true)
         ∧ exec (.fpack f) s = .next (c.completed s k')))

/-- Rounding gives a finite value that the format holds back as its own code, in every mode (R90), and a value that is no number as
the canonical NaN of R91. -/
def Obligations.RoundingKeepsRepresentable : Prop :=
  ∀ t ∈ [8, 9, 10, 11, 12, 13, 14, 16, 17], ∀ (mode : Arith.Mode) (sat : Bool) (u : Nat), u < 2 ^ 32 →
    let f := Arith.fmtOf t
    (∀ x, x < 2 ^ (1 + f.eb + f.mb) → (f.value x).isNan = false → (f.value x).isInf = false → Arith.roundTo f mode sat (f.value x) u = x)
    ∧ Arith.roundTo f mode sat .nan u = f.nanCode

/-! ## Across lanes -/

/-- SLX (R79, R296, R381), which reads A as the issue cycle finds it, and LCNT's count in both forms (R351). -/
def Obligations.LaneExchangeResults : Prop := ∀ f : RFmt,
  (WellFormed (.slx f) = true → ∀ (s : State) (c : Ctx), Issuing s c → f.regsOk ⟨1, 1, 1, 0⟩ (s.vlimit c.k) = true →
    let w := if s.h16 c.k then 16 else 32
    ∃ k' val, LanesWritten c.k k' (c.active f.g f.gn) f.d.toNat 1 val ∧ exec (.slx f) s = .next (c.completed s k')
      ∧ ∀ l, l < 32 →
        let b := (f.opnds ⟨1, 1, 1, 0⟩ f.immI c.k l).b.toNat
        let base := l / w * w
        let off : Int := (l : Int) + ((BitVec.ofNat 6 b).toInt)
        val l = (c.k.atCycle.v f.a.toNat (match f.m.toNat with
          | 0 => base + b % w
          | 1 => base + (l + b) % w
          | 2 => if (base : Int) ≤ off ∧ off < base + w then off.toNat else l
          | _ => l ^^^ (b % w))).zeroExtend 64)
  ∧ (WellFormed (.lcnt f) = true → ∀ (s : State) (c : Ctx), Issuing s c → f.regsOk ⟨if f.flag0 then 0 else 1, 0, 0, 0⟩ (s.vlimit c.k) = true →
    let act := c.active f.g f.gn
    let counted (l j : Nat) : Bool := act.getLsbD j && (!s.h16 c.k || l / 16 == j / 16) && xor ((c.k.p (f.a.toNat % 8)).getLsbD j) f.negA
    let cnt (l : Nat) (p : Nat → Bool) : W64 := BitVec.ofNat 64 ((List.range 32).filter fun j => counted l j && p j).length
    (act = 0 → exec (.lcnt f) s = .next (c.completed s c.k))
    ∧ (act ≠ 0 → f.flag0 = true →
        exec (.lcnt f) s = .next (c.completed s (c.k.setS f.d.toNat (cnt (Mask.lowest act) fun _ => true))))
    ∧ (act ≠ 0 → f.flag0 = false → ∃ (k' : Skein), LanesWritten c.k k' act f.d.toNat 1 (fun l => cnt l fun j => decide (j < l))
        ∧ exec (.lcnt f) s = .next (c.completed s k')))

/-- LRED (R349) and LSCAN (R350): the operation over the lanes of Active() in the lane's half; over none, its identity. A float sum is the
exact sum of the lanes, rounded once; a float minimum or maximum is the bits of one of the lanes that hold a number, before or behind which
none of them lies, −0 below +0 (R91), or the canonical NaN where every lane holds one. -/
def Obligations.LaneReductionResults : Prop := ∀ f : RFmt, ∀ (s : State) (c : Ctx), Issuing s c →
  let t := f.t.toNat
  let n := pairOf f.t
  let act := c.active f.g f.gn
  let half (l j : Nat) : Bool := act.getLsbD j && (!s.h16 c.k || l / 16 == j / 16)
  let bits (j : Nat) : Nat := redOpnd f c.k j
  let int (j : Nat) : Int := intVal t (BitVec.ofNat _ (bits j))
  /- the result `x` of operation M over the lanes of `ls` -/
  let combined (ls : List Nat) (x : W64) : Prop :=
    if t = 8 ∨ t = 14 then
      let v (j : Nat) : Arith.FVal := Arith.valueOf t (bits j)
      let extreme (none_ : Nat) (before : Arith.FVal → Arith.FVal → Bool) : Prop :=
        if ls = [] then x = BitVec.ofNat 64 none_
        else if ls.all (fun j => (v j).isNan) = true then x = BitVec.ofNat 64 (Arith.fmtOf t).nanCode
        else ∃ i ∈ ls, (v i).isNan = false ∧ x = BitVec.ofNat 64 (bits i) ∧ ∀ j ∈ ls, (v j).isNan = false → before (v j) (v i) = false
      match f.m.toNat with
      | 0 => x = if ls = [] then 0 else BitVec.ofNat 64 (Arith.roundT t .rne false (Arith.exactSum .rne (ls.map v)))
      | 1 => extreme ((Arith.fmtOf t).infCode false) Arith.ltMin
      | 2 => extreme ((Arith.fmtOf t).infCode true) fun a b => Arith.ltMin b a
      | _ => True
    else match f.m.toNat with
      | 0 => x = intResult t f.sat (ls.map int).sum
      | 1 => if ls = [] then x = intResult t false (Arith.intMax t) else ∃ i ∈ ls, x = intResult t false (int i) ∧ ∀ j ∈ ls, int i ≤ int j
      | 2 => if ls = [] then x = intResult t false (Arith.intMin t) else ∃ i ∈ ls, x = intResult t false (int i) ∧ ∀ j ∈ ls, int j ≤ int i
      | 3 => ∃ y, x = extended t y ∧ ∀ i, i < Arith.tBits t → y.getLsbD i = ls.all fun j => (bits j).testBit i
      | 4 => ∃ y, x = extended t y ∧ ∀ i, i < Arith.tBits t → y.getLsbD i = ls.any fun j => (bits j).testBit i
      | _ => ∃ y, x = extended t y ∧ ∀ i, i < Arith.tBits t → y.getLsbD i = (ls.filter fun j => (bits j).testBit i).length.bodd
  (WellFormed (.lred f) = true → f.regsOk ⟨if f.flag0 then 0 else n, n, 0, 0⟩ (s.vlimit c.k) = true →
    ∃ val : Nat → W64, (∀ l, l < 32 → combined ((List.range 32).filter (half l)) (val l))
      ∧ (act = 0 → exec (.lred f) s = .next (c.completed s c.k))
      ∧ (act ≠ 0 → f.flag0 = true → exec (.lred f) s = .next (c.completed s (c.k.setS f.d.toNat (val (Mask.lowest act)))))
      ∧ (act ≠ 0 → f.flag0 = false → ∃ (k' : Skein), LanesWritten c.k k' act f.d.toNat n val ∧ exec (.lred f) s = .next (c.completed s k')))
  ∧ (WellFormed (.lscan f) = true → f.regsOk ⟨n, n, 0, 0⟩ (s.vlimit c.k) = true →
    ∃ val : Nat → W64, (∀ l, l < 32 →
        combined ((List.range 32).filter fun j => half l j && (decide (j < l) || (j == l && !f.flag0))) (val l))
      ∧ ∃ (k' : Skein), LanesWritten c.k k' act f.d.toNat n val ∧ exec (.lscan f) s = .next (c.completed s k'))

/-! ## Special registers -/

/-- RDSR (R79, R85, R86, R374): every special register by its number; numbers 21 to 63 read 0. -/
def Obligations.RdsrResults : Prop := ∀ f : RFmt, WellFormed (.rdsr f) = true → ∀ (s : State) (c : Ctx), Issuing s c →
  let n := f.a.toNat
  let h := s.h16 c.k
  let r := s.lrecOf c.k
  let g := (s.group? c.k.group).getD default
  let act := c.active f.g f.gn
  let mask (l : Nat) : Mask := if !h then act else if l < 16 then act &&& 0xFFFF else act >>> 16
  let value (l : Nat) : W64 := match n with
    | 0 => BitVec.ofNat 64 (if h then l % 16 else l)
    | 1 => BitVec.ofNat 64 (if h then 2 * c.k.index + l / 16 else c.k.index)
    | 2 => BitVec.ofNat 64 g.lin
    | 3 => BitVec.ofNat 64 (g.lin % r.gx)
    | 4 => BitVec.ofNat 64 (g.lin / r.gx % r.gy)
    | 5 => BitVec.ofNat 64 (g.lin / (r.gx * r.gy))
    | 6 => BitVec.ofNat 64 (c.id.core % 128)
    | 7 => BitVec.ofNat 64 (c.id.core / 128)
    | 8 => BitVec.ofNat 64 s.pkg.id
    | 9 => BitVec.ofNat 64 c.st
    | 10 => (mask l).zeroExtend 64
    | 11 => BitVec.ofNat 64 s.clock
    | 12 => BitVec.ofNat 64 (s.clock * 4 / 5)
    | 13 => BitVec.ofNat 64 r.scratch
    | 14 => c.k.privBase
    | 15 => c.k.trapFrame
    | 16 => BitVec.ofNat 64 c.k.joinLost.toNat
    | 17 => BitVec.ofNat 64 (c.k.raceTrap.toNat + 2 * c.k.raceReport.toNat)
    | 18 => BitVec.ofNat 64 ((if c.id.core % 2 = 0 then c.id.core + 1 else c.id.core - 1) % 128)
    | 19 => c.k.seed.zeroExtend 64
    | 20 => BitVec.ofNat 64 g.stage
    | _ => 0
  let regs := if n ∈ [2, 11, 12, 14, 15] then 2 else 1
  (f.u = false → vregOk (s.vlimit c.k) f.d.toNat regs = true →
    ∃ (k' : Skein), LanesWritten c.k k' act f.d.toNat regs value ∧ exec (.rdsr f) s = .next (c.completed s k'))
  ∧ (f.u = true → f.d.toNat < 64 →
    exec (.rdsr f) s = .next (c.completed s (if c.acts f.g f.gn then c.k.setS f.d.toNat (value c.low) else c.k)))

/-- WRSR (R85, R86, R94, R374): SR_JOINLOST is cleared by a 0 in bit 0, SR_RACECTL takes bits 0 and 1, SR_SEED takes bits [31:0] and
seeds every lane's stream; a read-only or reserved number takes trap 0x14, and a word that does not act changes nothing. -/
def Obligations.WrsrResults : Prop := ∀ f : RFmt, WellFormed (.wrsr f) = true → ∀ (s : State) (c : Ctx), Issuing s c →
  f.regsOk ⟨0, 0, 1, 0⟩ (s.vlimit c.k) = true →
  let n := f.a.toNat
  let act := c.active f.g f.gn
  let acts := if f.u then c.acts f.g f.gn = true else act ≠ 0
  let x : W64 := if f.u then c.k.s f.b.toNat else (c.k.v f.b.toNat (Mask.lowest act)).zeroExtend 64
  (¬ acts → exec (.wrsr f) s = .next (c.completed s c.k))
  ∧ (acts → n = 16 → exec (.wrsr f) s = .next (c.completed s { c.k with joinLost := c.k.joinLost && x.getLsbD 0 }))
  ∧ (acts → n = 17 → exec (.wrsr f) s = .next (c.completed s { c.k with raceTrap := x.getLsbD 0, raceReport := x.getLsbD 1 }))
  ∧ (acts → n = 19 → ∃ (k' : Skein), k' = { c.k with seed := x.truncate 32, streams := k'.streams }
      ∧ (∀ l, l < 32 → let y := x.truncate 32 ^^^ BitVec.ofNat 32 ((l + 1) * 0x9E3779B9)
          k'.stream l = if y = 0 then 1 else y)
      ∧ exec (.wrsr f) s = .next (c.completed s k'))
  ∧ (acts → n ∉ [16, 17, 19] → s.unperformed c.id c.st = [] → exec (.wrsr f) s = .next (c.trapped s 0x14 act 0 0))

/-! ## What completing a word changes, and what it does not -/

/-- The registers of a skein (R82): s0 reads 0 and discards writes, p7 reads true and discards writes, and a write to any other
register of a file gives that register the value and leaves the others alone. A word whose register fields R83 forbids takes trap 0x01
with no effect, once the strand's earlier accesses are performed (R83, R235, R294). -/
def Obligations.RegisterFileRules : Prop :=
  (∀ (k : Skein) (i j : Nat),
    k.s 0 = 0 ∧ k.p 7 = 0xFFFFFFFF
    ∧ (∀ x, k.setS 0 x = k) ∧ (∀ m, k.setP 7 m = k)
    ∧ (∀ x, i ≠ 0 → (k.setS i x).s j = if j = i then x else k.s j)
    ∧ (∀ m, i < 7 → (k.setP i m).p j = if j = i then m else k.p j)
    ∧ (∀ m, (k.setRejoin i m).rejoin j = if j = i then m else k.rejoin j)
    ∧ (∀ h, (k.setHandle i h).handle j = if j = i then h else k.handle j)
    ∧ (∀ x r q l m, l < 32 → m < 32 → (k.setV r l x).raw q m = if q = r ∧ m = l then x else k.raw q m))
  ∧ (∀ i f sh, rForm i = some (f, sh) → WellFormed i = true →
    ∀ (s : State) (c : Ctx), Issuing s c → f.regsOk sh (s.vlimit c.k) = false → s.unperformed c.id c.st = [] →
      exec i s = .next (c.trapped s 0x01 c.guarded 0 0))

/-- The frame of every word that completes with a skein `k'` (R70 to R76, R78, R264): nothing of the package changes but this skein, which
keeps all that `k'` gives it except how its lanes are divided among strands, and the lanes behind which its accesses in flight count, which
a lost-reconvergence release may add to; and a strand that is alone in its skein and in the middle of
a block goes on at the next word (R67, R234). -/
def Obligations.CompletedFrame : Prop :=
  (∀ s c k', Issuing s c → k'.strands = c.k.strands → c.k.Shallow →
     let t := c.completed s k'
     t = { s with cur := none, skeins := t.skeins, memops := t.memops }
     ∧ (∃ g : List Nat → List Nat, t.memops = s.memops.map fun (o : MemOp) => if o.sk = c.id then { o with strands := g o.strands } else o)
     ∧ (∀ id, id ≠ c.id → t.skein? id = s.skein? id)
     ∧ ∃ (k'' : Skein), t.skein? c.id = some k''
       ∧ k'' = { k' with strands := k''.strands, records := k''.records, joinLost := k''.joinLost, pendErrs := k''.pendErrs })
  ∧ (∀ s c k', Issuing s c → c.k.Alone c.st c.x →
     k'.strands = c.k.strands → k'.records = c.k.records →
     ∃ (k'' : Skein), (c.completed s k').skein? c.id = some k'' ∧ k''.strand? c.st = some { c.x.retired with pc := c.x.pc + 8 }
       ∧ k''.live = [(c.st, c.x.retired)])

/-! ## Control flow -/

/-- NOP (R364), YIELD (R395), RJSET, RJDROP and RJOIN (R74). -/
def Obligations.NopYieldRejoinComplete : Prop := ∀ (f : CFmt) (s : State) (c : Ctx), Issuing s c →
  let act := c.active f.g f.gn
  let n := f.rj.toNat
  let w := act &&& c.k.rejoin n
  exec (.nop f) s = .next (c.completed s c.k)
  ∧ (act = 0 ∨ f.imm = 0 → exec (.yield f) s = .next (c.completed s c.k))
  ∧ (act ≠ 0 → f.imm ≠ 0 → ∃ (t : State), exec (.yield f) s = .next t ∧ (c.k.Alone c.st c.x →
      ∃ (k' : Skein), t.skein? c.id = some k' ∧ k'.strand? c.st = some { c.x.retired with wait := .delay (s.clock + f.imm.toNat) }))
  ∧ (act = 0 → exec (.rjset f) s = .next (c.completed s c.k))
  ∧ (act ≠ 0 → exec (.rjset f) s = .next (c.completed s (c.k.setRejoin n (if f.imm = 1 then act else (c.k.s f.sx.toNat).truncate 32))))
  ∧ exec (.rjdrop f) s = .next (c.completed s (c.k.setRejoin n (c.k.rejoin n &&& ~~~act)))
  ∧ (w = 0 → exec (.rjoin f) s = .next (c.completed s c.k))
  ∧ (w ≠ 0 → stackDepth c.x.nest = 0 → c.x.mask &&& ~~~w = 0 → exec (.rjoin f) s = .next (s.waitAt c.id c.st (.rjoin n)))
  ∧ (∀ e, w ≠ 0 → stackDepth c.x.nest = 0 → c.x.mask &&& ~~~w ≠ 0 → c.k.freeEntry = some e →
      ∃ (k' : Skein), exec (.rjoin f) s = .next (((s.forkOps c.id c.st e).setSkein c.id k').waitAt c.id c.st (.rjoin n))
        ∧ (∃ (y : Strand), k'.strand? e = some y ∧ y.mask = c.x.mask &&& ~~~w ∧ y.pc = c.x.pc + 8 ∧ y.wait = .none)
        ∧ k'.strand? c.st = some { c.x with mask := c.x.mask &&& ~~~(c.x.mask &&& ~~~w) })
  ∧ (w ≠ 0 → stackDepth c.x.nest = 0 → c.x.mask &&& ~~~w ≠ 0 → c.k.freeEntry = none →
      exec (.rjoin f) s = .next (s.waitAt c.id c.st (.rjoin n)))
  ∧ (w ≠ 0 → stackDepth c.x.nest ≠ 0 → exec (.rjoin f) s =
      .next (((s.setSkein c.id (c.k.setRejoin n (c.k.rejoin n &&& ~~~w))).reportLost c.id c.low).retire c.id c.st))

/-- BRA, BRC, BRU, BRX, CALL, CALLX, RET (R310 to R315, R376) whose lanes all take one target that holds a header: the strand stands
at it, and CALL and CALLX leave PC + 8 in their link register; a branch that is not taken completes. BRC whose condition holds in some
lanes only (R69, R70, R312): with a free entry of the split table the lanes that take the branch go on there at its target, the others in
their own entry, and a join record holds them together. -/
def Obligations.BranchesGoToTheirTarget : Prop :=
  (∀ (f : CFmt) (s : State) (c : Ctx), Issuing s c →
     let rel : W64 := c.x.pc + 8 * f.off.signExtend 64
     let linked (k : Skein) : Skein := k.setS f.sx.toNat (c.x.pc + 8)
     let taken := c.x.mask &&& c.k.guard f.g f.gn
     let r := f.imm.toNat % 512
     let goes (i : Instr) (target : W64) (link : Skein → Skein) : Prop :=
       ∀ s1, s.targets (s.jobOf c.k) (dieOf c.id.core) c.k.trap.isSome [target] = (s1, .ok) →
         exec i s = .next (c.landed (s1.setSkein c.id (link c.k)) target)
     goes (.bra f) rel id ∧ goes (.call f) rel linked ∧ goes (.ret f) (c.k.s f.sx.toNat) id
     ∧ (taken = 0 → exec (.brc f) s = .next (c.completed s c.k))
     ∧ (taken ≠ 0 → taken = c.x.mask → goes (.brc f) rel id)
     ∧ (let a := (c.k.s f.sx.toNat).toInt
        let cond := match f.imm.toNat with | 0 => a = 0 | 1 => a ≠ 0 | 2 => a < 0 | 3 => a ≤ 0 | 4 => a > 0 | _ => a ≥ 0
        (cond → goes (.bru f) rel id) ∧ (¬ cond → exec (.bru f) s = .next (c.completed s c.k))
        ∧ (6 ≤ f.imm.toNat % 8 → WellFormed (.bru f) = false))
     ∧ (f.imm.getLsbD 9 = false → r < 64 → goes (.brx f) (c.k.s r) id ∧ goes (.callx f) (c.k.s r) linked)
     ∧ (f.imm.getLsbD 9 = true → vregOk (s.vlimit c.k) r 2 = true → c.x.mask ≠ 0 →
         ∀ target, (∀ l, l < 32 → c.x.mask.getLsbD l = true → c.k.v64 r l = target) →
           goes (.brx f) target id ∧ goes (.callx f) target linked))
  ∧ (∀ (f : CFmt) (s : State) (c : Ctx) (s1 s2 : State) (e : Nat), Issuing s c →
     let rel : W64 := c.x.pc + 8 * f.off.signExtend 64
     let taken := c.x.mask &&& c.k.guard f.g f.gn
     taken ≠ 0 → taken ≠ c.x.mask → c.k.freeEntry = some e →
     s.targets (s.jobOf c.k) (dieOf c.id.core) c.k.trap.isSome [rel] = (s1, .ok) →
     (match c.x.joinPc with
       | some jp => s1.targets (s.jobOf c.k) (dieOf c.id.core) false [jp] = (s2, .ok)
       | none => s2 = s1) →
     ∃ (s3 : State) (k' : Skein), exec (.brc f) s = .next (s3.retire c.id c.st) ∧ s3.skein? c.id = some k'
       ∧ (∃ (y : Strand), k'.strand? e = some y ∧ y.mask = taken ∧ y.pc = rel ∧ y.blk = none ∧ y.wait = .none ∧ y.count = c.x.count
           ∧ y.nest.head? = some (.join s2.nextName))
       ∧ (∃ (y : Strand), k'.strand? c.st = some y ∧ y.mask = c.x.mask &&& ~~~taken ∧ y.pc = c.x.pc
           ∧ y.nest = .join s2.nextName :: ((c.k.recordRoom.strand? c.st).getD c.x).nest)
       ∧ k'.records = c.k.recordRoom.records ++ [⟨s2.nextName, c.x.mask, c.x.joinPc, 0⟩]
       ∧ k'.vregs = c.k.vregs ∧ k'.sregs = c.k.sregs ∧ k'.preds = c.k.preds)

/-- BLOCK_HEADER (R24, R58, R67, R68): a header in its place opens its block of LEN words, an S header resets the safe-point count; one
that breaks R68 takes trap 0x03 at its own VA, and where it is the first that a skein of its group meets, the group notes it (R24). -/
def Obligations.HeaderOpensBlock : Prop := ∀ (h : HFmt) (s : State) (c : Ctx), Issuing s c →
  let fits := c.x.atHeader = true ∧ h.len ≠ 0 ∧ h.rsv = 0 ∧ s.revOk c.k h = true
  (fits → ∃ (t : State), exec (.blockHeader h) s = .next t ∧ (c.k.Alone c.st c.x → ∃ (k' : Skein), t.skein? c.id = some k'
    ∧ k'.strand? c.st = some { c.x.retired with blk := some ⟨c.x.pc, h, h.len.toNat⟩, count := if h.s then 0 else c.x.count }))
  ∧ (¬ fits → s.unperformed c.id c.st = [] → exec (.blockHeader h) s =
      .next (c.trapped (s.noteBadEntry c.id c.k) 0x03 c.x.mask c.x.pc 0))

/-- EXIT (R73, R237, R321): with lanes left, the exiting lanes leave the skein and every rejoin register; the last lanes of a skein
that has nothing outstanding take the skein with them. -/
def Obligations.ExitRemovesLanes : Prop := ∀ (f : CFmt) (s : State) (c : Ctx), Issuing s c →
  let x := c.active f.g f.gn
  let left := ~~~c.k.exited &&& ~~~x
  (x = 0 → exec (.exitOp f) s = .next (c.completed s c.k))
  ∧ (x ≠ 0 → left ≠ 0 → ∃ (t : State) (k' : Skein), exec (.exitOp f) s = .next t ∧ t.skein? c.id = some k' ∧ k'.exited = c.k.exited ||| x
      ∧ k'.trap = c.k.trap.filter (·.strand != c.st)
      ∧ (∀ n, k'.rejoin n = c.k.rejoin n &&& ~~~x) ∧ k'.vregs = c.k.vregs ∧ k'.sregs = c.k.sregs ∧ k'.preds = c.k.preds)
  ∧ (x ≠ 0 → left = 0 → c.k.quiet = true → c.k.failed = [] → c.k.pendErrs = [] →
      ∃ (t : State), exec (.exitOp f) s = .next t ∧ t.skein? c.id = none)

/-! ## Traps -/

/-- Taking a trap (R234 to R237): with the frame written, the trapping strand stands at the launch's trap vector before a header, and the
skein is in trap mode with every register as it was; the frame's words hold good check bits (R174). -/
def Obligations.TrapEntry : Prop := ∀ (s : State) (id : SkId) (t : TrapInfo) (iw : W64) (k : Skein) (x : Strand) (s1 : State),
  s.skein? id = some k → k.strand? t.strand = some x → k.trap = none → k.svcWait = none → k.paired = none →
  ¬ ((t.cause = 0x0E ∨ t.cause = 0x0F) ∧ s.debugged k = true) →
  State.privWrite { s with cur := none } (s.jobOf k) (dieOf id.core) k.trapFrame.toNat (State.frameBytes { s with cur := none } k x t iw) = .ok s1 →
  ∃ (k' : Skein), s.takeTrap id t iw = (s1.cleanWords (s1.asidOf k) (wholeWords k.trapFrame.toNat 0x500)).setSkein id k'
    ∧ k'.trap = some ⟨t.pc, t.strand, t.cause, none, x.blk, x.mask, x.brkPassed, x.passNamed⟩
    ∧ k'.strand? t.strand = some { x with
        pc := (s1.lrecOf k).trapvec, blk := none, count := 0, wait := .none, replay := none, act0 := none, part := none, brkPassed := false
        passNamed := false, atSafe := false }
    ∧ (∀ i, i ≠ t.strand → k'.strand? i = k.strand? i)
    ∧ k' = { k with trap := k'.trap, strands := k'.strands }

/-- The trap frame (R236): 1,280 bytes, each field at its offset. -/
def Obligations.TrapFrameLayout : Prop := ∀ (s : State) (k : Skein) (x : Strand) (t : TrapInfo) (iw : W64),
  let bs := State.frameBytes s k x t iw
  let at_ (off n : Nat) : Nat := ofBytesLE ((bs.drop off).take n)
  bs.length = 0x500
  ∧ at_ 0x000 8 = t.pc.toNat ∧ at_ 0x008 8 = (if t.next then 0 else iw.toNat) ∧ at_ 0x010 4 = t.cause % 2 ^ 32
  ∧ at_ 0x018 4 = t.unfin.toNat ∧ at_ 0x01C 4 = t.strand % 2 ^ 32 ∧ at_ 0x020 8 = t.fva.toNat
  ∧ (∀ i, i < 7 → at_ (0x028 + 4 * i) 4 = (k.p i).toNat) ∧ at_ 0x044 4 = 0 ∧ at_ 0x048 8 = t.info.toNat
  ∧ (∀ i, i < 48 → at_ (0x050 + i) 1 = 0) ∧ (∀ i, i < 256 → at_ (0x200 + i) 1 = 0)
  ∧ (∀ i, i < 64 → at_ (0x300 + 8 * i) 8 = (k.s i).toNat)
  ∧ (t.next = true ∨ isHeader iw = true → at_ 0x014 4 = x.mask.toNat ∧ ∀ i, i < 384 → at_ (0x080 + i) 1 = 0)
  ∧ (t.next = false → isHeader iw = false →
      at_ 0x014 4 = (x.mask &&& k.guard (fld iw 51 3) (flag iw 50)).toNat)

/-- TRAP, BKPT (R234, R238, R308, R388) trap after the word, with its immediate as INFO; UDF, every other word of major 0x3F and every
unassigned word (R292, R293) take 0x01, and every word of majors 0x16 and 0x17 takes 0x02 (R241), at the word; RTE outside trap mode takes 0x14 (R238). -/
def Obligations.TrapWords : Prop := ∀ (s : State) (c : Ctx), Issuing s c → s.unperformed c.id c.st = [] →
  let after (cause : Nat) (imm : BitVec 16) : State :=
    ((s.modStrand c.id c.st Strand.retired).takeTrap c.id ⟨cause, c.x.pc + 8, 0, 0, imm.zeroExtend 64, true, c.st⟩ 0).settle c.id
  (∀ f : CFmt, c.active f.g f.gn ≠ 0 →
    exec (.trapOp f) s = .next (after 0x10 f.imm) ∧ exec (.bkpt f) s = .next (after 0x0E f.imm))
  ∧ (∀ f : CFmt, c.active f.g f.gn = 0 →
    exec (.trapOp f) s = .next (c.completed s c.k) ∧ exec (.bkpt f) s = .next (c.completed s c.k))
  ∧ (∀ r, exec (.udf r) s = .next (c.trapped s 0x01 c.guarded 0 0))
  ∧ (∀ w, exec (.illegalInstructionWord w) s = .next (c.trapped s 0x01 c.guarded 0 0))
  ∧ (∀ w, exec (.retiredB5Operation w) s = .next (c.trapped s 0x02 c.guarded 0 0))
  ∧ (∀ w : W64, w.toNat / 2 ^ 58 = 0x3F → exec (decode w) s = .next (c.trapped s 0x01 c.guarded 0 0))
  ∧ decode 0xFFF8000000000000 = .udf (fld 0xFFF8000000000000 0 54)
  ∧ (∀ w : W64, w.toNat / 2 ^ 58 = 0x16 ∨ w.toNat / 2 ^ 58 = 0x17 → exec (decode w) s = .next (c.trapped s 0x02 c.guarded 0 0))
  ∧ (∀ f, c.k.trapOf c.st = none → exec (.rte f) s = .next (c.trapped s 0x14 c.x.mask 0 0))

/-- RTE in trap mode (R239): once its checks are passed, s1 to s63 and p0 to p6 come from the frame, RESULT goes to D of IW in the lanes of
RVALID, trap mode ends, and the trapped strand stands at the frame's PC, replaying for the frame's unfinished lanes where that is the PC at
entry. A failed check is a double trap, which ends the launch. -/
def Obligations.RteReturns : Prop := ∀ (f : CFmt) (s : State) (c : Ctx) (t : TrapMode) (s1 : State), Issuing s c →
  c.k.trapOf c.st = some t → s.unperformed c.id c.st = [] →
  (∀ fr : FrameIn, s.rteCheck c.id c.k t = (s1, .ok fr) →
    let k' := c.k.restoreFrame t fr
    exec (.rte f) s = .next ((({ s1 with cur := none }.setSkein c.id k').settle c.id).holdErrsOf c.id [c.st])
    ∧ k'.trap = none ∧ (∀ i, i < 7 → k'.p i = fr.preds.getD i 0) ∧ (∀ i, 1 ≤ i → i < 64 → k'.s i = fr.sregs.getD i 0)
    ∧ (∀ l, l < 32 → ∀ r, r < 512 → fr.rvalid.getLsbD l = false ∨ r ≠ (decR fr.iw).d.toNat → k'.raw r l = c.k.raw r l)
    ∧ (∀ l, l < 32 → fr.rvalid.getLsbD l = true → k'.raw (decR fr.iw).d.toNat l = fr.result.getD l 0)
    ∧ (∀ x, c.k.strand? t.strand = some x → ∃ (y : Strand), k'.strand? t.strand = some y ∧ y.pc = fr.pc ∧ y.mask = x.mask
        ∧ y.replay = if fr.pc = t.entryPc ∧ fr.unfin ≠ 0 then some (false, fr.unfin) else none))
  ∧ (s.rteCheck c.id c.k t = (s1, .bad) → exec (.rte f) s = .next (s1.doubleTrap c.id t.cause c.x.pc 0))

/-- SVC (R243, R386): with nothing outstanding and no other strand in a wait that refuses it, the skein leaves its slot, and a request with
its service number and s2 to s5 is posted; in trap mode, or beside such a wait that is not over, it takes trap 0x01 with INFO 1. -/
def Obligations.SvcPostsRequest : Prop := ∀ (f : CFmt) (s : State) (c : Ctx), Issuing s c →
  let act := c.active f.g f.gn
  let refused : Prop := ∃ i y, (i, y) ∈ c.k.live ∧ i ≠ c.st ∧ y.wait.refusesSvc = true ∧ s.waitOver c.id c.k y = false
  (act = 0 → exec (.svc f) s = .next (c.completed s c.k))
  ∧ (act ≠ 0 → c.k.trapOf c.st = none → ¬ refused → c.k.quiet = true → (∀ i y, (i, y) ∈ c.k.live → i ≠ c.st → y.issued = false) →
      s.absentHeaders c.id (c.k.modStrand c.st Strand.retired) = [] → c.k.failed = [] → c.k.pendErrs = [] →
      ∃ (t : State) (q : SvcReq), exec (.svc f) s = .next t ∧ t.skein? c.id = none ∧ q ∈ t.work.svcs ∧ q.slot = c.id ∧ q.group = c.k.group
        ∧ q.index = c.k.index ∧ q.service = f.imm.toNat ∧ q.args = [c.k.s 2, c.k.s 3, c.k.s 4, c.k.s 5]
        ∧ (∀ y, q.cont.strand? c.st = some y → y.pc = c.x.pc + 8) ∧ q.cont.sregs = c.k.sregs ∧ q.cont.preds = c.k.preds)
  ∧ (act ≠ 0 → c.k.trapOf c.st ≠ none ∨ refused → s.unperformed c.id c.st = [] → exec (.svc f) s = .next (c.trapped s 0x01 act 0 1))

/-! ## Memory words -/

/-- LD (R353), EXPLD (R323) and LDA (R354) of words that the core's L1 serves, and LD of private memory (R106): each lane's bytes land in
its registers; LDA uses no Valid copy and acts as ACQ over every region afterwards (R142). A load that no load in flight of its strand shares
a word with does not wait (R137). A word with no active lane completes; one that meets an on-chip error does not (R174; log 71). CH = 01 marks
the lines evict-first (R275). -/
def Obligations.LoadsServedByTheL1 : Prop := ∀ (f : MFmt) (s : State) (c : Ctx), Issuing s c →
  let n := szBytes f.sz
  let asid := s.asidOf c.k
  let agent := s.l1 c.id.core
  let s' (ls : List LaneAcc) : State := { c.marks f ls s with nextName := s.nextName + 1 }
  let counted (s : State) (k : Skein) : Skein := k.countDone (some .load) (c.x.part.getD s.nextName)
  let landed (ls : List LaneAcc) (acq : Bool) : Skein :=
    counted s (ls.foldl (fun k a => k.putBytes f.u f.d.toNat a.lane (s.l1Bytes c.id.core asid a.va.toNat n acq)) c.k)
  let held (ls : List LaneAcc) (acq : Bool) : Prop := ls ≠ [] ∧ ∀ a ∈ ls, a.va.toNat % n = 0 ∧ isPrivate a.va.toNat = false
    ∧ ∀ w ∈ wordsOf a.va.toNat n, (s.served agent asid w acq).isSome = true ∧ s.readSoft agent asid acq w = false
  f.regsOk (szRegs n) (s.vlimit c.k) = true →
  (held (c.mLanes f n) false → c.overlapped s n (c.mLanes f n) = [] →
      exec (.ldOp f) s = .next (c.completed (s' (c.mLanes f n)) (landed (c.mLanes f n) false)))
  ∧ (held (c.rankLanes f n) false → c.overlapped s n (c.rankLanes f n) = [] →
      exec (.expld f) s = .next (c.completed (s' (c.rankLanes f n)) (landed (c.rankLanes f n) false)))
  ∧ (held (c.mLanes f n) true → (∀ ops, c.x.wait ≠ .memops ops 3) → s.unperformedLoads c.id c.st = [] →
      let s1 := s' (c.mLanes f n)
      exec (.lda f) s = .next (c.completed (if s.beyondGroup c.k f.sc.toNat then s1.selfInvalidate agent 0xFFFF else s1)
        (landed (c.mLanes f n) true)))
  ∧ (let ls := c.mLanes f n
     ∀ (s1 : State) (fates : List (LaneAcc × Fate)), ls ≠ [] → (∀ a ∈ ls, a.va.toNat % n = 0 ∧ isPrivate a.va.toNat = true) →
     c.overlapped s n ls = [] → s.classify (fun s a => s.loadFate c n false a) ls = (s1, fates) → (∀ x ∈ fates, x.2 = .good) →
     let s2 := c.marks f ls s1
     exec (.ldOp f) s = .next (c.completed { s2 with nextName := s2.nextName + 1 }
       (counted s2 (ls.foldl (fun k a => k.putBytes f.u f.d.toNat a.lane (s2.skRead c.id c.k a.va.toNat n)) c.k))))
  ∧ (c.rankLanes f n = [] → exec (.expld f) s = .next (c.completed s c.k))
  ∧ (c.mLanes f n = [] → exec (.ldOp f) s = .next (c.completed s c.k)
      ∧ ((∀ ops, c.x.wait ≠ .memops ops 3) → exec (.lda f) s = .next (c.completed s c.k)))

/-- LD of words that the L1 lacks (R127, R175): the operation is counted, by 1 for all parts of its word, and waits for each such word, and
an RDQ of the core's L1 asks the home for every one that the L1 does not hold at all. PRF (R163, R372) completes whatever it finds: no
register and no operation changes, and the L1 gains Valid copies alone. -/
def Obligations.LoadsAskTheHome : Prop :=
  (∀ (f : MFmt) (s : State) (c : Ctx) (s1 : State) (fates : List (LaneAcc × Fate)), Issuing s c →
     let n := szBytes f.sz
     let asid := s.asidOf c.k
     let agent := s.l1 c.id.core
     let ls := c.mLanes f n
     let name := c.x.part.getD s1.nextName
     f.regsOk (szRegs n) (s.vlimit c.k) = true → ls ≠ [] →
     (∀ a ∈ ls, a.va.toNat % n = 0 ∧ isPrivate a.va.toNat = false) → c.overlapped s n ls = [] →
     s.classify (fun s a => s.loadFate c n false a) ls = (s1, fates) → (∀ x ∈ fates, x.2 = .good) →
     (∃ a ∈ ls, ∃ w ∈ wordsOf a.va.toNat n, s1.served agent asid w false = none) →
     ∃ (t : State) (o : MemOp) (k' : Skein), exec (.ldOp f) s = .next t ∧ o ∈ t.memops ∧ o.sk = c.id ∧ o.isLoad = true ∧ o.id = s1.nextName
       ∧ t.skein? c.id = some k' ∧ (name, false) ∈ k'.fifoL
       ∧ k'.cntL = (if c.k.fifoL.any (·.1 == name) then c.k.fifoL.length else c.k.fifoL.length + 1)
       ∧ ∀ a ∈ ls, ∀ w ∈ wordsOf a.va.toNat n, s1.served agent asid w false = none → wkey asid w ∈ o.need
         ∧ (s1.cword? agent asid w = none →
             ∃ m ∈ t.net, m.kind = .rdq ∧ m.src = agentNode agent ∧ m.op = o.id ∧ w ∈ maskWords m.sva m.mask))
  ∧ (∀ (f : MFmt) (s : State) (c : Ctx), Issuing s c → f.regsOk 0 (s.vlimit c.k) = true →
     ∃ (s1 : State), exec (.prf f) s = .next (s1.retire c.id c.st) ∧ s1.skeins = s.skeins ∧ s1.memops = s.memops ∧ s1.scratch = s.scratch
       ∧ ∀ p ∈ s1.caches, p ∈ s.caches ∨ p.2.st = .valid)

/-- ST (R383), CMPST (R316) and STR (R384) to global memory whose lanes all translate and find room (R115, log 105): every byte is the one
the highest lane writes there (R122, R136, R142), in a word that the L1 holds as Owned (for STR, Owned and sealed), or on its way home where
the L1 has had to evict the word for another of the same set (R115, R124). For a word that is not Owned already, and for every word of STR, a
REG goes to the home and the operation waits for its answer. DRAM stays as it was, and another cached word stays or is evicted. STR follows its
release at its scope, and its replay after a park does not release again (R142). ST to private memory writes its bytes there (R106). -/
def Obligations.StoresOwnTheirWords : Prop := ∀ (f : MFmt) (s : State) (c : Ctx), Issuing s c →
  let n := szBytes f.sz
  let asid := s.asidOf c.k
  let agent := s.l1 c.id.core
  let bytes (a : LaneAcc) : List Byte := c.k.dataBytes f.u a.reg n a.lane
  let classified (ls : List LaneAcc) (rel : Bool) (s0 s1 : State) : Prop := ∃ fates : List (LaneAcc × Fate),
    s0.classify (fun s a => s.storeFate c n rel (wordsWhole n ls) a) ls = (s1, fates) ∧ ∀ x ∈ fates, x.2 = .good
  /- the stores of `i` over `ls`, made in the state `s0` -/
  let stored (i : Instr) (ls : List LaneAcc) (rel : Bool) (st : CSt) (s0 : State) : Prop := ∀ s1 : State,
    ls ≠ [] → (∀ a ∈ ls, a.va.toNat % n = 0 ∧ isPrivate a.va.toNat = false) → s0.storeNow agent asid n rel ls = (ls, []) →
    classified ls rel s0 s1 →
    let ws := writesOf ls (fun va i => va + i) bytes
    let last (x : W32) (b : Nat) : Prop := ((x >>> (8 * (b % 4))).truncate 8 : Byte) = lastWrite ws b 0
    ∃ (t : State), exec i s = .next t
      ∧ (∀ b, b ∈ ws.map (·.1) →
          ((∃ w, t.cword? agent asid (b / 4) = some w ∧ w.st = st ∧ w.wmask.getLsbD (b % 4) = true ∧ last w.data b)
            ∨ ∃ m ∈ t.net, m.kind = .wb ∧ m.src = agentNode agent ∧ m.asid = asid ∧ m.sva = sectorVa b
                ∧ ∃ p ∈ m.words, p.1 = b / 4 % 32 ∧ p.2.2.getLsbD (b % 4) = true ∧ last p.2.1 b)
          ∧ (s1.regDue agent asid (b / 4) rel = true → ∃ m ∈ t.net, m.kind = .reg ∧ m.src = agentNode agent ∧ m.asid = asid ∧ m.sealIt = rel
              ∧ b / 4 ∈ maskWords m.sva m.mask ∧ ∃ o ∈ t.memops, o.id = m.op ∧ o.sk = c.id ∧ wkey asid (b / 4) ∈ o.need))
      ∧ (∀ p ∈ t.caches, p ∈ s.caches ∨ (p.1.agent = agent ∧ p.1.asid = asid ∧ ∃ b ∈ ws.map (·.1), b / 4 = p.1.wa))
      ∧ (∀ p ∈ s.caches, p ∈ t.caches ∨ p.1.agent = agent ∨ isPrivate (4 * p.1.wa) = true)
      ∧ (c.k.Shallow → t.mem = s1.mem)
  f.regsOk (szRegs n) (s.vlimit c.k) = true →
  (s.unperformedLoads c.id c.st = [] →
    stored (.stOp f) (c.mLanes f n) false .owned s ∧ stored (.cmpst f) (c.rankLanes f n) false .owned s
    ∧ (let ls := c.mLanes f n
       ∀ s1 : State, ls ≠ [] → (∀ a ∈ ls, a.va.toNat % n = 0 ∧ isPrivate a.va.toNat = true) → classified ls false s s1 →
       let s2 := c.privStore bytes (c.marks f ls s1) ls
       exec (.stOp f) s = .next (c.completed { s2 with nextName := s2.nextName + 1 }
         (c.k.countDone (some .store) (c.x.part.getD s2.nextName)))))
  ∧ (c.x.act0 = none → c.Released s f.sc.toNat → stored (.str f) (c.mLanes f n) true .ownedSealed (c.afterRelease s f.sc.toNat))
  ∧ (c.x.act0 ≠ none → stored (.str f) (c.mLanes f n) true .ownedSealed s)
  ∧ (c.mLanes f n = [] → exec (.stOp f) s = .next (c.completed s c.k) ∧ exec (.str f) s = .next (c.completed s c.k))
  ∧ (c.rankLanes f n = [] → exec (.cmpst f) s = .next (c.completed s c.k))

/-- Bytes come home (R124, R159): a home word takes the bytes that a mask names, at both places of a piece that migrates, and no other
byte of DRAM changes. -/
def Obligations.HomeTakesBytes : Prop := ∀ (s : State) (slice key : Nat) (x : W32) (mask : BitVec 4) (a : Nat),
  let named (k : Nat) : Prop := k ≤ a ∧ a < k + 4 ∧ mask.getLsbD (a - k) = true
  let byte (k : Nat) : Byte := (x >>> (8 * (a - k))).truncate 8
  let now := Sparse.get 0 (s.putWord slice key x mask).mem a
  match s.altKey slice key with
  | none => now = if named key then byte key else Sparse.get 0 s.mem a
  | some alt => now = if named alt then byte alt else if named key then byte key else Sparse.get 0 s.mem a

/-- LDS (R355), STS (R385) and ATOMS (R304), whose lanes go in ascending order (R136): scratch bytes by the group's granule map (R109), checked
against its window (R108); nothing but the stored bytes of scratch changes. -/
def Obligations.ScratchAccesses : Prop := ∀ (f : MFmt) (s : State) (c : Ctx) (g : Group), Issuing s c →
  let n := szBytes f.sz
  let ls := c.mLanes f n
  let key (va i : Nat) : Nat := scrKey g (scrCore c.id.core (va % 2 ^ 32)) (va % 2 ^ 32 % 2 ^ 31 + i)
  let fits : Prop := ls ≠ [] ∧ ∀ a ∈ ls, scrOk (s.lrecOf c.k) (a.va.toNat % 2 ^ 32) n = true ∧ a.va.toNat % 2 ^ 32 % n = 0
  /- no byte read holds an on-chip error (R174) -/
  let sound : Prop := ∀ a ∈ ls, s.scrSoft g c.id.core (a.va.toNat % 2 ^ 32) n = none
  s.group? c.k.group = some g →
  (f.regsOk (szRegs n) (s.vlimit c.k) = true → fits → sound →
    exec (.lds f) s = .next (c.completed s (ls.foldl (fun k a => k.putBytes f.u f.d.toNat a.lane
      ((List.range n).map fun i => Sparse.get 0 s.scratch (key a.va.toNat i))) c.k)))
  ∧ (f.regsOk (szRegs n) (s.vlimit c.k) = true → fits → (n < 4 → sound) → s.unperformedLoads c.id c.st = [] →
      let ws := writesOf ls key fun a => c.k.dataBytes f.u a.reg n a.lane
      ∃ (t : State), exec (.sts f) s = .next t ∧ (∀ a, Sparse.get 0 t.scratch a = lastWrite ws a (Sparse.get 0 s.scratch a))
        ∧ (c.k.Shallow → t.caches = s.caches ∧ t.mem = s.mem))
  ∧ (∀ op, fits → sound → s.unperformedLoads c.id c.st = [] → atomRegsOk op.toNat f (s.vlimit c.k) = true →
      /- each lane's operation on what the lanes below it have left, with the old values so far -/
      let lane (acc : State × List (LaneAcc × Nat)) (a : LaneAcc) : State × List (LaneAcc × Nat) :=
        let off := a.va.toNat % 2 ^ 32
        let old := ofBytesLE (acc.1.scrRead g c.id.core off n)
        (acc.1.scrWrite g c.id.core off (toBytesLE n (atomNew op.toNat (8 * n) old (atomV f c.k a.lane) (atomC f c.k a.lane))), acc.2 ++ [(a, old)])
      let run := ls.foldl lane (s, [])
      (ls.map (·.lane)).Pairwise (· < ·)
      ∧ ∃ (t : State) (k' : Skein), exec (.atoms op f) s = .next t ∧ t.scratch = run.1.scratch ∧ t.skein? c.id = some k'
        ∧ k'.vregs = (if f.ch = 0 then run.2.foldl (fun k x => k.putBytes false f.d.toNat x.1.lane (toBytesLE n x.2)) c.k else c.k).vregs
        ∧ k'.sregs = c.k.sregs ∧ k'.preds = c.k.preds ∧ (c.k.Shallow → t.caches = s.caches ∧ t.mem = s.mem))
  ∧ (ls = [] → (f.regsOk (szRegs n) (s.vlimit c.k) = true →
        exec (.lds f) s = .next (c.completed s c.k)
        ∧ (s.unperformedLoads c.id c.st = [] → exec (.sts f) s = .next (c.completed s c.k)))
      ∧ ∀ op, atomRegsOk op.toNat f (s.vlimit c.k) = true → s.unperformedLoads c.id c.st = [] →
        exec (.atoms op f) s = .next (c.completed s c.k))

/-- The operations of ATOM and ATOMS on a value of `n` bits (R297); `.fadd` is the sum of two F32 values, rounded once. -/
def Obligations.AtomicOperations : Prop := ∀ n, n = 32 ∨ n = 64 → ∀ (old v c : BitVec n),
  let new (op : Nat) : Nat := atomNew op n old.toNat v.toNat c.toNat
  new 0 = (old + v).toNat
  ∧ new 1 = (if v.slt old then v else old).toNat ∧ new 2 = (if old.slt v then v else old).toNat
  ∧ new 3 = (if v.ult old then v else old).toNat ∧ new 4 = (if old.ult v then v else old).toNat
  ∧ new 5 = (old &&& v).toNat ∧ new 6 = (old ||| v).toNat ∧ new 7 = (old ^^^ v).toNat
  ∧ new 8 = v.toNat ∧ new 9 = (if old = c then v else old).toNat
  ∧ (n = 32 → new 10 = Arith.roundT 8 .rne false (Arith.exactSum .rne [Arith.valueOf 8 old.toNat, Arith.valueOf 8 v.toNat]))

/-- ATOM (R128, R303). With every lane's access performed here it completes, and changes no register but D, which takes the old values
where CH = 00; with no lane it completes with no effect. To global memory: in ascending order of the lanes (R136) the home's atomic unit
applies the operation to the word's bytes, the old values go to D where CH = 00, the last lane's words are Valid at their home, and the
core's L1 keeps no copy of any. The model's choices: that it acts in the step that issues it (log 99), and that no copy stays (log 28). -/
def Obligations.AtomActsAtTheHome : Prop := ∀ (op : BitVec 4) (f : MFmt) (s : State) (c : Ctx),
  Issuing s c →
  let size := szBytes f.sz
  let asid := s.asidOf c.k
  let agent := s.l1 c.id.core
  let cls := if f.ch = 0 then Cls.load else Cls.store
  let ls := c.mLanes f size
  atomRegsOk op.toNat f (s.vlimit c.k) = true →
  (ls = [] → exec (.atom op f) s = .next (c.completed s c.k))
  ∧ (ls ≠ [] → s.unperformedLoads c.id c.st = [] → (∀ a ∈ ls, s.sectorBusy agent asid (sectorVa a.va.toNat) = false) →
    (∀ a ∈ ls, a.va.toNat % size = 0) →
    ∀ (s1 : State) (fates : List (LaneAcc × Fate)), s.classify (fun s a => s.atomFate c size a) ls = (s1, fates) →
    (∀ x ∈ fates, x.2 = .good) →
    (∃ (t : State) (k' : Skein), exec (.atom op f) s = .next t ∧ t.skein? c.id = some k' ∧ k'.sregs = c.k.sregs ∧ k'.preds = c.k.preds
      ∧ (∀ r l, l < 32 → (f.ch ≠ 0 ∨ (∀ a ∈ ls, a.lane ≠ l) ∨ r < f.d.toNat ∨ f.d.toNat + szRegs size ≤ r) → k'.raw r l = c.k.raw r l))
    ∧ ((∀ a ∈ ls, isPrivate a.va.toNat = false) →
      let lane (acc : State × List (LaneAcc × Nat) × Bool) (a : LaneAcc) : State × List (LaneAcc × Nat) × Bool :=
        let r := acc.1.homeAtomic asid agent a.va.toNat size op.toNat (atomV f c.k a.lane) (atomC f c.k a.lane) c.k.raceReport
        (r.1, acc.2.1 ++ [(a, r.2.1)], acc.2.2 || r.2.2)
      let run := ls.foldl lane (c.named { s1 with nextName := s1.nextName + 1 } (c.x.part.getD s1.nextName), [], false)
      let s2 := run.1
      (run.2.2 && c.k.raceTrap) = false →
      exec (.atom op f) s = .next (c.completed { s2 with nextName := s2.nextName + 1 }
          ((if f.ch = 0 then run.2.1.foldl (fun k x => k.putBytes false f.d.toNat x.1.lane (toBytesLE size x.2)) c.k else c.k).countDone (some cls)
            (c.x.part.getD s2.nextName)))
      ∧ (∀ a ∈ ls, ∀ w ∈ wordsOf a.va.toNat size, s2.cword? agent asid w = none)
      ∧ ∀ a, ls.getLast? = some a → ∀ w ∈ wordsOf a.va.toNat size, s2.hword asid w = some .valid))

/-- Accesses that cannot be made trap (R108, R165, R174, R275, R304, R355): a misaligned address 0x04 at the lowest lane that has one, an
offset outside the window 0x05, an on-chip error 0x07 (for STS where it stores to a part of the word, R385); with every lane active
unfinished and no lane performed. Which register takes which bytes of an access (R275): in a vector form register r + i of the lane holds
bytes 4i to 4i + 3, zeros beyond the value; in a uniform form one s-register holds the whole value. Stores take their bytes the same way. -/
def Obligations.AccessTraps : Prop :=
  (∀ (f : MFmt) (s : State) (c : Ctx) (a : LaneAcc), Issuing s c → s.unperformed c.id c.st = [] →
     let n := szBytes f.sz
     let ls := c.mLanes f n
     let off (a : LaneAcc) : Nat := a.va.toNat % 2 ^ 32
     f.regsOk (szRegs n) (s.vlimit c.k) = true →
     (ls.find? (fun a => a.va.toNat % n != 0) = some a →
       exec (.ldOp f) s = .next (c.trapped s 0x04 (lanesMask ls) a.va 0)
       ∧ exec (.stOp f) s = .next (c.trapped s 0x04 (lanesMask ls) a.va 0))
     ∧ (ls.find? (fun a => !scrOk (s.lrecOf c.k) (off a) n) = some a →
       exec (.lds f) s = .next (c.trapped s 0x05 (lanesMask ls) (BitVec.ofNat 64 (off a)) 0)
       ∧ exec (.sts f) s = .next (c.trapped s 0x05 (lanesMask ls) (BitVec.ofNat 64 (off a)) 0))
     ∧ ((∀ b ∈ ls, scrOk (s.lrecOf c.k) (off b) n = true) → ls.find? (fun a => off a % n != 0) = some a →
       exec (.lds f) s = .next (c.trapped s 0x04 (lanesMask ls) (BitVec.ofNat 64 (off a)) 0)
       ∧ exec (.sts f) s = .next (c.trapped s 0x04 (lanesMask ls) (BitVec.ofNat 64 (off a)) 0))
     ∧ (∀ g, s.group? c.k.group = some g → (∀ b ∈ ls, scrOk (s.lrecOf c.k) (off b) n = true ∧ off b % n = 0) →
       ls.find? (fun a => (s.scrSoft g c.id.core (off a) n).isSome) = some a →
       exec (.lds f) s = .next (c.trapped s 0x07 (lanesMask ls) (BitVec.ofNat 64 (off a)) 0)
       ∧ (n < 4 → exec (.sts f) s = .next (c.trapped s 0x07 (lanesMask ls) (BitVec.ofNat 64 (off a)) 0))))
  ∧ (∀ (k : Skein) (r l : Nat) (bs : List Byte), l < 32 → bs.length ∈ [1, 2, 4, 8, 16] →
     (∀ q m, m < 32 → (k.putBytes false r l bs).raw q m =
       if m = l ∧ r ≤ q ∧ 4 * (q - r) < bs.length then BitVec.ofNat 32 (ofBytesLE ((bs.drop (4 * (q - r))).take 4)) else k.raw q m)
     ∧ k.putBytes true r l bs = k.setS r (BitVec.ofNat 64 (ofBytesLE bs))
     ∧ (∀ n i, n ≤ 16 → i < n → (k.dataBytes false r n l)[i]? = some (((k.v (r + i / 4) l) >>> (8 * (i % 4))).truncate 8))
     ∧ (∀ n i, n ≤ 8 → i < n → (k.dataBytes true r n l)[i]? = some (((k.s r) >>> (8 * i)).truncate 8)))

/-! ## Barriers -/

/-- BAR, BARARV, BARWT (R195, R196, R306) of a skein whose lanes stand together: the halves arrive in turn, the last of n arrivals resets
ARRIVED and advances GEN; BAR then waits until GEN has moved past every generation met, BARARV writes the lowest half's. TBINIT, TBARV,
TBWAIT, TBTEST (R192 to R194, R387): what each makes of the barrier's counts, with Settle; the traps of a bad offset, of an on-chip
error in the barrier (R174) and of an arrival at ARR = 0. -/
def Obligations.BarrierWords : Prop :=
  (∀ (f : SFmt) (s : State) (c : Ctx) (g : Group), Issuing s c → s.group? c.k.group = some g →
     c.x.wait = .none →
     let off := (c.k.s f.sa.toNat).toNat % 2 ^ 32
     let core := c.id.core
     let w := s.barWord g core off
     let act := c.active f.g f.gn
     let acts := c.acts f.g f.gn = true
     let inside := scrOk (s.lrecOf c.k) off 8 = true
     let sound := s.scrSoft g core off 8 = none
     let fits := acts ∧ inside ∧ off % 8 = 0 ∧ sound
     let n := f.imm.toNat
     let together := c.k.Alone c.st c.x ∧ c.x.mask = ~~~c.k.exited ∧ c.Released s 0 ∧ w.arrived < n
     let same (k' : Skein) : Prop := k'.vregs = c.k.vregs ∧ k'.preds = c.k.preds ∧ k'.exited = c.k.exited
     (¬ acts → exec (.barwt f) s = .next (c.completed s c.k) ∧ ∀ i ∈ [Instr.bar f, .bararv f],
         ∃ (k' : Skein), k' = { c.k with passed := k'.passed } ∧ exec i s = .next (c.completed s k'))
     ∧ (acts → ¬ inside → s.unperformed c.id c.st = [] → ∀ i ∈ [Instr.bar f, .bararv f, .barwt f],
         exec i s = .next (c.trapped s 0x05 act (BitVec.ofNat 64 off) 0))
     ∧ (acts → inside → off % 8 ≠ 0 → s.unperformed c.id c.st = [] → ∀ i ∈ [Instr.bar f, .bararv f, .barwt f],
         exec i s = .next (c.trapped s 0x04 act (BitVec.ofNat 64 off) 0))
     ∧ (acts → inside → off % 8 = 0 → ¬ sound → s.unperformed c.id c.st = [] → ∀ i ∈ [Instr.bar f, .bararv f, .barwt f],
         exec i s = .next (c.trapped s 0x07 act (BitVec.ofNat 64 off) 0))
     ∧ (fits → together → match arriveAll n w (unitsOf (s.h16 c.k) c.x.mask) with
         | none => ∀ i ∈ [Instr.bar f, .bararv f], exec i s = .next (c.trapped (c.afterRelease s 0) 0x11 act 0 0)
         | some (w', gens) =>
           (∃ (t : State) (k' : Skein), exec (.bararv f) s = .next t ∧ t.barWord g core off = w' ∧ t.skein? c.id = some k' ∧ same k'
             ∧ (∀ r, k'.s r = if r = f.d.toNat ∧ r ≠ 0 then BitVec.ofNat 64 (gens.headD 0) else c.k.s r) ∧ k'.strand? c.st = some c.x.retired)
           ∧ (∃ (t : State) (k' : Skein), exec (.bar f) s = .next t ∧ t.barWord g core off = w' ∧ t.skein? c.id = some k' ∧ same k' ∧ k'.sregs = c.k.sregs
             ∧ k'.strand? c.st = some (if w'.gen ∈ gens then { c.x with wait := .barGen off gens } else c.x.retired)))
     ∧ (let gen := (c.k.s f.d.toNat).toNat % 16
        (fits → w.gen = gen → exec (.barwt f) s = .next (s.waitAt c.id c.st (.barwt off gen)))
        ∧ (fits → w.gen ≠ gen → s.unperformedLoads c.id c.st = [] → exec (.barwt f) s = .next (c.completed (c.acquired s 0 f.mask) c.k))))
  ∧ (∀ (f : SFmt) (s : State) (c : Ctx) (g : Group), Issuing s c → s.group? c.k.group = some g →
     c.x.wait = .none →
     let off := (c.k.s f.sa.toNat).toNat % 2 ^ 32
     let core := c.id.core
     let b := s.tbar g core off
     let act := c.active f.g f.gn
     let acts := c.acts f.g f.gn = true
     let inside := scrOk (s.lrecOf c.k) off 16 = true
     /- nothing but scratch changes, beside what records that the strand has written it (R147, R149) -/
     let noted (t : State) : Prop := 
       t = { s with scratch := t.scratch, soft := t.soft, ops := t.ops, past := t.past, jointSets := t.jointSets, skeins := t.skeins }
       ∧ t.ops.length = s.ops.length ∧ t.past.length = s.past.length ∧ t.jointSets.length = s.jointSets.length
       ∧ ∃ x' : Strand, x' = { c.x with ownScr := x'.ownScr } ∧ t.skeins = (s.setSkein c.id (c.k.setStrand c.st (some x'))).skeins
     let sound := s.scrSoft g core off 16 = none
     let fits := acts ∧ inside ∧ off % 16 = 0 ∧ sound
     (¬ acts → ∀ i ∈ [Instr.tbinit f, .tbarv f, .tbwait f, .tbtest f], exec i s = .next (c.completed s c.k))
     ∧ (acts → ¬ inside → s.unperformed c.id c.st = [] → ∀ i ∈ [Instr.tbinit f, .tbarv f, .tbwait f, .tbtest f],
         exec i s = .next (c.trapped s 0x05 act (BitVec.ofNat 64 off) 0))
     ∧ (acts → inside → off % 16 ≠ 0 → s.unperformed c.id c.st = [] → ∀ i ∈ [Instr.tbinit f, .tbarv f, .tbwait f, .tbtest f],
         exec i s = .next (c.trapped s 0x04 act (BitVec.ofNat 64 off) 0))
     ∧ (acts → inside → off % 16 = 0 → ¬ sound → s.unperformed c.id c.st = [] → ∀ i ∈ [Instr.tbinit f, .tbarv f, .tbwait f, .tbtest f],
         exec i s = .next (c.trapped s 0x07 act (BitVec.ofNat 64 off) 0))
     ∧ (fits → f.imm.toNat < 4096 → s.unperformedLoads c.id c.st = [] →
         ∃ (s1 : State), exec (.tbinit f) s = .next (s1.retire c.id c.st) ∧ noted s1
           ∧ s1.tbar g core off = ⟨0, f.imm.toNat, f.imm.toNat, 0⟩ ∧ (∀ i, i < 8 → (s1.scrRead g core (off + 8 + i) 1) = [0]))
     ∧ (fits → exec (.tbtest f) s = .next (c.completed s (c.k.setS f.d.toNat (BitVec.ofNat 64 (ofBytesLE (s.scrRead g core off 8))))))
     ∧ (fits → b.arr = 0 → s.unperformed c.id c.st = [] → exec (.tbarv f) s = .next (c.trapped s 0x11 act 0 0))
     ∧ (fits → b.arr ≠ 0 → c.Released s 0 →
         ∃ (s1 : State), exec (.tbarv f) s = .next (s1.retire c.id c.st) ∧ noted { s1 with groups := s.groups, nextName := s.nextName }
           ∧ (g.heldArr = [] →
               let land := (b.land + f.imm.toNat + (c.k.s f.d.toNat).toNat % 2 ^ 32) % 2 ^ 32
               s1.tbar g core off = if b.arr - 1 = 0 ∧ land = 0 then ⟨0, b.quota, b.quota, (b.epoch + 1) % 256⟩
                 else ⟨land, b.arr - 1, b.quota, b.epoch⟩))
     ∧ (let e := ((c.k.s f.d.toNat).toNat % 256 + f.imm.toNat) % 256
        (fits → b.epoch = e → exec (.tbwait f) s = .next (s.waitAt c.id c.st (.tbwait off e)))
        ∧ (fits → b.epoch ≠ e → s.unperformedLoads c.id c.st = [] → exec (.tbwait f) s = .next (c.completed (c.acquired s 0 0xFFFF) c.k))))

/-! ## Fences, class counters, handles -/

/-- FENCE (R334), ACQ (R299), REL (R375), OFENCE (R366) and WAITC (R391): what each waits for (R140, R177), what an acquire drops (R133)
and what a release seals (R123); CLASS_COUNTER_FALL (R176). -/
def Obligations.FencesAndCounters : Prop := ∀ (f : SFmt) (s : State) (c : Ctx), Issuing s c →
  let act := c.active f.g f.gn
  let agent := s.l1 c.id.core
  let sc := f.sc.toNat
  let x := f.mask.toNat * 65536 + f.imm.toNat
  let within := c.k.cntL ≤ x / 2 ^ 26 % 64 ∧ c.k.cntS ≤ x / 2 ^ 20 % 64 ∧ c.k.cntC ≤ x / 2 ^ 14 % 64 ∧ c.k.cntM ≤ x / 2 ^ 8 % 64
  (act = 0 → ∀ i ∈ [Instr.fence f, .acq f, .rel f, .ofence f], exec i s = .next (c.completed s c.k))
  ∧ (act ≠ 0 → s.unperformedLoads c.id c.st = [] → exec (.acq f) s = .next (c.completed (c.acquired s sc f.mask) c.k)
      ∧ (∃ (x' : Strand), x' = { c.x with ownScr := [], fencedAt := s.clock, seenRegs := c.k.vregs }
          ∧ exec (.ofence f) s = .next (c.completed s (c.k.setStrand c.st (some x')))))
  ∧ (s.beyondGroup c.k sc = true → ∀ p : CKey × CWord, p ∈ (c.acquired s sc f.mask).caches ↔
      p ∈ s.caches ∧ ¬ (p.1.agent = agent ∧ p.2.st = .valid ∧ p.2.awaiting = false ∧ f.mask.getLsbD p.2.region = true))
  ∧ (act ≠ 0 → c.Released s sc → exec (.rel f) s = .next (c.completed (c.afterRelease s sc) c.k)
      ∧ exec (.fence f) s = .next (c.completed (c.acquired (c.afterRelease s sc) sc 0xFFFF) c.k))
  ∧ (act ≠ 0 → (∃ ops, c.x.wait = .memops ops 2) → exec (.rel f) s = .next (c.completed s c.k))
  ∧ (act ≠ 0 → c.x.wait = .none → s.unperformed c.id c.st = [] → s.beyondGroup c.k sc = true →
      ∀ p ∈ s.caches, p.1.agent = agent → p.2.st = .owned → isPrivate (4 * p.1.wa) = false →
        ∃ (t : State), exec (.rel f) s = .next t ∧ (p.1, { p.2 with st := .ownedSealed }) ∈ t.caches
          ∧ (∃ m ∈ t.net, m.kind = .seal ∧ m.src = agentNode agent ∧ m.asid = p.1.asid ∧ p.1.wa ∈ maskWords m.sva m.mask ∧ m.op = s.nextName)
          ∧ (∃ o ∈ t.memops, o.id = s.nextName ∧ o.sk = c.id ∧ wkey p.1.asid p.1.wa ∈ o.need)
          ∧ (c.k.Alone c.st c.x → ∃ (k' : Skein) (y : Strand) (ops : List Nat), t.skein? c.id = some k' ∧ k'.strand? c.st = some y
              ∧ y = { c.x with wait := .memops ops 2 } ∧ s.nextName ∈ ops))
  ∧ (c.acts f.g f.gn = false → exec (.waitc f) s = .next (c.completed s c.k))
  ∧ (c.acts f.g f.gn = true → within → ∃ (k' : Skein) (p : List EngOp), k' = { c.k with hazards := k'.hazards }
      ∧ exec (.waitc f) s = .next (c.completed { s with past := p } k'))
  ∧ (c.acts f.g f.gn = true → ¬ within → exec (.waitc f) s =
      .next (s.waitAt c.id c.st (.waitc (x / 2 ^ 26 % 64) (x / 2 ^ 20 % 64) (x / 2 ^ 14 % 64) (x / 2 ^ 8 % 64))))
  ∧ (∀ (id : SkId) (k : Skein) (cls : Cls) (op : Nat) (r : List (Nat × Bool)), s.skein? id = some k → (s.core id.core).frozen = false →
      k.fifo cls = (op, true) :: r →
      (∀ i y, (i, y) ∈ k.live → y.part ≠ some op) →
      ∃ (k' : Skein), exec (.classCounterFall id cls) s = .next (s.setSkein id k') ∧ k'.fifo cls = r ∧ k'.cnt cls = r.length
        ∧ ∀ o, o ≠ cls → k'.fifo o = k.fifo o ∧ k'.cnt o = k.cnt o)

/-- WAITH (R392), HTEST (R341), HCANCEL (R339), HSAVE and HLOAD (R340): the states that R179 gives a handle register, in the order of R180. -/
def Obligations.HandleWords : Prop := ∀ (f : SFmt) (s : State) (c : Ctx), Issuing s c →
  let act := c.active f.g f.gn
  let acts := c.acts f.g f.gn = true
  let named (i : Nat) : Prop := i < 16 ∧ f.mask.getLsbD i = true
  let st (i : Nat) : HState := s.hstate c.id.core (c.k.handle i)
  let quiet := s.unperformed c.id c.st = []
  let ea := c.k.s f.sa.toNat + f.imm.signExtend 64
  let asid := s.asidOf c.k
  let agent := s.l1 c.id.core
  (¬ acts → ∀ i ∈ [Instr.waith f, .htest f, .hcancel f, .hsave f, .hload f], exec i s = .next (c.completed s c.k))
  ∧ (acts → (∃ i, named i ∧ ∃ e, st i = .pending e) → exec (.waith f) s = .next (s.waitAt c.id c.st (.waith (namedHandles f.mask))))
  ∧ (acts → quiet → (∀ i, named i → ∀ e, st i ≠ .pending e) → ∀ i, named i → st i = .none → (∀ j, j < i → named j → st j ≠ .none) →
      exec (.waith f) s = .next (c.trapped s 0x11 act 0 (BitVec.ofNat 64 i)))
  ∧ (acts → (∀ i, named i → ∃ canc, st i = .done canc) →
      ∃ (s1 : State) (k' : Skein), exec (.waith f) s = .next (s1.retire c.id c.st) ∧ s1.skein? c.id = some k'
        ∧ k' = { c.k with handles := k'.handles, hazards := k'.hazards }
        ∧ (∀ i, k'.handle i = if f.mask.getLsbD i = true then .none else c.k.handle i))
  ∧ (acts → quiet → ∀ i cause fva e, named i → st i = .error cause fva e → (∀ j, named j → ∀ e', st j ≠ .pending e' ∧ st j ≠ .none) →
      (∀ j, j < i → named j → ∃ canc, st j = .done canc) →
      ∃ (s1 : State) (k' : Skein), exec (.waith f) s = .next (s1.takeTrap c.id ⟨cause, c.x.pc, act, fva, 0, false, c.st⟩ c.iw)
        ∧ s1.skein? c.id = some k' ∧ ∀ j, k'.handle j = if j = i then .done false else c.k.handle j)
  ∧ (acts → ∃ v : W64, exec (.htest f) s = .next (c.completed s (c.k.setS f.d.toNat v)) ∧ ∀ i, i < 16 →
      (v.getLsbD i = true ↔ named i ∧ ((∃ canc, st i = .done canc) ∨ ∃ cause fva e, st i = .error cause fva e))
      ∧ (v.getLsbD (16 + i) = true ↔ named i ∧ ∃ cause fva e, st i = .error cause fva e)
      ∧ (v.getLsbD (32 + i) = true ↔ named i ∧ st i = .none) ∧ v.getLsbD (48 + i) = false)
  ∧ (acts → (∀ i, named i → ∀ e, st i ≠ .pending e) → (∀ i, named i → ∀ e gen, c.k.handle i = .entry e gen →
        ((s.core c.id.core).entry e).pleat = false) → exec (.hcancel f) s = .next (c.completed s c.k))
  ∧ (acts → (∀ i, named i → ∀ e gen, c.k.handle i = .entry e gen → ((s.core c.id.core).entry e).pleat = false) →
      ∀ i e, named i → (∀ j, named j → j = i) → st i = .pending e → ∃ (t : State), exec (.hcancel f) s = .next t
        ∧ ∀ o ∈ t.ops, o.id = ((s.core c.id.core).entry e).op → o.cancelReq = true)
  ∧ (acts → quiet → ∀ i e gen, named i → c.k.handle i = .entry e gen → ((s.core c.id.core).entry e).live = true →
      ((s.core c.id.core).entry e).gen = gen → ((s.core c.id.core).entry e).pleat = true →
      (∀ j, j < i → named j → ∀ e' g', c.k.handle j = .entry e' g' → ((s.core c.id.core).entry e').pleat = false) →
      exec (.hcancel f) s = .next (c.trapped s 0x11 act 0 (BitVec.ofNat 64 i)))
  ∧ (acts → (∃ ops, c.x.wait = .memops ops 4) → exec (.hsave f) s = .next (c.completed s c.k))
  ∧ (acts → c.x.wait = .none → quiet → f.d.toNat < 16 → ea.toNat % 8 = 0 → isPrivate ea.toNat = false →
      let a : LaneAcc := ⟨c.low, ea, 0⟩
      s.storeNow agent asid 8 false [a] = ([a], []) → ∀ (s1 : State), s.storeFate c 8 false (wordsWhole 8 [a]) a = (s1, .good) →
      let img := toBytesLE 8 (s.image c.id.core (c.k.handle f.d.toNat))
      ∃ (t : State), exec (.hsave f) s = .next t ∧ ∀ b, b < 8 → ∃ w, t.cword? agent asid ((ea.toNat + b) / 4) = some w ∧ w.st = .owned
        ∧ w.wmask.getLsbD ((ea.toNat + b) % 4) = true ∧ some ((w.data >>> (8 * ((ea.toNat + b) % 4))).truncate 8 : Byte) = img[b]?)
  ∧ (acts → c.x.wait = .none → quiet → ea.toNat % 8 = 0 → isPrivate ea.toNat = false →
      (∀ w ∈ wordsOf ea.toNat 8, (s.served agent asid w false).isSome = true ∧ s.readSoft agent asid false w = false) →
      match s.loadImage c.id.core (ofBytesLE (s.l1Bytes c.id.core asid ea.toNat 8 false)) with
      | some h => ∃ (s2 : State) (k' : Skein), exec (.hload f) s = .next (s2.retire c.id c.st) ∧ s2.skein? c.id = some k' ∧ k' = c.k.setHandle f.d.toNat h
      | none => exec (.hload f) s = .next (c.trapped s 0x11 c.guarded 0 (BitVec.ofNat 64 f.d.toNat)))

/-! ## Engine words -/

/-- CPY (R317), CPYT (R319), CPYR (R318): a word whose descriptor breaks a rule traps with the cause and address that the rule gives, field by
field (R107, R108, R183 to R188); else the operation takes the next place of the core's queue, on chip or, beyond 64, in the group's ring
(R190). ADVST (R40) raises the stage. -/
def Obligations.ShuttleWords : Prop := ∀ (f : EFmt) (s : State) (c : Ctx) (g : Group), Issuing s c → s.group? c.k.group = some g →
  let act := c.active f.g f.gn
  let acts := c.acts f.g f.gn = true
  let va := c.k.s f.sd.toNat
  let r := s.lrecOf c.k
  let target := min 0xFFFF ((c.k.s f.sx.toNat).toNat + f.imm.toNat)
  let fails (i : Instr) (s1 : State) (cause : Nat) (a : W64) : Prop :=
    s.unperformed c.id c.st = [] → exec i s = .next (c.trapped s1 cause act a 0)
  let starts (i : Instr) (s1 : State) (kind : OpKind) (glob : Bool) : Prop :=
    c.Released s1 (if glob then 1 else 0) → s1.dueEntry g = none → c.Room s1 f .copy → ∀ stat, s1.shuttlePlace c.id.core c.k.group = some stat →
      (∀ n, stat = .spilled n → ∃ sl, (s1.slotFate (s1.jobOf c.k) (dieOf c.id.core) (s1.slotVa g n)).2.1 = .zero sl
        ∨ ∃ key, (s1.slotFate (s1.jobOf c.k) (dieOf c.id.core) (s1.slotVa g n)).2.1 = .at sl key) →
      ∃ (t : State), exec i s = .next t ∧ c.Queued t f .copy kind stat
  (¬ acts → ∀ i ∈ [Instr.cpy f, .cpyt f, .cpyr f, .advst f], exec i s = .next (c.completed s c.k))
  ∧ (acts → va.toNat % 16 ≠ 0 → s.unperformed c.id c.st = [] → ∀ i ∈ [Instr.cpy f, .cpyt f, .cpyr f],
      exec i s = .next (c.trapped s 0x04 act va 0))
  ∧ (acts → ∀ (s1 : State) (bs : List Byte), c.Described s va 16 128 s1 bs →
      let d := cpyOf bs
      let t (use : TileUse) : List (Prop × Nat × W64) := tileChecks r use va bs (c.k.s f.sx.toNat) (c.k.s f.sy.toNat)
      let e := tileOf bs (c.k.s f.sx.toNat) (c.k.s f.sy.toNat)
      Checked (fails (.cpy f) s1) (starts (.cpy f) s1 (.cpy d) (!d.ss)) (cpyChecks s1 (s1.jobOf c.k) (dieOf c.id.core) r va bs)
      ∧ Checked (fails (.cpyt f) s1) (starts (.cpyt f) s1 (.cpyt e) (!e.dir)) (t .cpyt)
      ∧ Checked (fails (.cpyr f) s1) (starts (.cpyr f) s1 (.cpyr e) false) (t .cpyr))
  ∧ (acts → target ≤ g.stage → exec (.advst f) s = .next (c.completed s c.k))
  ∧ (acts → g.stage < target → c.x.wait = .none → s.unperformedAll c.id = [] →
      (s.beyondGroup c.k 1 = true → (∀ p ∈ s.caches, p.1.agent = s.l1 c.id.core → p.2.st ≠ .owned)
        ∧ ∀ o ∈ s.memops, o.sk.core = c.id.core → o.isSeal = false) →
      ∃ (t : State) (g' : Group), exec (.advst f) s = .next t ∧ t.group? c.k.group = some g' ∧ g'.stage = target
        ∧ ∀ o ∈ s.ops, o ∈ t.ops)

/-- MLOOP and MLOOPL (R358), MZERO (R363), MRD and MWR (R361), GMV and GMVL (R336, R337): the checks field by field in their order (R199 to R203,
R209, R211), then the engine's queue. A member of a joint set (R204) joins its set while skeins are left that can make it whole, and the fourth
makes one operation of it where the four descriptors, as SX and SY adjust them (R199), are equal, else none. The model's choices: the steps
and the mnemonic of the operation are those of the last issue (log 92), and an operand register that holds an on-chip error traps 0x07 at
issue (log 71). -/
def Obligations.MatrixAndGeyserWords : Prop := ∀ (f : EFmt) (s : State) (c : Ctx), Issuing s c →
  let act := c.active f.g f.gn
  let acts := c.acts f.g f.gn = true
  let va := c.k.s f.sd.toNat
  let quiet := s.unperformed c.id c.st = []
  let r := s.lrecOf c.k
  let queued (i : Instr) (kind : OpKind) : Prop := s.matQueue c.id.core < 32 → c.Room s f .matrix →
    ∃ (t : State), exec i s = .next t ∧ c.Queued t f .matrix kind .queued
  let fails (i : Instr) (s1 : State) (cause : Nat) (a : W64) : Prop := quiet → exec i s = .next (c.trapped s1 cause act a 0)
  let die := dieOf c.id.core
  let loop (i : Instr) (lookup : Bool) : Prop := WellFormed i = true → ∀ (s1 : State) (bs : List Byte), c.Described s va 64 64 s1 bs →
      let d := matOf lookup f bs (c.k.s f.sx.toNat) (c.k.s f.sy.toNat)
      let set := s1.jointSets.find? fun js => js.core == c.id.core && js.group == c.k.group && js.jtag == d.jtag
      let members := (set.map (·.members)).getD []
      let quarter := f.imm.toNat % 4
      let vb := f.imm.toNat / 4 % 512
      /- no operand register of the member holds an on-chip error (R174) -/
      let sound : Prop := ∀ key, 32 * vb ≤ key → key < 32 * (vb + d.steps * d.regs) → SoftReg.v key ∉ c.k.soft
      let goes : Prop := (d.bGlobal = true → quiet) → c.Room s1 f .matrix →
      (d.joint = false → (d.twin = true → s1.pairingOf c.id ≠ none) → s1.matQueue c.id.core < 32 →
          ∃ (t : State), exec i s = .next t ∧ c.Queued t f .matrix (.mat d) .queued)
      ∧ (d.joint = false → d.twin = true → s1.pairingOf c.id = none → quiet → exec i s = .next (c.trapped s1 0x12 act 0 0))
      ∧ (d.joint = true → quiet → (∃ m ∈ members, m.quarter = quarter) → exec i s = .next (c.trapped s1 0x12 act 0 0))
      ∧ (d.joint = true → quiet → (∀ m ∈ members, m.quarter ≠ quarter) → ¬ sound → exec i s = .next (c.trapped s1 0x07 act 0 0))
      ∧ (d.joint = true → sound → (∀ m ∈ members, m.quarter ≠ quarter) → members.length < 3 →
          /- skeins are left that can make the set whole -/
          3 - members.length ≤ (s1.outsiders c.k.group c.id.core (members.map (·.sk) ++ [c.id])).length →
          ∃ (t : State) (js : JointSet) (m : JointMember), exec i s = .next t ∧ js ∈ t.jointSets ∧ js.jtag = d.jtag ∧ js.members = members ++ [m]
            ∧ m.sk = c.id ∧ m.quarter = quarter ∧ m.desc = d ∧ c.Counted t f .matrix m.op)
      ∧ (d.joint = true → sound → (∀ m ∈ members, m.quarter ≠ quarter) → members.length = 3 → s1.matQueue c.id.core < 32 →
          ∃ (t : State), exec i s = .next t ∧ ((∀ m ∈ members, { m.desc with steps := d.steps, lookup := d.lookup } = d) → ∃ o ∈ t.ops, o.kind = .mat d ∧ o.members.length = 4)
            ∧ ((∃ m ∈ members, { m.desc with steps := d.steps, lookup := d.lookup } ≠ d) → t.ops = s1.ops))
      Checked (fails i s1) goes (matChecks s1 (s1.jobOf c.k) die r (s1.vlimit c.k) va f bs d)
  let geyser (i : Instr) (lookup : Bool) : Prop := ∀ (s1 : State) (bs : List Byte), c.Described s va 64 64 s1 bs →
    let d := geyOf (s1.jobOf c.k) lookup bs (c.k.s f.sx.toNat) (c.k.s f.sy.toNat)
    Checked (fails i s1) (quiet → s1.geyQueue d.slice < 16 → c.Room s1 f .matrix →
        ∃ (t : State), exec i s = .next t ∧ c.Queued t f .matrix (.gey d) .queued)
      (geyChecks s1 (s1.jobOf c.k) die r va bs d)
  let o := (c.k.s f.sx.toNat).toNat % 2 ^ 32
  let p := (c.k.s f.sy.toNat).toNat % 2 ^ 32
  let form := f.imm.toNat / 256 % 4
  let z := formBytes form
  let tile := f.imm.toNat % 128
  (¬ acts → ∀ i ∈ [Instr.mloop f, .mloopl f, .mzero f, .mrd f, .mwr f, .gmv f, .gmvl f], exec i s = .next (c.completed s c.k))
  ∧ (acts → loop (.mloop f) false ∧ loop (.mloopl f) true ∧ geyser (.gmv f) false ∧ geyser (.gmvl f) true)
  ∧ (acts → tile + f.n.toNat ≤ r.tiles → queued (.mzero f) (.mzero tile f.n.toNat))
  ∧ (acts → r.tiles < tile + f.n.toNat → quiet → exec (.mzero f) s = .next (c.trapped s 0x12 act 0 0))
  ∧ (acts → o % z = 0 → p % z = 0 → 128 * z ≤ p → tile < r.tiles → scrOk r o (127 * p + 128 * z) = true →
      queued (.mrd f) (.mrd tile form (f.imm.toNat / 1024 % 8) (f.imm.getLsbD 13) o p) ∧ queued (.mwr f) (.mwr tile form o p))
  ∧ (acts → quiet → ∀ i ∈ [Instr.mrd f, .mwr f],
      (o % z ≠ 0 → exec i s = .next (c.trapped s 0x04 act (BitVec.ofNat 64 o) 0))
      ∧ (o % z = 0 → p % z ≠ 0 → exec i s = .next (c.trapped s 0x04 act (BitVec.ofNat 64 p) 0))
      ∧ (o % z = 0 → p % z = 0 → p < 128 * z ∨ r.tiles ≤ tile → exec i s = .next (c.trapped s 0x12 act 0 0))
      ∧ (o % z = 0 → p % z = 0 → 128 * z ≤ p → tile < r.tiles → scrOk r o (127 * p + 128 * z) = false →
          exec i s = .next (c.trapped s 0x05 act (BitVec.ofNat 64 o) 0)))

/-- MTWIN (R205, R362), PATLD (R230, R367) and PLEAT (R231, R368). -/
def Obligations.TwinAndPleatWords : Prop := ∀ (f : EFmt) (s : State) (c : Ctx) (g : Group), Issuing s c → s.group? c.k.group = some g →
  let act := c.active f.g f.gn
  let acts := c.acts f.g f.gn = true
  let quiet := s.unperformed c.id c.st = []
  let va := c.k.s f.sd.toNat
  let slot := f.imm.toNat % 8
  let rank := (c.k.s f.sx.toNat).toNat
  let cid := f.n.toNat
  let die := dieOf c.id.core
  let mine := s.exchanges.filter fun x => x.die == die && x.isOpen
  let partner (v : Rendezvous) : Bool :=
    v.group == c.k.group && v.tag == f.imm.toNat && v.sk.core == twinOf c.id.core && v.mate.isNone && !v.failed
  let free := s.rendezvous.any (fun v => v.sk == c.id && !v.failed && (v.mate.isNone || !v.used)) = false
  (¬ acts → c.x.wait = .none → ∀ i ∈ [Instr.mtwin f, .patld f, .pleat f], exec i s = .next (c.completed s c.k))
  ∧ (acts → c.x.wait = .none → quiet → (s.lrecOf c.k).twin = false ∨ ¬ free → exec (.mtwin f) s = .next (c.trapped s 0x12 act 0 0))
  ∧ (acts → c.x.wait = .none → (s.lrecOf c.k).twin = true → free → f.hv = false → ∀ v, s.rendezvous.find? partner = some v →
      (∀ w ∈ s.rendezvous, w.rid ≠ s.nextName) →
      ∃ (s1 : State), exec (.mtwin f) s = .next (s1.retire c.id c.st)
        ∧ (∃ w ∈ s1.rendezvous, w.sk = c.id ∧ w.mate = some v.rid) ∧ ∃ w ∈ s1.rendezvous, w.rid = v.rid ∧ w.mate = some s.nextName)
  ∧ (acts → (∃ v, s.rendezvous.find? (·.rid == v.rid) = some v ∧ v.failed = false ∧ v.mate ≠ none ∧ c.x.wait = .mtwin v.rid) →
      exec (.mtwin f) s = .next (c.completed s c.k))
  ∧ (acts → c.x.wait = .none → (s.lrecOf c.k).twin = true → free → f.hv = true → c.Room s f .matrix → s.rendezvous.find? partner = none →
      (∀ w ∈ s.rendezvous, w.rid ≠ s.nextName) →
      (∃ (id : SkId) (k : Skein), (id, k) ∈ s.skeins ∧ id.core = twinOf c.id.core ∧ k.group = c.k.group ∧ k.exitedAll = false) →
      ∃ (t : State), exec (.mtwin f) s = .next t ∧ ∃ w ∈ t.rendezvous, w.sk = c.id ∧ w.tag = f.imm.toNat ∧ w.mate = none ∧ w.failed = false)
  ∧ (acts → ∀ (s1 : State) (bs : List Byte), c.Described s va 64 128 s1 bs →
      (patternOk bs = false → quiet → exec (.patld f) s = .next (c.trapped s1 0x12 act va 0))
      ∧ (patternOk bs = true → tbRange (s1.lrecOf c.k) (patternOf bs).tb = .ok () → (∀ x ∈ g.openPleat, x.1 ≠ slot) →
          s1.group? c.k.group = some g →
          ∃ (t : State), exec (.patld f) s = .next t ∧ t.group? c.k.group = some { g with patterns := Tab.set g.patterns slot bs }))
  ∧ (acts → quiet → (Tab.get? g.patterns slot = none ∨ ∃ bs, Tab.get? g.patterns slot = some bs
        ∧ ((∃ x ∈ g.openPleat, x.1 = slot) ∨ (patternOf bs).p ≤ rank ∨ ∃ x ∈ mine, x.cid = cid)) →
      exec (.pleat f) s = .next (c.trapped s 0x12 act 0 0))
  ∧ (acts → ∀ bs, Tab.get? g.patterns slot = some bs → (∀ x ∈ g.openPleat, x.1 ≠ slot) → rank < (patternOf bs).p →
      (∀ x ∈ mine, x.cid ≠ cid) → mine.length < 16 → c.Released s 1 → c.Room s f .copy →
      (∀ y ∈ s.exchanges, y.op < s.nextName) →
      /- no ABORT is held for it (R368) -/
      (∀ h ∈ s.fab.held, h.packet.kind = 0x0A → h.packet.asid = s.asidOf c.k → h.packet.cid ≠ cid) →
      ∃ (t : State), exec (.pleat f) s = .next t ∧ c.Queued t f .copy (.pleat slot bs rank cid) .queued
        ∧ ∃ x ∈ t.exchanges, x.cid = cid ∧ x.rank = rank ∧ x.pattern = bs ∧ x.die = die ∧ x.issued = s.clock ∧ x.isOpen = true)

/-! ## Registration messages -/

/-- At a home, word by word: REG and a store-release's REG (R122, R142), RDQ (R127), SEAL (R123), WB (R124), GONE (R121). A word that waits
for a recall holds later requests for it (R121); an L1 or LLC victim goes first (R119). -/
def Obligations.MessagesAtTheHome : Prop := ∀ (s : State) (src dst : Node) (m : Msg),
  let me := nodeAgent m.src
  (∀ victim, s.Next src dst .reg m → ∃ (t : State), exec (.regMsg src dst victim) s = .next t ∧
    let s1 := ((s.taking src dst).victimLine dst victim).touchLine m.asid (m.sva / 4)
    ∀ w, w < 32 → m.mask.getLsbD w = true →
      (s1.pendingFor m.asid (m.wa w) = true → .request (m.only w) ∈ t.homePend)
      ∧ (s1.pendingFor m.asid (m.wa w) = false → (∀ a unpub, s1.owner m.asid (m.wa w) = some (a, unpub) → a = me) →
          t.hword m.asid (m.wa w) = some (if m.sealIt then .sealed me else .registered me)
          ∧ ∃ a ∈ t.net, a.kind = (if m.sealIt then .sealack else .regack) ∧ a.dst = m.src ∧ a.mask = Mask.lane w ∧ a.op = m.op
            ∧ a.raced = m.raced ∧ (m.rmask.getLsbD w = false ∨ s1.owner m.asid (m.wa w) ≠ none → a.words = [])
            ∧ ∀ x, m.mask = Mask.lane w → m.rmask.getLsbD w = true → s1.owner m.asid (m.wa w) = none →
                (s1.homeRead m.asid (m.wa w)).2 = some x → a.words = [(w, x, 0xF#4)])
      ∧ (∀ a unpub, s1.pendingFor m.asid (m.wa w) = false → s1.owner m.asid (m.wa w) = some (a, unpub) → a ≠ me →
          .request { m.only w with raced := m.raced || unpub } ∈ t.homePend ∧ t.hword m.asid (m.wa w) = s1.hword m.asid (m.wa w)
          ∧ (∃ x ∈ t.net, x.kind = .recall ∧ x.dst = agentNode a ∧ m.wa w ∈ maskWords x.sva x.mask)
          ∧ (unpub = true → ∃ x ∈ t.net, x.kind = .race ∧ x.dst = m.src ∧ x.other = a ∧ x.rkind = .register)))
  ∧ (∀ victim, s.Next src dst .rdq m → ∃ (t : State), exec (.rdq src dst victim) s = .next t ∧
    let s1 := ((s.taking src dst).victimLine dst victim).touchLine m.asid (m.sva / 4)
    ∀ w, w < 32 → m.mask.getLsbD w = true →
      (s1.pendingFor m.asid (m.wa w) = true → .request (m.only w) ∈ t.homePend)
      ∧ (s1.pendingFor m.asid (m.wa w) = false → (∀ a unpub, s1.owner m.asid (m.wa w) = some (a, unpub) → a = me) →
          ∃ d ∈ t.net, d.kind = .data ∧ d.dst = m.src ∧ d.op = m.op ∧ ((∃ x, (w, x, 0xF#4) ∈ d.words) ∨ d.rmask.getLsbD w = true)
            ∧ ∀ x, m.mask = Mask.lane w → (s1.homeRead m.asid (m.wa w)).2 = some x → (w, x, 0xF#4) ∈ d.words)
      ∧ (∀ a unpub, s1.pendingFor m.asid (m.wa w) = false → s1.owner m.asid (m.wa w) = some (a, unpub) → a ≠ me →
          (unpub = false ∨ m.rmask.getLsbD w = true →
            ∃ x ∈ t.net, x.kind = .fwd ∧ x.dst = agentNode a ∧ x.other = me ∧ x.mask = Mask.lane w ∧ x.op = m.op)
          ∧ (unpub = true → m.rmask.getLsbD w = true → ∃ x ∈ t.net, x.kind = .race ∧ x.dst = m.src ∧ x.other = a ∧ x.rkind = .read)))
  ∧ (s.Next src dst .seal m → ∃ (t : State), exec (.seal src dst) s = .next t
      ∧ (∀ asid wa, t.hword asid wa = if asid = m.asid ∧ wa ∈ maskWords m.sva m.mask ∧ s.regWaits m.src m.asid wa = false
          ∧ s.hword asid wa = some (.registered me) then some (.sealed me) else s.hword asid wa)
      ∧ ∀ w, w < 32 → m.mask.getLsbD w = true →
          (s.regWaits m.src m.asid (m.wa w) = true → .request (m.only w) ∈ t.homePend)
          ∧ (s.regWaits m.src m.asid (m.wa w) = false →
              ∃ a ∈ t.net, a.kind = .sealack ∧ a.dst = m.src ∧ a.mask.getLsbD w = true ∧ a.op = m.op))
  ∧ (s.Next src dst .wb m → s.homePend = [] → ∃ (t : State), exec (.wb src dst) s = .next t
      ∧ ∀ asid wa, if asid = m.asid ∧ wa ∈ maskWords m.sva m.mask ∧ (s.owner asid wa).map (·.1) = some me
          then t.hword asid wa = some .valid ∨ t.hword asid wa = none else t.hword asid wa = s.hword asid wa)
  ∧ (∀ w x b sl key, s.Next src dst .wb m → s.homePend = [] → w < 32 → m.mask = Mask.lane w → m.words = [(w, x, b)] →
      (s.owner m.asid (m.wa w)).map (·.1) = some me →
      (s.taking src dst).homePlace m.asid (4 * m.wa w) = (s.taking src dst, .at sl key) → s.sectorFailed sl key = false →
      ∃ (t : State), exec (.wb src dst) s = .next t ∧ t.mem = (s.putWord sl key x b).mem)
  ∧ (s.Next src dst .gone m → ∃ (t : State), exec (.gone src dst) s = .next t
      ∧ ∀ w, w < 32 → m.mask.getLsbD w = true →
          ∃ d ∈ t.net, d.kind = .data ∧ d.dst = agentNode m.other ∧ d.op = m.op ∧ ((∃ x, (w, x, 0xF#4) ∈ d.words) ∨ d.rmask.getLsbD w = true)
            ∧ ∀ x, m.mask = Mask.lane w → ((s.taking src dst).homeRead m.asid (m.wa w)).2 = some x → (w, x, 0xF#4) ∈ d.words)

/-- At a cache: FWD, RECALL and RACE at the owner or requester (R121, R125, R127, R130), REGACK and SEALACK (R122, R123), DATA (R127, R141).
What an owner answers is what its registration stands for: its bytes, those before a store whose REG is on its way, or nothing where a WB has
taken them home already (R121, R138; log 105). -/
def Obligations.MessagesAtTheAgent : Prop := ∀ (s : State) (src dst : Node) (m : Msg),
  let me := nodeAgent m.dst
  (s.Next src dst .fwd m → ∃ (t : State), exec (.fwd src dst) s = .next t
    ∧ (∀ a asid wa, (t.cword? a asid wa).map (fun c => { c with wmask := 0, claim := .none })
        = (s.cword? a asid wa).map fun c => { c with wmask := 0, claim := .none })
    ∧ ∀ w, w < 32 → m.mask.getLsbD w = true →
      (∀ c x b, s.cword? me m.asid (m.wa w) = some c → c.held = some (x, b) →
        (∃ d ∈ t.net, d.kind = .data ∧ d.dst = agentNode m.other ∧ d.op = m.op ∧ (w, x, 0xF#4) ∈ d.words)
        ∧ (c.st = .ownedSealed → c.claim = .live → ∃ b' ∈ t.net, b'.kind = .wb ∧ b'.dst = m.src ∧ b'.words = [(w, x, b)]))
      ∧ ((∃ c, s.cword? me m.asid (m.wa w) = some c ∧ c.held = none) ∨ (s.cword? me m.asid (m.wa w) = none ∧ isL1 me = true) →
        ∃ g ∈ t.net, g.kind = .gone ∧ g.dst = m.src ∧ g.mask = Mask.lane w ∧ g.other = m.other))
  ∧ (s.Next src dst .recall m → ∃ (t : State), exec (.recall src dst) s = .next t ∧
    ∀ w, w < 32 → m.mask.getLsbD w = true →
      (∀ c x b, s.cword? me m.asid (m.wa w) = some c → c.held = some (x, b) →
        t.cword? me m.asid (m.wa w) = some c.surrendered
        ∧ ∃ b' ∈ t.net, b'.kind = .wb ∧ b'.dst = m.src ∧ b'.mask = Mask.lane w ∧ b'.words = [(w, x, b)])
      ∧ ((∀ c, s.cword? me m.asid (m.wa w) = some c → c.held = none) → s.regFlies me m.asid (m.wa w) = false →
          s.wbComing me m.asid (m.wa w) = false →
          ∃ b ∈ t.net, b.kind = .wb ∧ b.dst = m.src ∧ b.mask = Mask.lane w ∧ b.words = [(w, 0, 0)]))
  ∧ (∀ o w, s.Next src dst .race m → s.memop? m.op = some o → w < 32 → m.mask = Mask.lane w →
      ∃ (t : State) (o' : MemOp), exec (.race src dst) s = .next t ∧ t.memop? m.op = some o'
        ∧ (∀ l va, o.laneAt (m.wa w) = some (l, va) → ∃ l' va', o'.raced = some (l', va') ∧ l' ≤ l)
        ∧ (∀ j, o.report = true → s.jobOfAsid? m.asid = some j →
            let log := Tab.getD (s.slice (s.homeSlice m.asid (4 * m.wa w))).raceLog j.id []
            Tab.getD (t.slice (s.homeSlice m.asid (4 * m.wa w))).raceLog j.id [] =
              if log.length < 4096 then log ++ [raceRecord (4 * m.wa w) me m.other m.rkind s.clock] else log)
        ∧ (o.report = false → t.slices = s.slices))
  ∧ (∀ kind i, (kind = .regack ∧ i = Instr.regack src dst) ∨ (kind = .sealack ∧ i = Instr.sealack src dst) → s.Next src dst kind m →
      ∃ (t : State), exec i s = .next t
        ∧ (∀ w c, w < 32 → m.mask.getLsbD w = true → s.cword? me m.asid (m.wa w) = some c → m.acksReg = true →
            isPrivate (4 * m.wa w) = false → (∀ o ∈ s.memops, s.l1 o.sk.core = me → o.fill = []) →
            (c.st = .valid → t.cword? me m.asid (m.wa w) = if c.awaiting then none else some c)
            ∧ (∀ x b, c.st ≠ .valid → (m.words.map (·.1)).Nodup → (w, x, b) ∈ m.words →
                t.cword? me m.asid (m.wa w) = some { c with data := mergeWord x c.data c.wmask, awaiting := false, claim := .live })
            ∧ (c.st ≠ .valid → w ∉ m.words.map (·.1) → t.cword? me m.asid (m.wa w) = some { c with awaiting := false, claim := .live }))
        ∧ ((∀ o ∈ s.memops, o.id = m.op → s.l1 o.sk.core = me → ∀ n ∈ o.need, n ∈ (maskWords m.sva m.mask).map (wkey m.asid)) →
            ∀ o ∈ t.memops, ¬ (o.id = m.op ∧ s.l1 o.sk.core = me)))
  ∧ (∀ o victim, s.Next src dst .data m → (∀ x ∈ s.net, x.kind = .race → x.op = m.op → x.dst ≠ dst) → s.memop? m.op = some o →
      let came := m.words.map fun x => (wkey m.asid (m.wa x.1), x.2.1)
      (∀ n ∈ o.need, n ∈ came.map (·.1)) → ∃ (t : State), exec (.dataMsg src dst victim) s = .next t ∧ t.memop? m.op = none
        ∧ (∀ k, s.skein? o.sk = some k → o.isLoad = true → ∃ (k' : Skein), t.skein? o.sk = some k'
            ∧ k'.vregs = (k.landLoad { o with got := o.got ++ came.filter fun y => o.need.contains y.1 } (s.asidOf k)).vregs
            ∧ k'.sregs = (k.landLoad { o with got := o.got ++ came.filter fun y => o.need.contains y.1 } (s.asidOf k)).sregs)
        ∧ ∀ j, s.jobOfAsid? m.asid = some j → o.fill = [] → o.isLoad = true → s.l1 o.sk.core = me → m.sva % 128 = 0 → m.sva < 2 ^ 56 → (m.words.map (·.1)).Nodup →
            (∀ x ∈ m.words, x.1 < 32) → ∀ x ∈ m.words, m.rmask.getLsbD x.1 = false →
            isPrivate (4 * m.wa x.1) = false → ((s.taking src dst).victimSector me victim).cword? me m.asid (m.wa x.1) = none →
            ((s.taking src dst).victimSector me victim).l1Fits me m.asid (m.wa x.1) [] = true →
            t.cword? me m.asid (m.wa x.1) =
              if o.stale.getLsbD (regionOf j (4 * m.wa x.1)) || o.noFill.contains (m.asid, m.wa x.1) then none
              else some ⟨.valid, x.2.1, 0, regionOf j (4 * m.wa x.1), false, .none⟩)

/-! ## What engines do -/

/-- The Shuttle's events, faults of engine operations and their ends (R39, R41, R148, R166, R167, R174, R181, R185, R187 to R189): a sector moves, an
operation pauses at a fault and resumes, and one that completes, fails or is cancelled leaves its queue and tells its handle (R178). The fault VA
of an operation that meets an on-chip error is the scratch offset by the model's choice (log 71). -/
def Obligations.ShuttleEvents : Prop := ∀ (s : State) (op : Nat) (o : EngOp), s.op? op = some o →
  let j := s.jobOfGroup o.group
  let die := dieOf o.core
  let gone (t : State) : Prop := t.op? op = none
  let told (t : State) (st : Nat) : Prop := ∀ e x, o.sk ≠ none → o.entry = some e → Tab.get? (s.core o.core).entries e = some x →
    ((t.core o.core).entry e).st = st
  let at_ (p : Nat) (t : State) : Prop := ∃ o', t.op? op = some o' ∧ o'.progress = p ∧ o'.stat = .running
  (∀ va, o.stat = .paused va → s.faults.contains (j.asid, va.toNat / 4096 * 4096) = false →
    exec (.engineFaultResume op) s = .next (s.modOp op fun y => { y with stat := .running }))
  ∧ (op < s.nextName → ∀ cause va, o.stat = .bad cause va →
      (o.sk ≠ none ∨ o.members ≠ [] → ∃ (t : State), exec (.engineUnresolvableFault op) s = .next t ∧ gone t ∧ told t 3)
      ∧ (o.sk = none → o.members = [] → ∃ (t : State), exec (.copyEntryUnresolvableFault op) s = .next t ∧ gone t))
  ∧ (s.shuttleRuns o = true → o.unitsDone = false → ∀ g, s.group? o.group = some g →
      (∀ d s1 s2 s3 bs, o.kind = .cpy d → s.cpyHomes o d = (none, none) →
        let (va, n) := d.unit o.progress
        let src := d.src + (va - d.dst)
        s.scrFate g o.core ((if d.ss then [(src, n)] else []) ++ o.tbRange) = .good →
        (if d.ss then (s, EngFate.good) else s.engFate j die .read src n) = (s1, .good) →
        (if d.ds then (s1, EngFate.good) else s1.engFate j die .write va n) = (s2, .good) →
        (if d.ss then s2.scrTake o g o.core src n else s2.engRead j.asid (s2.shuttle o.core) src n o.report) = (s3, bs) →
        ∃ (t : State), exec (.shuttleSectorLanded op) s = .next t ∧ at_ (o.progress + 1) t
          ∧ (d.tb = none → t.scratch = (s3.cpyStore o g d va bs).scratch ∧ t.mem = (s3.cpyStore o g d va bs).mem
              ∧ t.caches = (s3.cpyStore o g d va bs).caches))
      ∧ (∀ d p s1, o.kind = .cpy d → s.reachable p = true → s.scrFate g o.core ((if d.ss then [(d.src + ((d.unit o.progress).1 - d.dst),
            (d.unit o.progress).2)] else []) ++ o.tbRange) = .good →
          ((s.cpyHomes o d).1 = some p
            ∧ (if d.ss then (s, EngFate.good) else s.engFate j die .read (d.src + ((d.unit o.progress).1 - d.dst)) (d.unit o.progress).2) = (s1, .good)
          ∨ s.cpyHomes o d = (none, some p)
            ∧ (if d.ds then (s, EngFate.good) else s.engFate j die .write (d.unit o.progress).1 (d.unit o.progress).2) = (s1, .good)) →
          ∃ (t : State), exec (.shuttleSectorLanded op) s = .next t ∧ at_ (o.progress + 1) t)
      ∧ (∀ d s1 va, o.kind = .cpy d → s.cpyHomes o d = (none, none) → d.ss = false → s.scrFate g o.core o.tbRange = .good →
          s.engFate j die .read (d.src + ((d.unit o.progress).1 - d.dst)) (d.unit o.progress).2 = (s1, .park va) →
          ∃ (t : State) (o' : EngOp), exec (.shuttleSectorLanded op) s = .next t ∧ t.op? op = some o' ∧ o'.stat = .paused (BitVec.ofNat 64 va)
            ∧ (j.asid, va / 4096 * 4096) ∈ t.faults)
      ∧ (∀ d cause off, o.kind = .cpy d → d.ss = true →
          s.scrFate g o.core (((d.src + ((d.unit o.progress).1 - d.dst)), (d.unit o.progress).2) :: o.tbRange) = .bad cause off →
          exec (.shuttleSectorLanded op) s = .next (s.modOp op fun y => { y with stat := .bad 0x07 (BitVec.ofNat 64 off) }))
      ∧ (∀ d s1, o.kind = .cpyt d →
          let es := d.elems (o.progress / 2 ^ 14) (o.progress % 2 ^ 14)
          s.scrFate g o.core ((if d.dir then es.map fun e => (e.1, 2 ^ d.lesz) else []) ++ o.tbRange) = .good →
          s.engFates j die (if d.dir then .write else .read) (es.filterMap fun e => e.2.map fun a => (a, 2 ^ d.lesz)) = (s1, .good) →
          ∃ (t : State), exec (.shuttleSectorLanded op) s = .next t ∧ at_ (d.advance o.progress) t)
      ∧ (∀ d s1, o.kind = .cpyr d →
          let es := d.elems (o.progress / 2 ^ 14) (o.progress % 2 ^ 14)
          let rs := es.filterMap fun e => e.2.map fun a => (a, 2 ^ d.lesz)
          s.scrFate g o.core (es.map (fun e => (e.1, 2 ^ d.lesz)) ++ o.tbRange) = .good →
          s.engUpdates j die rs = (s1, .good) →
          ∃ (t : State), exec (.shuttleSectorLanded op) s = .next t ∧ at_ (d.advance o.progress) t))
  ∧ (op < s.nextName → s.shuttleDone o = true → ∃ (t : State), exec (.shuttleComplete op) s = .next t ∧ gone t ∧ told t 2)
  ∧ (∀ d tb s1, o.kind = .prefetch d tb → s.shuttleRuns o = true → s.prefetchRows o d (d.rows - o.progress) = (s1, true) → op < s.nextName →
      ∃ (t : State), exec (.prefetchComplete op) s = .next t ∧ gone t)
  ∧ (op < s.nextName → o.cancelReq = true →
      ((∃ d, (o.kind = .cpy d ∨ ∃ d', o.kind = .cpyt d' ∨ o.kind = .cpyr d') ∧ s.shuttleDone o = false) ∨ (∃ d tb, o.kind = .prefetch d tb)
        ∨ (∃ d, o.kind = .mat d ∧ o.progress < d.steps ∧ s.twinMate o = none) ∨ (∃ a n, o.kind = .mzero a n ∧ o.progress < n ∧ s.twinMate o = none)
        ∨ (∃ d, o.kind = .gey d ∧ 32 * o.progress < d.rows)) →
      ∃ (t : State), exec (.engineCancelStop op) s = .next t ∧ gone t ∧ told t 2
        ∧ ∀ e x, o.sk ≠ none → o.entry = some e → Tab.get? (s.core o.core).entries e = some x → ((t.core o.core).entry e).canc = true)

/-- The matrix engine and the Geysers (R202, R205, R206, R208, R210): a K-step adds its products to every element of the tile, MZERO clears a
tile, a move carries a whole tile, a twin loop starts when both halves agree, and a Geyser row group yields 32 rows. The fault VA of an accumulator
that holds an on-chip error is 0 by the model's choice (log 71). -/
def Obligations.MatrixAndGeyserEvents : Prop := ∀ (s : State) (op : Nat) (o : EngOp) (g : Group), s.op? op = some o → s.group? o.group = some g →
  let gone (t : State) : Prop := t.op? op = none
  (∀ d s1 b sb, o.kind = .mat d → s.matRunnable o = true → o.progress < d.steps → d.twin = false → s.twinMate o = none →
    s.fetchB o g d o.progress = (s1, .good, b, sb) → s1.stepFates o g d o.progress none = .good →
    ∃ (t : State) (o' : EngOp), exec (.matrixKStep op) s = .next t ∧ t.op? op = some o' ∧ o'.progress = o.progress + 1 ∧ t.scratch = s1.scratch
      ∧ ∀ i j, i < 128 → j < 128 →
          let old := if o.progress = 0 ∧ d.overwrite = true then 0 else (s1.tileElem g o.core d.acc i j).toNat
          let r := d.elem old i j ((s1.aRows o g o.core d o.progress).getD i []) b (s1.scales o g o.core d d.saOff d.saInc o.progress) sb
          r.2 = false → t.tileElem g o.core d.acc i j = BitVec.ofNat 32 r.1)
  ∧ (∀ first count, o.kind = .mzero first count → s.matRunnable o = true → o.progress < count →
      ∃ (t : State) (o' : EngOp), exec (.matrixKStep op) s = .next t ∧ t.op? op = some o' ∧ o'.progress = o.progress + 1
        ∧ ∀ i j, i < 128 → j < 128 → t.tileElem g o.core (first + o.progress) i j = 0)
  ∧ (∀ d s1 b sb, o.kind = .mat d → s.matRunnable o = true → o.progress < d.steps → d.twin = false → s.twinMate o = none →
    s.fetchB o g d o.progress = (s1, .good, b, sb) → ¬ (o.progress = 0 ∧ d.overwrite = true) → s1.tileSoft g o.core d.acc = true →
    exec (.matrixKStep op) s = .next (s1.modOp op fun y => { y with stat := .bad 0x07 0 }))
  ∧ (s.matRunnable o = true → o.matDone = true → s.twinMate o = none → s.moveFate o g = none →
      ∃ (t : State), exec (.matrixOpComplete op) s = .next t ∧ gone t ∧ t.scratch = (s.moveTile o g).scratch ∧ t.tiles = (s.moveTile o g).tiles)
  ∧ (∀ tile off pitch, o.kind = .mwr tile 0 off pitch → o.tainted = [] → o.stale = [] → ∀ i j, i < 128 → j < 128 →
      (s.moveTile o g).tileElem g o.core tile i j =
        BitVec.ofNat 32 (ofBytesLE ((List.range 4).map fun k => Sparse.get 0 s.scratch (scrKey g (scrCore o.core off) (off % 2 ^ 31 + i * pitch + 4 * j + k)))))
  ∧ (∀ a p b, o.kind = .mat a → a.twin = true → o.stat = .queued → s.pairingLost o = false → s.twinMate o = some p → p.kind = .mat b →
      s.matRunnable o = true → s.matRunnable p = true → p.stat = .queued → p.id ≠ op →
      (twinAgree a b = true → exec (.twinMloopStart op) s =
        .next ((s.modOp op fun y => { y with stat := .running }).modOp p.id fun y => { y with stat := .running }))
      ∧ (twinAgree a b = false → ∃ (t : State), exec (.twinMloopStart op) s = .next t ∧ gone t ∧ t.op? p.id = none))
  ∧ (∀ a, o.kind = .mat a → a.twin = true → o.stat = .queued → s.pairingLost o = true →
      ∃ (t : State), exec (.twinMloopStart op) s = .next t ∧ gone t)
  ∧ (∀ d s1 s2, o.kind = .gey d → s.geyRunnable o d = true → 32 * o.progress < d.rows → o.stat = .running → d.yScratch = true →
      let rows := (List.range (min 32 (d.rows - 32 * o.progress))).map (32 * o.progress + ·)
      let rs := rows.map fun r => (d.wVa + r * d.wPitch, d.rowBytes)
      let j := s.jobOfGroup o.group
      let x := o.xBytes.map fun b => (b, false)
      o.xBytes ≠ [] → s.scrFate g o.core o.tbRange = .good →
      s.engFates j (dieOf o.core) .read rs = (s1, .good) → s1.notGl j.asid d rs = none → o.xTainted g d = false →
      (∀ r ∈ rs, ∃ w, s1.coreBytes o.core j.asid r.1 r.2 o.report = (s2, w)) → s2 = s1 →
      ∃ (t : State) (o' : EngOp), exec (.geyserRowGroup op) s = .next t ∧ t.op? op = some o' ∧ o'.progress = o.progress + 1
        ∧ t.scratch = (s1.scrWrite g o.core (d.y + 4 * (32 * o.progress)) (rs.flatMap fun r =>
            toBytesLE 4 (BitVec.ofNat 32 (d.row x (s1.coreBytes o.core j.asid r.1 r.2 o.report).2)).toNat)).scratch)
  ∧ (∀ d, o.kind = .gey d → s.geyRunnable o d = true → d.rows ≤ 32 * o.progress →
      ∃ (t : State), exec (.geyserComplete op) s = .next t ∧ gone t)

/-- Pleat (R231 to R233, R368): a participant's engine serves a ready receiver and ends with its share; 100 ms after its issue it fails; READY
and ABORT find the exchange they name, data goes to its address or waits while a fault pauses the engine (log 93), and what finds none is held
for 100 ms. -/
def Obligations.PleatEvents : Prop := ∀ (s : State) (op : Nat) (o : EngOp) (x : Exchange), s.op? op = some o → s.exchange? op = some x →
  x.isOpen = true →
  let pat := patternOf x.pattern
  let gone (t : State) : Prop := t.op? op = none ∧ t.exchange? op = none
  let mine (p : Packet) : Prop := s.exchangesFor p = [x] ∧ x.rtab ≠ none ∧ p.rank ≠ x.rank
  (o.stat = .running ∨ o.stat = .queued → x.incoming = [] → ∀ rt, x.rtab = some rt →
    (∀ q n, x.next pat = some (q, n) → pat.count x.rank q = 0 →
      exec (.pleatComplete op) s = .next (s.modExchange op fun y => { y with sent := y.sent ++ [q], current := none }))
    ∧ (x.next pat = none → x.share pat = true → ∃ (t : State), exec (.pleatComplete op) s = .next t ∧ gone t))
  ∧ (x.issued + 125000000 ≤ s.clock → ∃ (t : State), exec (.pleatTimeout op) s = .next t ∧ gone t)
  ∧ (∀ spkg p, s.firstPacket spkg = some p → p.kind = 0x08 → mine p → p.rank ∉ x.ready → pfield p 0x14 4 = x.tag →
      exec (.pleatReady spkg) s = .next ((s.dropPacket spkg).modExchange op fun y => { y with ready := y.ready ++ [p.rank] }))
  ∧ (∀ spkg p, s.firstPacket spkg = some p → p.kind = 0x0A → mine p → ∃ (t : State), exec (.pleatAbort spkg) s = .next t ∧ gone t)
  ∧ (∀ spkg p, s.firstPacket spkg = some p → (p.kind = 0x08 ∨ p.kind = 0x0A) → (∀ y ∈ s.exchanges, y.cid ≠ p.cid) →
      exec (if p.kind = 0x08 then .pleatReady spkg else .pleatAbort spkg) s = .next ((s.dropPacket spkg).holdPleat p))
  ∧ (∀ spkg p s1, s.firstPacket spkg = some p → p.kind = 0x09 → (s.dropPacket spkg).dataTarget p (pfield p 0x18 8) = some x →
      let va := pfield p 0x18 8
      let bs := p.body.take (pfield p 0x20 4)
      let s0 := (s.dropPacket spkg).modExchange op fun _ => { x with incoming := x.incoming ++ [(va, bs)] }
      (∀ a, o.stat = .paused a → exec (.pleatData spkg) s = .next s0)
      ∧ ((∀ a, o.stat ≠ .paused a) → x.incoming = [] → va % 128 + bs.length ≤ 128 →
          s0.landFate (s0.jobOfGroup o.group) x.die va bs.length = (s1, .good) →
          ∃ (t : State) (y : Exchange), exec (.pleatData spkg) s = .next t ∧ t.exchange? op = some y ∧ y.received = x.received + bs.length))
  ∧ (∃ (t : State), exec .pleatHeldMessageTimeout s = .next t ∧ ∀ h, h ∈ t.fab.held ↔ h ∈ s.fab.held
      ∧ ¬ ((h.packet.kind = 0x08 ∨ h.packet.kind = 0x0A) ∧ h.since + 125000000 ≤ s.clock))

/-! ## Records of the host -/

/-- The host's work records (R22, R23, R25 to R32, R251 to R253, R257, R290, R415): a job, a phase, a graph and a launch come to be with the
fields that their records give, a close closes, a cancel ends what has not ended, a map changes what the job maps, a reply of storage ends
its request; each is answered. A cancel's kind stands in the record's status field by the model's choice (log 35); that a launch whose
predecessor has ended cancelled or failed is cancelled as it comes is the model's reading (log 73); a job takes a stack piece for its root
table (log 6), and the 16-bit counters take no more than they hold (log 82). That a cancel of a graph, a phase or a job also closes it is the
model's reading (log 26). -/
def Obligations.WorkRecords : Prop := ∀ (s : State) (r : HostRec),
  let answered (t : State) (st : Nat) : Prop := t.host.out = s.host.out ++ [replyTo r r.job st 0 []]
  let told (t : State) (st : Nat) : Prop := replyTo r r.job st 0 [] ∈ t.host.out
  let lo := arg32 r false
  (let live := s.work.jobs.filter fun j => j.status.isNone
   let map := (List.range 64).map fun i => fieldAt r.body (8 * i) 8
   let timeout := fieldAt r.body 512 4
   s.Takes r 0x01 → r.len = 552 → (timeout = 0 ∨ (12 ≤ timeout ∧ timeout ≤ 1000)) → (∀ e ∈ map.zipIdx, homeEntryOk e.2 e.1 = true) →
    live.length < 255 → (∀ a k, (s.newSpace a k).isSome = true) →
    ∃ (t : State) (j : Job), exec (.jobOpen r) s = .next t ∧ t.work.jobs = s.work.jobs ++ [j] ∧ j.id = s.work.nextJob ∧ j.status = none
      ∧ j.closed = false ∧ j.homeMap = map.map (BitVec.ofNat 64 ·) ∧ j.timeoutMs = timeout ∧ j.tag = r.tag ∧ j.counter = 0
      ∧ 1 ≤ j.asid ∧ 1 ≤ j.key ∧ (∀ y ∈ live, y.asid ≠ j.asid ∧ y.key ≠ j.key)
      ∧ t.host.out = s.host.out ++ [replyTo r j.id 0 (BitVec.ofNat 64 (j.id % 2 ^ 32 + j.asid * 2 ^ 32 + j.key * 2 ^ 48)) []])
  ∧ (∀ j, s.job? r.job = some j → j.status = none →
    (s.Takes r 0x02 → ∃ (t : State) (j' : Job), exec (.jobClose r) s = .next t ∧ told t 0 ∧ t.job? r.job = some j' ∧ j'.closed = true
      ∧ j'.status = if j.counter = 0 then some (if j.cancelled then 1 else 0) else none)
    ∧ (s.Takes r 0x03 → j.closed = false → s.phase? r.job lo = none → j.counter < 65535 →
        ∃ (t : State) (j' : Job), exec (.phaseOpen r) s = .next t ∧ answered t 0 ∧ t.job? r.job = some j' ∧ j'.counter = j.counter + 1
          ∧ t.phase? r.job lo = some ⟨r.job, lo, false, false, 0, none, r.tag, s.work.nextOrder⟩)
    ∧ (∀ ph, s.Takes r 0x04 → s.phase? r.job lo = some ph →
        ∃ (t : State) (p' : Phase), exec (.phaseClose r) s = .next t ∧ told t 0 ∧ t.phase? r.job lo = some p' ∧ p'.closed = true)
    ∧ (∀ ph, s.Takes r 0x05 → j.closed = false → s.phase? r.job (arg32 r true) = some ph → ph.closed = false → ph.status = none →
        s.graph? r.job lo = none → ph.counter < 65535 →
        ∃ (t : State), exec (.graphOpen r) s = .next t ∧ answered t 0
          ∧ t.graph? r.job lo = some ⟨r.job, lo, arg32 r true, false, false, 0, none, r.tag, []⟩
          ∧ t.phase? r.job (arg32 r true) = some { ph with counter := ph.counter + 1 })
    ∧ (∀ g, s.Takes r 0x06 → s.graph? r.job lo = some g →
        ∃ (t : State) (g' : Graph), exec (.graphClose r) s = .next t ∧ told t 0 ∧ t.graph? r.job lo = some g' ∧ g'.closed = true)
    ∧ (s.Takes r 0x0A → mapBodyOk r.body = true →
        let b := r.body
        let perm := fieldAt b 1 1
        let src := fieldAt b 2 1
        let first := fieldAt b 8 8 / 65536
        let n := fieldAt b 0x10 8 / 65536
        let arg := fieldAt b 0x18 8
        (fieldAt b 0 1 = 0 → perm < 16 → ¬ (perm / 2 % 2 = 1 ∧ perm / 4 % 2 = 1) → src ≤ 2 → n ≠ 0 →
          (src = 1 → ∃ v, Tab.get? s.host.volumes (arg / 2 ^ 56) = some v ∧ arg % 65536 = 0 ∧ arg % 2 ^ 56 + 65536 * n ≤ v.capacity) →
          s.mappable j first n = true → glOk j first n (perm / 8) = true → s.objectBusy j first n = false →
          ∃ (t : State) (j' : Job), exec (.mapPages r) s = .next t ∧ told t 0 ∧ t.job? r.job = some j' ∧ (first, n, perm, src, arg) ∈ j'.maps)
        ∧ (fieldAt b 0 1 = 1 → s.objectBusy j first n = false →
          ∃ (t : State) (j' : Job), exec (.mapUnmap r) s = .next t ∧ told t 0 ∧ t.job? r.job = some j'
            ∧ ∀ m ∈ j'.maps, m.1 + m.2.1 ≤ first ∨ first + n ≤ m.1)
        ∧ (fieldAt b 0 1 = 2 → fieldAt b 3 1 < 16 → fieldAt b 0x20 8 ≠ 0 →
          ∃ (t : State) (q : StoreReq) (x : HostRec), exec (.mapRegisterObject r) s = .next t ∧ t.host.storage = s.host.storage ++ [q]
            ∧ q.num = s.host.nextReq ∧ q.job = r.job ∧ q.obj = BitVec.ofNat 64 arg ∧ q.bytes = fieldAt b 0x20 8
            ∧ q.kobj = some (fieldAt b 3 1, fieldAt b 0x20 8, r.tag) ∧ t.host.out = s.host.out ++ [x] ∧ x.typ = 0x0B
            ∧ x.tag = BitVec.ofNat 64 q.num)))
  ∧ (s.Takes r 0x07 →
      let l := lrecOfBytes r.body
      let answer (st : Nat) : HostRec := ⟨0x07, 1, 32, r.tag, r.job, st, 0, []⟩
      (lrecLimits r.body = true → s.admits l r.job = true → s.queued l.queue < 512 → (∀ h ∈ s.work.held, h.1 ≠ l.queue) →
        (∀ g, s.graph? l.job l.graph = some g → g.cancelled = false) →
        (s.predEnded l = false → ∃ (t : State) (x : Launch), exec (.launch r) s = .next t ∧ t.launch? l.lid = some x ∧ x.lrec = l
          ∧ x.counter = l.groups ∧ x.status = none ∧ x.queue = l.queue ∧ x.tag = r.tag ∧ t.host.out = s.host.out ++ [answer 0])
        ∧ ((∃ p ∈ l.preds, p ≠ 255 ∧ ∃ y, s.launch? ⟨l.job, l.graph, p⟩ = some y ∧ (y.status = some 1 ∨ y.status = some 2)) →
          ∃ (t : State) (x : Launch), exec (.launch r) s = .next t ∧ t.launch? l.lid = some x ∧ x.lrec = l ∧ x.ending = some 1
            ∧ answer 0 ∈ t.host.out))
      ∧ (lrecLimits r.body = false ∨ s.admits l r.job = false → exec (.launch r) s = .next (s.send (answer 3))))
  ∧ (s.Takes r 0x08 →
      let x := r.arg.toNat
      let lid : LaunchId := ⟨r.job, x / 2 ^ 32, x % 2 ^ 32⟩
      (r.status = 0 → s.launch? lid = none → exec (.cancel r) s = .next (s.reply r 4))
      ∧ (r.status = 0 → ∀ l st, s.launch? lid = some l → l.status = some st → exec (.cancel r) s = .next (s.reply r st))
      ∧ (r.status = 0 → ∀ l, s.launch? lid = some l → l.status = none → l.ending = none →
          ∃ (t : State) (l' : Launch), exec (.cancel r) s = .next t ∧ t.launch? lid = some l' ∧ l'.ending = some 1)
      ∧ (r.status = 1 → s.graph? r.job x = none → exec (.cancel r) s = .next (s.reply r 4))
      ∧ (r.status = 1 → ∀ g st, s.graph? r.job x = some g → g.status = some st → exec (.cancel r) s = .next (s.reply r st))
      ∧ (r.status = 1 → ∀ g, s.graph? r.job x = some g → g.status = none →
          ∃ (t : State) (g' : Graph), exec (.cancel r) s = .next t ∧ t.graph? r.job x = some g' ∧ g'.cancelled = true ∧ g'.closed = true)
      ∧ (r.status = 2 → ∀ p, s.phase? r.job x = some p → p.status = none →
          ∃ (t : State) (p' : Phase), exec (.cancel r) s = .next t ∧ t.phase? r.job x = some p' ∧ p'.cancelled = true ∧ p'.closed = true)
      ∧ (r.status = 3 → ∀ j, s.job? x = some j → j.status = none →
          ∃ (t : State) (j' : Job), exec (.cancel r) s = .next t ∧ t.job? x = some j' ∧ j'.cancelled = true ∧ j'.closed = true))
  ∧ (s.Takes r 0x0B → ∀ q, (s.host.storage.find? fun q => q.num == lo && q.chunk < 2 ^ 31) = some q → q.kobj = none → q.piece = none →
      let drop : State := s.modHost fun h => { h with storage := h.storage.filter (·.num != q.num) }
      let c := fieldAt r.body 4 4
      (r.status = 0 → q.op ≠ 0 → exec (.storageReply r) s = .next (drop.svcReply q.group q.index 0))
      ∧ (r.status ≠ 0 → exec (.storageReply r) s = .next (drop.svcReply q.group q.index (BitVec.ofNat 64 (2 ^ 63 + 9))))
      ∧ (r.status = 0 → q.op = 0 → c = q.chunk →
          ∃ (t : State), exec (.storageReply r) s = .next t ∧ ∀ y ∈ t.host.storage, y.num = q.num →
            y.got = (q.got ++ r.body.drop 8).take q.bytes ∧ y.chunk = q.chunk + 1))

/-- The host's other records and what it does to the devices (R6, R60, R80, R81, R130, R250, R254 to R256, R259 to R263, R289): sensors,
thresholds, a die's drain, the debugger, the race log, release of a frozen master, code keys, volumes and their bytes, fabric messages,
attestation, the boot image, features and registers. The choice of a debugger message's group and skein is the model's (log 61), and so are
the reply's argument 1 to a step of a waiting strand (log 80), the slice of a volume's chunk (log 91) and the one step that a flash write
takes (log 96). So also are the units of a threshold (log 54), the free value that a sensor reads before it has reported (log 11), the
rejection of an image while the package runs (log 59), and that DEBUGGER_STOP attaches the debugger (log 60). -/
def Obligations.ManagementRecords : Prop := ∀ (s : State) (r : HostRec),
  let answered (t : State) (st : Nat) : Prop := t.host.out = s.host.out ++ [replyTo r r.job st 0 []]
  let told (t : State) (st : Nat) : Prop := replyTo r r.job st 0 [] ∈ t.host.out
  let d := mgDie r
  let i := mgIndex r
  let v := sextInt 64 (mgValue r)
  (s.TakesMgmt r 1 → d ≤ 3 → i < [96, 64, 32].getD (mgKind r) 0 →
      (∀ x, Tab.get? (s.die d).readings (mgKind r, i) = some x → exec (.sensorRead r) s = .next (s.reply r 0 (BitVec.ofInt 64 x)))
      ∧ (Tab.get? (s.die d).readings (mgKind r, i) = none →
          exec (.sensorRead r) s = .next (s.reply r 0 (Config.reading d (mgKind r) i s.clock))))
  ∧ (s.TakesMgmt r 2 → d ≤ 3 →
      (mgKind r = 0 → 70000 ≤ v → v ≤ 100000 → ∃ (t : State), exec (.thresholdSet r) s = .next t ∧ answered t 0 ∧ (t.die d).threshold = v)
      ∧ (mgKind r = 1 → 70000 ≤ v → v ≤ 90000 → ∃ (t : State), exec (.thresholdSet r) s = .next t ∧ answered t 0
          ∧ Tab.get? t.pkg.dramLimit d = some v)
      ∧ (mgKind r = 2 → 2000 ≤ v → v ≤ 6000 → ∃ (t : State), exec (.thresholdSet r) s = .next t ∧ answered t 0 ∧ (t.pkg.powerLimit : Int) = v)
      ∧ (mgKind r = 3 → i < 64 → ∃ (t : State), exec (.thresholdSet r) s = .next t ∧ answered t 0 ∧ Tab.get? (t.die d).droops i = some v)
      ∧ (mgKind r = 0 → v < 70000 ∨ 100000 < v → exec (.thresholdSet r) s = .next (s.reply r 3)))
  ∧ (s.TakesMgmt r 3 → d ≤ 3 → ∃ (t : State), exec (.dieDrain r) s = .next t
      ∧ ((d, r.tag) ∈ t.host.drains ∨ ⟨0x0C, 1, 32, r.tag, 0, 0, 0, []⟩ ∈ t.host.out)
      ∧ ∀ gid g, (s.groups.filter fun x => dieOf x.2.core == d && x.2.st == .running) = [(gid, g)] → s.group? gid = some g →
          g.cancelled = false → g.exited.length < (s.lrecOfGroup g).skeins → s.CanStop g → ∃ g', t.group? gid = some g' ∧ g'.st = .stopping)
  ∧ (∀ id, s.mgSkein r = some id →
      (s.TakesMgmt r 4 → ∃ (t : State) (k' : Skein), exec (.debuggerStop r) s = .next t ∧ answered t 0 ∧ t.skein? id = some k'
        ∧ k'.stopped = true ∧ k'.stepping = none
        ∧ ∀ j, s.job? (mgJob r) = some j → t.job? (mgJob r) = some { j with debugger := true })
      ∧ (s.TakesMgmt r 6 → ∃ (t : State) (k' : Skein), exec (.resume r) s = .next t ∧ told t 0 ∧ t.skein? id = some k' ∧ k'.stopped = false)
      ∧ (∀ k x, s.TakesMgmt r 5 → s.skein? id = some k → k.strand? (mgKind r) = some x →
          (k.stopped = true → s.waitOver id k x = true → k.park = none →
            ∃ (t : State) (k' : Skein), exec (.singleStep r) s = .next t ∧ t.skein? id = some k' ∧ k'.stepping = some (mgKind r, false)
              ∧ (id, r.tag) ∈ t.host.dbg)
          ∧ (k.stopped = true → s.waitOver id k x = false ∨ k.park ≠ none → exec (.singleStep r) s = .next (s.reply r 0 1))
          ∧ (k.stopped = false → exec (.singleStep r) s = .next (s.reply r 3))))
  ∧ (s.TakesMgmt r 7 → d ≤ 3 → mgKind r ≤ 7 →
      let sl := 8 * d + mgKind r
      let log := Tab.getD (s.slice sl).raceLog (mgJob r) []
      let n := min i 2046
      ∃ (t : State), exec (.raceLogRead r) s = .next t ∧ Tab.getD (t.slice sl).raceLog (mgJob r) [] = log.drop n
        ∧ Tab.get? (t.slice sl).raceDrop (mgJob r) = none
        ∧ t.host.out = s.host.out ++ [replyTo r r.job 0 (BitVec.ofNat 64 (Tab.getD (s.slice sl).raceDrop (mgJob r) 0)) (log.take n).flatten])
  ∧ (s.TakesMgmt r 8 → d ≤ 3 →
      (mgKind r = 0 → i < 128 → ∃ (t : State), exec (.masterRelease r) s = .next t ∧ told t 0 ∧ (t.core (128 * d + i)).frozen = false)
      ∧ (mgKind r = 1 → ∃ (t : State), exec (.masterRelease r) s = .next t ∧ answered t 0 ∧ s.agent d i ∉ t.pkg.frozenEngines)
      ∧ (mgKind r = 2 → i < 8 → ∃ (t : State), exec (.masterRelease r) s = .next t ∧ answered t 0
          ∧ (t.slice (8 * d + i)).frozenService = false))
  ∧ (s.TakesMgmt r 9 → i < 16 → 1952 ≤ (mgTail r).length → ∃ (t : State), exec (.codeKeyEnrol r) s = .next t ∧ answered t 0
      ∧ Tab.get? t.host.codeKeys i = some ((mgTail r).take 1952))
  ∧ (s.TakesMgmt r 10 → i < 32 → mgKind r ≤ 1 → mgValue r ≤ 2 ^ 36 → mgValue r ≠ 0 → mgValue r % 4096 = 0 → mgAux r ≠ 0 →
      Tab.get? s.host.volumes i = none → ∃ (t : State), exec (.weightVolumeCreate r) s = .next t ∧ answered t 0
        ∧ Tab.get? t.host.volumes i = some ⟨decide (mgKind r = 1), mgValue r, mgAux r, []⟩)
  ∧ (∀ x, s.TakesMgmt r 11 → Tab.get? s.host.volumes i = some x → ∃ (t : State), exec (.weightVolumeDelete r) s = .next t ∧ answered t 0
      ∧ Tab.get? t.host.volumes i = none)
  ∧ (s.TakesMgmt r 12 → 64 ≤ (mgTail r).length →
      (i < 48 → exec (.fabricSend r) s = .next ((s.enqueue i 6 false [(mgTail r).take 56]).reply r 0))
      ∧ (i = 0xFFFF → s.fab.store.length < 64 → ∃ (t : State), exec (.fabricSend r) s = .next t ∧ answered t 0
          ∧ t.fab.store = s.fab.store ++ [(0xFFFF, (mgTail r).take 56)]))
  ∧ (∀ j, s.TakesMgmt r 13 → s.job? (mgJob r) = some j → ∃ (t : State), exec (.debuggerDetach r) s = .next t ∧ answered t 0
      ∧ t.job? (mgJob r) = some { j with debugger := false })
  ∧ (s.Takes r 0x0E → 36 ≤ r.body.length → (fieldAt r.body 0x20 4 = 0 ∨ (s.job? (fieldAt r.body 0x20 4)).isSome) →
      ∃ (t : State) (b : List Byte), exec (.attest r) s = .next t
        ∧ t.host.out = s.host.out ++ [replyTo r r.job 0 0 (b ++ Config.deviceSign b)] ∧ (b.drop 8).take 32 = r.body.take 32)
  ∧ (s.Takes r 0x0F → exec (.image r) s = .next (s.reply r 3))
  ∧ (s.pkg.boot = .recovery → r.typ = 0x0F → r.len = 32 + r.body.length → r.len % 8 = 0 → r.len ≤ 65536 →
      let n := fieldAt r.body 4 4
      let data := (r.body.drop 0x18).take n
      let img := s.host.imgParts ++ data
      fieldAt r.body 0 4 = s.host.imgNext → n ≤ 65480 → data.length = n →
      (fieldAt r.body 0x10 4 % 2 = 0 → ∃ (t : State), exec (.image r) s = .next t ∧ answered t 0 ∧ t.host.imgParts = img
        ∧ t.host.imgNext = s.host.imgNext + 1 ∧ t.pkg = s.pkg)
      ∧ (fieldAt r.body 0x10 4 % 2 = 1 → img.length = fieldAt r.body 8 8 → img.length ≤ 2 ^ 26 → imageOk img = true →
          ∃ (t : State), exec (.image r) s = .next t ∧ answered t 0 ∧ t.host.flash = [] ∧ t.host.flashing = some (s.clock, img)
            ∧ t.pkg = s.pkg ∧ ∀ u : State, u.host.flashing = some (s.clock, img) → s.clock < u.clock →
              u.finishFlash.host.flash = img ∧ u.finishFlash.pkg.boot = .running ∧ u.finishFlash.work.jobs = []))
  ∧ exec .consoleInput s = .next s
  ∧ (∀ dev fs,
      (s.hasDevice dev = true → dev = 0 ∨ s.pkg.boot = .running →
        ∃ (t : State) (b : Bool), exec (.featuresOk dev fs) s = .next t ∧ Tab.get? t.host.featuresOk dev = some b
          ∧ (b = true ↔ .version1 ∈ fs ∧ .ringPacked ∈ fs ∧ (dev = 0 → .seqpacket ∈ fs) ∧ ∀ f ∈ fs, f ∈ offered dev))
      ∧ (s.hasDevice dev = false ∨ (dev ≠ 0 ∧ s.pkg.boot ≠ .running) → exec (.featuresOk dev fs) s = .next s))
  ∧ (∀ x : W64,
      (∀ sl, ∃ (t : State), exec (.registerWrite (.csr sl 0x7C2) x) s = .next t ∧ (t.slice sl).frz = (s.slice sl).frz &&& x)
      ∧ (∀ sl n, n ≠ 0x7C2 → exec (.registerWrite (.csr sl n) x) s = .next s)
      ∧ (∀ j e, exec (.registerWrite (.homeMap j e) x) s = .next s)
      ∧ (∀ sl dfn p, ∃ (t : State), exec (.registerWrite (.indirection sl dfn p) x) s = .next t
          ∧ (t.slice sl).entry (dfn * 16 + p % 16) = indirOf x))
  ∧ (∀ vol w, Tab.get? s.host.volumes vol = some w →
      exec (.virtioBlkFlush vol) s = .next (s.blkDone vol true [])
      ∧ (∀ off data, data ≠ [] → off % 512 = 0 →
          let span := if w.lz4 then 65536 else data.length
          let chunks := (List.range ((off + span + 65535) / 65536 - off / 65536)).map (off / 65536 + ·)
          off + span ≤ w.capacity → (w.lz4 = true → off % 65536 = 0) → (w.lz4 = false → data.length % 512 = 0) →
          (∀ c ∈ chunks, s.chunkMapped vol c = false) →
          (∀ s1 w1, s.volWrite w off data chunks = some (s1, w1) → ∃ (t : State), exec (.virtioBlkWrite vol off data) s = .next t
            ∧ t.host.blkStatus = s1.host.blkStatus ++ [(vol, true, [])] ∧ t.mem = s1.mem ∧ Tab.get? t.host.volumes vol = some w1)
          ∧ (s.volWrite w off data chunks = none → exec (.virtioBlkWrite vol off data) s = .next (s.blkDone vol false [])))
      ∧ (∀ off data c, w.lz4 = false → off / 65536 ≤ c → c ≤ (off + data.length - 1) / 65536 → s.chunkMapped vol c = true → data ≠ [] →
          exec (.virtioBlkWrite vol off data) s = .next (s.blkDone vol false []))
      ∧ (∀ off n s1 b, off % 512 = 0 → n % 512 = 0 → n ≠ 0 → off % 4096 + n ≤ 4096 → off + n ≤ w.capacity →
          s.volBlock w (off / 4096) = (s1, b) → exec (.virtioBlkRead vol off n) s =
            .next (match b with | some x => s1.blkDone vol true ((x.drop (off % 4096)).take n) | none => s1.blkDone vol false [])))
  ∧ (∀ (c : VChunk) i lo (bs : List Byte), Sparse.wf 0 s.mem = true → i < c.pieces.length → 4096 * i ≤ lo → lo + bs.length ≤ 4096 * i + 4096 →
      lo + bs.length ≤ c.len → bs ≠ [] → ((s.chunkWrite c lo bs).chunkRead c lo bs.length).2 = some bs)

/-! ## Placement -/

/-- Placement, reservations, pre-emption, save and restore, the end of a group, a launch's schedule and the governor (R28, R34, R38, R43,
R45, R47, R48, R50, R56, R60 to R65). Which set of groups goes for a reservation, among sets of one size, is the model's choice (log 55),
and so are how many pieces a save area takes (log 74), the cause that an invalid schedule gives its launch (log 88), and that a launch whose
predecessor has ended cancelled or failed is cancelled as it is accepted (logs 73, 85). -/
def Obligations.PlacementEvents : Prop := ∀ (s : State) (die gid : Nat) (g : Group),
  (let s0 := (s.modDie die fun x => { x with lastStep := s.clock }).markEligible
   let s1 := s0.noteFits die (s0.candidates die)
   ((s.die die).lastStep ≠ 0 → s.clock < (s.die die).lastStep + 8 → exec (.placementStep die) s = .next s)
   ∧ (∀ l ls c j, (s.die die).lastStep = 0 ∨ (s.die die).lastStep + 8 ≤ s.clock → s0.dieShut die = false → s1.candidates die = l :: ls →
      s1.launch? l.lid = some l → s1.job? l.lid.job = some j → l.lrec.coop = false → s1.savedGroups l.lid = [] → s1.blocked die l = false →
      s1.pickPlace l.lid l.lrec [die] = some c → s.group? s.nextName = none →
      s1.fits l.lid l.lrec c = true ∧ c ∈ placesOf l.lrec die
        ∧ (∀ c' ∈ placesOf l.lrec die, s1.fits l.lid l.lrec c' = true → s1.occupied l.lrec c ≤ s1.occupied l.lrec c')
        ∧ ∃ (t : State) (x : Group) (l' : Launch), exec (.placementStep die) s = .next t ∧ t.group? s.nextName = some x ∧ x.launch = l.lid
            ∧ x.lin = l.next ∧ x.core = c ∧ x.st = .running ∧ t.launch? l.lid = some l' ∧ l'.next = l.next + 1
            ∧ ∀ i, i < l.lrec.skeins → ∃ k, t.skein? (x.skId l.lrec i) = some k ∧ k.group = s.nextName ∧ k.index = i
                ∧ k.s 2 = BitVec.ofNat 64 l.next))
  ∧ (∀ (r : LRec) (lin i clock base : Nat),
      let k := entrySkein r gid lin i clock base
      k.s 1 = r.args ∧ k.s 2 = BitVec.ofNat 64 lin ∧ k.s 3 = BitVec.ofNat 64 i ∧ k.s 4 = k.privBase ∧ k.preds = List.replicate 7 0
        ∧ (∀ n, 5 ≤ n → k.s n = 0) ∧ (∀ q l, l < 32 → k.raw q l = if q = 0 then BitVec.ofNat 32 (32 * i + l) else 0)
        ∧ (∃ x, k.live = [(0, x)] ∧ x.pc = r.entry ∧ x.mask = 0xFFFFFFFF ∧ x.nest = [] ∧ x.blk = none) ∧ k.raceReport = true
        ∧ k.raceTrap = r.raceTrap ∧ k.cntL = 0 ∧ k.cntS = 0 ∧ k.cntC = 0 ∧ k.cntM = 0 ∧ k.handles = List.replicate 16 .none)
  ∧ (∀ l ls t0, s.candidates die = l :: ls → (∀ x ∈ (s.die die).reserve, x.1 ≠ l.lid) → Tab.get? l.noFit die = some t0 →
      t0 + 2 ^ 22 ≤ s.clock → (∃ c ∈ placesOf l.lrec die, s.reservable l c = true) →
      ∃ (t : State) (c : Nat), exec (.placementReservation die) s = .next t
        ∧ (t.die die).reserve = (s.die die).reserve ++ [(l.lid, c, s.clock)] ∧ c ∈ placesOf l.lrec die ∧ s.reservable l c = true
        ∧ ∀ c' ∈ placesOf l.lrec die, s.reservable l c' = true → s.freeSum l.lrec c' ≤ s.freeSum l.lrec c)
  ∧ (∀ lid core t0 l, (s.die die).reserve = [(lid, core, t0)] → (s.candidates die).find? (·.lid == lid) = some l → t0 + 2 ^ 18 ≤ s.clock → s.group? gid = some g →
      (s.groups.filter fun x => x.2.st != .saved && (x.2.cores.contains core || (l.lrec.twin && x.2.cores.contains (core + 1)))) = [(gid, g)] →
      s.preemptable g = true → (s.lrecOfGroup g).priority + 2 ≤ s.effective l → s.fits lid l.lrec core = false → s.fitsWithout lid l.lrec core [gid] = true →
      g.exited.length < (s.lrecOfGroup g).skeins →
      (s.CanStop g → ∃ (t : State) (g' : Group), exec (.reservationPreempt die) s = .next t ∧ t.group? gid = some g' ∧ g'.st = .stopping
        ∧ g'.saveArea.length = (saveBytes (s.lrecOfGroup g) + 4095) / 4096)
      ∧ ((s.slice (s.queueSlice g)).frozenService = true → exec (.reservationPreempt die) s = .next s))
  ∧ (s.group? gid = some g → g.exited.length < (s.lrecOfGroup g).skeins →
      (g.st = .stopping → s.savable gid g = true → ∃ (t : State) (g' : Group), exec (.preemptionSaveComplete gid) s = .next t
        ∧ t.group? gid = some g' ∧ g'.st = .saving ∧ g'.sealOp = s.nextName)
      ∧ (g.st = .saving → (∃ i ∈ s.peers gid g, ∃ x, s.group? i = some x ∧ x.st ≠ .saving) → exec (.preemptionSaveComplete gid) s = .next s)
      ∧ (g.st = .saving → (s.lrecOfGroup g).coop = false → s.sealed g = true →
        ∃ (t : State) (g' : Group), exec (.preemptionSaveComplete gid) s = .next t
        ∧ t.group? gid = some g' ∧ g'.st = .saved ∧ (∀ id k, t.skein? id = some k → k.group ≠ gid)
        ∧ (∀ id k, s.skein? id = some k → k.group = gid → (k.index, s.savedSkein id k) ∈ g'.saved)
        ∧ (∀ o ∈ t.ops, o.group = gid → ∃ ring, o.stat = .preempted ring)))
  ∧ (∀ p, s.group? gid = some g → g.st = .restoring → g.prev = some p → (s.lrecOfGroup g).coop = false →
      (s.canRestore gid g = false → exec (.groupRestoreComplete gid) s = .next s)
      ∧ (s.canRestore gid g = true → (g.saved.map fun x => g.skId (s.lrecOfGroup g) x.1).Nodup →
      ∃ (t : State) (g' : Group), exec (.groupRestoreComplete gid) s = .next t ∧ t.group? gid = some g' ∧ g'.st = .running ∧ g'.prev = none
        ∧ g'.saved = [] ∧ g'.core = g.core
        ∧ ∀ x ∈ g.saved, ∃ k', t.skein? (g.skId (s.lrecOfGroup g) x.1) = some k' ∧ k'.vregs = x.2.vregs ∧ k'.sregs = x.2.sregs
            ∧ k'.preds = x.2.preds))
  ∧ (s.group? gid = some g → s.endReady gid g = true →
      (g.sealOp = 0 → ∃ (t : State) (g' : Group), exec (.groupEnd gid) s = .next t ∧ t.group? gid = some g' ∧ g'.sealOp = s.nextName)
      ∧ (g.sealOp ≠ 0 → ∃ (t : State), exec (.groupEnd gid) s = .next t ∧ t.group? gid = none
          ∧ ∀ l, s.launch? g.launch = some l → ∃ l', t.launch? g.launch = some l' ∧ l'.counter = l.counter - 1
              ∧ (l.counter = 1 → l.status = none → l'.status = some (l.ending.getD 0))))
  ∧ (∀ q r tag svc, (s.work.held.find? fun x => s.queued x.1 < 512) = some (q, r, tag, svc) →
      let s1 := s.modWork fun w => { w with held := w.held.erase (q, r, tag, svc) }
      s1.launch? r.lid = none →
      (s1.predEnded r = false → (∀ x, s1.graph? r.job r.graph = some x → x.cancelled = false) →
        ∃ (t : State) (l : Launch), exec .heldSubmissionAccept s = .next t ∧ t.launch? r.lid = some l
          ∧ l.lrec = r ∧ l.counter = r.groups ∧ l.status = none ∧ t.work.held = s1.work.held)
      ∧ (s1.predEnded r = true → ∃ (t : State) (l : Launch), exec .heldSubmissionAccept s = .next t ∧ t.launch? r.lid = some l
          ∧ l.lrec = r ∧ l.ending = some 1))
  ∧ (∀ lid l, s.launch? lid = some l → l.sched = none → l.eligible ≠ none → l.status = none → l.ending = none →
      (l.lrec.entries = 0 → ∃ (t : State) (l' : Launch), exec (.copyScheduleRead lid) s = .next t ∧ t.launch? lid = some l'
        ∧ l'.sched = some [])
      ∧ (∀ j s1 bs, l.lrec.entries ≠ 0 → s.job? lid.job = some j →
          s.schedBytes j (l.queue / 2) l.lrec.sched.toNat (144 * l.lrec.entries) = (s1, some (.ok bs)) →
          let entry (i : Nat) := s1.schedEntry j 0 l.lrec ((bs.drop (144 * i)).take 144)
          ((∀ i, i < l.lrec.entries → entry i ≠ none) → ∃ (t : State) (l' : Launch) (es : List SchedEnt),
            exec (.copyScheduleRead lid) s = .next t ∧ t.launch? lid = some l' ∧ l'.sched = some es ∧ es.length = l.lrec.entries
              ∧ ∀ i, i < l.lrec.entries → es[i]? = entry i)
          ∧ ((∃ i, i < l.lrec.entries ∧ entry i = none) → ∃ (t : State) (l' : Launch),
            exec (.copyScheduleRead lid) s = .next t ∧ t.launch? lid = some l' ∧ l'.ending = some 2 ∧ l'.cause = 0))
      ∧ (∀ j s1 cause a, l.lrec.entries ≠ 0 → s.job? lid.job = some j →
          s.schedBytes j (l.queue / 2) l.lrec.sched.toNat (144 * l.lrec.entries) = (s1, some (.error (cause, a))) →
          ∃ (t : State) (l' : Launch), exec (.copyScheduleRead lid) s = .next t ∧ t.launch? lid = some l' ∧ l'.ending = some 2
            ∧ l'.cause = cause ∧ l'.failVa = BitVec.ofNat 64 a))
  ∧ (∀ core gated, ∃ (t : State), exec (.governorWindow core gated) s = .next t
      ∧ (t.core core).k = min (min 8 (16 * gated / 131072)) (t.core core).kLimit
      ∧ (t.core core).kLimit = (let d := s.die (dieOf core)
          if d.throttled = true ∨ d.powerThrottled = true ∨ (∃ x, d.droopAt = some x ∧ (s.core core).winPrev ≤ x) ∨ d.clockKHz ≠ 1250000 then 0 else 8))

/-! ## Services -/

/-- The services that an SVC reaches, and respawn (R132, R163, R169, R245, R246, R257): page-in, cancel, launch, region, storage, discard and
clock query answer with the value the table of services gives, and a reply brings the skein back with the reply in s1. What a clock query
of another package answers is a free value (log 5). Two things are the model's: that a cancel of a graph, a phase or a job also closes it
(log 26), and the error codes 0x12 for a bad argument and 6 for a page that cannot be resolved (log 49). -/
def Obligations.ServiceEvents : Prop := ∀ (s : State) (id : SkId) (n : Nat) (q : SvcReq) (j : Job) (die : Nat), s.Serves id n q j die →
  let agent := s.serviceAgent q.slice
  let err (cause : Nat) : W64 := BitVec.ofNat 64 (2 ^ 63 + cause)
  let answered (t : State) (x : W64) : Prop := ∃ y ∈ t.work.svcs, y.group = q.group ∧ y.index = q.index ∧ y.reply = some x
  let reads (va len : Nat) (s2 : State) (bs : List Byte) : Prop :=
    ∃ s1, s.engFate j die .read va len = (s1, .good) ∧ s1.engRead j.asid agent va len q.cont.raceReport = (s2, bs)
  (n = 0 →
    let va := q.arg 0 / 4096 * 4096
    let pages := if q.arg 1 = 0 then 0 else (q.arg 0 + q.arg 1 - 1) / 4096 - q.arg 0 / 4096 + 1
    (∀ s1 a, s.pageInNext j die pages va = (s1, none, a) → exec (.svcPageIn id) s = .next (s1.answer q 0))
    ∧ (∀ s1 sl a, s.pageInNext j die pages va = (s1, some (.park sl), a) → exec (.svcPageIn id) s = .next (s1.reportFault j.asid a))
    ∧ (∀ s1 c a, s.pageInNext j die pages va = (s1, some (.bad c), a) → exec (.svcPageIn id) s = .next (s1.answer q (err 6))))
  ∧ (n = 1 → q.arg 0 = 0 →
    let lid : LaunchId := ⟨j.id, q.arg 1 / 2 ^ 32, q.arg 1 % 2 ^ 32⟩
    (s.launch? lid = none → exec (.svcCancel id) s = .next ((s.takeUp q).answer q 4))
    ∧ (∀ l st, s.launch? lid = some l → l.status = some st → exec (.svcCancel id) s = .next ((s.takeUp q).answer q (BitVec.ofNat 64 st)))
    ∧ (∀ l, s.launch? lid = some l → l.status = none → l.ending = none →
        ∃ (t : State) (l' : Launch), exec (.svcCancel id) s = .next t ∧ t.launch? lid = some l' ∧ l'.ending = some 1))
  ∧ (n = 1 → let x := q.arg 1
    (q.arg 0 = 1 → ∀ g, s.graph? j.id x = some g → g.status = none →
        ∃ (t : State) (g' : Graph), exec (.svcCancel id) s = .next t ∧ t.graph? j.id x = some g' ∧ g'.cancelled = true ∧ g'.closed = true)
    ∧ (q.arg 0 = 2 → ∀ p, s.phase? j.id x = some p → p.status = none →
        ∃ (t : State) (p' : Phase), exec (.svcCancel id) s = .next t ∧ t.phase? j.id x = some p' ∧ p'.cancelled = true ∧ p'.closed = true)
    ∧ (q.arg 0 = 3 → ∀ y, s.job? x = some y → y.status = none →
        ∃ (t : State) (y' : Job), exec (.svcCancel id) s = .next t ∧ t.job? x = some y' ∧ y'.cancelled = true ∧ y'.closed = true))
  ∧ (n = 2 →
    (q.arg 0 % 64 ≠ 0 → exec (.svcLaunch id) s = .next (s.answer q (err 4)))
    ∧ (∀ s2 bs, q.arg 0 % 64 = 0 → reads (q.arg 0) 256 s2 bs →
        let r : LRec := { lrecOfBytes bs with job := j.id }
        (lrecLimits bs = true → (s2.takeUp q).admits r j.id = true → s2.queued r.queue < 512 → (∀ h ∈ s2.work.held, h.1 ≠ r.queue) →
          (s2.takeUp q).predEnded r = false → (∀ x, s2.graph? r.job r.graph = some x → x.cancelled = false) → ∃ (t : State) (l : Launch), exec (.svcLaunch id) s = .next t ∧ t.launch? r.lid = some l ∧ l.lrec = r ∧ l.counter = r.groups
            ∧ answered t 0)
        ∧ (lrecLimits bs = false → ∃ (t : State), exec (.svcLaunch id) s = .next t ∧ answered t 1)))
  ∧ (n = 3 →
    (q.arg 1 % 16 ≠ 0 → exec (.svcRegion id) s = .next (s.answer q (err 4)))
    ∧ (q.arg 1 % 16 = 0 → (q.arg 0 < 1 ∨ 15 < q.arg 0) → exec (.svcRegion id) s = .next (s.answer q (err 0x12)))
    ∧ (∀ s2 bs, q.arg 1 % 16 = 0 → 1 ≤ q.arg 0 → q.arg 0 ≤ 15 → reads (q.arg 1) 16 s2 bs →
        let x := ofBytesLE bs
        let e := (x % 2, bitsNat x 56 16, bitsNat x 120 80)
        bitsNat x 127 121 = 0 → bitsNat x 79 57 = 0 → bitsNat x 15 1 = 0 → e.2.1 ≤ e.2.2 →
        ∃ (t : State) (j' : Job), exec (.svcRegion id) s = .next t ∧ answered t 0 ∧ t.job? j.id = some j'
          ∧ j'.regions.getD (q.arg 0 - 1) (0, 0, 0) = e
          ∧ (∀ i, i < 15 → i ≠ q.arg 0 - 1 → j'.regions.getD i (0, 0, 0) = j.regions.getD i (0, 0, 0))
          ∧ ∀ key w, Tab.get? t.caches key = some w → key.asid = j.asid → w.stale = true →
              inRange e key.wa = false ∧ inRange (j.regions.getD (q.arg 0 - 1) (0, 0, 0)) key.wa = false))
  ∧ (n = 4 →
    (q.arg 0 % 64 ≠ 0 → exec (.svcStorage id) s = .next (s.answer q (err 4)))
    ∧ (∀ s2 bs, q.arg 0 % 64 = 0 → reads (q.arg 0) 64 s2 bs →
        let op := fieldAt bs 0 1
        let bytes := fieldAt bs 0x18 8
        let buf := fieldAt bs 0x20 8
        let made (r : StoreReq) : Prop := r.num = s2.host.nextReq ∧ r.op = op ∧ r.job = j.id ∧ r.group = q.group ∧ r.index = q.index
          ∧ r.obj = BitVec.ofNat 64 (fieldAt bs 8 8) ∧ r.bytes = bytes ∧ r.buf = BitVec.ofNat 64 buf ∧ r.slice = q.slice
          ∧ r.report = q.cont.raceReport
        let ok := op ≤ 2 ∧ zeroAt bs 1 7 = true ∧ zeroAt bs 0x28 24 = true ∧ (op = 2 → bytes = 0) ∧ (op ≠ 2 → bytes ≠ 0 ∧ bytes ≤ 2 ^ 30)
        (ok → op ≠ 1 → ∃ (t : State) (r : StoreReq) (x : HostRec), exec (.svcStorage id) s = .next t ∧ made r
          ∧ t.host.storage = s2.host.storage ++ [r] ∧ t.host.out = s2.host.out ++ [x] ∧ x.typ = 0x0B ∧ x.tag = BitVec.ofNat 64 r.num)
        ∧ (∀ s3 s4 data, ok → op = 1 → s2.engFate j die .read buf bytes = (s3, .good) →
            s3.engRead j.asid agent buf bytes q.cont.raceReport = (s4, data) →
            ∃ (t : State) (r : StoreReq), exec (.svcStorage id) s = .next t ∧ t.host.storage = s4.host.storage ++ [r] ∧ r.op = 1
              ∧ r.bytes = bytes ∧ r.num = s4.host.nextReq)
        ∧ (¬ ok → exec (.svcStorage id) s = .next (s2.answer q (err 0x12)))))
  ∧ (n = 5 →
    (q.arg 0 % 65536 ≠ 0 ∨ q.arg 1 % 65536 ≠ 0 → exec (.svcDiscard id) s = .next (s.answer q (err 4)))
    ∧ (q.arg 0 % 65536 = 0 → q.arg 1 % 65536 = 0 → exec (.svcDiscard id) s =
        .next (((mappedIn j (q.arg 0 / 65536) (q.arg 1 / 65536)).foldl (fun s p => s.discardPage j p) s).answer q 0)))
  ∧ (n = 6 →
    (q.arg 0 = s.pkg.id → exec (.svcClockQuery id) s = .next (s.answer q 0))
    ∧ (q.arg 0 ≠ s.pkg.id → exec (.svcClockQuery id) s =
        .next (s.answer q (Config.otherNanos (q.arg 0) s.clock - BitVec.ofNat 64 (nanos s.clock)))))

/-! ## Skeins that wait, pages -/

/-- Ends of waits, respawn, unparking, breakpoints and pages (R54, R80, R159, R162 to R164, R169, R222 to R224, R243, R245, R247 to R249, R321,
R395): each wait ends when what it waits for has come, a reply brings a skein back with the reply in s1, a parked skein goes on or traps
with the outcome of its packets, a code page is verified against its digest, a piece moves, a discarded page is reclaimed. -/
def Obligations.SkeinAndPagingEvents : Prop := ∀ (s : State),
  (∀ (id : SkId) (st : Nat) (k : Skein) (x : Strand), s.skein? id = some k → k.strand? st = some x →
    (x.wait = .lastExit → k.quiet = true → k.failed = [] → k.pendErrs = [] → (s.core id.core).frozen = false →
      ∃ (t : State), exec (.lastExitRelease id st) s = .next t ∧ t.skein? id = none)
    ∧ (∀ n, k.svcWait = some (st, n) → k.quietBut st = true → k.failed = [] → k.pendErrs = [] → k.park = none → k.yielded = false →
        (s.core id.core).frozen = false → s.absentHeaders id (k.modStrand st Strand.retired) = [] →
        ∃ (t : State) (q : SvcReq), exec (.svcPost id st) s = .next t ∧ t.skein? id = none ∧ q ∈ t.work.svcs ∧ q.slot = id
          ∧ q.group = k.group ∧ q.index = k.index ∧ q.service = n ∧ q.args = [k.s 2, k.s 3, k.s 4, k.s 5] ∧ q.cont.sregs = k.sregs)
    ∧ (∃ (t : State), exec .yieldDelayEnd s = .next t
        ∧ ∀ k', (s.core id.core).frozen = false → t.skein? id = some k' → ∀ i y u, k'.strand? i = some y → y.wait = .delay u → s.clock < u)
    ∧ (∀ w vas, k.park = some (w, .fault vas) → (∀ va ∈ vas, s.faultOpen (s.asidOf k) va = false) → (s.core id.core).frozen = false →
        exec (.skeinUnpark id) s = .next (s.modSkein id fun k => { k with park := none }))
    ∧ (∀ w va, k.park = some (w, .ring va) → s.faultOpen (s.asidOf k) va = false → (s.core id.core).frozen = false →
        exec (.skeinUnpark id) s = .next (s.modSkein id fun k => { k with park := none }))
    ∧ (∀ op r, k.park = some (st, .remote op) → (s.fab.remotes.find? fun y => y.op == op) = some r →
        (∀ p ∈ r.pkts, p.outcome ≠ 0 ∨ p.lanes = []) → r.onRace = false → (s.core id.core).frozen = false → s.unperformed id st = [] →
        let late := ∃ p ∈ r.pkts, p.outcome = 3 ∧ p.lanes ≠ []
        let nacked := ∃ p ∈ r.pkts, p.outcome = 2 ∧ p.lanes ≠ []
        let traps (cause : Nat) : Prop := ∃ (s1 : State) (tr : TrapInfo) (iw : W64), exec (.skeinUnpark id) s = .next (s1.takeTrap id tr iw)
          ∧ tr.cause = cause ∧ tr.pc = x.pc ∧ tr.strand = st ∧ s1.mem = s.mem
        (late → traps 0x0A) ∧ (¬ late → nacked → traps 0x09)
        ∧ (¬ late → ¬ nacked → r.lda = false → r.handle = none →
            Mask.diff r.undone (Mask.ofLanes ((r.pkts.filter fun p => p.outcome == 1).flatMap fun p => p.lanes)) = 0 →
            ∃ (s1 : State) (k1 : Skein), exec (.skeinUnpark id) s = .next (s1.retire id st) ∧ s1.skein? id = some k1 ∧ k1.park = none
              ∧ k1.vregs = k.vregs ∧ k1.sregs = k.sregs ∧ k1.strands = k.strands ∧ s1.mem = s.mem))
    ∧ (x.brkPassed = false → k.stopped = false → k.park = none → k.yielded = false → x.wait = .none → x.replay = none → x.atSafe = false →
        k.svcWait = none → (∀ tr, k.trap = some tr → tr.strand = st) → (k.trap = none → k.pendTraps = []) →
        (s.core id.core).frozen = false → s.unperformed id st = [] →
        exec (.addressBreakpoint id st) s = .next (State.takeTrap (s.modStrand id st fun x => { x with brkPassed := true }) id
          ⟨0x0E, x.pc, 0, 0, 0, true, st⟩ 0)))
  ∧ (∀ (id : SkId) (q : SvcReq) (x : W64), s.canRespawn id = true → s.answered? id = some q → q.reply = some x →
      ∃ (t : State) (k' : Skein), exec (.svcReplyRespawn id) s = .next t ∧ t.skein? id = some k' ∧ k'.s 1 = x
        ∧ (∀ n, n ≠ 1 → k'.s n = q.cont.s n) ∧ k'.vregs = q.cont.vregs ∧ k'.preds = q.cont.preds ∧ k'.group = q.cont.group
        ∧ t.work.svcs = s.work.svcs.erase q)
  ∧ (∀ asid page j, s.jobOfAsid? asid = some j → (asid, page) ∉ s.verified → (asid, page) ∉ s.badPages →
      (s.codeObject? j.id page = none → exec (.codePageVerify asid page) s = .next { s with badPages := s.badPages ++ [(asid, page)] })
      ∧ (∀ ob off bs d, s.codeObject? j.id page = some (ob, off) →
          let s1 := s.pageChecks j page
          s1.pageBytes j page = some bs → Tab.get? ob.digests off = some d →
          (shake256 bs = d → exec (.codePageVerify asid page) s = .next { s1 with verified := s1.verified ++ [(asid, page)] })
          ∧ (shake256 bs ≠ d → exec (.codePageVerify asid page) s = .next { s1 with badPages := s1.badPages ++ [(asid, page)] })))
  ∧ (∀ asid va j, (asid, va / 4096 * 4096) ∈ s.faults → s.jobOfAsid? asid = some j →
      let piece := va / 4096 * 4096
      let die := s.dieOfVa piece
      let done (t : State) : State := { t with faults := t.faults.filter (· != (asid, piece)) }
      (∀ s1 y, s.placeAny j die asid piece = (s1, y) → (∀ sl, y ≠ .park sl) → exec (.pageFaultResolved asid va) s = .next (done s1))
      ∧ (∀ s1 sl, s.placeAny j die asid piece = (s1, .park sl) → (s1.slice sl).frozenService = false →
          (s1.leafOf asid piece = none → ∃ (t : State), exec (.pageFaultResolved asid va) s = .next t ∧ (asid, piece) ∉ t.faults)
          ∧ (∀ p large, s1.leafOf asid piece = some (p, large) → pteKey p = 0 → exec (.pageFaultResolved asid va) s = .next (done s1))
          ∧ (∀ p large, s1.leafOf asid piece = some (p, large) → pteKey p ≠ 0 →
              let s2 := s1.pageInPiece j sl (pieceKey (leafFrame p large piece) piece) (piece / 65536)
              exec (.pageFaultResolved asid va) s = .next (match (s2.placeAny j die asid piece).2 with | .park _ => s2 | _ => done s2))))
  ∧ (∀ sl dfn p alt,
      let pk := dfn * 16 + p % 16
      let e := (s.slice sl).entry pk
      (∀ y, Memory.wf s.mem → e.kind = 1 → e.mig = false → (s.slice sl).claimPiece alt = some y →
        ∃ (t : State), exec (.pieceMigrationStart sl dfn p alt) s = .next t ∧ (t.slice sl).entry pk = { e with mig := true, alt := alt }
          ∧ Sparse.getList 0 t.mem (physKey sl alt 0) 4096 = Sparse.getList 0 s.mem (physKey sl e.loc 0) 4096)
      ∧ (e.kind = 1 → e.mig = true →
        ∃ (t : State), exec (.pieceMigrationSwing sl dfn p) s = .next t ∧ (t.slice sl).entry pk = { e with mig := false, loc := e.alt }
          ∧ e.loc ∈ (t.slice sl).freePieces ∧ t.mem = s.mem))
  ∧ (∀ asid page j p, s.jobOfAsid? asid = some j → s.leafOf asid (page * 65536) = some (p, false) → pteDisc p = true →
      ∃ (t : State), exec (.discardReclaim asid page) s = .next t
        ∧ ∀ i sl, i < 16 → s.home j 0 (page * 65536 + 4096 * i) = .here sl → ((t.slice sl).entry (pteDfn p * 16 + i)).kind = 3)

/-! ## Health -/

/-- Heat, current, power, freezing and reset (R56, R60, R260, R261, R263): readings past a limit throttle, shut down or double a refresh
rate, the clock falls in steps and comes back, a master that leaves its limits freezes, and a reset keeps the flash alone; after a shutdown
nothing but a reset acts. The model's choices among it: a shutdown takes every die, and every agent stands still until a reset (log 57), the
clock comes back at once (log 56), a service core's freeze is bit 63 of jxfrz (log 58), and a droop monitor without a
threshold takes every report for a droop and records none (log 11). -/
def Obligations.HealthEvents : Prop := ∀ (s : State) (die sensor : Nat) (m : Int),
  (∃ (t : State), exec (.dieTemperatureThrottle die sensor m) s = .next t ∧ Tab.get? (t.die die).readings (0, sensor) = some m
    ∧ (t.die die).throttled = ((s.die die).throttled || decide ((s.die die).threshold ≤ m)))
  ∧ (∃ (t : State), exec (.dieTemperatureShutdown die sensor m) s = .next t
    ∧ ∀ d, d < 4 → (t.die d).shutdown = ((s.die d).shutdown || decide (105000 ≤ m)))
  ∧ (∃ (t : State), exec (.dramStackTemperature sensor m) s = .next t ∧ Tab.get? t.pkg.dramTemps sensor = some m
    ∧ (t.slice sensor).refresh2 = decide (Tab.getD s.pkg.dramLimit (sensor / 8) 85000 ≤ m))
  ∧ (∃ (t : State), exec (.droopEvent die sensor m) s = .next t ∧ (t.die die).droopAt =
      match Tab.get? (s.die die).droops sensor with
      | some limit => if limit ≤ m then (s.die die).droopAt else some s.clock
      | none => some s.clock)
  ∧ (∃ (t : State) (x : HostRec), exec .packagePowerThreshold s = .next t ∧ (∀ d, d < 4 → (t.die d).powerThrottled = true)
      ∧ t.host.out = s.host.out ++ [x] ∧ x.typ = 0x0D)
  ∧ (∃ (t : State), exec .throttleClockStep s = .next t ∧ ∀ d, d < 4 → (t.die d).clockKHz =
      if ((s.die d).throttled = true ∨ (s.die d).powerThrottled = true) ∧ (s.die d).slowAt ≤ s.clock then max 625000 ((s.die d).clockKHz - 62500) else (s.die d).clockKHz)
  ∧ (∀ watts, ∃ (t : State), exec (.throttleRecovery die m watts) s = .next t
      ∧ (m < (s.die die).threshold → watts < s.pkg.powerLimit →
          (t.die die).throttled = false ∧ (t.die die).powerThrottled = false ∧ (t.die die).clockKHz = 1250000)
      ∧ ((s.die die).throttled = true → (s.die die).threshold ≤ m →
          (t.die die).throttled = true ∧ (t.die die).clockKHz = (s.die die).clockKHz))
  ∧ (∀ va,
      (∀ c, ∃ (t : State), exec (.masterFreeze (.core c) va) s = .next t ∧ (t.core c).frozen = true ∧ t.mem = s.mem)
      ∧ (∀ a, ∃ (t : State), exec (.masterFreeze (.engine a) va) s = .next t ∧ a ∈ t.pkg.frozenEngines)
      ∧ (∀ n, ∃ (t : State), exec (.masterFreeze (.service n) va) s = .next t ∧ (t.slice n).frozenService = true
          ∧ n + 34 ∈ t.host.needsReset ∧ (t.slice n).frz.getLsbD 63 = true))
  ∧ (∃ (t : State), exec .powerOnReset s = .next t ∧ t.host = { State.reset.host with flash := s.host.flash }
      ∧ t.pkg.boot = (if imageOk s.host.flash = true then .running else .recovery) ∧ t.mem = [] ∧ t.skeins = [] ∧ t.work = State.reset.work
      ∧ t.fab = State.reset.fab ∧ t.dies = [])
  ∧ (s.down = true → ∀ i, i ≠ .powerOnReset → s.perform (some (.event i)) = .next s)

/-! ## The fabric -/

/-- Links, flits and numbering (R15, R214 to R217, R219, R225, R226): a link comes up, retrains and repairs a lane, acknowledged flits
leave the retry buffer and refused ones are sent again, a flit in order is taken and acknowledged, packets are delivered in their order and
sent again until they are acknowledged. That a new link holds no credit is the model's choice (log 15), and so are which NAKs tell a failed
replay (log 79) and in what order inputs share a class (log 94). -/
def Obligations.LinksAndFlits : Prop := ∀ (s : State) (port : Nat),
  let p := s.port port
  (∀ w, port < 48 → w ∈ [2, 4, 8] → p.up = false → ∃ (t : State), exec (.linkUp port w) s = .next t
    ∧ t.port port = { Port.empty with up := true, width := w, thr := p.thr })
  ∧ (∀ w w', p.retraining = some w → w' ≤ w →
      (2 ≤ w' → ∃ (t : State), exec (.linkRetrainComplete port w') s = .next t ∧ (t.port port).retraining = none ∧ (t.port port).width = w'
        ∧ (p.wire ++ p.buf) <+: (t.port port).wire)
      ∧ (w' < 2 → ∃ (t : State), exec (.linkRetrainComplete port w') s = .next t ∧ (t.port port).up = false))
  ∧ (∀ ack, ∃ (t : State), exec (.linkAck port ack) s = .next t
      ∧ (p.repair = [] → (t.port port).buf = p.buf.filter fun f => !seqUpTo f.seq ack)
      ∧ (∀ lane, p.repair = [lane] → p.retraining = none → p.buf = [] → (t.port port).spare = true)
      ∧ (∀ l1 l2 ls, p.repair = l1 :: l2 :: ls → p.retraining = none → p.buf = [] → 4 ≤ p.width →
          (t.port port).retraining = some (p.width / 2)))
  ∧ (∀ seq,
      let buf := p.buf.filter fun f => f.seq == seq || !seqUpTo f.seq seq
      let again := p.fails.2 = seq ∧ 0 < p.fails.1
      let naks := if again then p.fails.1 + 1 else 1
      p.up = true → p.retraining = none → (∃ f ∈ buf, f.seq = seq) →
      (again → 0 < p.naks → exec (.linkNak port seq) s = .next (s.modPort port fun q => { q with naks := q.naks - 1 }))
      ∧ (¬ (again ∧ 0 < p.naks) → naks ≤ 3 → exec (.linkNak port seq) s =
          .next (s.modPort port fun q => { q with buf := buf, fails := (naks, seq), naks := buf.length - 1, wire := q.wire ++ buf }))
      ∧ (¬ (again ∧ 0 < p.naks) → 3 < naks → 4 ≤ p.width → ∃ (t : State), exec (.linkNak port seq) s = .next t ∧ (t.port port).retraining = some (p.width / 2)))
  ∧ (∀ cls n,
      (p.txq = [] → ∃ (t : State), exec (.creditUpdate port cls n) s = .next t ∧ Tab.getD (t.port port).credits cls 0 = Tab.getD p.credits cls 0 + n)
      ∧ (∀ i bs, p.txq = [(cls, i, [bs])] → i < 50 → cls < 14 → p.up = true → p.retraining = none → 1 ≤ n →
          ∃ (t : State), exec (.creditUpdate port cls n) s = .next t ∧ (t.port port).txq = []
            ∧ (t.port port).wire = p.wire ++ [mkFlit bs p.txSeq (cls / 2) (cls % 2 == 1) 0 0] ∧ (t.port port).txSeq = (p.txSeq + 1) % 4096
            ∧ Tab.getD (t.port port).credits cls 0 = Tab.getD p.credits cls 0 + n - 1))
  ∧ (∀ lane, p.up = true → p.retraining = none →
      (p.spare = false → lane < 8 → p.repair = [] → p.fails.1 = 0 →
        ∃ (t : State), exec (.laneErrorThreshold port lane) s = .next t ∧ (t.port port).spare = true)
      ∧ (p.spare = false → 8 ≤ lane → exec (.laneErrorThreshold port lane) s = .next s)
      ∧ (p.spare = false → lane < 8 → lane ∉ p.repair → 0 < p.fails.1 → exec (.laneErrorThreshold port lane) s =
          .next (s.modPort port fun q => { q with repair := q.repair ++ [lane] }))
      ∧ (p.spare = true → 4 ≤ p.width → ∃ (t : State), exec (.laneErrorThreshold port lane) s = .next t
          ∧ (t.port port).retraining = some (p.width / 2)))
  ∧ (∀ f : Flit, p.up = true → p.retraining = none →
      let good := f.crc = flitCrc f.payload (flitTrailer f.seq f.vc f.rsp f.ack f.ctl)
      let fits := f.payload.length = 56 ∧ f.seq < 4096 ∧ f.vc < 7 ∧ good ∧ f.seq = p.rxSeq
      (good → f.ctl = 1 → exec (.flitReceive port f) s = exec (.linkAck port f.ack) s)
      ∧ (good → f.ctl = 2 → exec (.flitReceive port f) s = exec (.linkNak port f.ack) s)
      ∧ (good → f.ctl = 3 → exec (.flitReceive port f) s = exec (.creditUpdate port (flitClass f.vc f.rsp) f.ack) s)
      ∧ (¬ fits → (f.ctl = 0 ∨ ¬ good) → exec (.flitReceive port f) s = .next (s.modPort port fun q => q.control 2 q.rxSeq 0))
      ∧ (fits → f.ctl = 0 → f.vc = 6 → s.fab.store.length < 64 → ∃ (t : State), exec (.flitReceive port f) s = .next t
          ∧ t.fab.store = s.fab.store ++ [(port, f.payload)] ∧ (t.port port).rxSeq = (p.rxSeq + 1) % 4096
          ∧ (t.port port).wire = ((p.control 1 f.seq 0).control 3 1 6 f.rsp).wire)
      ∧ (fits → f.ctl = 0 → f.vc ≠ 6 → s.pkg.assigned = true → Tab.getD p.asm (flitClass f.vc f.rsp) [] = [] → packetFlits f.payload = 1 →
          let q : Packet := [f.payload]
          q.dst = s.pkg.id → kindListed q.kind = true → q.kind ≠ 7 → q.kind ≠ 0x0B → q.eseq = Tab.getD s.fab.rxEseq q.src 0 →
          ∃ (t : State), exec (.flitReceive port f) s = .next t ∧ (q.src, q) ∈ t.fab.inbox ∧ Tab.getD t.fab.toAck q.src 0 ≠ 0))
  ∧ (∀ spkg p, (s.fab.inbox.find? fun y => y.1 == spkg && y.2.kind == 0x0B) = some p → s.fab.waiting = [] →
      ∃ (t : State), exec (.endToEndAck spkg) s = .next t
        ∧ t.fab.unacked = s.fab.unacked.filter fun u => !(u.dst == spkg && (p.2.eseq + 65536 - u.eseq) % 65536 < 1024))
  ∧ (∃ (t : State), exec .endToEndAckSend s = .next t ∧ t.fab.toAck = [])
  ∧ (∃ (t : State), exec .packetRetransmitTimeout s = .next t ∧ (∀ u ∈ t.fab.unacked, s.clock < u.sentAt + 1250000)
      ∧ t.fab.unacked.map (fun u => (u.dst, u.eseq)) = s.fab.unacked.map fun u => (u.dst, u.eseq))

/-- Requests of other packages and the answers to this package's own (R128, R185, R220, R222 to R224): an unknown address space is refused with
class 7, lanes that meet no fault are served and answered, a fault that can be resolved holds the request for 10 ms, an answer is for the
access or operation that waits for it, and one that comes late has timed out. -/
def Obligations.RemoteRequestsAndAnswers : Prop := ∀ (s : State) (spkg : Nat) (p : Packet),
  let s0 := s.dropPacket spkg
  let rseq := pfield p 0x18 2
  (∀ i kind, (kind, i) ∈ [(1, Instr.vectorRead spkg), (2, .vectorWrite spkg), (3, .vectorAtomic spkg)] → s.Asks spkg kind p →
    (s.jobOfAsid? p.asid = none → exec i s =
        .next (s0.sendNack p.src p.asid p.agent 7 p.eseq (bitsOf (p.laneVas.map (·.1))) ((p.laneVas.headD (0, pfield p 0x10 8)).2)))
    ∧ (∀ j s1 fs, s.jobOfAsid? p.asid = some j → s0.laneFates j kind (2 ^ (p.opsz % 8)) p.laneVas = (s1, fs) → p.laneVas ≠ [] →
        ((∀ x ∈ fs, x.2 = .good) → ∀ s2 bs rs, s1.serveLanes p p.laneVas = (s2, bs, rs) →
          exec i s = .next (s2.sendPacket p.src (replyPacket s2 p (bitsOf (p.laneVas.map (·.1))) (bitsOf rs) 0 bs)))
        ∧ ((∃ x ∈ fs, ∃ a, x.2 = .park a) → ∃ (t : State) (h : Held), exec i s = .next t ∧ t.fab.held = s.fab.held ++ [h]
            ∧ h.spkg = p.src ∧ h.packet = p ∧ h.since = s.clock
            ∧ ∀ x ∈ fs, ∀ a, x.2 = .park a → (j.asid, a / 4096 * 4096) ∈ t.faults)))
  ∧ (s.Asks spkg 6 p →
      let va := pfield p 0x10 8
      let n := pfield p 0x18 4
      (s.jobOfAsid? p.asid = none → exec (.bulkCopyData spkg) s = .next (s0.sendNack p.src p.asid p.agent 7 p.eseq 1 va))
      ∧ (∀ j s1, s.jobOfAsid? p.asid = some j → 1 ≤ n → va % 128 + n ≤ 128 → s0.targetFate j .write va 1 = (s1, .good) →
          let r := s1.reportsRaces
          let s2 := (r.1.engWrite j.asid p.agent va (p.body.take n) r.2).engineSeal p.agent (wordKeys j.asid va n)
          exec (.bulkCopyData spkg) s = .next (s2.sendPacket p.src (replyPacket s2 p 1 0 (pfield p 0x20 1 % 2) []))))
  ∧ (∃ (t : State), exec .targetHoldTimeout s = .next t
      ∧ ∀ h ∈ t.fab.held, ¬ (h.packet.kind ∈ [1, 2, 3, 6] ∧ h.since + 12500000 ≤ s.clock))
  ∧ (s.firstPacket spkg = some p → p.kind = 4 →
      (∀ r x, (s.fab.remotes.find? fun r => r.pkts.any fun y => y.awaits spkg rseq) = some r →
        (r.pkts.find? fun y => y.awaits spkg rseq) = some x →
        ∃ (t : State), exec (.reply spkg) s = .next t
          ∧ (∃ r' ∈ t.fab.remotes, r'.op = r.op ∧ ∀ y ∈ r'.pkts, y.awaits spkg rseq = true → ∀ l ∈ y.lanes, l ∉ x.named (pfield p 0x1C 4))
          ∧ ∀ k l a, r.isLoad = true → r.handle = none → s.skein? r.sk = some k → x.named (pfield p 0x1C 4) = [l] →
              (r.lanes.find? fun y => y.lane == l) = some a → t.skein? r.sk = some (k.putBytes r.uniform a.reg l (p.body.take r.size)))
      ∧ ((∀ r ∈ s.fab.remotes, ∀ y ∈ r.pkts, y.awaits spkg rseq = false) →
          (s.opFor spkg rseq = none → exec (.reply spkg) s =
            .next ((s0.modFab fun f => { f with lost := f.lost + 1 }).logEvent (.lateReply spkg rseq s.clock)))
          ∧ (∀ o x d, s.opFor spkg rseq = some (o, x) → s.op? o.id = some o → o.kind = .cpy d →
              ∃ (t : State) (o' : EngOp), exec (.reply spkg) s = .next t ∧ t.op? o.id = some o' ∧ o'.remote = o.remote.erase x)))
  ∧ (s.firstPacket spkg = some p → p.kind = 5 →
      let from_ := s.nackOf spkg p
      (∀ r x, (s.fab.remotes.find? fun r => r.pkts.any fun y => y.awaits from_ rseq) = some r → x ∈ r.pkts →
        x.awaits from_ rseq = true →
        ∃ (t : State) (r' : Remote), exec (.nack spkg) s = .next t ∧ r' ∈ t.fab.remotes ∧ r'.op = r.op
          ∧ ∀ l ∈ x.lanes, l ∈ x.named (pfield p 0x1C 4) → ∃ y ∈ r'.pkts, y.outcome = 2 ∧ l ∈ y.lanes ∧ y.fva = BitVec.ofNat 64 (pfield p 0x20 8))
      ∧ (∀ o x, (∀ r ∈ s.fab.remotes, ∀ y ∈ r.pkts, y.awaits from_ rseq = false) → s.opFor from_ rseq = some (o, x) →
          s.op? o.id = some o → (∀ c a, o.stat ≠ .bad c a) →
          ∃ (t : State) (o' : EngOp), exec (.nack spkg) s = .next t ∧ t.op? o.id = some o'
            ∧ o'.stat = .bad 0x09 (BitVec.ofNat 64 (pfield p 0x20 8)) ∧ o'.remote = o.remote.erase x))
  ∧ (∃ (t : State), exec .remoteTimeout s = .next t
      ∧ (∀ r ∈ t.fab.remotes, ∀ x ∈ r.pkts, x.outcome = 0 → s.clock < x.sentAt + remoteLimit (((s.skein? r.sk).map s.jobOf).getD default)
          ∨ s.unsent x.dst x.eseq = true ∨ s.answerHere x.dst x.eseq = true)
      ∧ ∀ o x, s.op? o.id = some o → (∀ c a, o.stat ≠ .bad c a) → x ∈ o.remote → x.2.2.1 + remoteLimit (s.jobOfGroup o.group) ≤ s.clock →
          s.unsent x.1 x.2.1 = false → s.answerHere x.1 x.2.1 = false → (s.ops.filter fun y => y.id == o.id) = [o] →
          ∃ o', t.op? o.id = some o' ∧ o'.stat = .bad 0x0A 0 ∧ o'.remote = [])

/-- The fabric manager's messages (R15, R213, R215, R221, R226): with the session's token each sets what it names, and without it only a package
that has no ID takes an ASSIGN; messages for other packages go on. That events go to the sender of the last ASSIGN, kept in `fab.manager`, is
the model's reading (log 65). -/
def Obligations.ManagementMessages : Prop := ∀ (s : State) (port : Nat) (bs : List Byte),
  let f8 (o n : Nat) : Nat := fieldAt bs o n
  let seen (t : State) : Prop := Tab.getD t.fab.mseqSeen (f8 2 2) [] = seenWith (f8 6 2) (Tab.getD s.fab.mseqSeen (f8 2 2) [])
  (s.Manages port 0x20 bs → f8 0x10 2 < 1024 →
    (s.pkg.assigned = false ∨ tokenOk s bs = true → ∃ (t : State), exec (.assign port) s = .next t ∧ seen t
      ∧ t.pkg = { s.pkg with id := f8 0x10 2, assigned := true } ∧ t.fab.manager = some (f8 2 2, port)
      ∧ t.fab.token = some (s.fab.token.getD (f8 8 4)))
    ∧ (s.pkg.assigned = true → tokenOk s bs = false → ∃ (t : State), exec (.assign port) s = .next t ∧ t.pkg = s.pkg ∧ t.fab.token = s.fab.token))
  ∧ (s.Manages port 0x21 bs → tokenOk s bs = true → 1 ≤ f8 0x0C 1 → f8 0x0C 1 ≤ 4 →
      let rec_ (i : Nat) : Nat × Nat := (f8 (0x10 + 10 * i) 2, f8 (0x12 + 10 * i) 8 % 2 ^ 40)
      (∀ i, i < f8 0x0C 1 → (rec_ i).1 < 1024) →
      ∃ (t : State), exec (.route port) s = .next t ∧ seen t ∧ ∀ i, i < f8 0x0C 1 → (∀ k, i < k → k < f8 0x0C 1 → (rec_ k).1 ≠ (rec_ i).1) →
        Tab.get? t.fab.routes (rec_ i).1 = some (BitVec.ofNat 64 (rec_ i).2))
  ∧ (s.Manages port 0x22 bs → ∃ (t : State), exec (.query port) s = .next t ∧ seen t ∧ t.fab.mseqNext = (s.fab.mseqNext + 2) % 65536
      ∧ t.pkg = s.pkg ∧ t.fab.routes = s.fab.routes)
  ∧ (s.Manages port 0x24 bs → tokenOk s bs = true → f8 0x10 1 < 48 → f8 0x11 1 ≤ 8 → f8 0x12 2 = 0 →
      ∃ (t : State), exec (.thresh port) s = .next t ∧ seen t ∧ Tab.get? (t.port (f8 0x10 1)).thr (f8 0x11 1) = some (f8 0x14 4))
  ∧ (s.Manages port 0x25 bs → tokenOk s bs = true → f8 0x10 1 < 48 → f8 0x11 1 ∈ [2, 4, 8] → (s.port (f8 0x10 1)).up = true →
      ∃ (t : State), exec (.retrain port) s = .next t ∧ seen t ∧ (t.port (f8 0x10 1)).retraining = some (f8 0x11 1))
  ∧ (∀ own : List Byte → Bool, own = (fun b => [0x20, 0x21, 0x22, 0x24, 0x25].contains (fieldAt b 4 1)) →
      (s.fab.store.find? fun y => !(forUs s y.2 && own y.2)) = some (port, bs) →
      let s1 := s.modFab fun f => { f with store := f.store.erase (port, bs) }
      (forUs s bs = true → exec .mgmtPacketForward s = .next (s1.health 6 0 0 0 0 0 0 (bs ++ List.replicate 8 0)))
      ∧ (forUs s bs = false → ∀ s2 q, s1.route (f8 0 2) = (s2, some q) → q < 48 → exec .mgmtPacketForward s = .next (s2.enqueue q 6 false [bs] (min port ownInput)))
      ∧ (forUs s bs = false → s1.portSequence (f8 0 2) = [] → s.fab.manager = none →
          exec .mgmtPacketForward s = .next (s1.modFab fun f => { f with mgmtDropped := f.mgmtDropped + 1 })))

/-- Frames of the events that serve no running word: whatever they do, every register, flag, mask and program counter of every skein keeps
its value, and so does every byte of scratch and accumulator store, and of DRAM but in free pieces and in a volume's own; and of the rest of
the package each class changes no more than its clause names (R56, R214, R121, R254, R26). -/
def Obligations.EventFrames : Prop := ∀ (i : Instr) (s t : State), exec i s = .next t →
  (heatEvent i = true → t = { s with dies := t.dies, host := t.host, pkg := t.pkg, slices := t.slices, cores := t.cores, freeCtr := t.freeCtr })
  ∧ (linkEvent i = true → t = { s with fab := t.fab, host := t.host, pkg := t.pkg, net := t.net, ops := t.ops }
      ∧ ((∀ p, i ≠ .endToEndAck p) → t.ops = s.ops))
  ∧ (registrationEvent i = true →
      t = { s with net := t.net, caches := t.caches, homeWords := t.homeWords, homePend := t.homePend, slices := t.slices, host := t.host
                   soft := t.soft, freeCtr := t.freeCtr, mem := t.mem } ∧ s.Keeps t [])
  ∧ (managementEvent i = true →
      t = { s with host := t.host, dies := t.dies, pkg := t.pkg, slices := t.slices, fab := t.fab, work := t.work, mem := t.mem }
      ∧ (∀ vol off data, i = .virtioBlkWrite vol off data → s.Keeps t
          (((Tab.get? s.host.volumes vol).map fun w => w.chunks.flatMap fun c => c.2.pieces.map fun p => (c.2.slice, p)).getD []))
      ∧ ((∀ vol off data, i ≠ .virtioBlkWrite vol off data) → t.mem = s.mem))
  ∧ (unitEvent i = true →
      t = { s with work := t.work, host := t.host, slices := t.slices, nextDfn := t.nextDfn, caches := t.caches, homeWords := t.homeWords
                   verified := t.verified, badPages := t.badPages, soft := t.soft, mem := t.mem } ∧ s.Keeps t [])

/-! ## Decoding and the step -/

/-- Words of the specification's own examples decode to the instructions that it names (R291 to R294, R371): `IADD.s32 v1, v1, 1`,
`POPC.u32 v5, v1`, the retired B5 operation, UDF, and words that check 4 or 5 refuses. -/
def Obligations.DecodeWords : Prop :=
  decode 0x2038010080401080 = .iadd ⟨7, false, false, 1, 1, 1, 0, 2, 1, 0, 0⟩
  ∧ decode 0x30B8050080000000 = .popc ⟨7, false, false, 5, 1, 0, 0, 0, 0, 0, 0⟩
  ∧ decode 0x5C3AFFFFFFFFFFFF = .retiredB5Operation 0x5C3AFFFFFFFFFFFF
  ∧ decode 0xFFF8000000000000 = .udf 0x38000000000000
  ∧ (∀ w ∈ ([0x21F8010080401080, 0x2038010080401880, 0x08F8000000000000, 0x1438000000000000, 0xFC38000000000000] : List W64),
      decode w = .illegalInstructionWord w)

/-- Decoding and encoding agree (R264 to R278, R291 to R293): the word of every well-formed instruction decodes to it, with every
operand at every value that its encoding admits; and every word decodes to an instruction that encodes as that word. -/
def Obligations.DecodeEncode : Prop :=
  (∀ i w, WellFormed i = true → encode i = some w → (∀ x, i ≠ .illegalInstructionWord x) → decode w = i)
  ∧ (∀ w, encode (decode w) = some w)

/-- A step runs the instruction that it fetches (R52, R58, R68, R130, R174, R235, R247, R294). Where the agenda has a strand issue, the strand
may issue, nothing goes before its word, and the word fetched at its PC may issue, the step is `exec` of the decoded word in the state
where that strand is issuing it: it has its last issue now, one more word of its count unless it issues again (log 68), and nothing else of
the package has changed but what fetching changes. Then loads in flight no longer write what the word has written, a register it has written
holds good check bits, and what follows every step follows. A word that reads a register with an on-chip error traps instead, unless a check
that comes first refuses it (R174, R298; log 71). A word fetched is the eight bytes at its place. An event at the head of the agenda is
`exec` of it. -/
def Obligations.StepRunsInstruction : Prop :=
  (∀ (s : State) (id : SkId) (st : Nat) (rest : List Choice) (k : Skein) (x : Strand) (s2 : State) (w : W64),
     s.agenda = .issue id st :: rest → s.tick.down = false →
     s.skein? id = some k → k.strand? st = some x →
     s.tick.skeinIssues id k st = true → (k.trap.isSome = true ∨ k.svcWait.isSome = true ∨ k.pendTraps = []) →
     s.tick.strandIssues id k st x = true → k.errFor st x = none → k.stepsTo st = false →
     (k.trap.any fun tr => tr.strand == st && s.tick.atDefaultVector k x tr) = false →
     s.tick.fetchWord (s.tick.jobOf k) (dieOf id.core) x.pc = (s2, .word w) →
     ¬ (isSHeader (decode w) = true ∧ x.atHeader = true ∧ x.again = false ∧ k.stopsHere st = true ∧ s2.stopsAtSafe k = true) →
     s2.wordHeld id k st x (decode w) = false →
     (x.again = true ∨ x.count < 4096 ∨ isSHeader (decode w) = true) →
     (x.atHeader = true → isHeader w = true) →
     let s3 : State :=
       { s2.modStrand id st (fun (y : Strand) => { y with lastIssue := s2.clock, count := if y.again then y.count else y.count + 1 })
         with cur := some ⟨id, st, w, x.again⟩ }
     let c0 : Ctx := ⟨id, st, k, x, w⟩
     (∃ (c : Ctx), Issuing s3 c ∧ c.id = id ∧ c.st = st ∧ c.iw = w ∧ c.x.pc = x.pc ∧ c.x.mask = x.mask)
     ∧ (c0.readsSoft s3 (decode w) = false ∨ c0.refused s3 (decode w) = true → step s = match exec (decode w) s3 with
       | .next t => .next (c0.wrote s3 (decode w) t).tidy
       | .fault r => .fault r
       | .refused r => .refused r)
     ∧ (c0.readsSoft s3 (decode w) = true → c0.refused s3 (decode w) = false → s3.unperformed id st = [] →
        step s = .next (c0.trapped s3 0x07 (c0.active (fld w 51 3) (flag w 50)) 0 0).tidy))
  ∧ (∀ (c : Ctx) (s t : State) (i : Instr),
     let u := c.wrote s i t
     u = { t with memops := u.memops, skeins := u.skeins }
     ∧ (∀ id, (u.skein? id).map (fun k => { k with soft := [] }) = (t.skein? id).map fun k => { k with soft := [] })
     ∧ u.memops.map (fun o => { o with dead := [] }) = t.memops.map (fun o => { o with dead := [] })
     ∧ (∀ n ∈ u.memops, (∀ o ∈ s.memops, o.id ≠ n.id) → n ∈ t.memops)
     ∧ (s.memops = [] → c.k.soft = [] → u = t))
  ∧ (∀ (s s1 : State) (j : Job) (die : Nat) (va : W64) (sl key : Nat), s.place j die j.asid va.toNat .fetch = (s1, .at sl key) →
     (j.asid, va.toNat / 65536) ∉ s1.badPages → s1.sectorFailed sl key = false → s1.softIn j.asid va.toNat 8 = none → (j.asid, va.toNat / 65536) ∈ s1.verified →
     s.fetchWord j die va = (s1.checkSector sl key, .word (BitVec.ofNat 64 (ofBytesLE (Sparse.getList 0 s1.mem key 8)))))
  ∧ (∀ (s : State) (i : Instr) (rest : List Choice), s.agenda = .event i :: rest → isWord i = false → s.tick.opFrozen i = false →
     s.tick.down = false →
     step s = match exec i s.tick with
       | .next t => .next t.tidy
       | .fault r => .fault r
       | .refused r => .refused r)

/-- The state after reset is settled, with every store in its canonical form (log 1, log 2, R250, R251): the package is off and
unassigned, and it holds no job, skein, message or listed byte. -/
def Obligations.ResetSettled : Prop :=
  Settled State.reset ∧ State.reset.storesWf ∧ State.reset.down = false ∧ State.reset.pkg.boot = .off
  ∧ State.reset.mem = [] ∧ State.reset.skeins = [] ∧ State.reset.groups = [] ∧ State.reset.work.jobs = [] ∧ State.reset.net = []

/-- What every step keeps (R120, R220, R263): the package is settled after it; and a package that has shut down stays as it is, but for
its clock, under every choice except a power-on reset, for as long as none comes. That the shutdown of one die stops every agent of the
package is the model's reading (log 57). -/
def Obligations.SettledKept : Prop :=
  (∀ (s t : State), Settled s → step s = .next t → Settled t)
  ∧ (∀ (s : State), s.down = true → s.cur = none → s.agenda.head? ≠ some (.event .powerOnReset) →
      step s = .next { s with clock := s.clock + 1, agenda := s.agenda.drop 1 })
end

