-- ==== Sys2Proof/Laws/Store.lean ====
section
/-! SUPPORT. Laws of the sparse stores and tables: what reads after a write, and that every write keeps the canonical form. -/

namespace Sys2Proof

namespace Sparse
variable {ν : Type} [DecidableEq ν] {d : ν}

theorem wfFrom_iff (lo : Option Nat) (m : List (Nat × ν)) :
    wfFrom d lo m = true ↔ m.Pairwise (fun p q => p.1 < q.1) ∧ ∀ p ∈ m, p.2 ≠ d ∧ ∀ b, lo = some b → b < p.1 := by
  induction m generalizing lo with
  | nil => simp [wfFrom]
  | cons p m ih =>
    obtain ⟨k, v⟩ := p
    simp only [wfFrom, Bool.and_eq_true, ih, List.pairwise_cons, List.mem_cons, forall_eq_or_imp, bne_iff_ne, ne_eq]
    constructor
    · rintro ⟨⟨hk, hv⟩, hp, hm⟩
      refine ⟨⟨fun q hq => (hm q hq).2 k rfl, hp⟩, ⟨hv, ?_⟩, fun q hq => ⟨(hm q hq).1, ?_⟩⟩
      · rintro b rfl; simpa using hk
      · rintro b rfl; exact lt_trans (by simpa using hk) ((hm q hq).2 k rfl)
    · rintro ⟨⟨hk, hp⟩, ⟨hv, hb⟩, hm⟩
      refine ⟨⟨?_, hv⟩, hp, fun q hq => ⟨(hm q hq).1, ?_⟩⟩
      · cases lo with
        | none => rfl
        | some b => simpa using hb b rfl
      · rintro b hb'; cases hb'; exact hk q hq

/-- The canonical form in words: keys rise strictly, and no value is the default. -/
theorem wf_iff (m : List (Nat × ν)) : wf d m = true ↔ m.Pairwise (fun p q => p.1 < q.1) ∧ ∀ p ∈ m, p.2 ≠ d := by
  simp [wf, wfFrom_iff]

@[simp] theorem wf_nil : wf d ([] : List (Nat × ν)) = true := rfl

theorem wf_filter {m : List (Nat × ν)} (f : Nat × ν → Bool) (h : wf d m = true) : wf d (m.filter f) = true := by
  rw [wf_iff] at h ⊢
  exact ⟨h.1.filter f, fun p hp => h.2 p (List.mem_of_mem_filter hp)⟩

/-- Dropping a range keeps the canonical form. -/
theorem wf_dropRange {m : List (Nat × ν)} (lo hi : Nat) (h : wf d m = true) : wf d (dropRange m lo hi) = true :=
  wf_filter _ h

theorem mem_put {m : List (Nat × ν)} {a : Nat} {v : ν} {p : Nat × ν} (h : p ∈ put d m a v) : p ∈ m ∨ (p = (a, v) ∧ v ≠ d) := by
  induction m with
  | nil =>
    by_cases hv : v = d <;> simp_all [put]
  | cons q m ih =>
    obtain ⟨k, w⟩ := q
    simp only [put] at h
    split_ifs at h with h1 h2 h3 h4
    · exact .inl h
    · rcases List.mem_cons.1 h with rfl | h
      · exact .inr ⟨rfl, h2⟩
      · exact .inl h
    · exact .inl (List.mem_cons_of_mem _ ((List.dropWhile_suffix _).mem h))
    · rcases List.mem_cons.1 h with rfl | h
      · exact .inr ⟨rfl, h4⟩
      · exact .inl (List.mem_cons_of_mem _ h)
    · rcases List.mem_cons.1 h with rfl | h
      · exact .inl List.mem_cons_self
      · exact (ih h).imp_left (List.mem_cons_of_mem _)

/-- A write keeps the canonical form. -/
theorem wf_put {m : List (Nat × ν)} (a : Nat) (v : ν) (h : wf d m = true) : wf d (put d m a v) = true := by
  rw [wf_iff] at h ⊢
  refine ⟨?_, fun p hp => (mem_put hp).elim (h.2 p) fun e => e.1 ▸ e.2⟩
  obtain ⟨hs, -⟩ := h
  induction m with
  | nil => by_cases hv : v = d <;> simp [put, hv]
  | cons q m ih =>
    obtain ⟨k, w⟩ := q
    obtain ⟨hk, hm⟩ := List.pairwise_cons.1 hs
    simp only [put]
    split_ifs with h1 h2 h3 h4
    · exact hs
    · exact List.pairwise_cons.2 ⟨fun p hp => (List.mem_cons.1 hp).elim (fun e => e ▸ h1) fun hp => lt_trans h1 (hk p hp), hs⟩
    · exact hm.sublist (List.dropWhile_sublist _)
    · exact List.pairwise_cons.2 ⟨fun p hp => h3 ▸ hk p hp, hm⟩
    · refine List.pairwise_cons.2 ⟨fun p hp => ?_, ih hm⟩
      rcases mem_put hp with hp | ⟨rfl, -⟩
      · exact hk p hp
      · show k < a
        omega

omit [DecidableEq ν] in
theorem get_of_lt {m : List (Nat × ν)} {a : Nat} (h : ∀ p ∈ m, a < p.1) : get d m a = d := by
  cases m with
  | nil => rfl
  | cons q m => simp [get, h q List.mem_cons_self]

/-- Reading where one has just written gives the value written. -/
@[simp] theorem get_put_same (m : List (Nat × ν)) (a : Nat) (v : ν) : get d (put d m a v) a = v := by
  induction m with
  | nil => by_cases hv : v = d <;> simp [put, get, hv]
  | cons q m ih =>
    obtain ⟨k, w⟩ := q
    simp only [put]
    split_ifs with h1 h2 h3 h4
    · subst h2; simp [get, h1]
    · simp [get]
    · subst h4
      cases hd : m.dropWhile (fun p => decide (p.1 ≤ a)) with
      | nil => rfl
      | cons p r =>
        have hp : decide (p.1 ≤ a) ≠ true := by
          have := List.head_dropWhile_not (p := fun p : Nat × ν => decide (p.1 ≤ a)) (l := m) (by simp [hd])
          simpa [hd] using this
        have : a < p.1 := by simpa using hp
        simp [get, this]
    · simp [get]
    · simp [get, h1, h3, ih]

omit [DecidableEq ν] in
theorem get_dropWhile_le (m : List (Nat × ν)) {a b : Nat} (h : a < b) :
    get d (m.dropWhile fun p => decide (p.1 ≤ a)) b = get d m b := by
  induction m with
  | nil => rfl
  | cons p m ih =>
    obtain ⟨k, w⟩ := p
    by_cases hk : k ≤ a
    · have h1 : ¬ b < k := by omega
      have h2 : ¬ b = k := by omega
      simp [hk, get, h1, h2, ih]
    · simp [hk]

omit [DecidableEq ν] in
theorem get_dropWhile_lt (m : List (Nat × ν)) {a b : Nat} (h : b < a) : get d (m.dropWhile fun p => decide (p.1 ≤ a)) b = d := by
  induction m with
  | nil => rfl
  | cons p m ih =>
    obtain ⟨k, w⟩ := p
    by_cases hk : k ≤ a
    · simpa [hk] using ih
    · have : b < k := by omega
      simp [hk, get, this]

/-- Reading anywhere else gives what was there. -/
theorem get_put_other (m : List (Nat × ν)) {a b : Nat} (v : ν) (hab : b ≠ a) : get d (put d m a v) b = get d m b := by
  induction m with
  | nil =>
    by_cases hv : v = d
    · simp [put, hv]
    · by_cases hlt : b < a <;> simp [put, get, hv, hab, hlt]
  | cons q m ih =>
    obtain ⟨k, w⟩ := q
    simp only [put]
    split_ifs with h1 h2 h3 h4
    · rfl
    · by_cases hlt : b < a
      · have : b < k := by omega
        simp [get, hlt, this]
      · simp [get, hlt, hab]
    · subst h3
      rcases Nat.lt_or_gt_of_ne hab with hlt | hgt
      · simp [get, hlt, get_dropWhile_lt m hlt]
      · have : ¬ b < a := by omega
        simp [get, this, hab, get_dropWhile_le m hgt]
    · subst h3
      simp [get, hab]
    · simp only [get, ih]

theorem get_put (m : List (Nat × ν)) (a b : Nat) (v : ν) : get d (put d m a v) b = if b = a then v else get d m b := by
  split_ifs with hb
  · subst hb; simp
  · exact get_put_other m v hb

/-- Writing several values keeps the canonical form. -/
theorem wf_putList {m : List (Nat × ν)} (a : Nat) (vs : List ν) (h : wf d m = true) : wf d (putList d m a vs) = true := by
  induction vs generalizing m a with
  | nil => exact h
  | cons v vs ih => exact ih _ (wf_put a v h)

theorem get_putList (m : List (Nat × ν)) (a b : Nat) (vs : List ν) :
    get d (putList d m a vs) b = if a ≤ b ∧ b < a + vs.length then vs.getD (b - a) d else get d m b := by
  induction vs generalizing m a with
  | nil => simp [putList]
  | cons v vs ih =>
    rw [putList, ih, get_put]
    by_cases hb : b = a
    · subst hb; simp
    · by_cases hin : a + 1 ≤ b ∧ b < a + 1 + vs.length
      · have : b - a = b - (a + 1) + 1 := by omega
        have h2 : a ≤ b ∧ b < a + (v :: vs).length := by simp; omega
        rw [if_pos hin, if_pos h2, this]; rfl
      · have h2 : ¬ (a ≤ b ∧ b < a + (v :: vs).length) := by simp; omega
        rw [if_neg hin, if_neg hb, if_neg h2]

/-- Writing a whole run keeps the canonical form. -/
theorem wf_putBlock {m : List (Nat × ν)} (lo : Nat) (vs : List ν) (h : wf d m = true) : wf d (putBlock d m lo vs) = true := by
  have hin : ∀ (n : Nat) (us : List ν), ∀ p ∈ (us.zipIdx n).filterMap (fun (v, k) => if v = d then none else some (k, v)),
      n ≤ p.1 ∧ p.1 < n + us.length ∧ p.2 ≠ d := by
    intro n us p hp
    obtain ⟨⟨v, k⟩, hq, he⟩ := List.mem_filterMap.1 hp
    have := List.mem_zipIdx hq
    by_cases hv : v = d
    · simp [hv] at he
    · simp only [hv, if_false, Option.some.injEq] at he
      subst he
      exact ⟨this.1, this.2.1, hv⟩
  have hsort : ∀ (n : Nat) (us : List ν),
      ((us.zipIdx n).filterMap (fun (v, k) => if v = d then none else some (k, v))).Pairwise (fun p q => p.1 < q.1) := by
    intro n us
    induction us generalizing n with
    | nil => simp
    | cons v us ih =>
      rw [List.zipIdx_cons, List.filterMap_cons]
      by_cases hv : v = d
      · simpa [hv] using ih (n + 1)
      · simp only [hv, if_false]
        exact List.pairwise_cons.2 ⟨fun p hp => by have := (hin _ _ p hp).1; show n < p.1; omega, ih (n + 1)⟩
  have h0 := (wf_iff m).1 h
  rw [wf_iff]
  refine ⟨?_, ?_⟩
  · simp only [putBlock, List.pairwise_append]
    refine ⟨⟨h0.1.filter _, hsort lo vs, ?_⟩, h0.1.filter _, ?_⟩
    · intro p hp q hq
      have := (hin _ _ q hq).1
      have hlt : p.1 < lo := by simpa using (List.mem_filter.1 hp).2
      omega
    · intro p hp q hq
      have hq' : lo + vs.length ≤ q.1 := by simpa using (List.mem_filter.1 hq).2
      rcases List.mem_append.1 hp with hp | hp
      · have : p.1 < lo := by simpa using (List.mem_filter.1 hp).2
        omega
      · have := (hin _ _ p hp).2.1
        omega
  · intro p hp
    simp only [putBlock, List.mem_append] at hp
    rcases hp with (hp | hp) | hp
    · exact h0.2 p (List.mem_of_mem_filter hp)
    · exact (hin _ _ p hp).2.2
    · exact h0.2 p (List.mem_of_mem_filter hp)

/-- Any sequence of writes keeps the canonical form. -/
theorem wf_foldl {α : Type} (f : List (Nat × ν) → α → List (Nat × ν)) (hf : ∀ m a, wf d m = true → wf d (f m a) = true)
    (as : List α) {m : List (Nat × ν)} (h : wf d m = true) : wf d (as.foldl f m) = true := by
  induction as generalizing m with
  | nil => exact h
  | cons a as ih => exact ih (hf m a h)
end Sparse

namespace Tab
variable {κ ν : Type} [DecidableEq κ]

@[simp] theorem get?_set_same (m : List (κ × ν)) (a : κ) (v : ν) : get? (set m a v) a = some v := by
  induction m with
  | nil => simp [set, get?]
  | cons p m ih =>
    obtain ⟨k, w⟩ := p
    by_cases h : a = k <;> simp [set, get?, h, ih]

theorem get?_set_other (m : List (κ × ν)) {a b : κ} (v : ν) (h : b ≠ a) : get? (set m a v) b = get? m b := by
  induction m with
  | nil => simp [set, get?, h]
  | cons p m ih =>
    obtain ⟨k, w⟩ := p
    by_cases hk : a = k
    · subst hk; simp [set, get?, h]
    · simp [set, get?, hk, ih]

theorem get?_set (m : List (κ × ν)) (a b : κ) (v : ν) : get? (set m a v) b = if b = a then some v else get? m b := by
  split_ifs with h
  · subst h; simp
  · exact get?_set_other m v h

theorem get?_erase (m : List (κ × ν)) (a b : κ) : get? (erase m a) b = if b = a then none else get? m b := by
  induction m with
  | nil => simp [erase, get?]
  | cons p m ih =>
    obtain ⟨k, w⟩ := p
    by_cases hk : a = k
    · subst hk
      simp only [erase, if_true, ih, get?]
      split_ifs <;> rfl
    · by_cases hb : b = k
      · subst hb; simp [erase, get?, hk, Ne.symm hk]
      · simp [erase, get?, hk, hb, ih]

theorem get?_modify (m : List (κ × ν)) (a b : κ) (f : ν → ν) :
    get? (modify m a f) b = if b = a then (get? m a).map f else get? m b := by
  unfold modify
  split
  · next v h => rw [get?_set]; split_ifs with hb <;> simp [h]
  · next h =>
    split_ifs with hb
    · subst hb; simp [h]
    · rfl

theorem getD_update_same (m : List (κ × ν)) (a : κ) (d : ν) (f : ν → ν) : getD (update m a d f) a d = f (getD m a d) := by
  simp [update, getD]
theorem getD_update_other (m : List (κ × ν)) {a b : κ} (d : ν) (f : ν → ν) (h : b ≠ a) : getD (update m a d f) b d = getD m b d := by
  simp [update, getD, get?_set_other m _ h]
end Tab

/-- Reading a list after `setAt`. -/
theorem getD_setAt {α : Type} (d : α) (xs : List α) (i j : Nat) (y : α) :
    (setAt d xs i y).getD j d = if j = i then y else xs.getD j d := by
  induction xs generalizing i j with
  | nil =>
    induction i generalizing j with
    | zero => cases j <;> simp [setAt]
    | succ i ih =>
      cases j with
      | zero => simp [setAt]
      | succ j => simpa [setAt] using ih j
  | cons x xs ih =>
    cases i with
    | zero => cases j <;> simp [setAt]
    | succ i =>
      cases j with
      | zero => simp [setAt]
      | succ j => simpa [setAt] using ih i j

end Sys2Proof
end

