-- ==== Sys2Proof/Laws/Skein.lean ====
section
/-! SUPPORT. The register files of a skein: what reads after each write, one lemma per field per update, and what a word's result leaves in
the lanes that take part. -/

namespace Sys2Proof.Machine

variable (k : Skein)

/-! ## Reads after writes (R82) -/

theorem Skein.raw_setV (r q l m : Nat) (x : W32) (hl : l < 32) (hm : m < 32) :
    (k.setV r l x).raw q m = if q = r ∧ m = l then x else k.raw q m := by
  have : 32 * q + m = 32 * r + l ↔ q = r ∧ m = l := by omega
  simp only [Skein.raw, Skein.setV, Sparse.get_put, this]

theorem Skein.s_setS (r q : Nat) (x : W64) : (k.setS r x).s q = if q = r ∧ r ≠ 0 then x else k.s q := by
  by_cases hr : r = 0
  · simp [Skein.setS, hr]
  · by_cases hq : q = 0
    · have : ¬ (0 = r) := fun h => hr h.symm
      simp [Skein.s, hq, this]
    · simp [Skein.setS, Skein.s, hr, hq, Sparse.get_put]

theorem Skein.p_setP (i j : Nat) (m : Mask) : (k.setP i m).p j = if j = i ∧ i ≠ 7 then m else k.p j := by
  by_cases hi : i = 7
  · simp [Skein.setP, hi]
  · by_cases hj : j = 7
    · have : ¬ (7 = i) := fun h => hi h.symm
      simp [Skein.p, hj, this]
    · simp only [Skein.setP, Skein.p, beq_iff_eq, hi, hj, if_false, getD_setAt]
      simp [hi]

theorem Skein.strand?_setStrand (st i : Nat) (x : Option Strand) : (k.setStrand st x).strand? i = if i = st then x else k.strand? i :=
  getD_setAt ..

theorem Skein.strand?_modStrand (st i : Nat) (f : Strand → Strand) :
    (k.modStrand st f).strand? i = if i = st then (k.strand? st).map f else k.strand? i := by
  unfold Skein.modStrand
  split
  · next x h => rw [Skein.strand?_setStrand, h]; rfl
  · next h =>
    split_ifs with hi
    · subst hi; simp [h]
    · rfl

/-! ## One lemma per field per update -/

@[simp] theorem Skein.setV_group (r l : Nat) (x : W32) : (k.setV r l x).group = k.group := rfl
@[simp] theorem Skein.setV_index (r l : Nat) (x : W32) : (k.setV r l x).index = k.index := rfl
@[simp] theorem Skein.setV_sregs (r l : Nat) (x : W32) : (k.setV r l x).sregs = k.sregs := rfl
@[simp] theorem Skein.setV_preds (r l : Nat) (x : W32) : (k.setV r l x).preds = k.preds := rfl
@[simp] theorem Skein.setV_rj (r l : Nat) (x : W32) : (k.setV r l x).rj = k.rj := rfl
@[simp] theorem Skein.setV_handles (r l : Nat) (x : W32) : (k.setV r l x).handles = k.handles := rfl
@[simp] theorem Skein.setV_cntL (r l : Nat) (x : W32) : (k.setV r l x).cntL = k.cntL := rfl
@[simp] theorem Skein.setV_cntS (r l : Nat) (x : W32) : (k.setV r l x).cntS = k.cntS := rfl
@[simp] theorem Skein.setV_cntC (r l : Nat) (x : W32) : (k.setV r l x).cntC = k.cntC := rfl
@[simp] theorem Skein.setV_cntM (r l : Nat) (x : W32) : (k.setV r l x).cntM = k.cntM := rfl
@[simp] theorem Skein.setV_fifoL (r l : Nat) (x : W32) : (k.setV r l x).fifoL = k.fifoL := rfl
@[simp] theorem Skein.setV_fifoS (r l : Nat) (x : W32) : (k.setV r l x).fifoS = k.fifoS := rfl
@[simp] theorem Skein.setV_fifoC (r l : Nat) (x : W32) : (k.setV r l x).fifoC = k.fifoC := rfl
@[simp] theorem Skein.setV_fifoM (r l : Nat) (x : W32) : (k.setV r l x).fifoM = k.fifoM := rfl
@[simp] theorem Skein.setV_joinLost (r l : Nat) (x : W32) : (k.setV r l x).joinLost = k.joinLost := rfl
@[simp] theorem Skein.setV_raceTrap (r l : Nat) (x : W32) : (k.setV r l x).raceTrap = k.raceTrap := rfl
@[simp] theorem Skein.setV_raceReport (r l : Nat) (x : W32) : (k.setV r l x).raceReport = k.raceReport := rfl
@[simp] theorem Skein.setV_seed (r l : Nat) (x : W32) : (k.setV r l x).seed = k.seed := rfl
@[simp] theorem Skein.setV_streams (r l : Nat) (x : W32) : (k.setV r l x).streams = k.streams := rfl
@[simp] theorem Skein.setV_trapFrame (r l : Nat) (x : W32) : (k.setV r l x).trapFrame = k.trapFrame := rfl
@[simp] theorem Skein.setV_privBase (r l : Nat) (x : W32) : (k.setV r l x).privBase = k.privBase := rfl
@[simp] theorem Skein.setV_strands (r l : Nat) (x : W32) : (k.setV r l x).strands = k.strands := rfl
@[simp] theorem Skein.setV_records (r l : Nat) (x : W32) : (k.setV r l x).records = k.records := rfl
@[simp] theorem Skein.setV_exited (r l : Nat) (x : W32) : (k.setV r l x).exited = k.exited := rfl
@[simp] theorem Skein.setV_park (r l : Nat) (x : W32) : (k.setV r l x).park = k.park := rfl
@[simp] theorem Skein.setV_trap (r l : Nat) (x : W32) : (k.setV r l x).trap = k.trap := rfl
@[simp] theorem Skein.setV_pendTraps (r l : Nat) (x : W32) : (k.setV r l x).pendTraps = k.pendTraps := rfl
@[simp] theorem Skein.setV_pendErrs (r l : Nat) (x : W32) : (k.setV r l x).pendErrs = k.pendErrs := rfl
@[simp] theorem Skein.setV_stopped (r l : Nat) (x : W32) : (k.setV r l x).stopped = k.stopped := rfl
@[simp] theorem Skein.setV_stepping (r l : Nat) (x : W32) : (k.setV r l x).stepping = k.stepping := rfl
@[simp] theorem Skein.setV_svcWait (r l : Nat) (x : W32) : (k.setV r l x).svcWait = k.svcWait := rfl
@[simp] theorem Skein.setV_yielded (r l : Nat) (x : W32) : (k.setV r l x).yielded = k.yielded := rfl
@[simp] theorem Skein.setV_ops (r l : Nat) (x : W32) : (k.setV r l x).ops = k.ops := rfl
@[simp] theorem Skein.setV_failed (r l : Nat) (x : W32) : (k.setV r l x).failed = k.failed := rfl
@[simp] theorem Skein.setV_exitedAll (r l : Nat) (x : W32) : (k.setV r l x).exitedAll = k.exitedAll := rfl
@[simp] theorem Skein.setV_passed (r l : Nat) (x : W32) : (k.setV r l x).passed = k.passed := rfl
@[simp] theorem Skein.setV_hazards (r l : Nat) (x : W32) : (k.setV r l x).hazards = k.hazards := rfl
@[simp] theorem Skein.setV_soft (r l : Nat) (x : W32) : (k.setV r l x).soft = k.soft := rfl

@[simp] theorem Skein.setS_group (r : Nat) (x : W64) : (k.setS r x).group = k.group := by unfold Skein.setS; split <;> rfl
@[simp] theorem Skein.setS_index (r : Nat) (x : W64) : (k.setS r x).index = k.index := by unfold Skein.setS; split <;> rfl
@[simp] theorem Skein.setS_vregs (r : Nat) (x : W64) : (k.setS r x).vregs = k.vregs := by unfold Skein.setS; split <;> rfl
@[simp] theorem Skein.setS_preds (r : Nat) (x : W64) : (k.setS r x).preds = k.preds := by unfold Skein.setS; split <;> rfl
@[simp] theorem Skein.setS_rj (r : Nat) (x : W64) : (k.setS r x).rj = k.rj := by unfold Skein.setS; split <;> rfl
@[simp] theorem Skein.setS_handles (r : Nat) (x : W64) : (k.setS r x).handles = k.handles := by unfold Skein.setS; split <;> rfl
@[simp] theorem Skein.setS_cntL (r : Nat) (x : W64) : (k.setS r x).cntL = k.cntL := by unfold Skein.setS; split <;> rfl
@[simp] theorem Skein.setS_cntS (r : Nat) (x : W64) : (k.setS r x).cntS = k.cntS := by unfold Skein.setS; split <;> rfl
@[simp] theorem Skein.setS_cntC (r : Nat) (x : W64) : (k.setS r x).cntC = k.cntC := by unfold Skein.setS; split <;> rfl
@[simp] theorem Skein.setS_cntM (r : Nat) (x : W64) : (k.setS r x).cntM = k.cntM := by unfold Skein.setS; split <;> rfl
@[simp] theorem Skein.setS_fifoL (r : Nat) (x : W64) : (k.setS r x).fifoL = k.fifoL := by unfold Skein.setS; split <;> rfl
@[simp] theorem Skein.setS_fifoS (r : Nat) (x : W64) : (k.setS r x).fifoS = k.fifoS := by unfold Skein.setS; split <;> rfl
@[simp] theorem Skein.setS_fifoC (r : Nat) (x : W64) : (k.setS r x).fifoC = k.fifoC := by unfold Skein.setS; split <;> rfl
@[simp] theorem Skein.setS_fifoM (r : Nat) (x : W64) : (k.setS r x).fifoM = k.fifoM := by unfold Skein.setS; split <;> rfl
@[simp] theorem Skein.setS_joinLost (r : Nat) (x : W64) : (k.setS r x).joinLost = k.joinLost := by unfold Skein.setS; split <;> rfl
@[simp] theorem Skein.setS_raceTrap (r : Nat) (x : W64) : (k.setS r x).raceTrap = k.raceTrap := by unfold Skein.setS; split <;> rfl
@[simp] theorem Skein.setS_raceReport (r : Nat) (x : W64) : (k.setS r x).raceReport = k.raceReport := by unfold Skein.setS; split <;> rfl
@[simp] theorem Skein.setS_seed (r : Nat) (x : W64) : (k.setS r x).seed = k.seed := by unfold Skein.setS; split <;> rfl
@[simp] theorem Skein.setS_streams (r : Nat) (x : W64) : (k.setS r x).streams = k.streams := by unfold Skein.setS; split <;> rfl
@[simp] theorem Skein.setS_trapFrame (r : Nat) (x : W64) : (k.setS r x).trapFrame = k.trapFrame := by unfold Skein.setS; split <;> rfl
@[simp] theorem Skein.setS_privBase (r : Nat) (x : W64) : (k.setS r x).privBase = k.privBase := by unfold Skein.setS; split <;> rfl
@[simp] theorem Skein.setS_strands (r : Nat) (x : W64) : (k.setS r x).strands = k.strands := by unfold Skein.setS; split <;> rfl
@[simp] theorem Skein.setS_records (r : Nat) (x : W64) : (k.setS r x).records = k.records := by unfold Skein.setS; split <;> rfl
@[simp] theorem Skein.setS_exited (r : Nat) (x : W64) : (k.setS r x).exited = k.exited := by unfold Skein.setS; split <;> rfl
@[simp] theorem Skein.setS_park (r : Nat) (x : W64) : (k.setS r x).park = k.park := by unfold Skein.setS; split <;> rfl
@[simp] theorem Skein.setS_trap (r : Nat) (x : W64) : (k.setS r x).trap = k.trap := by unfold Skein.setS; split <;> rfl
@[simp] theorem Skein.setS_pendTraps (r : Nat) (x : W64) : (k.setS r x).pendTraps = k.pendTraps := by unfold Skein.setS; split <;> rfl
@[simp] theorem Skein.setS_pendErrs (r : Nat) (x : W64) : (k.setS r x).pendErrs = k.pendErrs := by unfold Skein.setS; split <;> rfl
@[simp] theorem Skein.setS_stopped (r : Nat) (x : W64) : (k.setS r x).stopped = k.stopped := by unfold Skein.setS; split <;> rfl
@[simp] theorem Skein.setS_stepping (r : Nat) (x : W64) : (k.setS r x).stepping = k.stepping := by unfold Skein.setS; split <;> rfl
@[simp] theorem Skein.setS_svcWait (r : Nat) (x : W64) : (k.setS r x).svcWait = k.svcWait := by unfold Skein.setS; split <;> rfl
@[simp] theorem Skein.setS_yielded (r : Nat) (x : W64) : (k.setS r x).yielded = k.yielded := by unfold Skein.setS; split <;> rfl
@[simp] theorem Skein.setS_ops (r : Nat) (x : W64) : (k.setS r x).ops = k.ops := by unfold Skein.setS; split <;> rfl
@[simp] theorem Skein.setS_failed (r : Nat) (x : W64) : (k.setS r x).failed = k.failed := by unfold Skein.setS; split <;> rfl
@[simp] theorem Skein.setS_exitedAll (r : Nat) (x : W64) : (k.setS r x).exitedAll = k.exitedAll := by unfold Skein.setS; split <;> rfl
@[simp] theorem Skein.setS_passed (r : Nat) (x : W64) : (k.setS r x).passed = k.passed := by unfold Skein.setS; split <;> rfl
@[simp] theorem Skein.setS_hazards (r : Nat) (x : W64) : (k.setS r x).hazards = k.hazards := by unfold Skein.setS; split <;> rfl
@[simp] theorem Skein.setS_soft (r : Nat) (x : W64) : (k.setS r x).soft = k.soft := by unfold Skein.setS; split <;> rfl

@[simp] theorem Skein.setP_group (i : Nat) (m : Mask) : (k.setP i m).group = k.group := by unfold Skein.setP; split <;> rfl
@[simp] theorem Skein.setP_index (i : Nat) (m : Mask) : (k.setP i m).index = k.index := by unfold Skein.setP; split <;> rfl
@[simp] theorem Skein.setP_vregs (i : Nat) (m : Mask) : (k.setP i m).vregs = k.vregs := by unfold Skein.setP; split <;> rfl
@[simp] theorem Skein.setP_sregs (i : Nat) (m : Mask) : (k.setP i m).sregs = k.sregs := by unfold Skein.setP; split <;> rfl
@[simp] theorem Skein.setP_rj (i : Nat) (m : Mask) : (k.setP i m).rj = k.rj := by unfold Skein.setP; split <;> rfl
@[simp] theorem Skein.setP_handles (i : Nat) (m : Mask) : (k.setP i m).handles = k.handles := by unfold Skein.setP; split <;> rfl
@[simp] theorem Skein.setP_cntL (i : Nat) (m : Mask) : (k.setP i m).cntL = k.cntL := by unfold Skein.setP; split <;> rfl
@[simp] theorem Skein.setP_cntS (i : Nat) (m : Mask) : (k.setP i m).cntS = k.cntS := by unfold Skein.setP; split <;> rfl
@[simp] theorem Skein.setP_cntC (i : Nat) (m : Mask) : (k.setP i m).cntC = k.cntC := by unfold Skein.setP; split <;> rfl
@[simp] theorem Skein.setP_cntM (i : Nat) (m : Mask) : (k.setP i m).cntM = k.cntM := by unfold Skein.setP; split <;> rfl
@[simp] theorem Skein.setP_fifoL (i : Nat) (m : Mask) : (k.setP i m).fifoL = k.fifoL := by unfold Skein.setP; split <;> rfl
@[simp] theorem Skein.setP_fifoS (i : Nat) (m : Mask) : (k.setP i m).fifoS = k.fifoS := by unfold Skein.setP; split <;> rfl
@[simp] theorem Skein.setP_fifoC (i : Nat) (m : Mask) : (k.setP i m).fifoC = k.fifoC := by unfold Skein.setP; split <;> rfl
@[simp] theorem Skein.setP_fifoM (i : Nat) (m : Mask) : (k.setP i m).fifoM = k.fifoM := by unfold Skein.setP; split <;> rfl
@[simp] theorem Skein.setP_joinLost (i : Nat) (m : Mask) : (k.setP i m).joinLost = k.joinLost := by unfold Skein.setP; split <;> rfl
@[simp] theorem Skein.setP_raceTrap (i : Nat) (m : Mask) : (k.setP i m).raceTrap = k.raceTrap := by unfold Skein.setP; split <;> rfl
@[simp] theorem Skein.setP_raceReport (i : Nat) (m : Mask) : (k.setP i m).raceReport = k.raceReport := by unfold Skein.setP; split <;> rfl
@[simp] theorem Skein.setP_seed (i : Nat) (m : Mask) : (k.setP i m).seed = k.seed := by unfold Skein.setP; split <;> rfl
@[simp] theorem Skein.setP_streams (i : Nat) (m : Mask) : (k.setP i m).streams = k.streams := by unfold Skein.setP; split <;> rfl
@[simp] theorem Skein.setP_trapFrame (i : Nat) (m : Mask) : (k.setP i m).trapFrame = k.trapFrame := by unfold Skein.setP; split <;> rfl
@[simp] theorem Skein.setP_privBase (i : Nat) (m : Mask) : (k.setP i m).privBase = k.privBase := by unfold Skein.setP; split <;> rfl
@[simp] theorem Skein.setP_strands (i : Nat) (m : Mask) : (k.setP i m).strands = k.strands := by unfold Skein.setP; split <;> rfl
@[simp] theorem Skein.setP_records (i : Nat) (m : Mask) : (k.setP i m).records = k.records := by unfold Skein.setP; split <;> rfl
@[simp] theorem Skein.setP_exited (i : Nat) (m : Mask) : (k.setP i m).exited = k.exited := by unfold Skein.setP; split <;> rfl
@[simp] theorem Skein.setP_park (i : Nat) (m : Mask) : (k.setP i m).park = k.park := by unfold Skein.setP; split <;> rfl
@[simp] theorem Skein.setP_trap (i : Nat) (m : Mask) : (k.setP i m).trap = k.trap := by unfold Skein.setP; split <;> rfl
@[simp] theorem Skein.setP_pendTraps (i : Nat) (m : Mask) : (k.setP i m).pendTraps = k.pendTraps := by unfold Skein.setP; split <;> rfl
@[simp] theorem Skein.setP_pendErrs (i : Nat) (m : Mask) : (k.setP i m).pendErrs = k.pendErrs := by unfold Skein.setP; split <;> rfl
@[simp] theorem Skein.setP_stopped (i : Nat) (m : Mask) : (k.setP i m).stopped = k.stopped := by unfold Skein.setP; split <;> rfl
@[simp] theorem Skein.setP_stepping (i : Nat) (m : Mask) : (k.setP i m).stepping = k.stepping := by unfold Skein.setP; split <;> rfl
@[simp] theorem Skein.setP_svcWait (i : Nat) (m : Mask) : (k.setP i m).svcWait = k.svcWait := by unfold Skein.setP; split <;> rfl
@[simp] theorem Skein.setP_yielded (i : Nat) (m : Mask) : (k.setP i m).yielded = k.yielded := by unfold Skein.setP; split <;> rfl
@[simp] theorem Skein.setP_ops (i : Nat) (m : Mask) : (k.setP i m).ops = k.ops := by unfold Skein.setP; split <;> rfl
@[simp] theorem Skein.setP_failed (i : Nat) (m : Mask) : (k.setP i m).failed = k.failed := by unfold Skein.setP; split <;> rfl
@[simp] theorem Skein.setP_exitedAll (i : Nat) (m : Mask) : (k.setP i m).exitedAll = k.exitedAll := by unfold Skein.setP; split <;> rfl
@[simp] theorem Skein.setP_passed (i : Nat) (m : Mask) : (k.setP i m).passed = k.passed := by unfold Skein.setP; split <;> rfl
@[simp] theorem Skein.setP_hazards (i : Nat) (m : Mask) : (k.setP i m).hazards = k.hazards := by unfold Skein.setP; split <;> rfl
@[simp] theorem Skein.setP_soft (i : Nat) (m : Mask) : (k.setP i m).soft = k.soft := by unfold Skein.setP; split <;> rfl

@[simp] theorem Skein.setRejoin_group (i : Nat) (m : Mask) : (k.setRejoin i m).group = k.group := rfl
@[simp] theorem Skein.setRejoin_index (i : Nat) (m : Mask) : (k.setRejoin i m).index = k.index := rfl
@[simp] theorem Skein.setRejoin_vregs (i : Nat) (m : Mask) : (k.setRejoin i m).vregs = k.vregs := rfl
@[simp] theorem Skein.setRejoin_sregs (i : Nat) (m : Mask) : (k.setRejoin i m).sregs = k.sregs := rfl
@[simp] theorem Skein.setRejoin_preds (i : Nat) (m : Mask) : (k.setRejoin i m).preds = k.preds := rfl
@[simp] theorem Skein.setRejoin_handles (i : Nat) (m : Mask) : (k.setRejoin i m).handles = k.handles := rfl
@[simp] theorem Skein.setRejoin_cntL (i : Nat) (m : Mask) : (k.setRejoin i m).cntL = k.cntL := rfl
@[simp] theorem Skein.setRejoin_cntS (i : Nat) (m : Mask) : (k.setRejoin i m).cntS = k.cntS := rfl
@[simp] theorem Skein.setRejoin_cntC (i : Nat) (m : Mask) : (k.setRejoin i m).cntC = k.cntC := rfl
@[simp] theorem Skein.setRejoin_cntM (i : Nat) (m : Mask) : (k.setRejoin i m).cntM = k.cntM := rfl
@[simp] theorem Skein.setRejoin_fifoL (i : Nat) (m : Mask) : (k.setRejoin i m).fifoL = k.fifoL := rfl
@[simp] theorem Skein.setRejoin_fifoS (i : Nat) (m : Mask) : (k.setRejoin i m).fifoS = k.fifoS := rfl
@[simp] theorem Skein.setRejoin_fifoC (i : Nat) (m : Mask) : (k.setRejoin i m).fifoC = k.fifoC := rfl
@[simp] theorem Skein.setRejoin_fifoM (i : Nat) (m : Mask) : (k.setRejoin i m).fifoM = k.fifoM := rfl
@[simp] theorem Skein.setRejoin_joinLost (i : Nat) (m : Mask) : (k.setRejoin i m).joinLost = k.joinLost := rfl
@[simp] theorem Skein.setRejoin_raceTrap (i : Nat) (m : Mask) : (k.setRejoin i m).raceTrap = k.raceTrap := rfl
@[simp] theorem Skein.setRejoin_raceReport (i : Nat) (m : Mask) : (k.setRejoin i m).raceReport = k.raceReport := rfl
@[simp] theorem Skein.setRejoin_seed (i : Nat) (m : Mask) : (k.setRejoin i m).seed = k.seed := rfl
@[simp] theorem Skein.setRejoin_streams (i : Nat) (m : Mask) : (k.setRejoin i m).streams = k.streams := rfl
@[simp] theorem Skein.setRejoin_trapFrame (i : Nat) (m : Mask) : (k.setRejoin i m).trapFrame = k.trapFrame := rfl
@[simp] theorem Skein.setRejoin_privBase (i : Nat) (m : Mask) : (k.setRejoin i m).privBase = k.privBase := rfl
@[simp] theorem Skein.setRejoin_strands (i : Nat) (m : Mask) : (k.setRejoin i m).strands = k.strands := rfl
@[simp] theorem Skein.setRejoin_records (i : Nat) (m : Mask) : (k.setRejoin i m).records = k.records := rfl
@[simp] theorem Skein.setRejoin_exited (i : Nat) (m : Mask) : (k.setRejoin i m).exited = k.exited := rfl
@[simp] theorem Skein.setRejoin_park (i : Nat) (m : Mask) : (k.setRejoin i m).park = k.park := rfl
@[simp] theorem Skein.setRejoin_trap (i : Nat) (m : Mask) : (k.setRejoin i m).trap = k.trap := rfl
@[simp] theorem Skein.setRejoin_pendTraps (i : Nat) (m : Mask) : (k.setRejoin i m).pendTraps = k.pendTraps := rfl
@[simp] theorem Skein.setRejoin_pendErrs (i : Nat) (m : Mask) : (k.setRejoin i m).pendErrs = k.pendErrs := rfl
@[simp] theorem Skein.setRejoin_stopped (i : Nat) (m : Mask) : (k.setRejoin i m).stopped = k.stopped := rfl
@[simp] theorem Skein.setRejoin_stepping (i : Nat) (m : Mask) : (k.setRejoin i m).stepping = k.stepping := rfl
@[simp] theorem Skein.setRejoin_svcWait (i : Nat) (m : Mask) : (k.setRejoin i m).svcWait = k.svcWait := rfl
@[simp] theorem Skein.setRejoin_yielded (i : Nat) (m : Mask) : (k.setRejoin i m).yielded = k.yielded := rfl
@[simp] theorem Skein.setRejoin_ops (i : Nat) (m : Mask) : (k.setRejoin i m).ops = k.ops := rfl
@[simp] theorem Skein.setRejoin_failed (i : Nat) (m : Mask) : (k.setRejoin i m).failed = k.failed := rfl
@[simp] theorem Skein.setRejoin_exitedAll (i : Nat) (m : Mask) : (k.setRejoin i m).exitedAll = k.exitedAll := rfl
@[simp] theorem Skein.setRejoin_passed (i : Nat) (m : Mask) : (k.setRejoin i m).passed = k.passed := rfl
@[simp] theorem Skein.setRejoin_hazards (i : Nat) (m : Mask) : (k.setRejoin i m).hazards = k.hazards := rfl
@[simp] theorem Skein.setRejoin_soft (i : Nat) (m : Mask) : (k.setRejoin i m).soft = k.soft := rfl

@[simp] theorem Skein.setHandle_group (i : Nat) (h : HReg) : (k.setHandle i h).group = k.group := rfl
@[simp] theorem Skein.setHandle_index (i : Nat) (h : HReg) : (k.setHandle i h).index = k.index := rfl
@[simp] theorem Skein.setHandle_vregs (i : Nat) (h : HReg) : (k.setHandle i h).vregs = k.vregs := rfl
@[simp] theorem Skein.setHandle_sregs (i : Nat) (h : HReg) : (k.setHandle i h).sregs = k.sregs := rfl
@[simp] theorem Skein.setHandle_preds (i : Nat) (h : HReg) : (k.setHandle i h).preds = k.preds := rfl
@[simp] theorem Skein.setHandle_rj (i : Nat) (h : HReg) : (k.setHandle i h).rj = k.rj := rfl
@[simp] theorem Skein.setHandle_cntL (i : Nat) (h : HReg) : (k.setHandle i h).cntL = k.cntL := rfl
@[simp] theorem Skein.setHandle_cntS (i : Nat) (h : HReg) : (k.setHandle i h).cntS = k.cntS := rfl
@[simp] theorem Skein.setHandle_cntC (i : Nat) (h : HReg) : (k.setHandle i h).cntC = k.cntC := rfl
@[simp] theorem Skein.setHandle_cntM (i : Nat) (h : HReg) : (k.setHandle i h).cntM = k.cntM := rfl
@[simp] theorem Skein.setHandle_fifoL (i : Nat) (h : HReg) : (k.setHandle i h).fifoL = k.fifoL := rfl
@[simp] theorem Skein.setHandle_fifoS (i : Nat) (h : HReg) : (k.setHandle i h).fifoS = k.fifoS := rfl
@[simp] theorem Skein.setHandle_fifoC (i : Nat) (h : HReg) : (k.setHandle i h).fifoC = k.fifoC := rfl
@[simp] theorem Skein.setHandle_fifoM (i : Nat) (h : HReg) : (k.setHandle i h).fifoM = k.fifoM := rfl
@[simp] theorem Skein.setHandle_joinLost (i : Nat) (h : HReg) : (k.setHandle i h).joinLost = k.joinLost := rfl
@[simp] theorem Skein.setHandle_raceTrap (i : Nat) (h : HReg) : (k.setHandle i h).raceTrap = k.raceTrap := rfl
@[simp] theorem Skein.setHandle_raceReport (i : Nat) (h : HReg) : (k.setHandle i h).raceReport = k.raceReport := rfl
@[simp] theorem Skein.setHandle_seed (i : Nat) (h : HReg) : (k.setHandle i h).seed = k.seed := rfl
@[simp] theorem Skein.setHandle_streams (i : Nat) (h : HReg) : (k.setHandle i h).streams = k.streams := rfl
@[simp] theorem Skein.setHandle_trapFrame (i : Nat) (h : HReg) : (k.setHandle i h).trapFrame = k.trapFrame := rfl
@[simp] theorem Skein.setHandle_privBase (i : Nat) (h : HReg) : (k.setHandle i h).privBase = k.privBase := rfl
@[simp] theorem Skein.setHandle_strands (i : Nat) (h : HReg) : (k.setHandle i h).strands = k.strands := rfl
@[simp] theorem Skein.setHandle_records (i : Nat) (h : HReg) : (k.setHandle i h).records = k.records := rfl
@[simp] theorem Skein.setHandle_exited (i : Nat) (h : HReg) : (k.setHandle i h).exited = k.exited := rfl
@[simp] theorem Skein.setHandle_park (i : Nat) (h : HReg) : (k.setHandle i h).park = k.park := rfl
@[simp] theorem Skein.setHandle_trap (i : Nat) (h : HReg) : (k.setHandle i h).trap = k.trap := rfl
@[simp] theorem Skein.setHandle_pendTraps (i : Nat) (h : HReg) : (k.setHandle i h).pendTraps = k.pendTraps := rfl
@[simp] theorem Skein.setHandle_pendErrs (i : Nat) (h : HReg) : (k.setHandle i h).pendErrs = k.pendErrs := rfl
@[simp] theorem Skein.setHandle_stopped (i : Nat) (h : HReg) : (k.setHandle i h).stopped = k.stopped := rfl
@[simp] theorem Skein.setHandle_stepping (i : Nat) (h : HReg) : (k.setHandle i h).stepping = k.stepping := rfl
@[simp] theorem Skein.setHandle_svcWait (i : Nat) (h : HReg) : (k.setHandle i h).svcWait = k.svcWait := rfl
@[simp] theorem Skein.setHandle_yielded (i : Nat) (h : HReg) : (k.setHandle i h).yielded = k.yielded := rfl
@[simp] theorem Skein.setHandle_ops (i : Nat) (h : HReg) : (k.setHandle i h).ops = k.ops := rfl
@[simp] theorem Skein.setHandle_failed (i : Nat) (h : HReg) : (k.setHandle i h).failed = k.failed := rfl
@[simp] theorem Skein.setHandle_exitedAll (i : Nat) (h : HReg) : (k.setHandle i h).exitedAll = k.exitedAll := rfl
@[simp] theorem Skein.setHandle_passed (i : Nat) (h : HReg) : (k.setHandle i h).passed = k.passed := rfl
@[simp] theorem Skein.setHandle_hazards (i : Nat) (h : HReg) : (k.setHandle i h).hazards = k.hazards := rfl
@[simp] theorem Skein.setHandle_soft (i : Nat) (h : HReg) : (k.setHandle i h).soft = k.soft := rfl

@[simp] theorem Skein.setStrand_group (st : Nat) (x : Option Strand) : (k.setStrand st x).group = k.group := rfl
@[simp] theorem Skein.setStrand_index (st : Nat) (x : Option Strand) : (k.setStrand st x).index = k.index := rfl
@[simp] theorem Skein.setStrand_vregs (st : Nat) (x : Option Strand) : (k.setStrand st x).vregs = k.vregs := rfl
@[simp] theorem Skein.setStrand_sregs (st : Nat) (x : Option Strand) : (k.setStrand st x).sregs = k.sregs := rfl
@[simp] theorem Skein.setStrand_preds (st : Nat) (x : Option Strand) : (k.setStrand st x).preds = k.preds := rfl
@[simp] theorem Skein.setStrand_rj (st : Nat) (x : Option Strand) : (k.setStrand st x).rj = k.rj := rfl
@[simp] theorem Skein.setStrand_handles (st : Nat) (x : Option Strand) : (k.setStrand st x).handles = k.handles := rfl
@[simp] theorem Skein.setStrand_cntL (st : Nat) (x : Option Strand) : (k.setStrand st x).cntL = k.cntL := rfl
@[simp] theorem Skein.setStrand_cntS (st : Nat) (x : Option Strand) : (k.setStrand st x).cntS = k.cntS := rfl
@[simp] theorem Skein.setStrand_cntC (st : Nat) (x : Option Strand) : (k.setStrand st x).cntC = k.cntC := rfl
@[simp] theorem Skein.setStrand_cntM (st : Nat) (x : Option Strand) : (k.setStrand st x).cntM = k.cntM := rfl
@[simp] theorem Skein.setStrand_fifoL (st : Nat) (x : Option Strand) : (k.setStrand st x).fifoL = k.fifoL := rfl
@[simp] theorem Skein.setStrand_fifoS (st : Nat) (x : Option Strand) : (k.setStrand st x).fifoS = k.fifoS := rfl
@[simp] theorem Skein.setStrand_fifoC (st : Nat) (x : Option Strand) : (k.setStrand st x).fifoC = k.fifoC := rfl
@[simp] theorem Skein.setStrand_fifoM (st : Nat) (x : Option Strand) : (k.setStrand st x).fifoM = k.fifoM := rfl
@[simp] theorem Skein.setStrand_joinLost (st : Nat) (x : Option Strand) : (k.setStrand st x).joinLost = k.joinLost := rfl
@[simp] theorem Skein.setStrand_raceTrap (st : Nat) (x : Option Strand) : (k.setStrand st x).raceTrap = k.raceTrap := rfl
@[simp] theorem Skein.setStrand_raceReport (st : Nat) (x : Option Strand) : (k.setStrand st x).raceReport = k.raceReport := rfl
@[simp] theorem Skein.setStrand_seed (st : Nat) (x : Option Strand) : (k.setStrand st x).seed = k.seed := rfl
@[simp] theorem Skein.setStrand_streams (st : Nat) (x : Option Strand) : (k.setStrand st x).streams = k.streams := rfl
@[simp] theorem Skein.setStrand_trapFrame (st : Nat) (x : Option Strand) : (k.setStrand st x).trapFrame = k.trapFrame := rfl
@[simp] theorem Skein.setStrand_privBase (st : Nat) (x : Option Strand) : (k.setStrand st x).privBase = k.privBase := rfl
@[simp] theorem Skein.setStrand_records (st : Nat) (x : Option Strand) : (k.setStrand st x).records = k.records := rfl
@[simp] theorem Skein.setStrand_exited (st : Nat) (x : Option Strand) : (k.setStrand st x).exited = k.exited := rfl
@[simp] theorem Skein.setStrand_park (st : Nat) (x : Option Strand) : (k.setStrand st x).park = k.park := rfl
@[simp] theorem Skein.setStrand_trap (st : Nat) (x : Option Strand) : (k.setStrand st x).trap = k.trap := rfl
@[simp] theorem Skein.setStrand_pendTraps (st : Nat) (x : Option Strand) : (k.setStrand st x).pendTraps = k.pendTraps := rfl
@[simp] theorem Skein.setStrand_pendErrs (st : Nat) (x : Option Strand) : (k.setStrand st x).pendErrs = k.pendErrs := rfl
@[simp] theorem Skein.setStrand_stopped (st : Nat) (x : Option Strand) : (k.setStrand st x).stopped = k.stopped := rfl
@[simp] theorem Skein.setStrand_stepping (st : Nat) (x : Option Strand) : (k.setStrand st x).stepping = k.stepping := rfl
@[simp] theorem Skein.setStrand_svcWait (st : Nat) (x : Option Strand) : (k.setStrand st x).svcWait = k.svcWait := rfl
@[simp] theorem Skein.setStrand_yielded (st : Nat) (x : Option Strand) : (k.setStrand st x).yielded = k.yielded := rfl
@[simp] theorem Skein.setStrand_ops (st : Nat) (x : Option Strand) : (k.setStrand st x).ops = k.ops := rfl
@[simp] theorem Skein.setStrand_failed (st : Nat) (x : Option Strand) : (k.setStrand st x).failed = k.failed := rfl
@[simp] theorem Skein.setStrand_exitedAll (st : Nat) (x : Option Strand) : (k.setStrand st x).exitedAll = k.exitedAll := rfl
@[simp] theorem Skein.setStrand_passed (st : Nat) (x : Option Strand) : (k.setStrand st x).passed = k.passed := rfl
@[simp] theorem Skein.setStrand_hazards (st : Nat) (x : Option Strand) : (k.setStrand st x).hazards = k.hazards := rfl
@[simp] theorem Skein.setStrand_soft (st : Nat) (x : Option Strand) : (k.setStrand st x).soft = k.soft := rfl

@[simp] theorem Skein.modStrand_group (st : Nat) (f : Strand → Strand) : (k.modStrand st f).group = k.group := by unfold Skein.modStrand; split <;> rfl
@[simp] theorem Skein.modStrand_index (st : Nat) (f : Strand → Strand) : (k.modStrand st f).index = k.index := by unfold Skein.modStrand; split <;> rfl
@[simp] theorem Skein.modStrand_vregs (st : Nat) (f : Strand → Strand) : (k.modStrand st f).vregs = k.vregs := by unfold Skein.modStrand; split <;> rfl
@[simp] theorem Skein.modStrand_sregs (st : Nat) (f : Strand → Strand) : (k.modStrand st f).sregs = k.sregs := by unfold Skein.modStrand; split <;> rfl
@[simp] theorem Skein.modStrand_preds (st : Nat) (f : Strand → Strand) : (k.modStrand st f).preds = k.preds := by unfold Skein.modStrand; split <;> rfl
@[simp] theorem Skein.modStrand_rj (st : Nat) (f : Strand → Strand) : (k.modStrand st f).rj = k.rj := by unfold Skein.modStrand; split <;> rfl
@[simp] theorem Skein.modStrand_handles (st : Nat) (f : Strand → Strand) : (k.modStrand st f).handles = k.handles := by unfold Skein.modStrand; split <;> rfl
@[simp] theorem Skein.modStrand_cntL (st : Nat) (f : Strand → Strand) : (k.modStrand st f).cntL = k.cntL := by unfold Skein.modStrand; split <;> rfl
@[simp] theorem Skein.modStrand_cntS (st : Nat) (f : Strand → Strand) : (k.modStrand st f).cntS = k.cntS := by unfold Skein.modStrand; split <;> rfl
@[simp] theorem Skein.modStrand_cntC (st : Nat) (f : Strand → Strand) : (k.modStrand st f).cntC = k.cntC := by unfold Skein.modStrand; split <;> rfl
@[simp] theorem Skein.modStrand_cntM (st : Nat) (f : Strand → Strand) : (k.modStrand st f).cntM = k.cntM := by unfold Skein.modStrand; split <;> rfl
@[simp] theorem Skein.modStrand_fifoL (st : Nat) (f : Strand → Strand) : (k.modStrand st f).fifoL = k.fifoL := by unfold Skein.modStrand; split <;> rfl
@[simp] theorem Skein.modStrand_fifoS (st : Nat) (f : Strand → Strand) : (k.modStrand st f).fifoS = k.fifoS := by unfold Skein.modStrand; split <;> rfl
@[simp] theorem Skein.modStrand_fifoC (st : Nat) (f : Strand → Strand) : (k.modStrand st f).fifoC = k.fifoC := by unfold Skein.modStrand; split <;> rfl
@[simp] theorem Skein.modStrand_fifoM (st : Nat) (f : Strand → Strand) : (k.modStrand st f).fifoM = k.fifoM := by unfold Skein.modStrand; split <;> rfl
@[simp] theorem Skein.modStrand_joinLost (st : Nat) (f : Strand → Strand) : (k.modStrand st f).joinLost = k.joinLost := by unfold Skein.modStrand; split <;> rfl
@[simp] theorem Skein.modStrand_raceTrap (st : Nat) (f : Strand → Strand) : (k.modStrand st f).raceTrap = k.raceTrap := by unfold Skein.modStrand; split <;> rfl
@[simp] theorem Skein.modStrand_raceReport (st : Nat) (f : Strand → Strand) : (k.modStrand st f).raceReport = k.raceReport := by unfold Skein.modStrand; split <;> rfl
@[simp] theorem Skein.modStrand_seed (st : Nat) (f : Strand → Strand) : (k.modStrand st f).seed = k.seed := by unfold Skein.modStrand; split <;> rfl
@[simp] theorem Skein.modStrand_streams (st : Nat) (f : Strand → Strand) : (k.modStrand st f).streams = k.streams := by unfold Skein.modStrand; split <;> rfl
@[simp] theorem Skein.modStrand_trapFrame (st : Nat) (f : Strand → Strand) : (k.modStrand st f).trapFrame = k.trapFrame := by unfold Skein.modStrand; split <;> rfl
@[simp] theorem Skein.modStrand_privBase (st : Nat) (f : Strand → Strand) : (k.modStrand st f).privBase = k.privBase := by unfold Skein.modStrand; split <;> rfl
@[simp] theorem Skein.modStrand_records (st : Nat) (f : Strand → Strand) : (k.modStrand st f).records = k.records := by unfold Skein.modStrand; split <;> rfl
@[simp] theorem Skein.modStrand_exited (st : Nat) (f : Strand → Strand) : (k.modStrand st f).exited = k.exited := by unfold Skein.modStrand; split <;> rfl
@[simp] theorem Skein.modStrand_park (st : Nat) (f : Strand → Strand) : (k.modStrand st f).park = k.park := by unfold Skein.modStrand; split <;> rfl
@[simp] theorem Skein.modStrand_trap (st : Nat) (f : Strand → Strand) : (k.modStrand st f).trap = k.trap := by unfold Skein.modStrand; split <;> rfl
@[simp] theorem Skein.modStrand_pendTraps (st : Nat) (f : Strand → Strand) : (k.modStrand st f).pendTraps = k.pendTraps := by unfold Skein.modStrand; split <;> rfl
@[simp] theorem Skein.modStrand_pendErrs (st : Nat) (f : Strand → Strand) : (k.modStrand st f).pendErrs = k.pendErrs := by unfold Skein.modStrand; split <;> rfl
@[simp] theorem Skein.modStrand_stopped (st : Nat) (f : Strand → Strand) : (k.modStrand st f).stopped = k.stopped := by unfold Skein.modStrand; split <;> rfl
@[simp] theorem Skein.modStrand_stepping (st : Nat) (f : Strand → Strand) : (k.modStrand st f).stepping = k.stepping := by unfold Skein.modStrand; split <;> rfl
@[simp] theorem Skein.modStrand_svcWait (st : Nat) (f : Strand → Strand) : (k.modStrand st f).svcWait = k.svcWait := by unfold Skein.modStrand; split <;> rfl
@[simp] theorem Skein.modStrand_yielded (st : Nat) (f : Strand → Strand) : (k.modStrand st f).yielded = k.yielded := by unfold Skein.modStrand; split <;> rfl
@[simp] theorem Skein.modStrand_ops (st : Nat) (f : Strand → Strand) : (k.modStrand st f).ops = k.ops := by unfold Skein.modStrand; split <;> rfl
@[simp] theorem Skein.modStrand_failed (st : Nat) (f : Strand → Strand) : (k.modStrand st f).failed = k.failed := by unfold Skein.modStrand; split <;> rfl
@[simp] theorem Skein.modStrand_exitedAll (st : Nat) (f : Strand → Strand) : (k.modStrand st f).exitedAll = k.exitedAll := by unfold Skein.modStrand; split <;> rfl
@[simp] theorem Skein.modStrand_passed (st : Nat) (f : Strand → Strand) : (k.modStrand st f).passed = k.passed := by unfold Skein.modStrand; split <;> rfl
@[simp] theorem Skein.modStrand_hazards (st : Nat) (f : Strand → Strand) : (k.modStrand st f).hazards = k.hazards := by unfold Skein.modStrand; split <;> rfl
@[simp] theorem Skein.modStrand_soft (st : Nat) (f : Strand → Strand) : (k.modStrand st f).soft = k.soft := by unfold Skein.modStrand; split <;> rfl

/-! ## A result in the lanes that take part (R84, R266) -/

theorem Mask.mem_lanes (m : Mask) (l : Nat) : l ∈ Mask.lanes m ↔ l < 32 ∧ m.getLsbD l = true := by
  simp [Mask.lanes]

theorem Skein.raw_setVw (wide : Bool) (r q l m : Nat) (x : W64) (hl : l < 32) (hm : m < 32) :
    (k.setVw wide r l x).raw q m =
      if m = l ∧ r ≤ q ∧ q < r + (if wide then 2 else 1) then (x >>> (32 * (q - r))).truncate 32 else k.raw q m := by
  cases wide with
  | false =>
    simp only [Skein.setVw, Bool.false_eq_true, if_false, Skein.raw_setV _ _ _ _ _ _ hl hm]
    by_cases h : q = r ∧ m = l
    · obtain ⟨rfl, rfl⟩ := h; simp
    · have : ¬ (m = l ∧ r ≤ q ∧ q < r + 1) := by omega
      rw [if_neg h, if_neg this]
  | true =>
    simp only [Skein.setVw, if_true, Skein.setV64, Skein.raw_setV _ _ _ _ _ _ hl hm]
    by_cases h1 : q = r + 1 ∧ m = l
    · obtain ⟨rfl, rfl⟩ := h1
      simp
    · by_cases h0 : q = r ∧ m = l
      · obtain ⟨rfl, rfl⟩ := h0; simp
      · have : ¬ (m = l ∧ r ≤ q ∧ q < r + 2) := by omega
        simp [h1, h0, this]

theorem Skein.setVw_other (wide : Bool) (r l : Nat) (x : W64) : k.setVw wide r l x = { k with vregs := (k.setVw wide r l x).vregs } := by
  cases wide <;> rfl

/-- Writing D lane by lane leaves each lane that takes part with its value, and nothing else changed. -/
theorem Skein.foldl_putD (n r : Nat) (hn : n = 1 ∨ n = 2) (v : Nat → W64) (ls : List Nat) (hls : ∀ l ∈ ls, l < 32) (k : Skein) :
    let k' := ls.foldl (fun k l => k.putD false n r l (v l)) k
    k' = { k with vregs := k'.vregs } ∧ ∀ m, m < 32 → ∀ q, k'.raw q m =
      if m ∈ ls ∧ r ≤ q ∧ q < r + n then ((v m) >>> (32 * (q - r))).truncate 32 else k.raw q m := by
  induction ls generalizing k with
  | nil => exact ⟨rfl, by simp⟩
  | cons l ls ih =>
    obtain ⟨h1, h2⟩ := ih (fun m hm => hls m (List.mem_cons_of_mem _ hm)) (k.putD false n r l (v l))
    have hw : (k.putD false n r l (v l)) = k.setVw (n == 2) r l (v l) := rfl
    have hn' : (if (n == 2) = true then 2 else 1) = n := by rcases hn with rfl | rfl <;> rfl
    refine ⟨?_, fun m hm q => ?_⟩
    · rw [List.foldl_cons, h1, hw, k.setVw_other]
    · rw [List.foldl_cons, h2 m hm q, hw, Skein.raw_setVw _ _ _ _ _ _ _ (hls l List.mem_cons_self) hm, hn']
      by_cases hin : m ∈ ls ∧ r ≤ q ∧ q < r + n
      · have : m ∈ l :: ls ∧ r ≤ q ∧ q < r + n := ⟨List.mem_cons_of_mem _ hin.1, hin.2⟩
        simp [hin, this]
      · by_cases hl : m = l ∧ r ≤ q ∧ q < r + n
        · obtain ⟨rfl, hq⟩ := hl
          simp [hq]
        · have : ¬ (m ∈ l :: ls ∧ r ≤ q ∧ q < r + n) := by
            rintro ⟨hm', hq⟩
            rcases List.mem_cons.1 hm' with e | e
            · exact hl ⟨e, hq⟩
            · exact hin ⟨e, hq⟩
          rw [if_neg hin, if_neg hl, if_neg this]

theorem Skein.lanesWritten_putD (n r : Nat) (hn : n = 1 ∨ n = 2) (v : Nat → W64) (act : Mask) :
    LanesWritten k ((Mask.lanes act).foldl (fun k l => k.putD false n r l (v l)) k) act r n v := by
  obtain ⟨h1, h2⟩ := Skein.foldl_putD n r hn v (Mask.lanes act) (fun l hl => ((Mask.mem_lanes act l).1 hl).1) k
  refine ⟨h1, fun l hl q => ?_⟩
  rw [h2 l hl q]
  simp only [Mask.mem_lanes, hl, true_and]

end Sys2Proof.Machine
end

