-- ==== Sys2Proof/Laws/State.lean ====
section
/-! SUPPORT. One lemma per field of the state per update, and what reads after each update of a part with a name. -/

namespace Sys2Proof.Machine

variable (s : State)

/-! ### setSkein -/

@[simp] theorem State.setSkein_clock (id : SkId) (k : Skein) : (s.setSkein id k).clock = s.clock := rfl
@[simp] theorem State.setSkein_cur (id : SkId) (k : Skein) : (s.setSkein id k).cur = s.cur := rfl
@[simp] theorem State.setSkein_agenda (id : SkId) (k : Skein) : (s.setSkein id k).agenda = s.agenda := rfl
@[simp] theorem State.setSkein_freeCtr (id : SkId) (k : Skein) : (s.setSkein id k).freeCtr = s.freeCtr := rfl
@[simp] theorem State.setSkein_mem (id : SkId) (k : Skein) : (s.setSkein id k).mem = s.mem := rfl
@[simp] theorem State.setSkein_nextDfn (id : SkId) (k : Skein) : (s.setSkein id k).nextDfn = s.nextDfn := rfl
@[simp] theorem State.setSkein_verified (id : SkId) (k : Skein) : (s.setSkein id k).verified = s.verified := rfl
@[simp] theorem State.setSkein_badPages (id : SkId) (k : Skein) : (s.setSkein id k).badPages = s.badPages := rfl
@[simp] theorem State.setSkein_skeins (id : SkId) (k : Skein) : (s.setSkein id k).skeins = Tab.set s.skeins id k := rfl
@[simp] theorem State.setSkein_groups (id : SkId) (k : Skein) : (s.setSkein id k).groups = s.groups := rfl
@[simp] theorem State.setSkein_cores (id : SkId) (k : Skein) : (s.setSkein id k).cores = s.cores := rfl
@[simp] theorem State.setSkein_scratch (id : SkId) (k : Skein) : (s.setSkein id k).scratch = s.scratch := rfl
@[simp] theorem State.setSkein_tiles (id : SkId) (k : Skein) : (s.setSkein id k).tiles = s.tiles := rfl
@[simp] theorem State.setSkein_caches (id : SkId) (k : Skein) : (s.setSkein id k).caches = s.caches := rfl
@[simp] theorem State.setSkein_homeWords (id : SkId) (k : Skein) : (s.setSkein id k).homeWords = s.homeWords := rfl
@[simp] theorem State.setSkein_homePend (id : SkId) (k : Skein) : (s.setSkein id k).homePend = s.homePend := rfl
@[simp] theorem State.setSkein_faults (id : SkId) (k : Skein) : (s.setSkein id k).faults = s.faults := rfl
@[simp] theorem State.setSkein_slices (id : SkId) (k : Skein) : (s.setSkein id k).slices = s.slices := rfl
@[simp] theorem State.setSkein_net (id : SkId) (k : Skein) : (s.setSkein id k).net = s.net := rfl
@[simp] theorem State.setSkein_memops (id : SkId) (k : Skein) : (s.setSkein id k).memops = s.memops := rfl
@[simp] theorem State.setSkein_ops (id : SkId) (k : Skein) : (s.setSkein id k).ops = s.ops := rfl
@[simp] theorem State.setSkein_past (id : SkId) (k : Skein) : (s.setSkein id k).past = s.past := rfl
@[simp] theorem State.setSkein_rendezvous (id : SkId) (k : Skein) : (s.setSkein id k).rendezvous = s.rendezvous := rfl
@[simp] theorem State.setSkein_jointSets (id : SkId) (k : Skein) : (s.setSkein id k).jointSets = s.jointSets := rfl
@[simp] theorem State.setSkein_exchanges (id : SkId) (k : Skein) : (s.setSkein id k).exchanges = s.exchanges := rfl
@[simp] theorem State.setSkein_work (id : SkId) (k : Skein) : (s.setSkein id k).work = s.work := rfl
@[simp] theorem State.setSkein_host (id : SkId) (k : Skein) : (s.setSkein id k).host = s.host := rfl
@[simp] theorem State.setSkein_fab (id : SkId) (k : Skein) : (s.setSkein id k).fab = s.fab := rfl
@[simp] theorem State.setSkein_dies (id : SkId) (k : Skein) : (s.setSkein id k).dies = s.dies := rfl
@[simp] theorem State.setSkein_pkg (id : SkId) (k : Skein) : (s.setSkein id k).pkg = s.pkg := rfl
@[simp] theorem State.setSkein_nextName (id : SkId) (k : Skein) : (s.setSkein id k).nextName = s.nextName := rfl
@[simp] theorem State.setSkein_nextPriv (id : SkId) (k : Skein) : (s.setSkein id k).nextPriv = s.nextPriv := rfl
@[simp] theorem State.setSkein_soft (id : SkId) (k : Skein) : (s.setSkein id k).soft = s.soft := rfl

/-! ### dropSkein -/

@[simp] theorem State.dropSkein_clock (id : SkId) : (s.dropSkein id).clock = s.clock := rfl
@[simp] theorem State.dropSkein_cur (id : SkId) : (s.dropSkein id).cur = s.cur := rfl
@[simp] theorem State.dropSkein_agenda (id : SkId) : (s.dropSkein id).agenda = s.agenda := rfl
@[simp] theorem State.dropSkein_freeCtr (id : SkId) : (s.dropSkein id).freeCtr = s.freeCtr := rfl
@[simp] theorem State.dropSkein_mem (id : SkId) : (s.dropSkein id).mem = s.mem := rfl
@[simp] theorem State.dropSkein_nextDfn (id : SkId) : (s.dropSkein id).nextDfn = s.nextDfn := rfl
@[simp] theorem State.dropSkein_verified (id : SkId) : (s.dropSkein id).verified = s.verified := rfl
@[simp] theorem State.dropSkein_badPages (id : SkId) : (s.dropSkein id).badPages = s.badPages := rfl
@[simp] theorem State.dropSkein_skeins (id : SkId) : (s.dropSkein id).skeins = Tab.erase s.skeins id := rfl
@[simp] theorem State.dropSkein_groups (id : SkId) : (s.dropSkein id).groups = s.groups := rfl
@[simp] theorem State.dropSkein_cores (id : SkId) : (s.dropSkein id).cores = s.cores := rfl
@[simp] theorem State.dropSkein_scratch (id : SkId) : (s.dropSkein id).scratch = s.scratch := rfl
@[simp] theorem State.dropSkein_tiles (id : SkId) : (s.dropSkein id).tiles = s.tiles := rfl
@[simp] theorem State.dropSkein_caches (id : SkId) : (s.dropSkein id).caches = s.caches := rfl
@[simp] theorem State.dropSkein_homeWords (id : SkId) : (s.dropSkein id).homeWords = s.homeWords := rfl
@[simp] theorem State.dropSkein_homePend (id : SkId) : (s.dropSkein id).homePend = s.homePend := rfl
@[simp] theorem State.dropSkein_faults (id : SkId) : (s.dropSkein id).faults = s.faults := rfl
@[simp] theorem State.dropSkein_slices (id : SkId) : (s.dropSkein id).slices = s.slices := rfl
@[simp] theorem State.dropSkein_net (id : SkId) : (s.dropSkein id).net = s.net := rfl
@[simp] theorem State.dropSkein_memops (id : SkId) : (s.dropSkein id).memops = s.memops := rfl
@[simp] theorem State.dropSkein_ops (id : SkId) : (s.dropSkein id).ops = s.ops := rfl
@[simp] theorem State.dropSkein_past (id : SkId) : (s.dropSkein id).past = s.past := rfl
@[simp] theorem State.dropSkein_rendezvous (id : SkId) : (s.dropSkein id).rendezvous = s.rendezvous := rfl
@[simp] theorem State.dropSkein_jointSets (id : SkId) : (s.dropSkein id).jointSets = s.jointSets := rfl
@[simp] theorem State.dropSkein_exchanges (id : SkId) : (s.dropSkein id).exchanges = s.exchanges := rfl
@[simp] theorem State.dropSkein_work (id : SkId) : (s.dropSkein id).work = s.work := rfl
@[simp] theorem State.dropSkein_host (id : SkId) : (s.dropSkein id).host = s.host := rfl
@[simp] theorem State.dropSkein_fab (id : SkId) : (s.dropSkein id).fab = s.fab := rfl
@[simp] theorem State.dropSkein_dies (id : SkId) : (s.dropSkein id).dies = s.dies := rfl
@[simp] theorem State.dropSkein_pkg (id : SkId) : (s.dropSkein id).pkg = s.pkg := rfl
@[simp] theorem State.dropSkein_nextName (id : SkId) : (s.dropSkein id).nextName = s.nextName := rfl
@[simp] theorem State.dropSkein_nextPriv (id : SkId) : (s.dropSkein id).nextPriv = s.nextPriv := rfl
@[simp] theorem State.dropSkein_soft (id : SkId) : (s.dropSkein id).soft = s.soft := rfl

/-! ### modSkein -/

@[simp] theorem State.modSkein_clock (id : SkId) (f : Skein → Skein) : (s.modSkein id f).clock = s.clock := rfl
@[simp] theorem State.modSkein_cur (id : SkId) (f : Skein → Skein) : (s.modSkein id f).cur = s.cur := rfl
@[simp] theorem State.modSkein_agenda (id : SkId) (f : Skein → Skein) : (s.modSkein id f).agenda = s.agenda := rfl
@[simp] theorem State.modSkein_freeCtr (id : SkId) (f : Skein → Skein) : (s.modSkein id f).freeCtr = s.freeCtr := rfl
@[simp] theorem State.modSkein_mem (id : SkId) (f : Skein → Skein) : (s.modSkein id f).mem = s.mem := rfl
@[simp] theorem State.modSkein_nextDfn (id : SkId) (f : Skein → Skein) : (s.modSkein id f).nextDfn = s.nextDfn := rfl
@[simp] theorem State.modSkein_verified (id : SkId) (f : Skein → Skein) : (s.modSkein id f).verified = s.verified := rfl
@[simp] theorem State.modSkein_badPages (id : SkId) (f : Skein → Skein) : (s.modSkein id f).badPages = s.badPages := rfl
@[simp] theorem State.modSkein_skeins (id : SkId) (f : Skein → Skein) : (s.modSkein id f).skeins = Tab.modify s.skeins id f := rfl
@[simp] theorem State.modSkein_groups (id : SkId) (f : Skein → Skein) : (s.modSkein id f).groups = s.groups := rfl
@[simp] theorem State.modSkein_cores (id : SkId) (f : Skein → Skein) : (s.modSkein id f).cores = s.cores := rfl
@[simp] theorem State.modSkein_scratch (id : SkId) (f : Skein → Skein) : (s.modSkein id f).scratch = s.scratch := rfl
@[simp] theorem State.modSkein_tiles (id : SkId) (f : Skein → Skein) : (s.modSkein id f).tiles = s.tiles := rfl
@[simp] theorem State.modSkein_caches (id : SkId) (f : Skein → Skein) : (s.modSkein id f).caches = s.caches := rfl
@[simp] theorem State.modSkein_homeWords (id : SkId) (f : Skein → Skein) : (s.modSkein id f).homeWords = s.homeWords := rfl
@[simp] theorem State.modSkein_homePend (id : SkId) (f : Skein → Skein) : (s.modSkein id f).homePend = s.homePend := rfl
@[simp] theorem State.modSkein_faults (id : SkId) (f : Skein → Skein) : (s.modSkein id f).faults = s.faults := rfl
@[simp] theorem State.modSkein_slices (id : SkId) (f : Skein → Skein) : (s.modSkein id f).slices = s.slices := rfl
@[simp] theorem State.modSkein_net (id : SkId) (f : Skein → Skein) : (s.modSkein id f).net = s.net := rfl
@[simp] theorem State.modSkein_memops (id : SkId) (f : Skein → Skein) : (s.modSkein id f).memops = s.memops := rfl
@[simp] theorem State.modSkein_ops (id : SkId) (f : Skein → Skein) : (s.modSkein id f).ops = s.ops := rfl
@[simp] theorem State.modSkein_past (id : SkId) (f : Skein → Skein) : (s.modSkein id f).past = s.past := rfl
@[simp] theorem State.modSkein_rendezvous (id : SkId) (f : Skein → Skein) : (s.modSkein id f).rendezvous = s.rendezvous := rfl
@[simp] theorem State.modSkein_jointSets (id : SkId) (f : Skein → Skein) : (s.modSkein id f).jointSets = s.jointSets := rfl
@[simp] theorem State.modSkein_exchanges (id : SkId) (f : Skein → Skein) : (s.modSkein id f).exchanges = s.exchanges := rfl
@[simp] theorem State.modSkein_work (id : SkId) (f : Skein → Skein) : (s.modSkein id f).work = s.work := rfl
@[simp] theorem State.modSkein_host (id : SkId) (f : Skein → Skein) : (s.modSkein id f).host = s.host := rfl
@[simp] theorem State.modSkein_fab (id : SkId) (f : Skein → Skein) : (s.modSkein id f).fab = s.fab := rfl
@[simp] theorem State.modSkein_dies (id : SkId) (f : Skein → Skein) : (s.modSkein id f).dies = s.dies := rfl
@[simp] theorem State.modSkein_pkg (id : SkId) (f : Skein → Skein) : (s.modSkein id f).pkg = s.pkg := rfl
@[simp] theorem State.modSkein_nextName (id : SkId) (f : Skein → Skein) : (s.modSkein id f).nextName = s.nextName := rfl
@[simp] theorem State.modSkein_nextPriv (id : SkId) (f : Skein → Skein) : (s.modSkein id f).nextPriv = s.nextPriv := rfl
@[simp] theorem State.modSkein_soft (id : SkId) (f : Skein → Skein) : (s.modSkein id f).soft = s.soft := rfl

/-! ### modStrand -/

@[simp] theorem State.modStrand_clock (id : SkId) (st : Nat) (f : Strand → Strand) : (s.modStrand id st f).clock = s.clock := rfl
@[simp] theorem State.modStrand_cur (id : SkId) (st : Nat) (f : Strand → Strand) : (s.modStrand id st f).cur = s.cur := rfl
@[simp] theorem State.modStrand_agenda (id : SkId) (st : Nat) (f : Strand → Strand) : (s.modStrand id st f).agenda = s.agenda := rfl
@[simp] theorem State.modStrand_freeCtr (id : SkId) (st : Nat) (f : Strand → Strand) : (s.modStrand id st f).freeCtr = s.freeCtr := rfl
@[simp] theorem State.modStrand_mem (id : SkId) (st : Nat) (f : Strand → Strand) : (s.modStrand id st f).mem = s.mem := rfl
@[simp] theorem State.modStrand_nextDfn (id : SkId) (st : Nat) (f : Strand → Strand) : (s.modStrand id st f).nextDfn = s.nextDfn := rfl
@[simp] theorem State.modStrand_verified (id : SkId) (st : Nat) (f : Strand → Strand) : (s.modStrand id st f).verified = s.verified := rfl
@[simp] theorem State.modStrand_badPages (id : SkId) (st : Nat) (f : Strand → Strand) : (s.modStrand id st f).badPages = s.badPages := rfl
@[simp] theorem State.modStrand_skeins (id : SkId) (st : Nat) (f : Strand → Strand) : (s.modStrand id st f).skeins = Tab.modify s.skeins id (·.modStrand st f) := rfl
@[simp] theorem State.modStrand_groups (id : SkId) (st : Nat) (f : Strand → Strand) : (s.modStrand id st f).groups = s.groups := rfl
@[simp] theorem State.modStrand_cores (id : SkId) (st : Nat) (f : Strand → Strand) : (s.modStrand id st f).cores = s.cores := rfl
@[simp] theorem State.modStrand_scratch (id : SkId) (st : Nat) (f : Strand → Strand) : (s.modStrand id st f).scratch = s.scratch := rfl
@[simp] theorem State.modStrand_tiles (id : SkId) (st : Nat) (f : Strand → Strand) : (s.modStrand id st f).tiles = s.tiles := rfl
@[simp] theorem State.modStrand_caches (id : SkId) (st : Nat) (f : Strand → Strand) : (s.modStrand id st f).caches = s.caches := rfl
@[simp] theorem State.modStrand_homeWords (id : SkId) (st : Nat) (f : Strand → Strand) : (s.modStrand id st f).homeWords = s.homeWords := rfl
@[simp] theorem State.modStrand_homePend (id : SkId) (st : Nat) (f : Strand → Strand) : (s.modStrand id st f).homePend = s.homePend := rfl
@[simp] theorem State.modStrand_faults (id : SkId) (st : Nat) (f : Strand → Strand) : (s.modStrand id st f).faults = s.faults := rfl
@[simp] theorem State.modStrand_slices (id : SkId) (st : Nat) (f : Strand → Strand) : (s.modStrand id st f).slices = s.slices := rfl
@[simp] theorem State.modStrand_net (id : SkId) (st : Nat) (f : Strand → Strand) : (s.modStrand id st f).net = s.net := rfl
@[simp] theorem State.modStrand_memops (id : SkId) (st : Nat) (f : Strand → Strand) : (s.modStrand id st f).memops = s.memops := rfl
@[simp] theorem State.modStrand_ops (id : SkId) (st : Nat) (f : Strand → Strand) : (s.modStrand id st f).ops = s.ops := rfl
@[simp] theorem State.modStrand_past (id : SkId) (st : Nat) (f : Strand → Strand) : (s.modStrand id st f).past = s.past := rfl
@[simp] theorem State.modStrand_rendezvous (id : SkId) (st : Nat) (f : Strand → Strand) : (s.modStrand id st f).rendezvous = s.rendezvous := rfl
@[simp] theorem State.modStrand_jointSets (id : SkId) (st : Nat) (f : Strand → Strand) : (s.modStrand id st f).jointSets = s.jointSets := rfl
@[simp] theorem State.modStrand_exchanges (id : SkId) (st : Nat) (f : Strand → Strand) : (s.modStrand id st f).exchanges = s.exchanges := rfl
@[simp] theorem State.modStrand_work (id : SkId) (st : Nat) (f : Strand → Strand) : (s.modStrand id st f).work = s.work := rfl
@[simp] theorem State.modStrand_host (id : SkId) (st : Nat) (f : Strand → Strand) : (s.modStrand id st f).host = s.host := rfl
@[simp] theorem State.modStrand_fab (id : SkId) (st : Nat) (f : Strand → Strand) : (s.modStrand id st f).fab = s.fab := rfl
@[simp] theorem State.modStrand_dies (id : SkId) (st : Nat) (f : Strand → Strand) : (s.modStrand id st f).dies = s.dies := rfl
@[simp] theorem State.modStrand_pkg (id : SkId) (st : Nat) (f : Strand → Strand) : (s.modStrand id st f).pkg = s.pkg := rfl
@[simp] theorem State.modStrand_nextName (id : SkId) (st : Nat) (f : Strand → Strand) : (s.modStrand id st f).nextName = s.nextName := rfl
@[simp] theorem State.modStrand_nextPriv (id : SkId) (st : Nat) (f : Strand → Strand) : (s.modStrand id st f).nextPriv = s.nextPriv := rfl
@[simp] theorem State.modStrand_soft (id : SkId) (st : Nat) (f : Strand → Strand) : (s.modStrand id st f).soft = s.soft := rfl

/-! ### modGroup -/

@[simp] theorem State.modGroup_clock (g : Nat) (f : Group → Group) : (s.modGroup g f).clock = s.clock := rfl
@[simp] theorem State.modGroup_cur (g : Nat) (f : Group → Group) : (s.modGroup g f).cur = s.cur := rfl
@[simp] theorem State.modGroup_agenda (g : Nat) (f : Group → Group) : (s.modGroup g f).agenda = s.agenda := rfl
@[simp] theorem State.modGroup_freeCtr (g : Nat) (f : Group → Group) : (s.modGroup g f).freeCtr = s.freeCtr := rfl
@[simp] theorem State.modGroup_mem (g : Nat) (f : Group → Group) : (s.modGroup g f).mem = s.mem := rfl
@[simp] theorem State.modGroup_nextDfn (g : Nat) (f : Group → Group) : (s.modGroup g f).nextDfn = s.nextDfn := rfl
@[simp] theorem State.modGroup_verified (g : Nat) (f : Group → Group) : (s.modGroup g f).verified = s.verified := rfl
@[simp] theorem State.modGroup_badPages (g : Nat) (f : Group → Group) : (s.modGroup g f).badPages = s.badPages := rfl
@[simp] theorem State.modGroup_skeins (g : Nat) (f : Group → Group) : (s.modGroup g f).skeins = s.skeins := rfl
@[simp] theorem State.modGroup_groups (g : Nat) (f : Group → Group) : (s.modGroup g f).groups = Tab.modify s.groups g f := rfl
@[simp] theorem State.modGroup_cores (g : Nat) (f : Group → Group) : (s.modGroup g f).cores = s.cores := rfl
@[simp] theorem State.modGroup_scratch (g : Nat) (f : Group → Group) : (s.modGroup g f).scratch = s.scratch := rfl
@[simp] theorem State.modGroup_tiles (g : Nat) (f : Group → Group) : (s.modGroup g f).tiles = s.tiles := rfl
@[simp] theorem State.modGroup_caches (g : Nat) (f : Group → Group) : (s.modGroup g f).caches = s.caches := rfl
@[simp] theorem State.modGroup_homeWords (g : Nat) (f : Group → Group) : (s.modGroup g f).homeWords = s.homeWords := rfl
@[simp] theorem State.modGroup_homePend (g : Nat) (f : Group → Group) : (s.modGroup g f).homePend = s.homePend := rfl
@[simp] theorem State.modGroup_faults (g : Nat) (f : Group → Group) : (s.modGroup g f).faults = s.faults := rfl
@[simp] theorem State.modGroup_slices (g : Nat) (f : Group → Group) : (s.modGroup g f).slices = s.slices := rfl
@[simp] theorem State.modGroup_net (g : Nat) (f : Group → Group) : (s.modGroup g f).net = s.net := rfl
@[simp] theorem State.modGroup_memops (g : Nat) (f : Group → Group) : (s.modGroup g f).memops = s.memops := rfl
@[simp] theorem State.modGroup_ops (g : Nat) (f : Group → Group) : (s.modGroup g f).ops = s.ops := rfl
@[simp] theorem State.modGroup_past (g : Nat) (f : Group → Group) : (s.modGroup g f).past = s.past := rfl
@[simp] theorem State.modGroup_rendezvous (g : Nat) (f : Group → Group) : (s.modGroup g f).rendezvous = s.rendezvous := rfl
@[simp] theorem State.modGroup_jointSets (g : Nat) (f : Group → Group) : (s.modGroup g f).jointSets = s.jointSets := rfl
@[simp] theorem State.modGroup_exchanges (g : Nat) (f : Group → Group) : (s.modGroup g f).exchanges = s.exchanges := rfl
@[simp] theorem State.modGroup_work (g : Nat) (f : Group → Group) : (s.modGroup g f).work = s.work := rfl
@[simp] theorem State.modGroup_host (g : Nat) (f : Group → Group) : (s.modGroup g f).host = s.host := rfl
@[simp] theorem State.modGroup_fab (g : Nat) (f : Group → Group) : (s.modGroup g f).fab = s.fab := rfl
@[simp] theorem State.modGroup_dies (g : Nat) (f : Group → Group) : (s.modGroup g f).dies = s.dies := rfl
@[simp] theorem State.modGroup_pkg (g : Nat) (f : Group → Group) : (s.modGroup g f).pkg = s.pkg := rfl
@[simp] theorem State.modGroup_nextName (g : Nat) (f : Group → Group) : (s.modGroup g f).nextName = s.nextName := rfl
@[simp] theorem State.modGroup_nextPriv (g : Nat) (f : Group → Group) : (s.modGroup g f).nextPriv = s.nextPriv := rfl
@[simp] theorem State.modGroup_soft (g : Nat) (f : Group → Group) : (s.modGroup g f).soft = s.soft := rfl

/-! ### modCore -/

@[simp] theorem State.modCore_clock (c : Nat) (f : Core → Core) : (s.modCore c f).clock = s.clock := rfl
@[simp] theorem State.modCore_cur (c : Nat) (f : Core → Core) : (s.modCore c f).cur = s.cur := rfl
@[simp] theorem State.modCore_agenda (c : Nat) (f : Core → Core) : (s.modCore c f).agenda = s.agenda := rfl
@[simp] theorem State.modCore_freeCtr (c : Nat) (f : Core → Core) : (s.modCore c f).freeCtr = s.freeCtr := rfl
@[simp] theorem State.modCore_mem (c : Nat) (f : Core → Core) : (s.modCore c f).mem = s.mem := rfl
@[simp] theorem State.modCore_nextDfn (c : Nat) (f : Core → Core) : (s.modCore c f).nextDfn = s.nextDfn := rfl
@[simp] theorem State.modCore_verified (c : Nat) (f : Core → Core) : (s.modCore c f).verified = s.verified := rfl
@[simp] theorem State.modCore_badPages (c : Nat) (f : Core → Core) : (s.modCore c f).badPages = s.badPages := rfl
@[simp] theorem State.modCore_skeins (c : Nat) (f : Core → Core) : (s.modCore c f).skeins = s.skeins := rfl
@[simp] theorem State.modCore_groups (c : Nat) (f : Core → Core) : (s.modCore c f).groups = s.groups := rfl
@[simp] theorem State.modCore_cores (c : Nat) (f : Core → Core) : (s.modCore c f).cores = Tab.update s.cores c Core.empty f := rfl
@[simp] theorem State.modCore_scratch (c : Nat) (f : Core → Core) : (s.modCore c f).scratch = s.scratch := rfl
@[simp] theorem State.modCore_tiles (c : Nat) (f : Core → Core) : (s.modCore c f).tiles = s.tiles := rfl
@[simp] theorem State.modCore_caches (c : Nat) (f : Core → Core) : (s.modCore c f).caches = s.caches := rfl
@[simp] theorem State.modCore_homeWords (c : Nat) (f : Core → Core) : (s.modCore c f).homeWords = s.homeWords := rfl
@[simp] theorem State.modCore_homePend (c : Nat) (f : Core → Core) : (s.modCore c f).homePend = s.homePend := rfl
@[simp] theorem State.modCore_faults (c : Nat) (f : Core → Core) : (s.modCore c f).faults = s.faults := rfl
@[simp] theorem State.modCore_slices (c : Nat) (f : Core → Core) : (s.modCore c f).slices = s.slices := rfl
@[simp] theorem State.modCore_net (c : Nat) (f : Core → Core) : (s.modCore c f).net = s.net := rfl
@[simp] theorem State.modCore_memops (c : Nat) (f : Core → Core) : (s.modCore c f).memops = s.memops := rfl
@[simp] theorem State.modCore_ops (c : Nat) (f : Core → Core) : (s.modCore c f).ops = s.ops := rfl
@[simp] theorem State.modCore_past (c : Nat) (f : Core → Core) : (s.modCore c f).past = s.past := rfl
@[simp] theorem State.modCore_rendezvous (c : Nat) (f : Core → Core) : (s.modCore c f).rendezvous = s.rendezvous := rfl
@[simp] theorem State.modCore_jointSets (c : Nat) (f : Core → Core) : (s.modCore c f).jointSets = s.jointSets := rfl
@[simp] theorem State.modCore_exchanges (c : Nat) (f : Core → Core) : (s.modCore c f).exchanges = s.exchanges := rfl
@[simp] theorem State.modCore_work (c : Nat) (f : Core → Core) : (s.modCore c f).work = s.work := rfl
@[simp] theorem State.modCore_host (c : Nat) (f : Core → Core) : (s.modCore c f).host = s.host := rfl
@[simp] theorem State.modCore_fab (c : Nat) (f : Core → Core) : (s.modCore c f).fab = s.fab := rfl
@[simp] theorem State.modCore_dies (c : Nat) (f : Core → Core) : (s.modCore c f).dies = s.dies := rfl
@[simp] theorem State.modCore_pkg (c : Nat) (f : Core → Core) : (s.modCore c f).pkg = s.pkg := rfl
@[simp] theorem State.modCore_nextName (c : Nat) (f : Core → Core) : (s.modCore c f).nextName = s.nextName := rfl
@[simp] theorem State.modCore_nextPriv (c : Nat) (f : Core → Core) : (s.modCore c f).nextPriv = s.nextPriv := rfl
@[simp] theorem State.modCore_soft (c : Nat) (f : Core → Core) : (s.modCore c f).soft = s.soft := rfl

/-! ### modSlice -/

@[simp] theorem State.modSlice_clock (n : Nat) (f : Slice → Slice) : (s.modSlice n f).clock = s.clock := rfl
@[simp] theorem State.modSlice_cur (n : Nat) (f : Slice → Slice) : (s.modSlice n f).cur = s.cur := rfl
@[simp] theorem State.modSlice_agenda (n : Nat) (f : Slice → Slice) : (s.modSlice n f).agenda = s.agenda := rfl
@[simp] theorem State.modSlice_freeCtr (n : Nat) (f : Slice → Slice) : (s.modSlice n f).freeCtr = s.freeCtr := rfl
@[simp] theorem State.modSlice_mem (n : Nat) (f : Slice → Slice) : (s.modSlice n f).mem = s.mem := rfl
@[simp] theorem State.modSlice_nextDfn (n : Nat) (f : Slice → Slice) : (s.modSlice n f).nextDfn = s.nextDfn := rfl
@[simp] theorem State.modSlice_verified (n : Nat) (f : Slice → Slice) : (s.modSlice n f).verified = s.verified := rfl
@[simp] theorem State.modSlice_badPages (n : Nat) (f : Slice → Slice) : (s.modSlice n f).badPages = s.badPages := rfl
@[simp] theorem State.modSlice_skeins (n : Nat) (f : Slice → Slice) : (s.modSlice n f).skeins = s.skeins := rfl
@[simp] theorem State.modSlice_groups (n : Nat) (f : Slice → Slice) : (s.modSlice n f).groups = s.groups := rfl
@[simp] theorem State.modSlice_cores (n : Nat) (f : Slice → Slice) : (s.modSlice n f).cores = s.cores := rfl
@[simp] theorem State.modSlice_scratch (n : Nat) (f : Slice → Slice) : (s.modSlice n f).scratch = s.scratch := rfl
@[simp] theorem State.modSlice_tiles (n : Nat) (f : Slice → Slice) : (s.modSlice n f).tiles = s.tiles := rfl
@[simp] theorem State.modSlice_caches (n : Nat) (f : Slice → Slice) : (s.modSlice n f).caches = s.caches := rfl
@[simp] theorem State.modSlice_homeWords (n : Nat) (f : Slice → Slice) : (s.modSlice n f).homeWords = s.homeWords := rfl
@[simp] theorem State.modSlice_homePend (n : Nat) (f : Slice → Slice) : (s.modSlice n f).homePend = s.homePend := rfl
@[simp] theorem State.modSlice_faults (n : Nat) (f : Slice → Slice) : (s.modSlice n f).faults = s.faults := rfl
@[simp] theorem State.modSlice_slices (n : Nat) (f : Slice → Slice) : (s.modSlice n f).slices = Tab.update s.slices n Slice.empty f := rfl
@[simp] theorem State.modSlice_net (n : Nat) (f : Slice → Slice) : (s.modSlice n f).net = s.net := rfl
@[simp] theorem State.modSlice_memops (n : Nat) (f : Slice → Slice) : (s.modSlice n f).memops = s.memops := rfl
@[simp] theorem State.modSlice_ops (n : Nat) (f : Slice → Slice) : (s.modSlice n f).ops = s.ops := rfl
@[simp] theorem State.modSlice_past (n : Nat) (f : Slice → Slice) : (s.modSlice n f).past = s.past := rfl
@[simp] theorem State.modSlice_rendezvous (n : Nat) (f : Slice → Slice) : (s.modSlice n f).rendezvous = s.rendezvous := rfl
@[simp] theorem State.modSlice_jointSets (n : Nat) (f : Slice → Slice) : (s.modSlice n f).jointSets = s.jointSets := rfl
@[simp] theorem State.modSlice_exchanges (n : Nat) (f : Slice → Slice) : (s.modSlice n f).exchanges = s.exchanges := rfl
@[simp] theorem State.modSlice_work (n : Nat) (f : Slice → Slice) : (s.modSlice n f).work = s.work := rfl
@[simp] theorem State.modSlice_host (n : Nat) (f : Slice → Slice) : (s.modSlice n f).host = s.host := rfl
@[simp] theorem State.modSlice_fab (n : Nat) (f : Slice → Slice) : (s.modSlice n f).fab = s.fab := rfl
@[simp] theorem State.modSlice_dies (n : Nat) (f : Slice → Slice) : (s.modSlice n f).dies = s.dies := rfl
@[simp] theorem State.modSlice_pkg (n : Nat) (f : Slice → Slice) : (s.modSlice n f).pkg = s.pkg := rfl
@[simp] theorem State.modSlice_nextName (n : Nat) (f : Slice → Slice) : (s.modSlice n f).nextName = s.nextName := rfl
@[simp] theorem State.modSlice_nextPriv (n : Nat) (f : Slice → Slice) : (s.modSlice n f).nextPriv = s.nextPriv := rfl
@[simp] theorem State.modSlice_soft (n : Nat) (f : Slice → Slice) : (s.modSlice n f).soft = s.soft := rfl

/-! ### modDie -/

@[simp] theorem State.modDie_clock (d : Nat) (f : Die → Die) : (s.modDie d f).clock = s.clock := rfl
@[simp] theorem State.modDie_cur (d : Nat) (f : Die → Die) : (s.modDie d f).cur = s.cur := rfl
@[simp] theorem State.modDie_agenda (d : Nat) (f : Die → Die) : (s.modDie d f).agenda = s.agenda := rfl
@[simp] theorem State.modDie_freeCtr (d : Nat) (f : Die → Die) : (s.modDie d f).freeCtr = s.freeCtr := rfl
@[simp] theorem State.modDie_mem (d : Nat) (f : Die → Die) : (s.modDie d f).mem = s.mem := rfl
@[simp] theorem State.modDie_nextDfn (d : Nat) (f : Die → Die) : (s.modDie d f).nextDfn = s.nextDfn := rfl
@[simp] theorem State.modDie_verified (d : Nat) (f : Die → Die) : (s.modDie d f).verified = s.verified := rfl
@[simp] theorem State.modDie_badPages (d : Nat) (f : Die → Die) : (s.modDie d f).badPages = s.badPages := rfl
@[simp] theorem State.modDie_skeins (d : Nat) (f : Die → Die) : (s.modDie d f).skeins = s.skeins := rfl
@[simp] theorem State.modDie_groups (d : Nat) (f : Die → Die) : (s.modDie d f).groups = s.groups := rfl
@[simp] theorem State.modDie_cores (d : Nat) (f : Die → Die) : (s.modDie d f).cores = s.cores := rfl
@[simp] theorem State.modDie_scratch (d : Nat) (f : Die → Die) : (s.modDie d f).scratch = s.scratch := rfl
@[simp] theorem State.modDie_tiles (d : Nat) (f : Die → Die) : (s.modDie d f).tiles = s.tiles := rfl
@[simp] theorem State.modDie_caches (d : Nat) (f : Die → Die) : (s.modDie d f).caches = s.caches := rfl
@[simp] theorem State.modDie_homeWords (d : Nat) (f : Die → Die) : (s.modDie d f).homeWords = s.homeWords := rfl
@[simp] theorem State.modDie_homePend (d : Nat) (f : Die → Die) : (s.modDie d f).homePend = s.homePend := rfl
@[simp] theorem State.modDie_faults (d : Nat) (f : Die → Die) : (s.modDie d f).faults = s.faults := rfl
@[simp] theorem State.modDie_slices (d : Nat) (f : Die → Die) : (s.modDie d f).slices = s.slices := rfl
@[simp] theorem State.modDie_net (d : Nat) (f : Die → Die) : (s.modDie d f).net = s.net := rfl
@[simp] theorem State.modDie_memops (d : Nat) (f : Die → Die) : (s.modDie d f).memops = s.memops := rfl
@[simp] theorem State.modDie_ops (d : Nat) (f : Die → Die) : (s.modDie d f).ops = s.ops := rfl
@[simp] theorem State.modDie_past (d : Nat) (f : Die → Die) : (s.modDie d f).past = s.past := rfl
@[simp] theorem State.modDie_rendezvous (d : Nat) (f : Die → Die) : (s.modDie d f).rendezvous = s.rendezvous := rfl
@[simp] theorem State.modDie_jointSets (d : Nat) (f : Die → Die) : (s.modDie d f).jointSets = s.jointSets := rfl
@[simp] theorem State.modDie_exchanges (d : Nat) (f : Die → Die) : (s.modDie d f).exchanges = s.exchanges := rfl
@[simp] theorem State.modDie_work (d : Nat) (f : Die → Die) : (s.modDie d f).work = s.work := rfl
@[simp] theorem State.modDie_host (d : Nat) (f : Die → Die) : (s.modDie d f).host = s.host := rfl
@[simp] theorem State.modDie_fab (d : Nat) (f : Die → Die) : (s.modDie d f).fab = s.fab := rfl
@[simp] theorem State.modDie_dies (d : Nat) (f : Die → Die) : (s.modDie d f).dies = Tab.update s.dies d Die.empty f := rfl
@[simp] theorem State.modDie_pkg (d : Nat) (f : Die → Die) : (s.modDie d f).pkg = s.pkg := rfl
@[simp] theorem State.modDie_nextName (d : Nat) (f : Die → Die) : (s.modDie d f).nextName = s.nextName := rfl
@[simp] theorem State.modDie_nextPriv (d : Nat) (f : Die → Die) : (s.modDie d f).nextPriv = s.nextPriv := rfl
@[simp] theorem State.modDie_soft (d : Nat) (f : Die → Die) : (s.modDie d f).soft = s.soft := rfl

/-! ### modPort -/

@[simp] theorem State.modPort_clock (p : Nat) (f : Port → Port) : (s.modPort p f).clock = s.clock := rfl
@[simp] theorem State.modPort_cur (p : Nat) (f : Port → Port) : (s.modPort p f).cur = s.cur := rfl
@[simp] theorem State.modPort_agenda (p : Nat) (f : Port → Port) : (s.modPort p f).agenda = s.agenda := rfl
@[simp] theorem State.modPort_freeCtr (p : Nat) (f : Port → Port) : (s.modPort p f).freeCtr = s.freeCtr := rfl
@[simp] theorem State.modPort_mem (p : Nat) (f : Port → Port) : (s.modPort p f).mem = s.mem := rfl
@[simp] theorem State.modPort_nextDfn (p : Nat) (f : Port → Port) : (s.modPort p f).nextDfn = s.nextDfn := rfl
@[simp] theorem State.modPort_verified (p : Nat) (f : Port → Port) : (s.modPort p f).verified = s.verified := rfl
@[simp] theorem State.modPort_badPages (p : Nat) (f : Port → Port) : (s.modPort p f).badPages = s.badPages := rfl
@[simp] theorem State.modPort_skeins (p : Nat) (f : Port → Port) : (s.modPort p f).skeins = s.skeins := rfl
@[simp] theorem State.modPort_groups (p : Nat) (f : Port → Port) : (s.modPort p f).groups = s.groups := rfl
@[simp] theorem State.modPort_cores (p : Nat) (f : Port → Port) : (s.modPort p f).cores = s.cores := rfl
@[simp] theorem State.modPort_scratch (p : Nat) (f : Port → Port) : (s.modPort p f).scratch = s.scratch := rfl
@[simp] theorem State.modPort_tiles (p : Nat) (f : Port → Port) : (s.modPort p f).tiles = s.tiles := rfl
@[simp] theorem State.modPort_caches (p : Nat) (f : Port → Port) : (s.modPort p f).caches = s.caches := rfl
@[simp] theorem State.modPort_homeWords (p : Nat) (f : Port → Port) : (s.modPort p f).homeWords = s.homeWords := rfl
@[simp] theorem State.modPort_homePend (p : Nat) (f : Port → Port) : (s.modPort p f).homePend = s.homePend := rfl
@[simp] theorem State.modPort_faults (p : Nat) (f : Port → Port) : (s.modPort p f).faults = s.faults := rfl
@[simp] theorem State.modPort_slices (p : Nat) (f : Port → Port) : (s.modPort p f).slices = s.slices := rfl
@[simp] theorem State.modPort_net (p : Nat) (f : Port → Port) : (s.modPort p f).net = s.net := rfl
@[simp] theorem State.modPort_memops (p : Nat) (f : Port → Port) : (s.modPort p f).memops = s.memops := rfl
@[simp] theorem State.modPort_ops (p : Nat) (f : Port → Port) : (s.modPort p f).ops = s.ops := rfl
@[simp] theorem State.modPort_past (p : Nat) (f : Port → Port) : (s.modPort p f).past = s.past := rfl
@[simp] theorem State.modPort_rendezvous (p : Nat) (f : Port → Port) : (s.modPort p f).rendezvous = s.rendezvous := rfl
@[simp] theorem State.modPort_jointSets (p : Nat) (f : Port → Port) : (s.modPort p f).jointSets = s.jointSets := rfl
@[simp] theorem State.modPort_exchanges (p : Nat) (f : Port → Port) : (s.modPort p f).exchanges = s.exchanges := rfl
@[simp] theorem State.modPort_work (p : Nat) (f : Port → Port) : (s.modPort p f).work = s.work := rfl
@[simp] theorem State.modPort_host (p : Nat) (f : Port → Port) : (s.modPort p f).host = s.host := rfl
@[simp] theorem State.modPort_fab (p : Nat) (f : Port → Port) : (s.modPort p f).fab = { s.fab with ports := Tab.update s.fab.ports p Port.empty f } := rfl
@[simp] theorem State.modPort_dies (p : Nat) (f : Port → Port) : (s.modPort p f).dies = s.dies := rfl
@[simp] theorem State.modPort_pkg (p : Nat) (f : Port → Port) : (s.modPort p f).pkg = s.pkg := rfl
@[simp] theorem State.modPort_nextName (p : Nat) (f : Port → Port) : (s.modPort p f).nextName = s.nextName := rfl
@[simp] theorem State.modPort_nextPriv (p : Nat) (f : Port → Port) : (s.modPort p f).nextPriv = s.nextPriv := rfl
@[simp] theorem State.modPort_soft (p : Nat) (f : Port → Port) : (s.modPort p f).soft = s.soft := rfl

/-! ### modFab -/

@[simp] theorem State.modFab_clock (f : Fabric → Fabric) : (s.modFab f).clock = s.clock := rfl
@[simp] theorem State.modFab_cur (f : Fabric → Fabric) : (s.modFab f).cur = s.cur := rfl
@[simp] theorem State.modFab_agenda (f : Fabric → Fabric) : (s.modFab f).agenda = s.agenda := rfl
@[simp] theorem State.modFab_freeCtr (f : Fabric → Fabric) : (s.modFab f).freeCtr = s.freeCtr := rfl
@[simp] theorem State.modFab_mem (f : Fabric → Fabric) : (s.modFab f).mem = s.mem := rfl
@[simp] theorem State.modFab_nextDfn (f : Fabric → Fabric) : (s.modFab f).nextDfn = s.nextDfn := rfl
@[simp] theorem State.modFab_verified (f : Fabric → Fabric) : (s.modFab f).verified = s.verified := rfl
@[simp] theorem State.modFab_badPages (f : Fabric → Fabric) : (s.modFab f).badPages = s.badPages := rfl
@[simp] theorem State.modFab_skeins (f : Fabric → Fabric) : (s.modFab f).skeins = s.skeins := rfl
@[simp] theorem State.modFab_groups (f : Fabric → Fabric) : (s.modFab f).groups = s.groups := rfl
@[simp] theorem State.modFab_cores (f : Fabric → Fabric) : (s.modFab f).cores = s.cores := rfl
@[simp] theorem State.modFab_scratch (f : Fabric → Fabric) : (s.modFab f).scratch = s.scratch := rfl
@[simp] theorem State.modFab_tiles (f : Fabric → Fabric) : (s.modFab f).tiles = s.tiles := rfl
@[simp] theorem State.modFab_caches (f : Fabric → Fabric) : (s.modFab f).caches = s.caches := rfl
@[simp] theorem State.modFab_homeWords (f : Fabric → Fabric) : (s.modFab f).homeWords = s.homeWords := rfl
@[simp] theorem State.modFab_homePend (f : Fabric → Fabric) : (s.modFab f).homePend = s.homePend := rfl
@[simp] theorem State.modFab_faults (f : Fabric → Fabric) : (s.modFab f).faults = s.faults := rfl
@[simp] theorem State.modFab_slices (f : Fabric → Fabric) : (s.modFab f).slices = s.slices := rfl
@[simp] theorem State.modFab_net (f : Fabric → Fabric) : (s.modFab f).net = s.net := rfl
@[simp] theorem State.modFab_memops (f : Fabric → Fabric) : (s.modFab f).memops = s.memops := rfl
@[simp] theorem State.modFab_ops (f : Fabric → Fabric) : (s.modFab f).ops = s.ops := rfl
@[simp] theorem State.modFab_past (f : Fabric → Fabric) : (s.modFab f).past = s.past := rfl
@[simp] theorem State.modFab_rendezvous (f : Fabric → Fabric) : (s.modFab f).rendezvous = s.rendezvous := rfl
@[simp] theorem State.modFab_jointSets (f : Fabric → Fabric) : (s.modFab f).jointSets = s.jointSets := rfl
@[simp] theorem State.modFab_exchanges (f : Fabric → Fabric) : (s.modFab f).exchanges = s.exchanges := rfl
@[simp] theorem State.modFab_work (f : Fabric → Fabric) : (s.modFab f).work = s.work := rfl
@[simp] theorem State.modFab_host (f : Fabric → Fabric) : (s.modFab f).host = s.host := rfl
@[simp] theorem State.modFab_fab (f : Fabric → Fabric) : (s.modFab f).fab = f s.fab := rfl
@[simp] theorem State.modFab_dies (f : Fabric → Fabric) : (s.modFab f).dies = s.dies := rfl
@[simp] theorem State.modFab_pkg (f : Fabric → Fabric) : (s.modFab f).pkg = s.pkg := rfl
@[simp] theorem State.modFab_nextName (f : Fabric → Fabric) : (s.modFab f).nextName = s.nextName := rfl
@[simp] theorem State.modFab_nextPriv (f : Fabric → Fabric) : (s.modFab f).nextPriv = s.nextPriv := rfl
@[simp] theorem State.modFab_soft (f : Fabric → Fabric) : (s.modFab f).soft = s.soft := rfl

/-! ### modHost -/

@[simp] theorem State.modHost_clock (f : HostIf → HostIf) : (s.modHost f).clock = s.clock := rfl
@[simp] theorem State.modHost_cur (f : HostIf → HostIf) : (s.modHost f).cur = s.cur := rfl
@[simp] theorem State.modHost_agenda (f : HostIf → HostIf) : (s.modHost f).agenda = s.agenda := rfl
@[simp] theorem State.modHost_freeCtr (f : HostIf → HostIf) : (s.modHost f).freeCtr = s.freeCtr := rfl
@[simp] theorem State.modHost_mem (f : HostIf → HostIf) : (s.modHost f).mem = s.mem := rfl
@[simp] theorem State.modHost_nextDfn (f : HostIf → HostIf) : (s.modHost f).nextDfn = s.nextDfn := rfl
@[simp] theorem State.modHost_verified (f : HostIf → HostIf) : (s.modHost f).verified = s.verified := rfl
@[simp] theorem State.modHost_badPages (f : HostIf → HostIf) : (s.modHost f).badPages = s.badPages := rfl
@[simp] theorem State.modHost_skeins (f : HostIf → HostIf) : (s.modHost f).skeins = s.skeins := rfl
@[simp] theorem State.modHost_groups (f : HostIf → HostIf) : (s.modHost f).groups = s.groups := rfl
@[simp] theorem State.modHost_cores (f : HostIf → HostIf) : (s.modHost f).cores = s.cores := rfl
@[simp] theorem State.modHost_scratch (f : HostIf → HostIf) : (s.modHost f).scratch = s.scratch := rfl
@[simp] theorem State.modHost_tiles (f : HostIf → HostIf) : (s.modHost f).tiles = s.tiles := rfl
@[simp] theorem State.modHost_caches (f : HostIf → HostIf) : (s.modHost f).caches = s.caches := rfl
@[simp] theorem State.modHost_homeWords (f : HostIf → HostIf) : (s.modHost f).homeWords = s.homeWords := rfl
@[simp] theorem State.modHost_homePend (f : HostIf → HostIf) : (s.modHost f).homePend = s.homePend := rfl
@[simp] theorem State.modHost_faults (f : HostIf → HostIf) : (s.modHost f).faults = s.faults := rfl
@[simp] theorem State.modHost_slices (f : HostIf → HostIf) : (s.modHost f).slices = s.slices := rfl
@[simp] theorem State.modHost_net (f : HostIf → HostIf) : (s.modHost f).net = s.net := rfl
@[simp] theorem State.modHost_memops (f : HostIf → HostIf) : (s.modHost f).memops = s.memops := rfl
@[simp] theorem State.modHost_ops (f : HostIf → HostIf) : (s.modHost f).ops = s.ops := rfl
@[simp] theorem State.modHost_past (f : HostIf → HostIf) : (s.modHost f).past = s.past := rfl
@[simp] theorem State.modHost_rendezvous (f : HostIf → HostIf) : (s.modHost f).rendezvous = s.rendezvous := rfl
@[simp] theorem State.modHost_jointSets (f : HostIf → HostIf) : (s.modHost f).jointSets = s.jointSets := rfl
@[simp] theorem State.modHost_exchanges (f : HostIf → HostIf) : (s.modHost f).exchanges = s.exchanges := rfl
@[simp] theorem State.modHost_work (f : HostIf → HostIf) : (s.modHost f).work = s.work := rfl
@[simp] theorem State.modHost_host (f : HostIf → HostIf) : (s.modHost f).host = f s.host := rfl
@[simp] theorem State.modHost_fab (f : HostIf → HostIf) : (s.modHost f).fab = s.fab := rfl
@[simp] theorem State.modHost_dies (f : HostIf → HostIf) : (s.modHost f).dies = s.dies := rfl
@[simp] theorem State.modHost_pkg (f : HostIf → HostIf) : (s.modHost f).pkg = s.pkg := rfl
@[simp] theorem State.modHost_nextName (f : HostIf → HostIf) : (s.modHost f).nextName = s.nextName := rfl
@[simp] theorem State.modHost_nextPriv (f : HostIf → HostIf) : (s.modHost f).nextPriv = s.nextPriv := rfl
@[simp] theorem State.modHost_soft (f : HostIf → HostIf) : (s.modHost f).soft = s.soft := rfl

/-! ### send -/

@[simp] theorem State.send_clock (r : HostRec) : (s.send r).clock = s.clock := rfl
@[simp] theorem State.send_cur (r : HostRec) : (s.send r).cur = s.cur := rfl
@[simp] theorem State.send_agenda (r : HostRec) : (s.send r).agenda = s.agenda := rfl
@[simp] theorem State.send_freeCtr (r : HostRec) : (s.send r).freeCtr = s.freeCtr := rfl
@[simp] theorem State.send_mem (r : HostRec) : (s.send r).mem = s.mem := rfl
@[simp] theorem State.send_nextDfn (r : HostRec) : (s.send r).nextDfn = s.nextDfn := rfl
@[simp] theorem State.send_verified (r : HostRec) : (s.send r).verified = s.verified := rfl
@[simp] theorem State.send_badPages (r : HostRec) : (s.send r).badPages = s.badPages := rfl
@[simp] theorem State.send_skeins (r : HostRec) : (s.send r).skeins = s.skeins := rfl
@[simp] theorem State.send_groups (r : HostRec) : (s.send r).groups = s.groups := rfl
@[simp] theorem State.send_cores (r : HostRec) : (s.send r).cores = s.cores := rfl
@[simp] theorem State.send_scratch (r : HostRec) : (s.send r).scratch = s.scratch := rfl
@[simp] theorem State.send_tiles (r : HostRec) : (s.send r).tiles = s.tiles := rfl
@[simp] theorem State.send_caches (r : HostRec) : (s.send r).caches = s.caches := rfl
@[simp] theorem State.send_homeWords (r : HostRec) : (s.send r).homeWords = s.homeWords := rfl
@[simp] theorem State.send_homePend (r : HostRec) : (s.send r).homePend = s.homePend := rfl
@[simp] theorem State.send_faults (r : HostRec) : (s.send r).faults = s.faults := rfl
@[simp] theorem State.send_slices (r : HostRec) : (s.send r).slices = s.slices := rfl
@[simp] theorem State.send_net (r : HostRec) : (s.send r).net = s.net := rfl
@[simp] theorem State.send_memops (r : HostRec) : (s.send r).memops = s.memops := rfl
@[simp] theorem State.send_ops (r : HostRec) : (s.send r).ops = s.ops := rfl
@[simp] theorem State.send_past (r : HostRec) : (s.send r).past = s.past := rfl
@[simp] theorem State.send_rendezvous (r : HostRec) : (s.send r).rendezvous = s.rendezvous := rfl
@[simp] theorem State.send_jointSets (r : HostRec) : (s.send r).jointSets = s.jointSets := rfl
@[simp] theorem State.send_exchanges (r : HostRec) : (s.send r).exchanges = s.exchanges := rfl
@[simp] theorem State.send_work (r : HostRec) : (s.send r).work = s.work := rfl
@[simp] theorem State.send_host (r : HostRec) : (s.send r).host = { s.host with out := s.host.out ++ [r] } := rfl
@[simp] theorem State.send_fab (r : HostRec) : (s.send r).fab = s.fab := rfl
@[simp] theorem State.send_dies (r : HostRec) : (s.send r).dies = s.dies := rfl
@[simp] theorem State.send_pkg (r : HostRec) : (s.send r).pkg = s.pkg := rfl
@[simp] theorem State.send_nextName (r : HostRec) : (s.send r).nextName = s.nextName := rfl
@[simp] theorem State.send_nextPriv (r : HostRec) : (s.send r).nextPriv = s.nextPriv := rfl
@[simp] theorem State.send_soft (r : HostRec) : (s.send r).soft = s.soft := rfl

/-! ### modWork -/

@[simp] theorem State.modWork_clock (f : Work → Work) : (s.modWork f).clock = s.clock := rfl
@[simp] theorem State.modWork_cur (f : Work → Work) : (s.modWork f).cur = s.cur := rfl
@[simp] theorem State.modWork_agenda (f : Work → Work) : (s.modWork f).agenda = s.agenda := rfl
@[simp] theorem State.modWork_freeCtr (f : Work → Work) : (s.modWork f).freeCtr = s.freeCtr := rfl
@[simp] theorem State.modWork_mem (f : Work → Work) : (s.modWork f).mem = s.mem := rfl
@[simp] theorem State.modWork_nextDfn (f : Work → Work) : (s.modWork f).nextDfn = s.nextDfn := rfl
@[simp] theorem State.modWork_verified (f : Work → Work) : (s.modWork f).verified = s.verified := rfl
@[simp] theorem State.modWork_badPages (f : Work → Work) : (s.modWork f).badPages = s.badPages := rfl
@[simp] theorem State.modWork_skeins (f : Work → Work) : (s.modWork f).skeins = s.skeins := rfl
@[simp] theorem State.modWork_groups (f : Work → Work) : (s.modWork f).groups = s.groups := rfl
@[simp] theorem State.modWork_cores (f : Work → Work) : (s.modWork f).cores = s.cores := rfl
@[simp] theorem State.modWork_scratch (f : Work → Work) : (s.modWork f).scratch = s.scratch := rfl
@[simp] theorem State.modWork_tiles (f : Work → Work) : (s.modWork f).tiles = s.tiles := rfl
@[simp] theorem State.modWork_caches (f : Work → Work) : (s.modWork f).caches = s.caches := rfl
@[simp] theorem State.modWork_homeWords (f : Work → Work) : (s.modWork f).homeWords = s.homeWords := rfl
@[simp] theorem State.modWork_homePend (f : Work → Work) : (s.modWork f).homePend = s.homePend := rfl
@[simp] theorem State.modWork_faults (f : Work → Work) : (s.modWork f).faults = s.faults := rfl
@[simp] theorem State.modWork_slices (f : Work → Work) : (s.modWork f).slices = s.slices := rfl
@[simp] theorem State.modWork_net (f : Work → Work) : (s.modWork f).net = s.net := rfl
@[simp] theorem State.modWork_memops (f : Work → Work) : (s.modWork f).memops = s.memops := rfl
@[simp] theorem State.modWork_ops (f : Work → Work) : (s.modWork f).ops = s.ops := rfl
@[simp] theorem State.modWork_past (f : Work → Work) : (s.modWork f).past = s.past := rfl
@[simp] theorem State.modWork_rendezvous (f : Work → Work) : (s.modWork f).rendezvous = s.rendezvous := rfl
@[simp] theorem State.modWork_jointSets (f : Work → Work) : (s.modWork f).jointSets = s.jointSets := rfl
@[simp] theorem State.modWork_exchanges (f : Work → Work) : (s.modWork f).exchanges = s.exchanges := rfl
@[simp] theorem State.modWork_work (f : Work → Work) : (s.modWork f).work = f s.work := rfl
@[simp] theorem State.modWork_host (f : Work → Work) : (s.modWork f).host = s.host := rfl
@[simp] theorem State.modWork_fab (f : Work → Work) : (s.modWork f).fab = s.fab := rfl
@[simp] theorem State.modWork_dies (f : Work → Work) : (s.modWork f).dies = s.dies := rfl
@[simp] theorem State.modWork_pkg (f : Work → Work) : (s.modWork f).pkg = s.pkg := rfl
@[simp] theorem State.modWork_nextName (f : Work → Work) : (s.modWork f).nextName = s.nextName := rfl
@[simp] theorem State.modWork_nextPriv (f : Work → Work) : (s.modWork f).nextPriv = s.nextPriv := rfl
@[simp] theorem State.modWork_soft (f : Work → Work) : (s.modWork f).soft = s.soft := rfl

/-! ### modJob -/

@[simp] theorem State.modJob_clock (j : Nat) (f : Job → Job) : (s.modJob j f).clock = s.clock := rfl
@[simp] theorem State.modJob_cur (j : Nat) (f : Job → Job) : (s.modJob j f).cur = s.cur := rfl
@[simp] theorem State.modJob_agenda (j : Nat) (f : Job → Job) : (s.modJob j f).agenda = s.agenda := rfl
@[simp] theorem State.modJob_freeCtr (j : Nat) (f : Job → Job) : (s.modJob j f).freeCtr = s.freeCtr := rfl
@[simp] theorem State.modJob_mem (j : Nat) (f : Job → Job) : (s.modJob j f).mem = s.mem := rfl
@[simp] theorem State.modJob_nextDfn (j : Nat) (f : Job → Job) : (s.modJob j f).nextDfn = s.nextDfn := rfl
@[simp] theorem State.modJob_verified (j : Nat) (f : Job → Job) : (s.modJob j f).verified = s.verified := rfl
@[simp] theorem State.modJob_badPages (j : Nat) (f : Job → Job) : (s.modJob j f).badPages = s.badPages := rfl
@[simp] theorem State.modJob_skeins (j : Nat) (f : Job → Job) : (s.modJob j f).skeins = s.skeins := rfl
@[simp] theorem State.modJob_groups (j : Nat) (f : Job → Job) : (s.modJob j f).groups = s.groups := rfl
@[simp] theorem State.modJob_cores (j : Nat) (f : Job → Job) : (s.modJob j f).cores = s.cores := rfl
@[simp] theorem State.modJob_scratch (j : Nat) (f : Job → Job) : (s.modJob j f).scratch = s.scratch := rfl
@[simp] theorem State.modJob_tiles (j : Nat) (f : Job → Job) : (s.modJob j f).tiles = s.tiles := rfl
@[simp] theorem State.modJob_caches (j : Nat) (f : Job → Job) : (s.modJob j f).caches = s.caches := rfl
@[simp] theorem State.modJob_homeWords (j : Nat) (f : Job → Job) : (s.modJob j f).homeWords = s.homeWords := rfl
@[simp] theorem State.modJob_homePend (j : Nat) (f : Job → Job) : (s.modJob j f).homePend = s.homePend := rfl
@[simp] theorem State.modJob_faults (j : Nat) (f : Job → Job) : (s.modJob j f).faults = s.faults := rfl
@[simp] theorem State.modJob_slices (j : Nat) (f : Job → Job) : (s.modJob j f).slices = s.slices := rfl
@[simp] theorem State.modJob_net (j : Nat) (f : Job → Job) : (s.modJob j f).net = s.net := rfl
@[simp] theorem State.modJob_memops (j : Nat) (f : Job → Job) : (s.modJob j f).memops = s.memops := rfl
@[simp] theorem State.modJob_ops (j : Nat) (f : Job → Job) : (s.modJob j f).ops = s.ops := rfl
@[simp] theorem State.modJob_past (j : Nat) (f : Job → Job) : (s.modJob j f).past = s.past := rfl
@[simp] theorem State.modJob_rendezvous (j : Nat) (f : Job → Job) : (s.modJob j f).rendezvous = s.rendezvous := rfl
@[simp] theorem State.modJob_jointSets (j : Nat) (f : Job → Job) : (s.modJob j f).jointSets = s.jointSets := rfl
@[simp] theorem State.modJob_exchanges (j : Nat) (f : Job → Job) : (s.modJob j f).exchanges = s.exchanges := rfl
@[simp] theorem State.modJob_work (j : Nat) (f : Job → Job) : (s.modJob j f).work = { s.work with jobs := s.work.jobs.map fun x => if x.id == j then f x else x } := rfl
@[simp] theorem State.modJob_host (j : Nat) (f : Job → Job) : (s.modJob j f).host = s.host := rfl
@[simp] theorem State.modJob_fab (j : Nat) (f : Job → Job) : (s.modJob j f).fab = s.fab := rfl
@[simp] theorem State.modJob_dies (j : Nat) (f : Job → Job) : (s.modJob j f).dies = s.dies := rfl
@[simp] theorem State.modJob_pkg (j : Nat) (f : Job → Job) : (s.modJob j f).pkg = s.pkg := rfl
@[simp] theorem State.modJob_nextName (j : Nat) (f : Job → Job) : (s.modJob j f).nextName = s.nextName := rfl
@[simp] theorem State.modJob_nextPriv (j : Nat) (f : Job → Job) : (s.modJob j f).nextPriv = s.nextPriv := rfl
@[simp] theorem State.modJob_soft (j : Nat) (f : Job → Job) : (s.modJob j f).soft = s.soft := rfl

/-! ### modLaunch -/

@[simp] theorem State.modLaunch_clock (l : LaunchId) (f : Launch → Launch) : (s.modLaunch l f).clock = s.clock := rfl
@[simp] theorem State.modLaunch_cur (l : LaunchId) (f : Launch → Launch) : (s.modLaunch l f).cur = s.cur := rfl
@[simp] theorem State.modLaunch_agenda (l : LaunchId) (f : Launch → Launch) : (s.modLaunch l f).agenda = s.agenda := rfl
@[simp] theorem State.modLaunch_freeCtr (l : LaunchId) (f : Launch → Launch) : (s.modLaunch l f).freeCtr = s.freeCtr := rfl
@[simp] theorem State.modLaunch_mem (l : LaunchId) (f : Launch → Launch) : (s.modLaunch l f).mem = s.mem := rfl
@[simp] theorem State.modLaunch_nextDfn (l : LaunchId) (f : Launch → Launch) : (s.modLaunch l f).nextDfn = s.nextDfn := rfl
@[simp] theorem State.modLaunch_verified (l : LaunchId) (f : Launch → Launch) : (s.modLaunch l f).verified = s.verified := rfl
@[simp] theorem State.modLaunch_badPages (l : LaunchId) (f : Launch → Launch) : (s.modLaunch l f).badPages = s.badPages := rfl
@[simp] theorem State.modLaunch_skeins (l : LaunchId) (f : Launch → Launch) : (s.modLaunch l f).skeins = s.skeins := rfl
@[simp] theorem State.modLaunch_groups (l : LaunchId) (f : Launch → Launch) : (s.modLaunch l f).groups = s.groups := rfl
@[simp] theorem State.modLaunch_cores (l : LaunchId) (f : Launch → Launch) : (s.modLaunch l f).cores = s.cores := rfl
@[simp] theorem State.modLaunch_scratch (l : LaunchId) (f : Launch → Launch) : (s.modLaunch l f).scratch = s.scratch := rfl
@[simp] theorem State.modLaunch_tiles (l : LaunchId) (f : Launch → Launch) : (s.modLaunch l f).tiles = s.tiles := rfl
@[simp] theorem State.modLaunch_caches (l : LaunchId) (f : Launch → Launch) : (s.modLaunch l f).caches = s.caches := rfl
@[simp] theorem State.modLaunch_homeWords (l : LaunchId) (f : Launch → Launch) : (s.modLaunch l f).homeWords = s.homeWords := rfl
@[simp] theorem State.modLaunch_homePend (l : LaunchId) (f : Launch → Launch) : (s.modLaunch l f).homePend = s.homePend := rfl
@[simp] theorem State.modLaunch_faults (l : LaunchId) (f : Launch → Launch) : (s.modLaunch l f).faults = s.faults := rfl
@[simp] theorem State.modLaunch_slices (l : LaunchId) (f : Launch → Launch) : (s.modLaunch l f).slices = s.slices := rfl
@[simp] theorem State.modLaunch_net (l : LaunchId) (f : Launch → Launch) : (s.modLaunch l f).net = s.net := rfl
@[simp] theorem State.modLaunch_memops (l : LaunchId) (f : Launch → Launch) : (s.modLaunch l f).memops = s.memops := rfl
@[simp] theorem State.modLaunch_ops (l : LaunchId) (f : Launch → Launch) : (s.modLaunch l f).ops = s.ops := rfl
@[simp] theorem State.modLaunch_past (l : LaunchId) (f : Launch → Launch) : (s.modLaunch l f).past = s.past := rfl
@[simp] theorem State.modLaunch_rendezvous (l : LaunchId) (f : Launch → Launch) : (s.modLaunch l f).rendezvous = s.rendezvous := rfl
@[simp] theorem State.modLaunch_jointSets (l : LaunchId) (f : Launch → Launch) : (s.modLaunch l f).jointSets = s.jointSets := rfl
@[simp] theorem State.modLaunch_exchanges (l : LaunchId) (f : Launch → Launch) : (s.modLaunch l f).exchanges = s.exchanges := rfl
@[simp] theorem State.modLaunch_work (l : LaunchId) (f : Launch → Launch) : (s.modLaunch l f).work = { s.work with launches := s.work.launches.map fun x => if x.lid == l then f x else x } := rfl
@[simp] theorem State.modLaunch_host (l : LaunchId) (f : Launch → Launch) : (s.modLaunch l f).host = s.host := rfl
@[simp] theorem State.modLaunch_fab (l : LaunchId) (f : Launch → Launch) : (s.modLaunch l f).fab = s.fab := rfl
@[simp] theorem State.modLaunch_dies (l : LaunchId) (f : Launch → Launch) : (s.modLaunch l f).dies = s.dies := rfl
@[simp] theorem State.modLaunch_pkg (l : LaunchId) (f : Launch → Launch) : (s.modLaunch l f).pkg = s.pkg := rfl
@[simp] theorem State.modLaunch_nextName (l : LaunchId) (f : Launch → Launch) : (s.modLaunch l f).nextName = s.nextName := rfl
@[simp] theorem State.modLaunch_nextPriv (l : LaunchId) (f : Launch → Launch) : (s.modLaunch l f).nextPriv = s.nextPriv := rfl
@[simp] theorem State.modLaunch_soft (l : LaunchId) (f : Launch → Launch) : (s.modLaunch l f).soft = s.soft := rfl

/-! ### modGraph -/

@[simp] theorem State.modGraph_clock (j g : Nat) (f : Graph → Graph) : (s.modGraph j g f).clock = s.clock := rfl
@[simp] theorem State.modGraph_cur (j g : Nat) (f : Graph → Graph) : (s.modGraph j g f).cur = s.cur := rfl
@[simp] theorem State.modGraph_agenda (j g : Nat) (f : Graph → Graph) : (s.modGraph j g f).agenda = s.agenda := rfl
@[simp] theorem State.modGraph_freeCtr (j g : Nat) (f : Graph → Graph) : (s.modGraph j g f).freeCtr = s.freeCtr := rfl
@[simp] theorem State.modGraph_mem (j g : Nat) (f : Graph → Graph) : (s.modGraph j g f).mem = s.mem := rfl
@[simp] theorem State.modGraph_nextDfn (j g : Nat) (f : Graph → Graph) : (s.modGraph j g f).nextDfn = s.nextDfn := rfl
@[simp] theorem State.modGraph_verified (j g : Nat) (f : Graph → Graph) : (s.modGraph j g f).verified = s.verified := rfl
@[simp] theorem State.modGraph_badPages (j g : Nat) (f : Graph → Graph) : (s.modGraph j g f).badPages = s.badPages := rfl
@[simp] theorem State.modGraph_skeins (j g : Nat) (f : Graph → Graph) : (s.modGraph j g f).skeins = s.skeins := rfl
@[simp] theorem State.modGraph_groups (j g : Nat) (f : Graph → Graph) : (s.modGraph j g f).groups = s.groups := rfl
@[simp] theorem State.modGraph_cores (j g : Nat) (f : Graph → Graph) : (s.modGraph j g f).cores = s.cores := rfl
@[simp] theorem State.modGraph_scratch (j g : Nat) (f : Graph → Graph) : (s.modGraph j g f).scratch = s.scratch := rfl
@[simp] theorem State.modGraph_tiles (j g : Nat) (f : Graph → Graph) : (s.modGraph j g f).tiles = s.tiles := rfl
@[simp] theorem State.modGraph_caches (j g : Nat) (f : Graph → Graph) : (s.modGraph j g f).caches = s.caches := rfl
@[simp] theorem State.modGraph_homeWords (j g : Nat) (f : Graph → Graph) : (s.modGraph j g f).homeWords = s.homeWords := rfl
@[simp] theorem State.modGraph_homePend (j g : Nat) (f : Graph → Graph) : (s.modGraph j g f).homePend = s.homePend := rfl
@[simp] theorem State.modGraph_faults (j g : Nat) (f : Graph → Graph) : (s.modGraph j g f).faults = s.faults := rfl
@[simp] theorem State.modGraph_slices (j g : Nat) (f : Graph → Graph) : (s.modGraph j g f).slices = s.slices := rfl
@[simp] theorem State.modGraph_net (j g : Nat) (f : Graph → Graph) : (s.modGraph j g f).net = s.net := rfl
@[simp] theorem State.modGraph_memops (j g : Nat) (f : Graph → Graph) : (s.modGraph j g f).memops = s.memops := rfl
@[simp] theorem State.modGraph_ops (j g : Nat) (f : Graph → Graph) : (s.modGraph j g f).ops = s.ops := rfl
@[simp] theorem State.modGraph_past (j g : Nat) (f : Graph → Graph) : (s.modGraph j g f).past = s.past := rfl
@[simp] theorem State.modGraph_rendezvous (j g : Nat) (f : Graph → Graph) : (s.modGraph j g f).rendezvous = s.rendezvous := rfl
@[simp] theorem State.modGraph_jointSets (j g : Nat) (f : Graph → Graph) : (s.modGraph j g f).jointSets = s.jointSets := rfl
@[simp] theorem State.modGraph_exchanges (j g : Nat) (f : Graph → Graph) : (s.modGraph j g f).exchanges = s.exchanges := rfl
@[simp] theorem State.modGraph_work (j g : Nat) (f : Graph → Graph) : (s.modGraph j g f).work = { s.work with graphs := s.work.graphs.map fun x => if x.job == j && x.id == g then f x else x } := rfl
@[simp] theorem State.modGraph_host (j g : Nat) (f : Graph → Graph) : (s.modGraph j g f).host = s.host := rfl
@[simp] theorem State.modGraph_fab (j g : Nat) (f : Graph → Graph) : (s.modGraph j g f).fab = s.fab := rfl
@[simp] theorem State.modGraph_dies (j g : Nat) (f : Graph → Graph) : (s.modGraph j g f).dies = s.dies := rfl
@[simp] theorem State.modGraph_pkg (j g : Nat) (f : Graph → Graph) : (s.modGraph j g f).pkg = s.pkg := rfl
@[simp] theorem State.modGraph_nextName (j g : Nat) (f : Graph → Graph) : (s.modGraph j g f).nextName = s.nextName := rfl
@[simp] theorem State.modGraph_nextPriv (j g : Nat) (f : Graph → Graph) : (s.modGraph j g f).nextPriv = s.nextPriv := rfl
@[simp] theorem State.modGraph_soft (j g : Nat) (f : Graph → Graph) : (s.modGraph j g f).soft = s.soft := rfl

/-! ### modPhase -/

@[simp] theorem State.modPhase_clock (j p : Nat) (f : Phase → Phase) : (s.modPhase j p f).clock = s.clock := rfl
@[simp] theorem State.modPhase_cur (j p : Nat) (f : Phase → Phase) : (s.modPhase j p f).cur = s.cur := rfl
@[simp] theorem State.modPhase_agenda (j p : Nat) (f : Phase → Phase) : (s.modPhase j p f).agenda = s.agenda := rfl
@[simp] theorem State.modPhase_freeCtr (j p : Nat) (f : Phase → Phase) : (s.modPhase j p f).freeCtr = s.freeCtr := rfl
@[simp] theorem State.modPhase_mem (j p : Nat) (f : Phase → Phase) : (s.modPhase j p f).mem = s.mem := rfl
@[simp] theorem State.modPhase_nextDfn (j p : Nat) (f : Phase → Phase) : (s.modPhase j p f).nextDfn = s.nextDfn := rfl
@[simp] theorem State.modPhase_verified (j p : Nat) (f : Phase → Phase) : (s.modPhase j p f).verified = s.verified := rfl
@[simp] theorem State.modPhase_badPages (j p : Nat) (f : Phase → Phase) : (s.modPhase j p f).badPages = s.badPages := rfl
@[simp] theorem State.modPhase_skeins (j p : Nat) (f : Phase → Phase) : (s.modPhase j p f).skeins = s.skeins := rfl
@[simp] theorem State.modPhase_groups (j p : Nat) (f : Phase → Phase) : (s.modPhase j p f).groups = s.groups := rfl
@[simp] theorem State.modPhase_cores (j p : Nat) (f : Phase → Phase) : (s.modPhase j p f).cores = s.cores := rfl
@[simp] theorem State.modPhase_scratch (j p : Nat) (f : Phase → Phase) : (s.modPhase j p f).scratch = s.scratch := rfl
@[simp] theorem State.modPhase_tiles (j p : Nat) (f : Phase → Phase) : (s.modPhase j p f).tiles = s.tiles := rfl
@[simp] theorem State.modPhase_caches (j p : Nat) (f : Phase → Phase) : (s.modPhase j p f).caches = s.caches := rfl
@[simp] theorem State.modPhase_homeWords (j p : Nat) (f : Phase → Phase) : (s.modPhase j p f).homeWords = s.homeWords := rfl
@[simp] theorem State.modPhase_homePend (j p : Nat) (f : Phase → Phase) : (s.modPhase j p f).homePend = s.homePend := rfl
@[simp] theorem State.modPhase_faults (j p : Nat) (f : Phase → Phase) : (s.modPhase j p f).faults = s.faults := rfl
@[simp] theorem State.modPhase_slices (j p : Nat) (f : Phase → Phase) : (s.modPhase j p f).slices = s.slices := rfl
@[simp] theorem State.modPhase_net (j p : Nat) (f : Phase → Phase) : (s.modPhase j p f).net = s.net := rfl
@[simp] theorem State.modPhase_memops (j p : Nat) (f : Phase → Phase) : (s.modPhase j p f).memops = s.memops := rfl
@[simp] theorem State.modPhase_ops (j p : Nat) (f : Phase → Phase) : (s.modPhase j p f).ops = s.ops := rfl
@[simp] theorem State.modPhase_past (j p : Nat) (f : Phase → Phase) : (s.modPhase j p f).past = s.past := rfl
@[simp] theorem State.modPhase_rendezvous (j p : Nat) (f : Phase → Phase) : (s.modPhase j p f).rendezvous = s.rendezvous := rfl
@[simp] theorem State.modPhase_jointSets (j p : Nat) (f : Phase → Phase) : (s.modPhase j p f).jointSets = s.jointSets := rfl
@[simp] theorem State.modPhase_exchanges (j p : Nat) (f : Phase → Phase) : (s.modPhase j p f).exchanges = s.exchanges := rfl
@[simp] theorem State.modPhase_work (j p : Nat) (f : Phase → Phase) : (s.modPhase j p f).work = { s.work with phases := s.work.phases.map fun x => if x.job == j && x.id == p then f x else x } := rfl
@[simp] theorem State.modPhase_host (j p : Nat) (f : Phase → Phase) : (s.modPhase j p f).host = s.host := rfl
@[simp] theorem State.modPhase_fab (j p : Nat) (f : Phase → Phase) : (s.modPhase j p f).fab = s.fab := rfl
@[simp] theorem State.modPhase_dies (j p : Nat) (f : Phase → Phase) : (s.modPhase j p f).dies = s.dies := rfl
@[simp] theorem State.modPhase_pkg (j p : Nat) (f : Phase → Phase) : (s.modPhase j p f).pkg = s.pkg := rfl
@[simp] theorem State.modPhase_nextName (j p : Nat) (f : Phase → Phase) : (s.modPhase j p f).nextName = s.nextName := rfl
@[simp] theorem State.modPhase_nextPriv (j p : Nat) (f : Phase → Phase) : (s.modPhase j p f).nextPriv = s.nextPriv := rfl
@[simp] theorem State.modPhase_soft (j p : Nat) (f : Phase → Phase) : (s.modPhase j p f).soft = s.soft := rfl

/-! ### modOp -/

@[simp] theorem State.modOp_clock (o : Nat) (f : EngOp → EngOp) : (s.modOp o f).clock = s.clock := rfl
@[simp] theorem State.modOp_cur (o : Nat) (f : EngOp → EngOp) : (s.modOp o f).cur = s.cur := rfl
@[simp] theorem State.modOp_agenda (o : Nat) (f : EngOp → EngOp) : (s.modOp o f).agenda = s.agenda := rfl
@[simp] theorem State.modOp_freeCtr (o : Nat) (f : EngOp → EngOp) : (s.modOp o f).freeCtr = s.freeCtr := rfl
@[simp] theorem State.modOp_mem (o : Nat) (f : EngOp → EngOp) : (s.modOp o f).mem = s.mem := rfl
@[simp] theorem State.modOp_nextDfn (o : Nat) (f : EngOp → EngOp) : (s.modOp o f).nextDfn = s.nextDfn := rfl
@[simp] theorem State.modOp_verified (o : Nat) (f : EngOp → EngOp) : (s.modOp o f).verified = s.verified := rfl
@[simp] theorem State.modOp_badPages (o : Nat) (f : EngOp → EngOp) : (s.modOp o f).badPages = s.badPages := rfl
@[simp] theorem State.modOp_skeins (o : Nat) (f : EngOp → EngOp) : (s.modOp o f).skeins = s.skeins := rfl
@[simp] theorem State.modOp_groups (o : Nat) (f : EngOp → EngOp) : (s.modOp o f).groups = s.groups := rfl
@[simp] theorem State.modOp_cores (o : Nat) (f : EngOp → EngOp) : (s.modOp o f).cores = s.cores := rfl
@[simp] theorem State.modOp_scratch (o : Nat) (f : EngOp → EngOp) : (s.modOp o f).scratch = s.scratch := rfl
@[simp] theorem State.modOp_tiles (o : Nat) (f : EngOp → EngOp) : (s.modOp o f).tiles = s.tiles := rfl
@[simp] theorem State.modOp_caches (o : Nat) (f : EngOp → EngOp) : (s.modOp o f).caches = s.caches := rfl
@[simp] theorem State.modOp_homeWords (o : Nat) (f : EngOp → EngOp) : (s.modOp o f).homeWords = s.homeWords := rfl
@[simp] theorem State.modOp_homePend (o : Nat) (f : EngOp → EngOp) : (s.modOp o f).homePend = s.homePend := rfl
@[simp] theorem State.modOp_faults (o : Nat) (f : EngOp → EngOp) : (s.modOp o f).faults = s.faults := rfl
@[simp] theorem State.modOp_slices (o : Nat) (f : EngOp → EngOp) : (s.modOp o f).slices = s.slices := rfl
@[simp] theorem State.modOp_net (o : Nat) (f : EngOp → EngOp) : (s.modOp o f).net = s.net := rfl
@[simp] theorem State.modOp_memops (o : Nat) (f : EngOp → EngOp) : (s.modOp o f).memops = s.memops := rfl
@[simp] theorem State.modOp_ops (o : Nat) (f : EngOp → EngOp) : (s.modOp o f).ops = s.ops.map fun x => if x.id == o then f x else x := rfl
@[simp] theorem State.modOp_past (o : Nat) (f : EngOp → EngOp) : (s.modOp o f).past = s.past := rfl
@[simp] theorem State.modOp_rendezvous (o : Nat) (f : EngOp → EngOp) : (s.modOp o f).rendezvous = s.rendezvous := rfl
@[simp] theorem State.modOp_jointSets (o : Nat) (f : EngOp → EngOp) : (s.modOp o f).jointSets = s.jointSets := rfl
@[simp] theorem State.modOp_exchanges (o : Nat) (f : EngOp → EngOp) : (s.modOp o f).exchanges = s.exchanges := rfl
@[simp] theorem State.modOp_work (o : Nat) (f : EngOp → EngOp) : (s.modOp o f).work = s.work := rfl
@[simp] theorem State.modOp_host (o : Nat) (f : EngOp → EngOp) : (s.modOp o f).host = s.host := rfl
@[simp] theorem State.modOp_fab (o : Nat) (f : EngOp → EngOp) : (s.modOp o f).fab = s.fab := rfl
@[simp] theorem State.modOp_dies (o : Nat) (f : EngOp → EngOp) : (s.modOp o f).dies = s.dies := rfl
@[simp] theorem State.modOp_pkg (o : Nat) (f : EngOp → EngOp) : (s.modOp o f).pkg = s.pkg := rfl
@[simp] theorem State.modOp_nextName (o : Nat) (f : EngOp → EngOp) : (s.modOp o f).nextName = s.nextName := rfl
@[simp] theorem State.modOp_nextPriv (o : Nat) (f : EngOp → EngOp) : (s.modOp o f).nextPriv = s.nextPriv := rfl
@[simp] theorem State.modOp_soft (o : Nat) (f : EngOp → EngOp) : (s.modOp o f).soft = s.soft := rfl

/-! ### dropOp -/

@[simp] theorem State.dropOp_clock (o : Nat) : (s.dropOp o).clock = s.clock := rfl
@[simp] theorem State.dropOp_cur (o : Nat) : (s.dropOp o).cur = s.cur := rfl
@[simp] theorem State.dropOp_agenda (o : Nat) : (s.dropOp o).agenda = s.agenda := rfl
@[simp] theorem State.dropOp_freeCtr (o : Nat) : (s.dropOp o).freeCtr = s.freeCtr := rfl
@[simp] theorem State.dropOp_mem (o : Nat) : (s.dropOp o).mem = s.mem := rfl
@[simp] theorem State.dropOp_nextDfn (o : Nat) : (s.dropOp o).nextDfn = s.nextDfn := rfl
@[simp] theorem State.dropOp_verified (o : Nat) : (s.dropOp o).verified = s.verified := rfl
@[simp] theorem State.dropOp_badPages (o : Nat) : (s.dropOp o).badPages = s.badPages := rfl
@[simp] theorem State.dropOp_skeins (o : Nat) : (s.dropOp o).skeins = s.skeins := rfl
@[simp] theorem State.dropOp_groups (o : Nat) : (s.dropOp o).groups = s.groups := rfl
@[simp] theorem State.dropOp_cores (o : Nat) : (s.dropOp o).cores = s.cores := rfl
@[simp] theorem State.dropOp_scratch (o : Nat) : (s.dropOp o).scratch = s.scratch := rfl
@[simp] theorem State.dropOp_tiles (o : Nat) : (s.dropOp o).tiles = s.tiles := rfl
@[simp] theorem State.dropOp_caches (o : Nat) : (s.dropOp o).caches = s.caches := rfl
@[simp] theorem State.dropOp_homeWords (o : Nat) : (s.dropOp o).homeWords = s.homeWords := rfl
@[simp] theorem State.dropOp_homePend (o : Nat) : (s.dropOp o).homePend = s.homePend := rfl
@[simp] theorem State.dropOp_faults (o : Nat) : (s.dropOp o).faults = s.faults := rfl
@[simp] theorem State.dropOp_slices (o : Nat) : (s.dropOp o).slices = s.slices := rfl
@[simp] theorem State.dropOp_net (o : Nat) : (s.dropOp o).net = s.net := rfl
@[simp] theorem State.dropOp_memops (o : Nat) : (s.dropOp o).memops = s.memops := rfl
@[simp] theorem State.dropOp_ops (o : Nat) : (s.dropOp o).ops = s.ops.filter (·.id != o) := rfl
@[simp] theorem State.dropOp_past (o : Nat) : (s.dropOp o).past = s.past := rfl
@[simp] theorem State.dropOp_rendezvous (o : Nat) : (s.dropOp o).rendezvous = s.rendezvous := rfl
@[simp] theorem State.dropOp_jointSets (o : Nat) : (s.dropOp o).jointSets = s.jointSets := rfl
@[simp] theorem State.dropOp_exchanges (o : Nat) : (s.dropOp o).exchanges = s.exchanges := rfl
@[simp] theorem State.dropOp_work (o : Nat) : (s.dropOp o).work = s.work := rfl
@[simp] theorem State.dropOp_host (o : Nat) : (s.dropOp o).host = s.host := rfl
@[simp] theorem State.dropOp_fab (o : Nat) : (s.dropOp o).fab = s.fab := rfl
@[simp] theorem State.dropOp_dies (o : Nat) : (s.dropOp o).dies = s.dies := rfl
@[simp] theorem State.dropOp_pkg (o : Nat) : (s.dropOp o).pkg = s.pkg := rfl
@[simp] theorem State.dropOp_nextName (o : Nat) : (s.dropOp o).nextName = s.nextName := rfl
@[simp] theorem State.dropOp_nextPriv (o : Nat) : (s.dropOp o).nextPriv = s.nextPriv := rfl
@[simp] theorem State.dropOp_soft (o : Nat) : (s.dropOp o).soft = s.soft := rfl

/-! ### modMemop -/

@[simp] theorem State.modMemop_clock (o : Nat) (f : MemOp → MemOp) : (s.modMemop o f).clock = s.clock := rfl
@[simp] theorem State.modMemop_cur (o : Nat) (f : MemOp → MemOp) : (s.modMemop o f).cur = s.cur := rfl
@[simp] theorem State.modMemop_agenda (o : Nat) (f : MemOp → MemOp) : (s.modMemop o f).agenda = s.agenda := rfl
@[simp] theorem State.modMemop_freeCtr (o : Nat) (f : MemOp → MemOp) : (s.modMemop o f).freeCtr = s.freeCtr := rfl
@[simp] theorem State.modMemop_mem (o : Nat) (f : MemOp → MemOp) : (s.modMemop o f).mem = s.mem := rfl
@[simp] theorem State.modMemop_nextDfn (o : Nat) (f : MemOp → MemOp) : (s.modMemop o f).nextDfn = s.nextDfn := rfl
@[simp] theorem State.modMemop_verified (o : Nat) (f : MemOp → MemOp) : (s.modMemop o f).verified = s.verified := rfl
@[simp] theorem State.modMemop_badPages (o : Nat) (f : MemOp → MemOp) : (s.modMemop o f).badPages = s.badPages := rfl
@[simp] theorem State.modMemop_skeins (o : Nat) (f : MemOp → MemOp) : (s.modMemop o f).skeins = s.skeins := rfl
@[simp] theorem State.modMemop_groups (o : Nat) (f : MemOp → MemOp) : (s.modMemop o f).groups = s.groups := rfl
@[simp] theorem State.modMemop_cores (o : Nat) (f : MemOp → MemOp) : (s.modMemop o f).cores = s.cores := rfl
@[simp] theorem State.modMemop_scratch (o : Nat) (f : MemOp → MemOp) : (s.modMemop o f).scratch = s.scratch := rfl
@[simp] theorem State.modMemop_tiles (o : Nat) (f : MemOp → MemOp) : (s.modMemop o f).tiles = s.tiles := rfl
@[simp] theorem State.modMemop_caches (o : Nat) (f : MemOp → MemOp) : (s.modMemop o f).caches = s.caches := rfl
@[simp] theorem State.modMemop_homeWords (o : Nat) (f : MemOp → MemOp) : (s.modMemop o f).homeWords = s.homeWords := rfl
@[simp] theorem State.modMemop_homePend (o : Nat) (f : MemOp → MemOp) : (s.modMemop o f).homePend = s.homePend := rfl
@[simp] theorem State.modMemop_faults (o : Nat) (f : MemOp → MemOp) : (s.modMemop o f).faults = s.faults := rfl
@[simp] theorem State.modMemop_slices (o : Nat) (f : MemOp → MemOp) : (s.modMemop o f).slices = s.slices := rfl
@[simp] theorem State.modMemop_net (o : Nat) (f : MemOp → MemOp) : (s.modMemop o f).net = s.net := rfl
@[simp] theorem State.modMemop_memops (o : Nat) (f : MemOp → MemOp) : (s.modMemop o f).memops = s.memops.map fun x => if x.id == o then f x else x := rfl
@[simp] theorem State.modMemop_ops (o : Nat) (f : MemOp → MemOp) : (s.modMemop o f).ops = s.ops := rfl
@[simp] theorem State.modMemop_past (o : Nat) (f : MemOp → MemOp) : (s.modMemop o f).past = s.past := rfl
@[simp] theorem State.modMemop_rendezvous (o : Nat) (f : MemOp → MemOp) : (s.modMemop o f).rendezvous = s.rendezvous := rfl
@[simp] theorem State.modMemop_jointSets (o : Nat) (f : MemOp → MemOp) : (s.modMemop o f).jointSets = s.jointSets := rfl
@[simp] theorem State.modMemop_exchanges (o : Nat) (f : MemOp → MemOp) : (s.modMemop o f).exchanges = s.exchanges := rfl
@[simp] theorem State.modMemop_work (o : Nat) (f : MemOp → MemOp) : (s.modMemop o f).work = s.work := rfl
@[simp] theorem State.modMemop_host (o : Nat) (f : MemOp → MemOp) : (s.modMemop o f).host = s.host := rfl
@[simp] theorem State.modMemop_fab (o : Nat) (f : MemOp → MemOp) : (s.modMemop o f).fab = s.fab := rfl
@[simp] theorem State.modMemop_dies (o : Nat) (f : MemOp → MemOp) : (s.modMemop o f).dies = s.dies := rfl
@[simp] theorem State.modMemop_pkg (o : Nat) (f : MemOp → MemOp) : (s.modMemop o f).pkg = s.pkg := rfl
@[simp] theorem State.modMemop_nextName (o : Nat) (f : MemOp → MemOp) : (s.modMemop o f).nextName = s.nextName := rfl
@[simp] theorem State.modMemop_nextPriv (o : Nat) (f : MemOp → MemOp) : (s.modMemop o f).nextPriv = s.nextPriv := rfl
@[simp] theorem State.modMemop_soft (o : Nat) (f : MemOp → MemOp) : (s.modMemop o f).soft = s.soft := rfl

/-! ### modExchange -/

@[simp] theorem State.modExchange_clock (o : Nat) (f : Exchange → Exchange) : (s.modExchange o f).clock = s.clock := rfl
@[simp] theorem State.modExchange_cur (o : Nat) (f : Exchange → Exchange) : (s.modExchange o f).cur = s.cur := rfl
@[simp] theorem State.modExchange_agenda (o : Nat) (f : Exchange → Exchange) : (s.modExchange o f).agenda = s.agenda := rfl
@[simp] theorem State.modExchange_freeCtr (o : Nat) (f : Exchange → Exchange) : (s.modExchange o f).freeCtr = s.freeCtr := rfl
@[simp] theorem State.modExchange_mem (o : Nat) (f : Exchange → Exchange) : (s.modExchange o f).mem = s.mem := rfl
@[simp] theorem State.modExchange_nextDfn (o : Nat) (f : Exchange → Exchange) : (s.modExchange o f).nextDfn = s.nextDfn := rfl
@[simp] theorem State.modExchange_verified (o : Nat) (f : Exchange → Exchange) : (s.modExchange o f).verified = s.verified := rfl
@[simp] theorem State.modExchange_badPages (o : Nat) (f : Exchange → Exchange) : (s.modExchange o f).badPages = s.badPages := rfl
@[simp] theorem State.modExchange_skeins (o : Nat) (f : Exchange → Exchange) : (s.modExchange o f).skeins = s.skeins := rfl
@[simp] theorem State.modExchange_groups (o : Nat) (f : Exchange → Exchange) : (s.modExchange o f).groups = s.groups := rfl
@[simp] theorem State.modExchange_cores (o : Nat) (f : Exchange → Exchange) : (s.modExchange o f).cores = s.cores := rfl
@[simp] theorem State.modExchange_scratch (o : Nat) (f : Exchange → Exchange) : (s.modExchange o f).scratch = s.scratch := rfl
@[simp] theorem State.modExchange_tiles (o : Nat) (f : Exchange → Exchange) : (s.modExchange o f).tiles = s.tiles := rfl
@[simp] theorem State.modExchange_caches (o : Nat) (f : Exchange → Exchange) : (s.modExchange o f).caches = s.caches := rfl
@[simp] theorem State.modExchange_homeWords (o : Nat) (f : Exchange → Exchange) : (s.modExchange o f).homeWords = s.homeWords := rfl
@[simp] theorem State.modExchange_homePend (o : Nat) (f : Exchange → Exchange) : (s.modExchange o f).homePend = s.homePend := rfl
@[simp] theorem State.modExchange_faults (o : Nat) (f : Exchange → Exchange) : (s.modExchange o f).faults = s.faults := rfl
@[simp] theorem State.modExchange_slices (o : Nat) (f : Exchange → Exchange) : (s.modExchange o f).slices = s.slices := rfl
@[simp] theorem State.modExchange_net (o : Nat) (f : Exchange → Exchange) : (s.modExchange o f).net = s.net := rfl
@[simp] theorem State.modExchange_memops (o : Nat) (f : Exchange → Exchange) : (s.modExchange o f).memops = s.memops := rfl
@[simp] theorem State.modExchange_ops (o : Nat) (f : Exchange → Exchange) : (s.modExchange o f).ops = s.ops := rfl
@[simp] theorem State.modExchange_past (o : Nat) (f : Exchange → Exchange) : (s.modExchange o f).past = s.past := rfl
@[simp] theorem State.modExchange_rendezvous (o : Nat) (f : Exchange → Exchange) : (s.modExchange o f).rendezvous = s.rendezvous := rfl
@[simp] theorem State.modExchange_jointSets (o : Nat) (f : Exchange → Exchange) : (s.modExchange o f).jointSets = s.jointSets := rfl
@[simp] theorem State.modExchange_exchanges (o : Nat) (f : Exchange → Exchange) : (s.modExchange o f).exchanges = s.exchanges.map fun x => if x.op == o then f x else x := rfl
@[simp] theorem State.modExchange_work (o : Nat) (f : Exchange → Exchange) : (s.modExchange o f).work = s.work := rfl
@[simp] theorem State.modExchange_host (o : Nat) (f : Exchange → Exchange) : (s.modExchange o f).host = s.host := rfl
@[simp] theorem State.modExchange_fab (o : Nat) (f : Exchange → Exchange) : (s.modExchange o f).fab = s.fab := rfl
@[simp] theorem State.modExchange_dies (o : Nat) (f : Exchange → Exchange) : (s.modExchange o f).dies = s.dies := rfl
@[simp] theorem State.modExchange_pkg (o : Nat) (f : Exchange → Exchange) : (s.modExchange o f).pkg = s.pkg := rfl
@[simp] theorem State.modExchange_nextName (o : Nat) (f : Exchange → Exchange) : (s.modExchange o f).nextName = s.nextName := rfl
@[simp] theorem State.modExchange_nextPriv (o : Nat) (f : Exchange → Exchange) : (s.modExchange o f).nextPriv = s.nextPriv := rfl
@[simp] theorem State.modExchange_soft (o : Nat) (f : Exchange → Exchange) : (s.modExchange o f).soft = s.soft := rfl

/-! ### setCword -/

@[simp] theorem State.setCword_clock (agent asid wa : Nat) (w : CWord) : (s.setCword agent asid wa w).clock = s.clock := rfl
@[simp] theorem State.setCword_cur (agent asid wa : Nat) (w : CWord) : (s.setCword agent asid wa w).cur = s.cur := rfl
@[simp] theorem State.setCword_agenda (agent asid wa : Nat) (w : CWord) : (s.setCword agent asid wa w).agenda = s.agenda := rfl
@[simp] theorem State.setCword_freeCtr (agent asid wa : Nat) (w : CWord) : (s.setCword agent asid wa w).freeCtr = s.freeCtr := rfl
@[simp] theorem State.setCword_mem (agent asid wa : Nat) (w : CWord) : (s.setCword agent asid wa w).mem = s.mem := rfl
@[simp] theorem State.setCword_nextDfn (agent asid wa : Nat) (w : CWord) : (s.setCword agent asid wa w).nextDfn = s.nextDfn := rfl
@[simp] theorem State.setCword_verified (agent asid wa : Nat) (w : CWord) : (s.setCword agent asid wa w).verified = s.verified := rfl
@[simp] theorem State.setCword_badPages (agent asid wa : Nat) (w : CWord) : (s.setCword agent asid wa w).badPages = s.badPages := rfl
@[simp] theorem State.setCword_skeins (agent asid wa : Nat) (w : CWord) : (s.setCword agent asid wa w).skeins = s.skeins := rfl
@[simp] theorem State.setCword_groups (agent asid wa : Nat) (w : CWord) : (s.setCword agent asid wa w).groups = s.groups := rfl
@[simp] theorem State.setCword_cores (agent asid wa : Nat) (w : CWord) : (s.setCword agent asid wa w).cores = s.cores := rfl
@[simp] theorem State.setCword_scratch (agent asid wa : Nat) (w : CWord) : (s.setCword agent asid wa w).scratch = s.scratch := rfl
@[simp] theorem State.setCword_tiles (agent asid wa : Nat) (w : CWord) : (s.setCword agent asid wa w).tiles = s.tiles := rfl
@[simp] theorem State.setCword_caches (agent asid wa : Nat) (w : CWord) : (s.setCword agent asid wa w).caches = Tab.set s.caches ⟨agent, asid, wa⟩ w := rfl
@[simp] theorem State.setCword_homeWords (agent asid wa : Nat) (w : CWord) : (s.setCword agent asid wa w).homeWords = s.homeWords := rfl
@[simp] theorem State.setCword_homePend (agent asid wa : Nat) (w : CWord) : (s.setCword agent asid wa w).homePend = s.homePend := rfl
@[simp] theorem State.setCword_faults (agent asid wa : Nat) (w : CWord) : (s.setCword agent asid wa w).faults = s.faults := rfl
@[simp] theorem State.setCword_slices (agent asid wa : Nat) (w : CWord) : (s.setCword agent asid wa w).slices = s.slices := rfl
@[simp] theorem State.setCword_net (agent asid wa : Nat) (w : CWord) : (s.setCword agent asid wa w).net = s.net := rfl
@[simp] theorem State.setCword_memops (agent asid wa : Nat) (w : CWord) : (s.setCword agent asid wa w).memops = s.memops := rfl
@[simp] theorem State.setCword_ops (agent asid wa : Nat) (w : CWord) : (s.setCword agent asid wa w).ops = s.ops := rfl
@[simp] theorem State.setCword_past (agent asid wa : Nat) (w : CWord) : (s.setCword agent asid wa w).past = s.past := rfl
@[simp] theorem State.setCword_rendezvous (agent asid wa : Nat) (w : CWord) : (s.setCword agent asid wa w).rendezvous = s.rendezvous := rfl
@[simp] theorem State.setCword_jointSets (agent asid wa : Nat) (w : CWord) : (s.setCword agent asid wa w).jointSets = s.jointSets := rfl
@[simp] theorem State.setCword_exchanges (agent asid wa : Nat) (w : CWord) : (s.setCword agent asid wa w).exchanges = s.exchanges := rfl
@[simp] theorem State.setCword_work (agent asid wa : Nat) (w : CWord) : (s.setCword agent asid wa w).work = s.work := rfl
@[simp] theorem State.setCword_host (agent asid wa : Nat) (w : CWord) : (s.setCword agent asid wa w).host = s.host := rfl
@[simp] theorem State.setCword_fab (agent asid wa : Nat) (w : CWord) : (s.setCword agent asid wa w).fab = s.fab := rfl
@[simp] theorem State.setCword_dies (agent asid wa : Nat) (w : CWord) : (s.setCword agent asid wa w).dies = s.dies := rfl
@[simp] theorem State.setCword_pkg (agent asid wa : Nat) (w : CWord) : (s.setCword agent asid wa w).pkg = s.pkg := rfl
@[simp] theorem State.setCword_nextName (agent asid wa : Nat) (w : CWord) : (s.setCword agent asid wa w).nextName = s.nextName := rfl
@[simp] theorem State.setCword_nextPriv (agent asid wa : Nat) (w : CWord) : (s.setCword agent asid wa w).nextPriv = s.nextPriv := rfl
@[simp] theorem State.setCword_soft (agent asid wa : Nat) (w : CWord) : (s.setCword agent asid wa w).soft = s.soft := rfl

/-! ### dropCword -/

@[simp] theorem State.dropCword_clock (agent asid wa : Nat) : (s.dropCword agent asid wa).clock = s.clock := rfl
@[simp] theorem State.dropCword_cur (agent asid wa : Nat) : (s.dropCword agent asid wa).cur = s.cur := rfl
@[simp] theorem State.dropCword_agenda (agent asid wa : Nat) : (s.dropCword agent asid wa).agenda = s.agenda := rfl
@[simp] theorem State.dropCword_freeCtr (agent asid wa : Nat) : (s.dropCword agent asid wa).freeCtr = s.freeCtr := rfl
@[simp] theorem State.dropCword_mem (agent asid wa : Nat) : (s.dropCword agent asid wa).mem = s.mem := rfl
@[simp] theorem State.dropCword_nextDfn (agent asid wa : Nat) : (s.dropCword agent asid wa).nextDfn = s.nextDfn := rfl
@[simp] theorem State.dropCword_verified (agent asid wa : Nat) : (s.dropCword agent asid wa).verified = s.verified := rfl
@[simp] theorem State.dropCword_badPages (agent asid wa : Nat) : (s.dropCword agent asid wa).badPages = s.badPages := rfl
@[simp] theorem State.dropCword_skeins (agent asid wa : Nat) : (s.dropCword agent asid wa).skeins = s.skeins := rfl
@[simp] theorem State.dropCword_groups (agent asid wa : Nat) : (s.dropCword agent asid wa).groups = s.groups := rfl
@[simp] theorem State.dropCword_cores (agent asid wa : Nat) : (s.dropCword agent asid wa).cores = s.cores := rfl
@[simp] theorem State.dropCword_scratch (agent asid wa : Nat) : (s.dropCword agent asid wa).scratch = s.scratch := rfl
@[simp] theorem State.dropCword_tiles (agent asid wa : Nat) : (s.dropCword agent asid wa).tiles = s.tiles := rfl
@[simp] theorem State.dropCword_caches (agent asid wa : Nat) : (s.dropCword agent asid wa).caches = Tab.erase s.caches ⟨agent, asid, wa⟩ := rfl
@[simp] theorem State.dropCword_homeWords (agent asid wa : Nat) : (s.dropCword agent asid wa).homeWords = s.homeWords := rfl
@[simp] theorem State.dropCword_homePend (agent asid wa : Nat) : (s.dropCword agent asid wa).homePend = s.homePend := rfl
@[simp] theorem State.dropCword_faults (agent asid wa : Nat) : (s.dropCword agent asid wa).faults = s.faults := rfl
@[simp] theorem State.dropCword_slices (agent asid wa : Nat) : (s.dropCword agent asid wa).slices = s.slices := rfl
@[simp] theorem State.dropCword_net (agent asid wa : Nat) : (s.dropCword agent asid wa).net = s.net := rfl
@[simp] theorem State.dropCword_memops (agent asid wa : Nat) : (s.dropCword agent asid wa).memops = s.memops := rfl
@[simp] theorem State.dropCword_ops (agent asid wa : Nat) : (s.dropCword agent asid wa).ops = s.ops := rfl
@[simp] theorem State.dropCword_past (agent asid wa : Nat) : (s.dropCword agent asid wa).past = s.past := rfl
@[simp] theorem State.dropCword_rendezvous (agent asid wa : Nat) : (s.dropCword agent asid wa).rendezvous = s.rendezvous := rfl
@[simp] theorem State.dropCword_jointSets (agent asid wa : Nat) : (s.dropCword agent asid wa).jointSets = s.jointSets := rfl
@[simp] theorem State.dropCword_exchanges (agent asid wa : Nat) : (s.dropCword agent asid wa).exchanges = s.exchanges := rfl
@[simp] theorem State.dropCword_work (agent asid wa : Nat) : (s.dropCword agent asid wa).work = s.work := rfl
@[simp] theorem State.dropCword_host (agent asid wa : Nat) : (s.dropCword agent asid wa).host = s.host := rfl
@[simp] theorem State.dropCword_fab (agent asid wa : Nat) : (s.dropCword agent asid wa).fab = s.fab := rfl
@[simp] theorem State.dropCword_dies (agent asid wa : Nat) : (s.dropCword agent asid wa).dies = s.dies := rfl
@[simp] theorem State.dropCword_pkg (agent asid wa : Nat) : (s.dropCword agent asid wa).pkg = s.pkg := rfl
@[simp] theorem State.dropCword_nextName (agent asid wa : Nat) : (s.dropCword agent asid wa).nextName = s.nextName := rfl
@[simp] theorem State.dropCword_nextPriv (agent asid wa : Nat) : (s.dropCword agent asid wa).nextPriv = s.nextPriv := rfl
@[simp] theorem State.dropCword_soft (agent asid wa : Nat) : (s.dropCword agent asid wa).soft = s.soft := rfl

/-! ### setHword -/

@[simp] theorem State.setHword_clock (asid wa : Nat) (w : WSt) : (s.setHword asid wa w).clock = s.clock := rfl
@[simp] theorem State.setHword_cur (asid wa : Nat) (w : WSt) : (s.setHword asid wa w).cur = s.cur := rfl
@[simp] theorem State.setHword_agenda (asid wa : Nat) (w : WSt) : (s.setHword asid wa w).agenda = s.agenda := rfl
@[simp] theorem State.setHword_freeCtr (asid wa : Nat) (w : WSt) : (s.setHword asid wa w).freeCtr = s.freeCtr := rfl
@[simp] theorem State.setHword_mem (asid wa : Nat) (w : WSt) : (s.setHword asid wa w).mem = s.mem := rfl
@[simp] theorem State.setHword_nextDfn (asid wa : Nat) (w : WSt) : (s.setHword asid wa w).nextDfn = s.nextDfn := rfl
@[simp] theorem State.setHword_verified (asid wa : Nat) (w : WSt) : (s.setHword asid wa w).verified = s.verified := rfl
@[simp] theorem State.setHword_badPages (asid wa : Nat) (w : WSt) : (s.setHword asid wa w).badPages = s.badPages := rfl
@[simp] theorem State.setHword_skeins (asid wa : Nat) (w : WSt) : (s.setHword asid wa w).skeins = s.skeins := rfl
@[simp] theorem State.setHword_groups (asid wa : Nat) (w : WSt) : (s.setHword asid wa w).groups = s.groups := rfl
@[simp] theorem State.setHword_cores (asid wa : Nat) (w : WSt) : (s.setHword asid wa w).cores = s.cores := rfl
@[simp] theorem State.setHword_scratch (asid wa : Nat) (w : WSt) : (s.setHword asid wa w).scratch = s.scratch := rfl
@[simp] theorem State.setHword_tiles (asid wa : Nat) (w : WSt) : (s.setHword asid wa w).tiles = s.tiles := rfl
@[simp] theorem State.setHword_caches (asid wa : Nat) (w : WSt) : (s.setHword asid wa w).caches = s.caches := rfl
@[simp] theorem State.setHword_homeWords (asid wa : Nat) (w : WSt) : (s.setHword asid wa w).homeWords = Tab.set s.homeWords ⟨asid, wa⟩ w := rfl
@[simp] theorem State.setHword_homePend (asid wa : Nat) (w : WSt) : (s.setHword asid wa w).homePend = s.homePend := rfl
@[simp] theorem State.setHword_faults (asid wa : Nat) (w : WSt) : (s.setHword asid wa w).faults = s.faults := rfl
@[simp] theorem State.setHword_slices (asid wa : Nat) (w : WSt) : (s.setHword asid wa w).slices = s.slices := rfl
@[simp] theorem State.setHword_net (asid wa : Nat) (w : WSt) : (s.setHword asid wa w).net = s.net := rfl
@[simp] theorem State.setHword_memops (asid wa : Nat) (w : WSt) : (s.setHword asid wa w).memops = s.memops := rfl
@[simp] theorem State.setHword_ops (asid wa : Nat) (w : WSt) : (s.setHword asid wa w).ops = s.ops := rfl
@[simp] theorem State.setHword_past (asid wa : Nat) (w : WSt) : (s.setHword asid wa w).past = s.past := rfl
@[simp] theorem State.setHword_rendezvous (asid wa : Nat) (w : WSt) : (s.setHword asid wa w).rendezvous = s.rendezvous := rfl
@[simp] theorem State.setHword_jointSets (asid wa : Nat) (w : WSt) : (s.setHword asid wa w).jointSets = s.jointSets := rfl
@[simp] theorem State.setHword_exchanges (asid wa : Nat) (w : WSt) : (s.setHword asid wa w).exchanges = s.exchanges := rfl
@[simp] theorem State.setHword_work (asid wa : Nat) (w : WSt) : (s.setHword asid wa w).work = s.work := rfl
@[simp] theorem State.setHword_host (asid wa : Nat) (w : WSt) : (s.setHword asid wa w).host = s.host := rfl
@[simp] theorem State.setHword_fab (asid wa : Nat) (w : WSt) : (s.setHword asid wa w).fab = s.fab := rfl
@[simp] theorem State.setHword_dies (asid wa : Nat) (w : WSt) : (s.setHword asid wa w).dies = s.dies := rfl
@[simp] theorem State.setHword_pkg (asid wa : Nat) (w : WSt) : (s.setHword asid wa w).pkg = s.pkg := rfl
@[simp] theorem State.setHword_nextName (asid wa : Nat) (w : WSt) : (s.setHword asid wa w).nextName = s.nextName := rfl
@[simp] theorem State.setHword_nextPriv (asid wa : Nat) (w : WSt) : (s.setHword asid wa w).nextPriv = s.nextPriv := rfl
@[simp] theorem State.setHword_soft (asid wa : Nat) (w : WSt) : (s.setHword asid wa w).soft = s.soft := rfl

/-! ### post -/

@[simp] theorem State.post_clock (m : Msg) : (s.post m).clock = s.clock := rfl
@[simp] theorem State.post_cur (m : Msg) : (s.post m).cur = s.cur := rfl
@[simp] theorem State.post_agenda (m : Msg) : (s.post m).agenda = s.agenda := rfl
@[simp] theorem State.post_freeCtr (m : Msg) : (s.post m).freeCtr = s.freeCtr := rfl
@[simp] theorem State.post_mem (m : Msg) : (s.post m).mem = s.mem := rfl
@[simp] theorem State.post_nextDfn (m : Msg) : (s.post m).nextDfn = s.nextDfn := rfl
@[simp] theorem State.post_verified (m : Msg) : (s.post m).verified = s.verified := rfl
@[simp] theorem State.post_badPages (m : Msg) : (s.post m).badPages = s.badPages := rfl
@[simp] theorem State.post_skeins (m : Msg) : (s.post m).skeins = s.skeins := rfl
@[simp] theorem State.post_groups (m : Msg) : (s.post m).groups = s.groups := rfl
@[simp] theorem State.post_cores (m : Msg) : (s.post m).cores = s.cores := rfl
@[simp] theorem State.post_scratch (m : Msg) : (s.post m).scratch = s.scratch := rfl
@[simp] theorem State.post_tiles (m : Msg) : (s.post m).tiles = s.tiles := rfl
@[simp] theorem State.post_caches (m : Msg) : (s.post m).caches = s.caches := rfl
@[simp] theorem State.post_homeWords (m : Msg) : (s.post m).homeWords = s.homeWords := rfl
@[simp] theorem State.post_homePend (m : Msg) : (s.post m).homePend = s.homePend := rfl
@[simp] theorem State.post_faults (m : Msg) : (s.post m).faults = s.faults := rfl
@[simp] theorem State.post_slices (m : Msg) : (s.post m).slices = s.slices := rfl
@[simp] theorem State.post_net (m : Msg) : (s.post m).net = s.net ++ [m] := rfl
@[simp] theorem State.post_memops (m : Msg) : (s.post m).memops = s.memops := rfl
@[simp] theorem State.post_ops (m : Msg) : (s.post m).ops = s.ops := rfl
@[simp] theorem State.post_past (m : Msg) : (s.post m).past = s.past := rfl
@[simp] theorem State.post_rendezvous (m : Msg) : (s.post m).rendezvous = s.rendezvous := rfl
@[simp] theorem State.post_jointSets (m : Msg) : (s.post m).jointSets = s.jointSets := rfl
@[simp] theorem State.post_exchanges (m : Msg) : (s.post m).exchanges = s.exchanges := rfl
@[simp] theorem State.post_work (m : Msg) : (s.post m).work = s.work := rfl
@[simp] theorem State.post_host (m : Msg) : (s.post m).host = s.host := rfl
@[simp] theorem State.post_fab (m : Msg) : (s.post m).fab = s.fab := rfl
@[simp] theorem State.post_dies (m : Msg) : (s.post m).dies = s.dies := rfl
@[simp] theorem State.post_pkg (m : Msg) : (s.post m).pkg = s.pkg := rfl
@[simp] theorem State.post_nextName (m : Msg) : (s.post m).nextName = s.nextName := rfl
@[simp] theorem State.post_nextPriv (m : Msg) : (s.post m).nextPriv = s.nextPriv := rfl
@[simp] theorem State.post_soft (m : Msg) : (s.post m).soft = s.soft := rfl

/-! ### tick -/

@[simp] theorem State.tick_clock : s.tick.clock = s.clock + 1 := rfl
@[simp] theorem State.tick_cur : s.tick.cur = s.cur := rfl
@[simp] theorem State.tick_agenda : s.tick.agenda = s.agenda.drop 1 := rfl
@[simp] theorem State.tick_freeCtr : s.tick.freeCtr = s.freeCtr := rfl
@[simp] theorem State.tick_mem : s.tick.mem = s.mem := rfl
@[simp] theorem State.tick_nextDfn : s.tick.nextDfn = s.nextDfn := rfl
@[simp] theorem State.tick_verified : s.tick.verified = s.verified := rfl
@[simp] theorem State.tick_badPages : s.tick.badPages = s.badPages := rfl
@[simp] theorem State.tick_skeins : s.tick.skeins = s.skeins := rfl
@[simp] theorem State.tick_groups : s.tick.groups = s.groups := rfl
@[simp] theorem State.tick_cores : s.tick.cores = s.cores := rfl
@[simp] theorem State.tick_scratch : s.tick.scratch = s.scratch := rfl
@[simp] theorem State.tick_tiles : s.tick.tiles = s.tiles := rfl
@[simp] theorem State.tick_caches : s.tick.caches = s.caches := rfl
@[simp] theorem State.tick_homeWords : s.tick.homeWords = s.homeWords := rfl
@[simp] theorem State.tick_homePend : s.tick.homePend = s.homePend := rfl
@[simp] theorem State.tick_faults : s.tick.faults = s.faults := rfl
@[simp] theorem State.tick_slices : s.tick.slices = s.slices := rfl
@[simp] theorem State.tick_net : s.tick.net = s.net := rfl
@[simp] theorem State.tick_memops : s.tick.memops = s.memops := rfl
@[simp] theorem State.tick_ops : s.tick.ops = s.ops := rfl
@[simp] theorem State.tick_past : s.tick.past = s.past := rfl
@[simp] theorem State.tick_rendezvous : s.tick.rendezvous = s.rendezvous := rfl
@[simp] theorem State.tick_jointSets : s.tick.jointSets = s.jointSets := rfl
@[simp] theorem State.tick_exchanges : s.tick.exchanges = s.exchanges := rfl
@[simp] theorem State.tick_work : s.tick.work = s.work := rfl
@[simp] theorem State.tick_host : s.tick.host = s.host := rfl
@[simp] theorem State.tick_fab : s.tick.fab = s.fab := rfl
@[simp] theorem State.tick_dies : s.tick.dies = s.dies := rfl
@[simp] theorem State.tick_pkg : s.tick.pkg = s.pkg := rfl
@[simp] theorem State.tick_nextName : s.tick.nextName = s.nextName := rfl
@[simp] theorem State.tick_nextPriv : s.tick.nextPriv = s.nextPriv := rfl
@[simp] theorem State.tick_soft : s.tick.soft = s.soft := rfl

/-! ### Reading the part that was changed, or another one -/

theorem State.skein?_setSkein (id i : SkId) (k : Skein) : (s.setSkein id k).skein? i = if i = id then some k else s.skein? i :=
  Tab.get?_set ..
theorem State.skein?_dropSkein (id i : SkId) : (s.dropSkein id).skein? i = if i = id then none else s.skein? i := Tab.get?_erase ..
theorem State.skein?_modSkein (id i : SkId) (f : Skein → Skein) :
    (s.modSkein id f).skein? i = if i = id then (s.skein? id).map f else s.skein? i := Tab.get?_modify ..
theorem State.group?_modGroup (g i : Nat) (f : Group → Group) :
    (s.modGroup g f).group? i = if i = g then (s.group? g).map f else s.group? i := Tab.get?_modify ..
theorem State.core_modCore (c i : Nat) (f : Core → Core) : (s.modCore c f).core i = if i = c then f (s.core c) else s.core i := by
  split_ifs with h
  · subst h; exact Tab.getD_update_same ..
  · exact Tab.getD_update_other _ _ _ h
theorem State.slice_modSlice (n i : Nat) (f : Slice → Slice) :
    (s.modSlice n f).slice i = if i = n then f (s.slice n) else s.slice i := by
  split_ifs with h
  · subst h; exact Tab.getD_update_same ..
  · exact Tab.getD_update_other _ _ _ h
theorem State.die_modDie (d i : Nat) (f : Die → Die) : (s.modDie d f).die i = if i = d then f (s.die d) else s.die i := by
  split_ifs with h
  · subst h; exact Tab.getD_update_same ..
  · exact Tab.getD_update_other _ _ _ h
theorem State.port_modPort (p i : Nat) (f : Port → Port) : (s.modPort p f).port i = if i = p then f (s.port p) else s.port i := by
  split_ifs with h
  · subst h; exact Tab.getD_update_same ..
  · exact Tab.getD_update_other _ _ _ h
theorem State.cword?_setCword (a asid wa a' asid' wa' : Nat) (w : CWord) :
    (s.setCword a asid wa w).cword? a' asid' wa' =
      if (⟨a', asid', wa'⟩ : CKey) = ⟨a, asid, wa⟩ then some w else s.cword? a' asid' wa' := Tab.get?_set ..
theorem State.cword?_dropCword (a asid wa a' asid' wa' : Nat) :
    (s.dropCword a asid wa).cword? a' asid' wa' =
      if (⟨a', asid', wa'⟩ : CKey) = ⟨a, asid, wa⟩ then none else s.cword? a' asid' wa' := Tab.get?_erase ..
theorem State.hword_setHword (asid wa asid' wa' : Nat) (w : WSt) :
    (s.setHword asid wa w).hword asid' wa' = if (⟨asid', wa'⟩ : HKey) = ⟨asid, wa⟩ then some w else s.hword asid' wa' :=
  Tab.get?_set ..

end Sys2Proof.Machine
end

