-- ==== Sys2Proof/Laws/Ops.lean ====
section
/-! SUPPORT. What the shared operations of the meanings do: the issuing strand, completing, trapping, and the common form of the R-format
words. A proof about one word cites these and never unfolds the operations. -/

namespace Sys2Proof.Machine

theorem Tab.set_self {κ ν : Type} [DecidableEq κ] (m : List (κ × ν)) (a : κ) (v : ν) (h : Tab.get? m a = some v) : Tab.set m a v = m := by
  induction m with
  | nil => simp [Tab.get?] at h
  | cons p m ih =>
    obtain ⟨k, w⟩ := p
    by_cases hk : a = k
    · subst hk; simp only [Tab.get?, if_true, Option.some.injEq] at h; subst h; simp [Tab.set]
    · simp only [Tab.get?, hk, if_false] at h; simp [Tab.set, hk, ih h]

theorem State.setSkein_self (s : State) (id : SkId) (k : Skein) (h : s.skein? id = some k) : s.setSkein id k = s := by
  unfold State.setSkein
  rw [Tab.set_self _ _ _ h]

@[simp] theorem State.skein?_setSkein_same (s : State) (id : SkId) (k : Skein) : (s.setSkein id k).skein? id = some k :=
  Tab.get?_set_same ..

/-- A meaning runs for the strand that issues. -/
theorem withStrand_of_issuing {s : State} {c : Ctx} (h : Issuing s c) (f : Ctx → Out) : withStrand s f = f c := by
  obtain ⟨⟨again, hc⟩, hk, hx⟩ := h
  unfold withStrand
  simp only [hc, hk, hx]

/-- Without a strand that issues, a meaning is a fault of the model. -/
theorem withStrand_of_cur_none {s : State} (h : s.cur = none) (f : Ctx → Out) : withStrand s f = .fault .noStrand := by
  unfold withStrand
  simp only [h]

/-- A meaning that answers a next state ran for a strand that issues. -/
theorem issuing_of_withStrand {s s' : State} {f : Ctx → Out} (h : withStrand s f = .next s') : ∃ c, Issuing s c ∧ f c = .next s' := by
  unfold withStrand at h
  split at h
  · cases h
  · next cu hcu =>
    split at h
    · cases h
    · next k hk =>
      split at h
      · cases h
      · next x hx => exact ⟨⟨cu.sk, cu.st, k, x, cu.iw⟩, ⟨⟨cu.replay, hcu⟩, hk, hx⟩, h⟩

theorem Ctx.done_eq (c : Ctx) (s : State) (k : Skein) : c.done s k = .next (c.completed s k) := rfl

theorem Ctx.skip_eq {s : State} {c : Ctx} (h : Issuing s c) : c.skip s = .next (c.completed s c.k) := by
  unfold Ctx.skip Ctx.completed
  rw [State.setSkein_self _ _ _ h.2.1]

theorem Ctx.trap_eq {s : State} {c : Ctx} (h : s.unperformed c.id c.st = []) (cause : Nat) (unfin : Mask) (fva info : W64) :
    c.trap s cause unfin fva info = .next (c.trapped s cause unfin fva info) := by
  unfold Ctx.trap Ctx.trapWith Ctx.trapped
  rw [h]

theorem Ctx.illegal_eq {s : State} {c : Ctx} (h : s.unperformed c.id c.st = []) (cause : Nat) :
    c.illegal s cause = .next (c.trapped s cause c.guarded 0 0) := c.trap_eq h ..

/-- The lanes of a mask, as a mask. -/
theorem Mask.getLsbD_ofLanes (ls : List Nat) (l : Nat) (hl : l < 32) : (Mask.ofLanes ls).getLsbD l = decide (l ∈ ls) := by
  unfold Mask.ofLanes
  suffices h : ∀ (ls : List Nat) (m : Mask), (ls.foldl (fun m l => m ||| Mask.lane l) m).getLsbD l = (m.getLsbD l || decide (l ∈ ls)) by
    simpa using h ls 0
  intro ls
  induction ls with
  | nil => simp
  | cons a ls ih =>
    intro m
    rw [List.foldl_cons, ih]
    have : (Mask.lane a).getLsbD l = decide (l = a) := by
      rw [Mask.lane, BitVec.getLsbD_shiftLeft, BitVec.getLsbD_one]
      by_cases h : l = a
      · subst h; simp [hl]
      · simp only [hl, decide_true, Bool.true_and, h, decide_false]
        by_cases h2 : l < a
        · simp [h2]
        · have : l - a ≠ 0 := by omega
          simp [this]
    simp [this, Bool.or_assoc]


theorem Skein.predWritten_setPIn (k : Skein) (dst : Nat) (act : Mask) (v : Nat → Bool) :
    PredWritten k (k.setPIn dst act (Mask.ofLanes ((Mask.lanes act).filter v))) act dst v := by
  refine ⟨?_, fun l hl i => ?_⟩
  · unfold Skein.setPIn Skein.setP; split <;> rfl
  · unfold Skein.setPIn
    rw [Skein.p_setP]
    by_cases h : i = dst ∧ dst ≠ 7
    · obtain ⟨rfl, h7⟩ := h
      simp only [true_and, ne_eq, h7, not_false_eq_true, and_self, if_true, and_true]
      rw [BitVec.getLsbD_or, BitVec.getLsbD_and, Mask.getLsbD_ofLanes _ _ hl, Mask.diff, BitVec.getLsbD_and, BitVec.getLsbD_not]
      simp only [List.mem_filter, Mask.mem_lanes, hl, true_and]
      cases act.getLsbD l <;> cases v l <;> simp
    · rw [if_neg h]
      have : ¬ (act.getLsbD l = true ∧ i = dst ∧ dst ≠ 7) := fun hh => h hh.2
      rw [if_neg this]

/-- An R-format word whose register fields do not fit takes the trap of check 7 (R83, R294). -/
theorem rExec_illegal {s : State} {c : Ctx} {f : RFmt} {sh : RShape} (hi : Issuing s c) (hr : f.regsOk sh (s.vlimit c.k) = false)
    (hm : s.unperformed c.id c.st = []) (imm : W64) (op : Ctx → Nat → Opnds → W64) :
    rExec s f sh imm op = .next (c.trapped s 0x01 c.guarded 0 0) := by
  unfold rExec
  rw [withStrand_of_issuing hi]
  simp only [hr, Bool.not_false, if_true]
  exact c.illegal_eq hm 1

/-- What an R-format word does whose meaning is `rExec`: all of R82, R84, R265, R266 and R270 for it. -/
theorem rRule_of_rExec {i : Instr} {f : RFmt} {sh : RShape} {imm : W64} {op : Ctx → Nat → Opnds → W64}
    {P : Ctx → Nat → Opnds → W64 → Prop} (hsh : sh.d = 1 ∨ sh.d = 2) (he : ∀ s, exec i s = rExec s f sh imm op)
    (hP : WellFormed i = true → ∀ c l o, P c l o (op c l o)) : RRule i f sh imm P := by
  intro hwf s c hi hr
  refine ⟨fun l => op c l (f.opnds sh imm c.k l), fun l => hP hwf c l _, fun hu => ?_, fun hu => ?_⟩
  · refine ⟨_, Skein.lanesWritten_putD c.k sh.d f.d.toNat hsh _ _, ?_⟩
    rw [he]; unfold rExec; rw [withStrand_of_issuing hi]
    simp only [hr, hu, Bool.not_true, Bool.false_eq_true, if_false]
    rfl
  · rw [he]; unfold rExec; rw [withStrand_of_issuing hi]
    simp only [hr, hu, Bool.not_true, Bool.false_eq_true, if_false, if_true]
    split
    · rfl
    · exact Ctx.skip_eq hi

/-- What an R-format word does whose meaning is `pExec`. -/
theorem pRule_of_pExec {i : Instr} {f : RFmt} {sh : RShape} {imm : W64} {dst : Nat} {op v : Ctx → Nat → Opnds → Bool}
    (he : ∀ s, exec i s = pExec s f sh imm dst op) (hv : WellFormed i = true → ∀ c l o, op c l o = v c l o) :
    PRule i f sh imm dst v := by
  intro hwf s c hi hr
  refine ⟨_, Skein.predWritten_setPIn c.k dst (c.active f.g f.gn) fun l => v c l (f.opnds sh imm c.k l), ?_⟩
  rw [he]; unfold pExec; rw [withStrand_of_issuing hi]
  simp only [hr, Bool.not_true, Bool.false_eq_true, if_false, hv hwf]
  rfl

/-- A predicate word whose register fields do not fit takes the trap of check 7 (R83, R294). -/
theorem pExec_illegal {s : State} {c : Ctx} {f : RFmt} {sh : RShape} (hi : Issuing s c) (hr : f.regsOk sh (s.vlimit c.k) = false)
    (hm : s.unperformed c.id c.st = []) (imm : W64) (dst : Nat) (op : Ctx → Nat → Opnds → Bool) :
    pExec s f sh imm dst op = .next (c.trapped s 0x01 c.guarded 0 0) := by
  unfold pExec
  rw [withStrand_of_issuing hi]
  simp only [hr, Bool.not_false, if_true]
  exact c.illegal_eq hm 1

end Sys2Proof.Machine
end

