-- ==== Sys2Proof/Laws/Integers.lean ====
section
/-! SUPPORT. The integers that operands hold and the register values that hold results, in the terms of the statements: the model's
arithmetic on Int and Nat agrees with two's complement on bit vectors. -/

namespace Sys2Proof.Machine
open Arith

theorem tBits_pos (t : Nat) : 0 < tBits t := by
  unfold tBits; split_ifs <;> norm_num
theorem tBits_le (t : Nat) : tBits t ≤ 64 := by
  unfold tBits; split_ifs <;> norm_num

theorem toNat_lowBits (t : Nat) (x : W64) : (lowBits t x).toNat = x.toNat % 2 ^ tBits t := by
  simp [lowBits, BitVec.toNat_setWidth]

theorem sextInt_eq (w : Nat) (hw : 0 < w) (x : BitVec w) : sextInt w x.toNat = x.toInt := by
  unfold sextInt
  rw [BitVec.toInt_eq_toNat_cond]
  have h2 : 2 ^ w = 2 * 2 ^ (w - 1) := by rw [← pow_succ', Nat.sub_add_cancel hw]
  have hx := x.isLt
  rw [Nat.mod_eq_of_lt hx]
  dsimp only
  split_ifs <;> first | rfl | omega

/-- An operand's integer (R342). -/
theorem intOf_eq (t : Nat) (x : W64) : intOf t x = intVal t (lowBits t x) := by
  unfold intOf intVal
  split
  · rw [← sextInt_eq _ (tBits_pos t), toNat_lowBits]
    unfold sextInt
    rw [Nat.mod_mod]
  · rw [toNat_lowBits]

theorem toNat_ofNat_lt (t : Nat) (n : Nat) (h : n < 2 ^ tBits t) : (BitVec.ofNat 64 n).toNat = n := by
  rw [BitVec.toNat_ofNat, Nat.mod_eq_of_lt]
  exact lt_of_lt_of_le h (Nat.pow_le_pow_right (by norm_num) (tBits_le t))

theorem wrapNat_lt (w : Nat) (x : Int) : wrapNat w x < 2 ^ w := by
  unfold wrapNat
  have : (0 : Int) < 2 ^ w := by positivity
  have h1 := Int.emod_nonneg x this.ne'
  have h2 := Int.emod_lt_of_pos x this
  zify
  omega

theorem wrapNat_eq (w : Nat) (x : Int) : wrapNat w x = (BitVec.ofInt w x).toNat := by
  unfold wrapNat
  rw [BitVec.toNat_ofInt]

/-- An operand under its negation flag (R272, R342). -/
theorem iopnd_eq (t : Nat) (neg : Bool) (x : W64) : iopnd t neg x = operand t neg x := by
  unfold iopnd operand negInt
  cases neg
  · simpa using intOf_eq t x
  · simp only [if_true]
    rw [intOf_eq]
    congr 1
    apply BitVec.eq_of_toNat_eq
    rw [toNat_lowBits, toNat_ofNat_lt _ _ (wrapNat_lt _ _), Nat.mod_eq_of_lt (wrapNat_lt _ _), wrapNat_eq, intOf_eq]
    congr 1
    rw [BitVec.ofInt_neg]
    congr 1
    unfold intVal
    split
    · exact BitVec.ofInt_toInt
    · rw [BitVec.ofInt_natCast, BitVec.ofNat_toNat, BitVec.setWidth_eq]

/-- A result as its register holds it (R84, R93, R266, R342). -/
theorem fitInt_eq (t : Nat) (sat : Bool) (r : Int) : fitInt t sat r = intResult t sat r := by
  unfold fitInt intResult extended clampInt
  generalize (if sat = true then max (intMin t) (min (intMax t) r) else r) = x
  simp only
  split
  · rw [wrapNat_eq, sextInt_eq _ (tBits_pos t)]
    rw [BitVec.signExtend]
  · apply BitVec.eq_of_toNat_eq
    rw [toNat_ofNat_lt _ _ (wrapNat_lt _ _), wrapNat_eq, BitVec.toNat_setWidth, Nat.mod_eq_of_lt]
    exact lt_of_lt_of_le (BitVec.isLt _) (Nat.pow_le_pow_right (by norm_num) (tBits_le t))

end Sys2Proof.Machine
end

