-- ==== Sys2Proof/Laws/Memory.lean ====
section
/-! SUPPORT. Every operation that writes DRAM, and the page tables in it, scratch or tiles keeps each store in its canonical form; an update of any
other part of the state leaves them alone. -/

namespace Sys2Proof.Machine

variable {s t : State}

theorem State.storesWf_congr (h : s.storesWf) (hm : t.mem = s.mem) (hs : t.scratch = s.scratch)
    (ht : t.tiles = s.tiles) : t.storesWf := by
  simp only [State.storesWf, hm, hs, ht]; exact h

theorem State.storesWf_mem (h : s.storesWf) {m : List Host.Cell} (hm : Memory.wf m) : ({ s with mem := m } : State).storesWf := ⟨hm, h.2⟩
theorem State.storesWf_scratch (h : s.storesWf) {m : List (Nat × Byte)} (hm : Sparse.wf (0 : Byte) m = true) :
    ({ s with scratch := m } : State).storesWf := ⟨h.1, hm, h.2.2⟩
theorem State.storesWf_tiles (h : s.storesWf) {m : List (Nat × W32)} (hm : Sparse.wf (0 : W32) m = true) :
    ({ s with tiles := m } : State).storesWf := ⟨h.1, h.2.1, hm⟩

theorem State.storesWf_modSlice (n : Nat) (f : Slice → Slice) (h : s.storesWf) : (s.modSlice n f).storesWf := h
theorem State.storesWf_modCore (c : Nat) (f : Core → Core) (h : s.storesWf) : (s.modCore c f).storesWf := h
theorem State.storesWf_modHost (f : HostIf → HostIf) (h : s.storesWf) : (s.modHost f).storesWf := h

/-- Reset memory, and every other store after reset, is in its canonical form. -/
theorem reset_storesWf : State.reset.storesWf := ⟨rfl, rfl, rfl⟩

/-- Pieces that are allocated hold zeros. -/
theorem State.allocPieces_storesWf (n m : Nat) {ps : List Nat} (h : s.storesWf) (e : s.allocPieces n m = some (t, ps)) : t.storesWf := by
  unfold State.allocPieces at e
  dsimp only at e
  split at e
  · exact absurd e (by simp)
  · simp only [Option.some.injEq, Prod.mk.injEq] at e
    rw [← e.1]
    exact State.storesWf_mem (State.storesWf_modSlice _ _ h) (Sparse.wf_foldl _ (fun _ _ hm => Sparse.wf_dropRange _ _ hm) _ h.1)

theorem State.allocPiece_storesWf (n : Nat) (h : s.storesWf) : (s.allocPiece n).1.storesWf := by
  rw [State.allocPiece]
  split
  · next e => exact State.allocPieces_storesWf _ _ h e
  · exact h

theorem State.installPieces_storesWf (sl n pk : Nat) (bs : List Byte) (h : s.storesWf) (ht : s.installPieces sl n pk bs = some t) :
    t.storesWf := by
  induction n generalizing s pk bs with
  | zero => simp only [State.installPieces, Option.some.injEq] at ht; exact ht ▸ h
  | succ n ih =>
    simp only [State.installPieces] at ht
    have ha := State.allocPiece_storesWf sl h
    split at ht
    · exact absurd ht (by simp)
    · next s1 p e =>
      rw [e] at ha
      exact ih _ _ (State.storesWf_modSlice _ _ (State.storesWf_mem ha (Sparse.wf_putList _ _ ha.1))) ht

theorem State.checkSector_storesWf (sl k : Nat) (h : s.storesWf) : (s.checkSector sl k).storesWf := by
  rw [State.checkSector]
  dsimp only
  repeat' split
  all_goals exact h

theorem State.checkSectors_storesWf (sl : Nat) (ks : List Nat) (h : s.storesWf) :
    (ks.foldl (fun (s : State) k => s.checkSector sl k) s).storesWf := by
  induction ks generalizing s with
  | nil => exact h
  | cons k ks ih => exact ih (State.checkSector_storesWf sl k h)

theorem State.expand_storesWf (sl pk r : Nat) (h : s.storesWf) : (s.expand sl pk r).storesWf := by
  unfold State.expand
  split
  · exact h
  · next b _ =>
    have hc := State.checkSectors_storesWf sl (b.sectors sl) h
    split
    · exact h
    · split
      · exact hc
      · dsimp only
        split
        · split
          · next e => exact State.storesWf_modSlice _ _ (State.installPieces_storesWf _ _ _ _ hc e)
          · exact hc
        · exact hc

theorem State.putPte_storesWf (dfn i : Nat) (p : W64) (h : s.storesWf) : (s.putPte dfn i p).storesWf := by
  rw [State.putPte]
  split
  · exact State.storesWf_mem h (Sparse.wf_putList _ _ h.1)
  · exact h

theorem State.newTable_storesWf (root : Option Nat) {d : Nat} (h : s.storesWf) (e : s.newTable root = some (t, d)) : t.storesWf := by
  unfold State.newTable at e
  simp only [Option.map_eq_some_iff] at e
  obtain ⟨⟨s1, ps⟩, ha, e⟩ := e
  simp only [Prod.mk.injEq] at e
  rw [← e.1]
  exact State.storesWf_congr (State.allocPieces_storesWf _ _ h ha) rfl rfl rfl

theorem State.tableUnder_storesWf (root dfn i : Nat) {d : Nat} (h : s.storesWf) (e : s.tableUnder root dfn i = some (t, d)) : t.storesWf := by
  unfold State.tableUnder at e
  dsimp only at e
  split at e
  · simp only [Option.some.injEq, Prod.mk.injEq] at e
    exact e.1 ▸ h
  · simp only [Option.map_eq_some_iff] at e
    obtain ⟨⟨s1, n⟩, hn, e⟩ := e
    simp only [Prod.mk.injEq] at e
    rw [← e.1]
    exact State.putPte_storesWf _ _ _ (State.newTable_storesWf _ h hn)

theorem State.leafTable_storesWf (root va : Nat) {d : Nat} (h : s.storesWf) (e : s.leafTable root va = some (t, d)) : t.storesWf := by
  unfold State.leafTable at e
  split at e
  · exact absurd e (by simp)
  · next e1 =>
    have h1 := State.tableUnder_storesWf _ _ _ h e1
    split at e
    · exact absurd e (by simp)
    · next e2 => exact State.tableUnder_storesWf _ _ _ (State.tableUnder_storesWf _ _ _ h1 e2) e

theorem State.writeLeaf_storesWf (asid va : Nat) (p : W64) (h : s.storesWf) : (s.writeLeaf asid va p).storesWf := by
  rw [State.writeLeaf]
  split
  · exact h
  · split
    · exact h
    · next e => exact State.storesWf_congr (State.putPte_storesWf _ _ p (State.leafTable_storesWf _ _ h e)) rfl rfl rfl

/-- Bytes under a mask: no byte is listed that reads as 0 (R124). -/
theorem putMasked_wf {m : List Host.Cell} (k : Nat) (x : W32) (mask : BitVec 4) (h : Memory.wf m) : Memory.wf (putMasked m k x mask) :=
  Sparse.wf_foldl _ (fun m i hm => by split <;> [exact Sparse.wf_put _ _ hm; exact hm]) _ h

/-- What `putMasked` leaves at an address (R124). -/
theorem get_putMasked (m : List Host.Cell) (k a : Nat) (x : W32) (mask : BitVec 4) :
    Sparse.get 0 (putMasked m k x mask) a =
      if k ≤ a ∧ a < k + 4 ∧ mask.getLsbD (a - k) = true then (x >>> (8 * (a - k))).truncate 8 else Sparse.get 0 m a := by
  have step : ∀ (m : List Host.Cell) (i : Nat),
      Sparse.get 0 (if mask.getLsbD i = true then Sparse.put 0 m (k + i) ((x >>> (8 * i)).truncate 8) else m) a =
        if a = k + i ∧ mask.getLsbD i = true then (x >>> (8 * i)).truncate 8 else Sparse.get 0 m a := by
    intro m i
    by_cases hi : mask.getLsbD i = true
    · simp [hi, Sparse.get_put]
    · simp [hi]
  simp only [putMasked, List.foldl_cons, List.foldl_nil, step]
  by_cases h3 : a = k + 3
  · subst h3; by_cases hb : mask.getLsbD 3 = true <;> simp [hb]
  by_cases h2 : a = k + 2
  · subst h2; by_cases hb : mask.getLsbD 2 = true <;> simp [hb]
  by_cases h1 : a = k + 1
  · subst h1; by_cases hb : mask.getLsbD 1 = true <;> simp [hb]
  by_cases h0 : a = k
  · subst h0; by_cases hb : mask.getLsbD 0 = true <;> simp [hb]
  have hn : ¬ (k ≤ a ∧ a < k + 4 ∧ mask.getLsbD (a - k) = true) := by omega
  simp [h3, h2, h1, hn, h0]

theorem State.putWord_storesWf (sl k : Nat) (x : W32) (mask : BitVec 4) (h : s.storesWf) : (s.putWord sl k x mask).storesWf := by
  unfold State.putWord
  dsimp only
  split
  · exact ⟨putMasked_wf _ _ _ (putMasked_wf _ _ _ h.1), h.2⟩
  · exact ⟨putMasked_wf _ _ _ h.1, h.2⟩

theorem State.scrWrite_storesWf (g : Group) (core off : Nat) (bs : List Byte) (h : s.storesWf) : (s.scrWrite g core off bs).storesWf :=
  State.storesWf_scratch h (Sparse.wf_foldl _ (fun _ _ hm => Sparse.wf_put _ _ hm) _ h.2.1)

theorem State.putTile_storesWf (g : Group) (core tile : Nat) (vs : List W32) (b : Bool) (h : s.storesWf) :
    (s.putTile g core tile vs b).storesWf :=
  State.storesWf_modCore _ _ (State.storesWf_tiles h (Sparse.wf_putBlock _ _ h.2.2))

theorem State.clearCore_storesWf (core : Nat) (gm tm : List Nat) (h : s.storesWf) : (s.clearCore core gm tm).storesWf :=
  ⟨h.1, Sparse.wf_foldl _ (fun _ _ hm => Sparse.wf_dropRange _ _ hm) _ h.2.1,
    Sparse.wf_foldl _ (fun _ _ hm => Sparse.wf_dropRange _ _ hm) _ h.2.2⟩

theorem State.putWindow_storesWf (core : Nat) (gm : List Nat) (bs : List (Nat × Byte)) (h : s.storesWf) :
    (s.putWindow core gm bs).storesWf :=
  State.storesWf_scratch h (Sparse.wf_foldl _ (fun _ _ hm => Sparse.wf_put _ _ hm) _ h.2.1)

theorem State.putTiles_storesWf (core : Nat) (tm : List Nat) (ws : List (Nat × W32)) (h : s.storesWf) :
    (s.putTiles core tm ws).storesWf :=
  State.storesWf_tiles h (Sparse.wf_foldl _ (fun _ _ hm => Sparse.wf_put _ _ hm) _ h.2.2)

theorem State.copyPiece_storesWf (sl a b : Nat) (h : s.storesWf) : (s.copyPiece sl a b).storesWf :=
  State.storesWf_modSlice _ _ (State.storesWf_mem h (Sparse.wf_putBlock _ _ h.1))

theorem State.walkFrom_storesWf (va n lv dfn : Nat) (h : s.storesWf) : (State.walkFrom va n lv dfn s).1.storesWf := by
  induction n generalizing s lv dfn with
  | zero => exact h
  | succ n ih =>
    rw [State.walkFrom]
    rcases s.pteKey? dfn (levelIndex lv va) with _ | k
    · dsimp only
      repeat' split
      all_goals first | exact h | exact ih _ _ h
    · dsimp only
      have hc := State.checkSector_storesWf (tableSlice dfn) k h
      repeat' split
      all_goals first | exact hc | exact ih _ _ hc

/-- Looking up a leaf changes no store: TLBs, corrected sectors and records for the host only. -/
theorem State.leaf_storesWf (sl asid va : Nat) (h : s.storesWf) : (s.leaf sl asid va).1.storesWf := by
  rw [State.leaf]
  split
  · exact h
  · split
    · exact h
    · exact h
    · have hw (root : Nat) : (s.walk root va).1.storesWf := State.walkFrom_storesWf _ _ _ _ h
      split
      · next root _ _ _ _ _ _ _ _ _ _ e =>
        have h1 := hw root
        rw [e] at h1
        exact State.storesWf_modSlice _ _ h1
      · exact hw _

theorem State.setPieces_storesWf (j : Job) (die va dfn n : Nat) (f : Nat → Indir → Indir) (h : s.storesWf) :
    (s.setPieces j die va dfn f n).storesWf := by
  induction n with
  | zero => exact h
  | succ n ih =>
    simp only [State.setPieces]
    split
    · exact State.storesWf_modSlice _ _ ih
    · exact ih

theorem State.zeroPieces_storesWf (j : Job) (die va dfn n : Nat) (skip : Option Nat) (h : s.storesWf) :
    (s.zeroPieces j die va dfn skip n).storesWf := by
  induction n with
  | zero => exact h
  | succ n ih =>
    simp only [State.zeroPieces]
    split
    · split
      · exact ih
      · exact State.storesWf_modSlice _ _ ih
    · exact ih

/-- Translating an access, with the piece that a write allocates and the block that a first access expands, keeps every store in its
canonical form (R157, R161). -/
theorem State.place_storesWf (j : Job) (die asid va : Nat) (acc : Acc) (h : s.storesWf) : (s.place j die asid va acc).1.storesWf := by
  rw [State.place]
  split
  · exact h
  · exact h
  · next sl _ =>
    have hl := State.leaf_storesWf sl asid va h
    split
    · next e => rw [e] at hl; exact hl
    · next e => rw [e] at hl; exact hl
    · next e => rw [e] at hl; exact hl
    · next s1 p large e =>
      rw [e] at hl
      dsimp only
      split
      · exact hl
      split
      · exact hl
      split
      · exact hl
      split
      · split
        · exact hl
        · have ha := State.allocPiece_storesWf sl hl
          split
          · next e => rw [e] at ha; exact ha
          · next e =>
            rw [e] at ha
            split
            · exact State.writeLeaf_storesWf _ _ _ (State.zeroPieces_storesWf _ _ _ _ _ _ (State.storesWf_modSlice _ _ ha))
            · exact State.storesWf_modSlice _ _ ha
      · split
        · exact hl
        · split <;> exact State.expand_storesWf _ _ _ hl
        · split <;> exact hl

end Sys2Proof.Machine
end

