-- ==== Sys2Proof/Machine/Integrity.lean ====
section
/-! DEFINITION. What DRAM holds of a sector: its ciphertext and its tag (R170 to R172; log 75). The model keeps the plain bytes, so
this is a view of the state; no agent of the package sees more of it than the bytes and the outcome of the check. -/

namespace Sys2Proof.Machine

/-! ## GF(2^8) and the code (R171) -/

/-- Times α in GF(2^8) under the polynomial 0x11D. -/
def gfDouble (x : Byte) : Byte := if x.getLsbD 7 then (x <<< 1) ^^^ 0x1D#8 else x <<< 1
/-- Product in GF(2^8): `n` bits of `b` from bit 0 up. -/
def gfMulBits : Nat → Byte → Byte → Byte
  | 0, _, _ => 0
  | n + 1, a, b => (if b.getLsbD 0 then a else 0) ^^^ gfMulBits n (gfDouble a) (b >>> 1)
def gfMul (a b : Byte) : Byte := gfMulBits 8 a b
/-- α^n. -/
def gfAlpha : Nat → Byte
  | 0 => 1
  | n + 1 => gfDouble (gfAlpha n)
/-- Coefficients, from x^0 up, of the generator with roots α^0 to α^(n - 1). -/
def rsGenerator : Nat → List Byte
  | 0 => [1]
  | n + 1 =>
    let g := rsGenerator n
    List.zipWith (· ^^^ ·) (g.map (gfMul (gfAlpha n)) ++ [0]) ([0] ++ g)
/-- One step of the division by the generator: the remainder times x, plus a data symbol times x^16. -/
def rsStep (rem : List Byte) (d : Byte) : List Byte :=
  let top := rem.getD 15 0 ^^^ d
  List.zipWith (· ^^^ ·) ((0 : Byte) :: rem.take 15) ((rsGenerator 16).take 16 |>.map (gfMul top))
/-- The 16 check symbols of data symbols (log 75: symbol i of the data is the coefficient of x^(16 + i)). -/
def rsCheck (data : List Byte) : List Byte := data.reverse.foldl rsStep (List.replicate 16 0)
/-- Syndrome j of a word of check symbols and data symbols: its value at α^j (R172). -/
def rsSyndrome (check data : List Byte) (j : Nat) : Byte :=
  (check ++ data).reverse.foldl (fun acc x => gfMul acc (gfAlpha j) ^^^ x) 0

/-! ## A sector in DRAM (R170, R171) -/

/-- The tweak and data-unit number: DFN · 2^9 + VA[15:7]; it stays when a sector migrates. -/
def sectorTweak (dfn va157 : Nat) : Nat := dfn * 2 ^ 9 + va157
/-- B: DFN[31:0] ‖ VA[15:7] ‖ VER ‖ KEY. -/
def bindBlock (dfn va157 ver key : Nat) : Nat := ((dfn % 2 ^ 32 * 2 ^ 9 + va157) * 2 ^ 8 + ver) * 2 ^ 8 + key
/-- A sector of a stack piece as DRAM holds it under a key, for the frame and the piece's place and version in it: the 128 ciphertext
bytes and the 16 bytes of the tag. -/
def State.sealedSector (s : State) (slice loc key dfn piece ver sector : Nat) : List Byte × List Byte :=
  let va157 := piece * 32 + sector
  let cipher := Config.aesXts key (sectorTweak dfn va157) (Sparse.getList 0 s.mem (physKey slice loc (128 * sector)) 128)
  let mask := Config.aesBlock key (toBytesLE 16 (bindBlock dfn va157 ver key))
  (cipher, List.zipWith (· ^^^ ·) (rsCheck cipher) mask)
/-- A sector of a page's local piece, under the key of its page. -/
def State.storedSector (s : State) (slice pk key sector : Nat) : Option (List Byte × List Byte) :=
  let e := (s.slice slice).entry pk
  if e.kind != 1 || sector ≥ 32 then none else some (s.sealedSector slice e.loc key (pk / 16) (pk % 16) e.ver sector)
/-- A sector of a page table, under key ID 0 (R152, R170). -/
def State.storedTable (s : State) (dfn piece sector : Nat) : Option (List Byte × List Byte) :=
  match Tab.get? (s.slice (tableSlice dfn)).tables dfn with
  | some (_, ps) => if sector ≥ 32 then none else ps[piece]?.map fun loc => s.sealedSector (tableSlice dfn) loc 0 dfn piece 0 sector
  | none => none

end Sys2Proof.Machine
end

