-- ==== Sys2Proof/Tests/Slice0.lean ====
section
/-! SUPPORT. Tests: the field checks, the decoder against words written out from the tables of R267 to R278 and R291, single steps against
results worked by hand from the rules, and for every statement with hypotheses a state that meets them. -/

namespace Sys2Proof.Machine.Tests

set_option maxRecDepth 100000
set_option Elab.async false

/-! ## Decoding: the words of the specification's own examples -/

/-- The encodings that the reference entries print beside their examples (R285, R298 to R395). -/
theorem test_decode_examples :
    decode 0x2038010080401080 = .iadd ⟨7, false, false, 1, 1, 1, 0, 2, 1, 0, 0⟩
    ∧ decode 0x30B8050080000000 = .popc ⟨7, false, false, 5, 1, 0, 0, 0, 0, 0, 0⟩
    ∧ decode 0x4838020080800420 = .fcmp ⟨7, false, false, 2, 1, 2, 0, 0, 8, 2, 0⟩
    ∧ decode 0x5038050080010550 = .fcvt ⟨7, false, false, 5, 1, 0, 8, 0, 10, 5, 0⟩
    ∧ decode 0x5078060080010090 = .f2i ⟨7, false, false, 6, 1, 0, 8, 0, 1, 1, 0⟩
    ∧ decode 0x50F8090080830580 = .fpack ⟨7, false, false, 9, 1, 2, 24, 0, 11, 0, 0⟩
    ∧ decode 0x6038050204001030 = .slx ⟨7, false, false, 5, 4, 16, 0, 2, 0, 3, 0⟩
    ∧ decode 0x3838040012345678 = .movi ⟨7, false, false, 4, 0, 0, 0x12345678⟩
    ∧ decode 0x103A060580000000 = .rdsr ⟨7, false, true, 6, 11, 0, 0, 0, 0, 0, 0⟩
    ∧ decode 0x107A000981400000 = .wrsr ⟨7, false, true, 0, 19, 5, 0, 0, 0, 0, 0⟩
    ∧ decode 0x843801000CA00000 = .stOp ⟨7, false, false, 1, 0, 6, 2, 2, 0, 0, 0⟩
    ∧ decode 0x803A060080F00000 = .ldOp ⟨7, false, true, 6, 1, 0, 3, 3, 0, 0, 0⟩
    ∧ decode 0x847A090300B30000 = .str ⟨7, false, true, 9, 6, 0, 2, 3, 0, 3, 0⟩
    ∧ decode 0x05F8000000000000 = .exitOp ⟨7, false, false, 0, 0, 0, 0⟩
    ∧ decode 0x0838800000000001 = .rjset ⟨7, false, false, 2, 0, 0, 1⟩
    ∧ decode 0x05B8140000000000 = .ret ⟨7, false, false, 0, 20, 0, 0⟩
    ∧ decode 0x0C38000000000004 = .svc ⟨7, false, false, 0, 0, 0, 4⟩
    ∧ decode 0x9CB8000300000000 = .rel ⟨7, false, false, 0, 0, 3, 0, 0⟩
    ∧ decode 0xA038000000060000 = .waith ⟨7, false, false, 0, 0, 0, 6, 0⟩
    ∧ decode 0xC4BA000000800000 = .mzero ⟨7, false, true, 0, false, 0, 0, 0, 128, 0⟩
    ∧ decode 0x0014000400000302 = .blockHeader ⟨5, 1, 0, 0, true, true, false, 0, 2⟩ := by decide

/-! ## Decoding: one word of every instruction, its fields laid out by the format's table -/

/-- Words of the register format (R270, R291), majors 0x04 to 0x0B. -/
def wordsRa : List (W64 × Instr) :=
  [(0x1018080580000000, .rdsr ⟨3, false, false, 8, 11, 0, 0, 0, 0, 0, 0⟩),
   (0x1058000983800000, .wrsr ⟨3, false, false, 0, 19, 14, 0, 0, 0, 0, 0⟩),
   (0x20180902FF80118A, .iadd ⟨3, false, false, 9, 5, 510, 0, 2, 3, 0, 10⟩),
   (0x20580902FF80118A, .isub ⟨3, false, false, 9, 5, 510, 0, 2, 3, 0, 10⟩),
   (0x209808020300AB01, .iaddc ⟨3, false, false, 8, 4, 12, 5, 1, 6, 0, 1⟩),
   (0x20DC090283800286, .imin ⟨3, true, false, 9, 5, 14, 0, 0, 5, 0, 6⟩),
   (0x211C090283800286, .imax ⟨3, true, false, 9, 5, 14, 0, 0, 5, 0, 6⟩),
   (0x2158090280000088, .iabs ⟨3, false, false, 9, 5, 0, 0, 0, 1, 0, 8⟩),
   (0x2198090283822108, .isad ⟨3, false, false, 9, 5, 14, 17, 0, 2, 0, 8⟩),
   (0x24180902FF80118A, .imul ⟨3, false, false, 9, 5, 510, 0, 2, 3, 0, 10⟩),
   (0x2458080203000384, .imulh ⟨3, false, false, 8, 4, 12, 0, 0, 7, 0, 4⟩),
   (0x249809028382A001, .imad ⟨3, false, false, 9, 5, 14, 21, 0, 0, 0, 1⟩),
   (0x24D808028382808F, .imadw ⟨3, false, false, 8, 5, 14, 20, 0, 1, 0, 15⟩),
   (0x281A090283800300, .andOp ⟨3, false, true, 9, 5, 14, 0, 0, 6, 0, 0⟩),
   (0x285A090283800300, .orOp ⟨3, false, true, 9, 5, 14, 0, 0, 6, 0, 0⟩),
   (0x289A090283800300, .xorOp ⟨3, false, true, 9, 5, 14, 0, 0, 6, 0, 0⟩),
   (0x28DA090283800300, .andn ⟨3, false, true, 9, 5, 14, 0, 0, 6, 0, 0⟩),
   (0x2918090280000080, .notOp ⟨3, false, false, 9, 5, 0, 0, 0, 1, 0, 0⟩),
   (0x2958090283826486, .lmix ⟨3, false, false, 9, 5, 14, 19, 0, 9, 0, 6⟩),
   (0x2C18090287C01000, .shl ⟨3, false, false, 9, 5, 31, 0, 2, 0, 0, 0⟩),
   (0x2C58090287C01000, .shr ⟨3, false, false, 9, 5, 31, 0, 2, 0, 0, 0⟩),
   (0x2C98090287C01000, .sar ⟨3, false, false, 9, 5, 31, 0, 2, 0, 0, 0⟩),
   (0x2CD8090287C01000, .rot ⟨3, false, false, 9, 5, 31, 0, 2, 0, 0, 0⟩),
   (0x2D18080203428300, .fshl ⟨3, false, false, 8, 4, 13, 20, 0, 6, 0, 0⟩)]

/-- Majors 0x0B to 0x12. -/
def wordsRb : List (W64 × Instr) :=
  [(0x3018090283800800, .bfe ⟨3, false, false, 9, 5, 14, 0, 1, 0, 0, 0⟩),
   (0x3058090283816000, .bfi ⟨3, false, false, 9, 5, 14, 11, 0, 0, 0, 0⟩),
   (0x3098090280000000, .popc ⟨3, false, false, 9, 5, 0, 0, 0, 0, 0, 0⟩),
   (0x30D8090280000000, .clz ⟨3, false, false, 9, 5, 0, 0, 0, 0, 0, 0⟩),
   (0x3118090280000000, .brev ⟨3, false, false, 9, 5, 0, 0, 0, 0, 0, 0⟩),
   (0x315809028382E000, .rbyte ⟨3, false, false, 9, 5, 14, 23, 0, 0, 0, 0⟩),
   (0x34180602838000D0, .icmp ⟨3, false, false, 6, 5, 14, 0, 0, 1, 5, 0⟩),
   (0x3458090283808401, .sel ⟨3, false, false, 9, 5, 14, 4, 0, 8, 0, 1⟩),
   (0x3498090003800800, .mov ⟨3, false, false, 9, 0, 14, 0, 1, 0, 0, 0⟩),
   (0x34D8080203806080, .lea ⟨3, false, false, 8, 4, 14, 3, 0, 1, 0, 0⟩),
   (0x3C1802018100C709, .plop ⟨3, false, false, 2, 3, 4, 6, 0, 14, 0, 9⟩),
   (0x3C580002800AA001, .pmov ⟨3, false, false, 0, 5, 0, 85, 0, 0, 0, 1⟩),
   (0x3C98090300000004, .ballot ⟨3, false, false, 9, 6, 0, 0, 0, 0, 0, 4⟩),
   (0x3CD8040100004004, .vchk ⟨3, false, false, 4, 2, 0, 2, 0, 0, 0, 4⟩),
   (0x40180902838004BE, .fadd ⟨3, false, false, 9, 5, 14, 0, 0, 9, 3, 14⟩),
   (0x40580902838004BE, .fsub ⟨3, false, false, 9, 5, 14, 0, 0, 9, 3, 14⟩),
   (0x40980902838004BE, .fmul ⟨3, false, false, 9, 5, 14, 0, 0, 9, 3, 14⟩),
   (0x40D8090283800412, .fmin ⟨3, false, false, 9, 5, 14, 0, 0, 8, 1, 2⟩),
   (0x4118090283800412, .fmax ⟨3, false, false, 9, 5, 14, 0, 0, 8, 1, 2⟩),
   (0x441808020302C74F, .ffma ⟨3, false, false, 8, 4, 12, 22, 0, 14, 4, 15⟩),
   (0x445809028380E515, .fdot2 ⟨3, false, false, 9, 5, 14, 7, 0, 10, 1, 5⟩),
   (0x449809028380EE20, .fdot4 ⟨3, false, false, 9, 5, 14, 7, 1, 12, 2, 0⟩),
   (0x4818030283800476, .fcmp ⟨3, false, false, 3, 5, 14, 0, 0, 8, 7, 6⟩),
   (0x4858090280000580, .fclass ⟨3, false, false, 9, 5, 0, 0, 0, 11, 0, 0⟩)]

/-- Majors 0x12 to 0x18. -/
def wordsRc : List (W64 × Instr) :=
  [(0x4C18090280000484, .frcp ⟨3, false, false, 9, 5, 0, 0, 0, 9, 0, 4⟩),
   (0x4C58090280000484, .frsq ⟨3, false, false, 9, 5, 0, 0, 0, 9, 0, 4⟩),
   (0x4C98090280000484, .fsqrt ⟨3, false, false, 9, 5, 0, 0, 0, 9, 0, 4⟩),
   (0x4CD8090280000484, .fexp2 ⟨3, false, false, 9, 5, 0, 0, 0, 9, 0, 4⟩),
   (0x4D18090280000484, .flog2 ⟨3, false, false, 9, 5, 0, 0, 0, 9, 0, 4⟩),
   (0x4D58090280000484, .fsin ⟨3, false, false, 9, 5, 0, 0, 0, 9, 0, 4⟩),
   (0x4D98090280000484, .fcos ⟨3, false, false, 9, 5, 0, 0, 0, 9, 0, 4⟩),
   (0x4DD8090280000484, .ftanh ⟨3, false, false, 9, 5, 0, 0, 0, 9, 0, 4⟩),
   (0x50180902800105D8, .fcvt ⟨3, false, false, 9, 5, 0, 8, 0, 11, 5, 8⟩),
   (0x50580902800141AC, .f2i ⟨3, false, false, 9, 5, 0, 10, 0, 3, 2, 12⟩),
   (0x509809028000A518, .i2f ⟨3, false, false, 9, 5, 0, 5, 0, 10, 1, 8⟩),
   (0x50D80902838706DE, .fpack ⟨3, false, false, 9, 5, 14, 56, 0, 13, 5, 14⟩),
   (0x5118090280058400, .funpk ⟨3, false, false, 9, 5, 0, 44, 0, 8, 0, 0⟩),
   (0x5158090280000424, .frnd ⟨3, false, false, 9, 5, 0, 0, 0, 8, 2, 4⟩),
   (0x5418090283800536, .hadd2 ⟨3, false, false, 9, 5, 14, 0, 0, 10, 3, 6⟩),
   (0x5458090283800536, .hmul2 ⟨3, false, false, 9, 5, 14, 0, 0, 10, 3, 6⟩),
   (0x549809028383C481, .hfma2 ⟨3, false, false, 9, 5, 14, 30, 0, 9, 0, 1⟩),
   (0x6018090284001030, .slx ⟨3, false, false, 9, 5, 16, 0, 2, 0, 3, 0⟩),
   (0x60580902800000A1, .lred ⟨3, false, false, 9, 5, 0, 0, 0, 1, 2, 1⟩),
   (0x6098090280000051, .lscan ⟨3, false, false, 9, 5, 0, 0, 0, 0, 5, 1⟩),
   (0x60D8090300000005, .lcnt ⟨3, false, false, 9, 6, 0, 0, 0, 0, 0, 5⟩)]

/-- The memory format (R274), and MOVI (R273). -/
def wordsM : List (W64 × Instr) :=
  [(0x80180C031524FFF8, .ldOp ⟨3, false, false, 12, 6, 10, 4, 2, 1, 0, 65528⟩),
   (0x80580C031493FFF8, .lda ⟨3, false, false, 12, 6, 10, 2, 1, 0, 3, 65528⟩),
   (0x80980C0014C8FFF8, .expld ⟨3, false, false, 12, 0, 10, 3, 0, 2, 0, 65528⟩),
   (0x80D800030030FFF8, .prf ⟨3, false, false, 0, 6, 0, 0, 3, 0, 0, 65528⟩),
   (0x841A0C0300F00018, .stOp ⟨3, false, true, 12, 6, 0, 3, 3, 0, 0, 24⟩),
   (0x84580C0314A2FFF8, .str ⟨3, false, false, 12, 6, 10, 2, 2, 0, 2, 65528⟩),
   (0x84980C001440FFF8, .cmpst ⟨3, false, false, 12, 0, 10, 1, 0, 0, 0, 65528⟩),
   (0x88180C031420FFF8, .lds ⟨3, false, false, 12, 6, 10, 0, 2, 0, 0, 65528⟩),
   (0x88580C031440FFF8, .sts ⟨3, false, false, 12, 6, 10, 1, 0, 0, 0, 65528⟩),
   (0x8E580C0314E0FFF8, .atom 9 ⟨3, false, false, 12, 6, 10, 3, 2, 0, 0, 65528⟩),
   (0x91D8000314A4FFF8, .atoms 7 ⟨3, false, false, 0, 6, 10, 2, 2, 1, 0, 65528⟩),
   (0x381E2580C2000001, .movi ⟨3, true, true, 37, 8, 0, 0xC2000001⟩)]

/-- The control format (R276). -/
def wordsC : List (W64 × Instr) :=
  [(0x043800FFFFFE0000, .bra ⟨7, false, false, 0, 0, 16777214, 0⟩),
   (0x0454000000050000, .brc ⟨2, true, false, 0, 0, 5, 0⟩),
   (0x04B8098000000005, .bru ⟨7, false, false, 0, 9, 8388608, 5⟩),
   (0x04F800000000020A, .brx ⟨7, false, false, 0, 0, 0, 522⟩),
   (0x0538140000070000, .call ⟨7, false, false, 0, 20, 7, 0⟩),
   (0x0578150000000021, .callx ⟨7, false, false, 0, 21, 0, 33⟩),
   (0x05B8160000000000, .ret ⟨7, false, false, 0, 22, 0, 0⟩),
   (0x05CC000000000000, .exitOp ⟨1, true, false, 0, 0, 0, 0⟩),
   (0x0600000000000FFF, .yield ⟨0, false, false, 0, 0, 0, 4095⟩),
   (0x0660000000000000, .nop ⟨4, false, false, 0, 0, 0, 0⟩),
   (0x0809480000000000, .rjset ⟨1, false, false, 5, 8, 0, 0⟩),
   (0x0871C00000000000, .rjoin ⟨6, false, false, 7, 0, 0, 0⟩),
   (0x08ACC00000000000, .rjdrop ⟨5, true, false, 3, 0, 0, 0⟩),
   (0x0C38000000000004, .svc ⟨7, false, false, 0, 0, 0, 4⟩),
   (0x0C5000000000ABCD, .trapOp ⟨2, false, false, 0, 0, 0, 43981⟩),
   (0x0CB800000000FFFF, .bkpt ⟨7, false, false, 0, 0, 0, 65535⟩),
   (0x0CF8000000000000, .rte ⟨7, false, false, 0, 0, 0, 0⟩)]

/-- The synchronisation format (R277); WAITC by R177. -/
def wordsS : List (W64 × Instr) :=
  [(0x9438001400100040, .bar ⟨7, false, false, 0, 5, 0, 16, 64⟩),
   (0x947821180000FFFF, .bararv ⟨7, false, false, 33, 6, 0, 0, 65535⟩),
   (0x94B8211880010000, .barwt ⟨7, false, false, 33, 6, 0, 32769, 0⟩),
   (0x9838001C00000FFF, .tbinit ⟨7, false, false, 0, 7, 0, 0, 4095⟩),
   (0x9878281C00001234, .tbarv ⟨7, false, false, 40, 7, 0, 0, 4660⟩),
   (0x98B8291C000000FF, .tbwait ⟨7, false, false, 41, 7, 0, 0, 255⟩),
   (0x98F82A1C00000000, .tbtest ⟨7, false, false, 42, 7, 0, 0, 0⟩),
   (0x9C38000300000000, .fence ⟨7, false, false, 0, 0, 3, 0, 0⟩),
   (0x9C500002A5A50000, .acq ⟨2, false, false, 0, 0, 2, 42405, 0⟩),
   (0x9CBC000100000000, .rel ⟨7, true, false, 0, 0, 1, 0, 0⟩),
   (0x9CF8000000000000, .ofence ⟨7, false, false, 0, 0, 0, 0, 0⟩),
   (0x9D3800000C5FC900, .waitc ⟨7, false, false, 0, 0, 0, 3167, 51456⟩),
   (0xA038000080010000, .waith ⟨7, false, false, 0, 0, 0, 32769, 0⟩),
   (0xA0783200FFFF0000, .htest ⟨7, false, false, 50, 0, 0, 65535, 0⟩),
   (0xA0B8000000020000, .hcancel ⟨7, false, false, 0, 0, 0, 2, 0⟩),
   (0xA0F80F200000FFF0, .hsave ⟨7, false, false, 15, 8, 0, 0, 65520⟩),
   (0xA1380E2400000010, .hload ⟨7, false, false, 14, 9, 0, 0, 16⟩)]

/-- The engine format (R278). -/
def wordsE : List (W64 × Instr) :=
  [(0xC03B32C000000000, .cpy ⟨7, false, true, 9, true, 11, 0, 0, 0, 0⟩),
   (0xC07A030D38000000, .cpyt ⟨7, false, true, 0, false, 12, 13, 14, 0, 0⟩),
   (0xC0BBF30D38000000, .cpyr ⟨7, false, true, 15, true, 12, 13, 14, 0, 0⟩),
   (0xC0FA000500008000, .advst ⟨7, false, true, 0, false, 0, 5, 0, 0, 32768⟩),
   (0xC43A13D047FF07FF, .mloop ⟨7, false, true, 0, true, 15, 16, 17, 1023, 2047⟩),
   (0xC47A03D044010004, .mloopl ⟨7, false, true, 0, false, 15, 16, 17, 1, 4⟩),
   (0xC4BA00000080007F, .mzero ⟨7, false, true, 0, false, 0, 0, 0, 128, 127⟩),
   (0xC4FA00124C003264, .mrd ⟨7, false, true, 0, false, 0, 18, 19, 0, 12900⟩),
   (0xC53A00124C000105, .mwr ⟨7, false, true, 0, false, 0, 18, 19, 0, 261⟩),
   (0xC57A70000000BEEF, .mtwin ⟨7, false, true, 3, true, 0, 0, 0, 0, 48879⟩),
   (0xC83A351558000000, .gmv ⟨7, false, true, 1, true, 20, 21, 22, 0, 0⟩),
   (0xC87A051558000000, .gmvl ⟨7, false, true, 0, false, 20, 21, 22, 0, 0⟩),
   (0xCC3A001703090006, .pleat ⟨7, false, true, 0, false, 0, 23, 0, 777, 6⟩),
   (0xCC7A060000000007, .patld ⟨7, false, true, 0, false, 24, 0, 0, 0, 7⟩)]

theorem test_decode_wordsRa : ∀ x ∈ wordsRa, decode x.1 = x.2 ∧ WellFormed x.2 = true ∧ encode x.2 = some x.1 := by decide

theorem test_decode_wordsRb : ∀ x ∈ wordsRb, decode x.1 = x.2 ∧ WellFormed x.2 = true ∧ encode x.2 = some x.1 := by decide

theorem test_decode_wordsRc : ∀ x ∈ wordsRc, decode x.1 = x.2 ∧ WellFormed x.2 = true ∧ encode x.2 = some x.1 := by decide

theorem test_decode_wordsM : ∀ x ∈ wordsM, decode x.1 = x.2 ∧ WellFormed x.2 = true ∧ encode x.2 = some x.1 := by decide

theorem test_decode_wordsC : ∀ x ∈ wordsC, decode x.1 = x.2 ∧ WellFormed x.2 = true ∧ encode x.2 = some x.1 := by decide

theorem test_decode_wordsS : ∀ x ∈ wordsS, decode x.1 = x.2 ∧ WellFormed x.2 = true ∧ encode x.2 = some x.1 := by decide

theorem test_decode_wordsE : ∀ x ∈ wordsE, decode x.1 = x.2 ∧ WellFormed x.2 = true ∧ encode x.2 = some x.1 := by decide
/-! ## Field checks: for each check a term that it refuses (check 6 of R294) -/

/-- A register word whose fields every entry's limits accept, up to those an entry fixes. -/
def r0 : RFmt := ⟨7, false, false, 4, 2, 6, 0, 0, 0, 0, 0⟩
def m0 : MFmt := ⟨7, false, false, 4, 2, 6, 2, 0, 0, 0, 0⟩
def c0 : CFmt := ⟨7, false, false, 0, 0, 0, 0⟩
def s0 : SFmt := ⟨7, false, false, 0, 0, 0, 0, 0⟩
def e0 : EFmt := ⟨7, false, true, 0, false, 0, 0, 0, 0, 0⟩

theorem test_refuses_header : ∀ i ∈ ([.blockHeader ⟨0, 1, 0, 0, false, true, false, 0, 2⟩, .blockHeader ⟨1, 1, 0, 0, false, true, false, 1, 2⟩,
    .blockHeader ⟨1, 1, 0, 0, false, true, false, 0, 3⟩, .retiredB5Operation 0] : List Instr), WellFormed i = false := by decide

/-- Types, M codes, flags, BK 11, C and the uniform form, where an entry does not list them (R266, R270, R271, R272). -/
theorem test_refuses_register_words : ∀ i ∈ ([.rdsr { r0 with b := 0, a := 64 }, .rdsr { r0 with b := 6 }, .wrsr { r0 with d := 0, bk := 1 },
    .wrsr r0, .wrsr { r0 with d := 0, a := 64 }, .iadd { r0 with t := 8 }, .iadd { r0 with m := 1 }, .isub { r0 with f := 1 }, .iadd { r0 with bk := 3 },
    .isub { r0 with c := 1 }, .iaddc { r0 with u := true }, .iaddc { r0 with t := 1 }, .iaddc { r0 with c := 8 }, .imin { r0 with f := 8 },
    .imax { r0 with t := 9 }, .iabs { r0 with b := 0, t := 0 }, .iabs { r0 with t := 1 }, .isad { r0 with f := 4 }, .imul { r0 with c := 2 },
    .imulh { r0 with t := 3 }, .imulh { r0 with f := 8 }, .imad { r0 with t := 14 }, .imadw { r0 with t := 6 }, .andOp { r0 with t := 2 },
    .orOp { r0 with f := 4 }, .xorOp { r0 with m := 2 }, .andn { r0 with c := 1 }, .notOp r0, .lmix { r0 with m := 1 }, .shl { r0 with t := 4 },
    .shr { r0 with f := 2 }, .sar { r0 with bk := 3 }, .rot { r0 with c := 3 }, .fshl { r0 with t := 1 }, .bfe { r0 with bk := 2 },
    .bfi { r0 with bk := 2 }, .popc { r0 with b := 0, bk := 1 }, .clz r0, .brev { r0 with b := 0, t := 8 }, .rbyte { r0 with t := 1 },
    .icmp { r0 with m := 6 }, .icmp { r0 with d := 8 }, .icmp { r0 with u := true }, .sel { r0 with c := 8 }, .sel { r0 with t := 9 },
    .mov r0, .lea { r0 with c := 8 }] : List Instr), WellFormed i = false := by decide

theorem test_refuses_other_register_words : ∀ i ∈ ([.movi ⟨7, false, false, 4, 2, 0, 0⟩, .movi ⟨7, false, false, 4, 0, 1, 0⟩,
    .plop { r0 with bk := 1 }, .plop { r0 with d := 8 }, .plop { r0 with a := 8 }, .plop { r0 with b := 8 }, .plop { r0 with c := 8 },
    .pmov { r0 with b := 0 }, .pmov { r0 with b := 0, f := 1 }, .pmov { r0 with b := 0, d := 0, f := 1, c := 128 }, .ballot { r0 with b := 0, a := 8 },
    .ballot { r0 with b := 0, f := 8 }, .vchk { r0 with b := 0, c := 4 }, .vchk { r0 with b := 0, d := 8 }, .vchk { r0 with b := 0, a := 8 },
    .fadd { r0 with t := 11 }, .fsub { r0 with t := 8, m := 5 }, .fmul { r0 with t := 8, f := 1 }, .fmin { r0 with t := 8, m := 2 },
    .fmax { r0 with t := 8, f := 8 }, .ffma { r0 with t := 0 }, .fdot2 { r0 with t := 8 }, .fdot2 { r0 with t := 9, u := true },
    .fdot4 { r0 with t := 9 }, .fdot4 { r0 with t := 11, bk := 2 }, .fcmp { r0 with t := 8, d := 8 }, .fcmp { r0 with t := 8, c := 1 },
    .fclass { r0 with b := 0, t := 13 }, .frcp { r0 with b := 0, t := 10 }, .frsq { r0 with b := 0, t := 8, f := 8 }, .fsqrt { r0 with t := 8 },
    .fexp2 { r0 with b := 0, t := 14 }, .flog2 { r0 with b := 0, t := 8, u := true }, .fsin { r0 with b := 0, t := 8, m := 1 },
    .fcos { r0 with b := 0, t := 8, c := 1 }, .ftanh { r0 with b := 0, t := 14 }, .fcvt { r0 with b := 0, t := 8, c := 14, m := 5 },
    .fcvt { r0 with b := 0, t := 8, c := 0 }, .f2i { r0 with b := 0, t := 0, c := 13 }, .i2f { r0 with b := 0, t := 8, c := 8 },
    .fpack { r0 with t := 9, c := 24 }, .fpack { r0 with t := 9, c := 9 }, .funpk { r0 with b := 0, t := 8, c := 41 },
    .funpk { r0 with b := 0, t := 9, c := 9 }, .frnd { r0 with b := 0, t := 8, m := 5 }, .hadd2 { r0 with t := 8 }, .hmul2 { r0 with t := 9, f := 1 },
    .hfma2 { r0 with t := 9, m := 5 }, .slx { r0 with m := 4 }, .slx { r0 with u := true }, .lred { r0 with b := 0, m := 3, t := 8 },
    .lred { r0 with b := 0, m := 6 }, .lred { r0 with b := 0, f := 9, m := 1 }, .lred { r0 with b := 0, f := 1, d := 64 },
    .lscan { r0 with b := 0, f := 2 }, .lcnt { r0 with b := 0, a := 8 }, .lcnt { r0 with b := 0, f := 1, d := 64 }] : List Instr),
    WellFormed i = false := by decide

/-- Sizes, address modes, cache hints, scopes and operations of the memory format (R274, R275, R297). -/
theorem test_refuses_memory_words : ∀ i ∈ ([.ldOp { m0 with sz := 5 }, .ldOp { m0 with sz := 4, u := true }, .ldOp { m0 with ch := 3 },
    .ldOp { m0 with sc := 1 }, .ldOp { m0 with am := 3 }, .ldOp { m0 with am := 3, sb := 0, a := 3 }, .stOp { m0 with sc := 2 }, .lda { m0 with ch := 3 },
    .str { m0 with sz := 7 }, .prf m0, .prf { m0 with d := 0 }, .lds { m0 with ch := 1 }, .sts { m0 with sc := 1 }, .expld m0,
    .expld { m0 with a := 0, sz := 4 }, .cmpst { m0 with a := 0, am := 1 }, .cmpst { m0 with a := 0, u := true }, .atom 11 m0,
    .atom 0 { m0 with a := 3 }, .atom 0 { m0 with sz := 1 }, .atom 10 { m0 with sz := 3 }, .atom 0 { m0 with ch := 1 }, .atom 0 { m0 with ch := 2 },
    .atom 0 { m0 with u := true }, .atoms 0 { m0 with sc := 1 }] : List Instr), WellFormed i = false := by decide

theorem test_refuses_control_words : ∀ i ∈ ([.bra { c0 with g := 3 }, .bra { c0 with imm := 1 }, .brc { c0 with rj := 1 }, .bru { c0 with imm := 6 },
    .bru { c0 with gn := true }, .brx { c0 with imm := 64 }, .brx { c0 with imm := 513 }, .brx { c0 with off := 1 }, .brx { c0 with imm := 1024 },
    .call { c0 with rj := 2 }, .callx { c0 with imm := 64 }, .ret { c0 with off := 1 }, .exitOp { c0 with imm := 1 }, .nop { c0 with sx := 1 },
    .yield { c0 with imm := 4096 }, .rjset { c0 with imm := 2 }, .rjset { c0 with imm := 1, sx := 3 }, .rjoin { c0 with sx := 1 },
    .rjdrop { c0 with imm := 1 }, .svc { c0 with off := 1 }, .trapOp { c0 with rj := 1 }, .bkpt { c0 with u := true }, .rte { c0 with g := 0 },
    .rte { c0 with imm := 1 }] : List Instr), WellFormed i = false := by decide

theorem test_refuses_synchronisation_words : ∀ i ∈ ([.bar s0, .bar { s0 with imm := 1, d := 1 }, .bar { s0 with imm := 1, sc := 1 }, .bararv s0,
    .bararv { s0 with imm := 1, d := 64 }, .barwt { s0 with imm := 1 }, .tbinit s0, .tbinit { s0 with imm := 4096 }, .tbinit { s0 with imm := 1, mask := 1 },
    .tbarv { s0 with mask := 1 }, .tbwait { s0 with imm := 256 }, .tbtest { s0 with imm := 1 }, .fence { s0 with mask := 1 }, .rel { s0 with imm := 1 },
    .acq { s0 with sa := 1 }, .ofence { s0 with sc := 1 }, .waitc { s0 with imm := 1 }, .waitc { s0 with d := 1 }, .waith s0, .waith { s0 with mask := 1, sa := 1 },
    .htest { s0 with imm := 1 }, .hcancel { s0 with d := 1 }, .hsave { s0 with d := 16 }, .hload { s0 with mask := 1 }] : List Instr),
    WellFormed i = false := by decide

theorem test_refuses_engine_words : ∀ i ∈ ([.cpy { e0 with u := false }, .cpy { e0 with hd := 1 }, .cpy { e0 with sx := 1 }, .cpyt { e0 with n := 1 },
    .cpyr { e0 with imm := 1 }, .advst { e0 with hv := true }, .advst { e0 with sd := 1 }, .mloop e0, .mloop { e0 with n := 1, imm := 2048 },
    .mloopl { e0 with hd := 2, n := 1 }, .mzero e0, .mzero { e0 with n := 129 }, .mzero { e0 with n := 1, imm := 128 }, .mrd { e0 with imm := 128 },
    .mrd { e0 with imm := 768 }, .mrd { e0 with imm := 1024 }, .mrd { e0 with imm := 0x1500 }, .mwr { e0 with imm := 1024 }, .mwr { e0 with sd := 1 },
    .mtwin { e0 with n := 1 }, .gmv { e0 with imm := 1 }, .gmvl { e0 with u := false }, .pleat { e0 with imm := 8 }, .patld { e0 with sx := 1 },
    .patld { e0 with imm := 8 }] : List Instr), WellFormed i = false := by decide

/-! ## Single steps; the expected values are the worked examples of the rules, or worked by hand from them -/

def tid : SkId := ⟨0, 0⟩
/-- The skein after one step that issues the word, its registers first set by `f`; none once it has left its slot. -/
def ran (w : W64) (f : Skein → Skein := id) : Option Skein :=
  match step ((State.reset.loadWord w).modSkein tid f) with
  | .next t => t.skein? tid
  | _ => none
/-- Vector register `r` of lanes 0, 1, … set to the values. -/
def vals (r : Nat) (xs : List W32) (k : Skein) : Skein := xs.zipIdx.foldl (fun k x => k.setV r x.2 x.1) k
/-- Vector register `r` of lanes 0 to n − 1. -/
def lanesOf (r n : Nat) (k : Option Skein) : Option (List W32) := k.map fun k => (List.range n).map (k.v r)
/-- What one step leaves, seen through `f`. -/
def stepped {α : Type} (s : State) (f : State → α) : Option α :=
  match step s with
  | .next t => some (f t)
  | _ => none

/-- R342, R344: 2^31 − 1 plus 1 wraps; −1 plus 1 is 0. -/
theorem test_iadd_wraps : lanesOf 1 3 (ran 0x2038010080401080 (vals 1 [0x7FFFFFFF, 0xFFFFFFFF, 5])) = some [0x80000000, 0, 6] := by decide +kernel
theorem test_iadd_saturates : lanesOf 1 2 (ran 0x2038010080401088 (vals 1 [0x7FFFFFFF, 0x80000000])) = some [0x7FFFFFFF, 0x80000001] := by
  decide +kernel
/-- R84: a U8 result is zero-extended; 3 − 5 clamps to 0. -/
theorem test_isub_u8_saturates : lanesOf 3 2 (ran 0x2078030080800208 fun k => vals 2 [5, 1] (vals 1 [3, 0x1FF] k)) = some [0, 0xFE] := by
  decide +kernel
/-- R347: the high half of −1 · 1 and of (−2^31)². -/
theorem test_imulh : lanesOf 3 2 (ran 0x2478030080800080 fun k => vals 2 [1, 0x80000000] (vals 1 [0xFFFFFFFF, 0x80000000] k))
    = some [0xFFFFFFFF, 0x40000000] := by decide +kernel
/-- R345: the carry goes to p1, from p1 as it was. -/
theorem test_iaddc : ((ran 0x20B8030080802000 fun k => (vals 2 [1, 1] (vals 1 [0xFFFFFFFF, 4] k)).setP 1 0b10).map fun k =>
    (k.v 3 0, k.v 3 1, k.p 1)) = some (0, 6, 1) := by decide +kernel
/-- R357: truth table 0x96 is the exclusive or of three. -/
theorem test_lmix_xor3 : lanesOf 3 1 (ran 0x2978030080808486 fun k => vals 4 [0xAA] (vals 2 [0xCC] (vals 1 [0xF0] k))) = some [0x96] := by
  decide +kernel
/-- R378: counts of the width or more. -/
theorem test_shl_by_width : lanesOf 3 2 (ran 0x2C38030080800000 fun k => vals 2 [32, 31] (vals 1 [1, 3] k)) = some [0, 0x80000000] := by
  decide +kernel
theorem test_sar_beyond_width : lanesOf 3 2 (ran 0x2CB8030080800080 fun k => vals 2 [40, 4] (vals 1 [0x80000000, 0x70] k)) = some [0xFFFFFFFF, 7] := by
  decide +kernel
/-- R307's example: a = 0x0000_0F40, position 4, length 8. -/
theorem test_bfe_signed : lanesOf 3 2 (ran 0x3038030080800080 fun k => vals 2 [0x804, 0x81C] (vals 1 [0xF40, 0x90000000] k))
    = some [0xFFFFFFF4, 0xFFFFFFF9] := by decide +kernel
theorem test_clz : lanesOf 3 3 (ran 0x30F8030080000000 (vals 1 [0, 1, 0x80000000])) = some [32, 31, 0] := by decide +kernel
/-- R295, R346: −1 < 1 signed, not unsigned. -/
theorem test_icmp_lt_signed : ((ran 0x34380100808000A0 fun k => vals 2 [1, 1] (vals 1 [0xFFFFFFFF, 1] k)).map (·.p 1)) = some 1 := by decide +kernel
/-- R90, R329: 1 + 2^−24 is a tie, to even; toward +∞ it goes up; NaN is canonical. -/
theorem test_fadd_rounds : lanesOf 3 2 (ran 0x4038030080800400 fun k => vals 2 [0x33800000, 0x3F800000] (vals 1 [0x3F800000, 0xFFC12345] k))
    = some [0x3F800000, 0x7FC00000] := by decide +kernel
theorem test_fadd_up : lanesOf 3 1 (ran 0x4038030080800430 fun k => vals 2 [0x33800000] (vals 1 [0x3F800000] k)) = some [0x3F800001] := by
  decide +kernel
/-- R91: −0 is below +0; a number wins over NaN. -/
theorem test_fmin : lanesOf 3 2 (ran 0x40F8030080800400 fun k => vals 2 [0, 0x40000000] (vals 1 [0x80000000, 0x7FC00000] k))
    = some [0x80000000, 0x40000000] := by decide +kernel
/-- R96: (1 + 2^−12)² − 1 keeps its last bit: 2^−11 + 2^−24. -/
theorem test_ffma_rounds_once : lanesOf 3 1 (ran 0x4438030080808400 fun k => vals 4 [0xBF800000] (vals 2 [0x3F800800] (vals 1 [0x3F800800] k)))
    = some [0x3A000400] := by decide +kernel
/-- R93: toward zero; NaN gives 0; out of range clamps. -/
theorem test_f2i : lanesOf 3 4 (ran 0x5078030080010090 (vals 1 [0x4039999A, 0x7FC00000, 0x501502F9, 0xCF000001])) = some [2, 0, 0x7FFFFFFF, 0x80000000] := by
  decide +kernel
/-- R90: 65,520 overflows F16, 65,519 does not. -/
theorem test_fcvt_overflow : lanesOf 3 2 (ran 0x5038030080010480 (vals 1 [0x477FF000, 0x477FEF00])) = some [0x7C00, 0x7BFF] := by decide +kernel
/-- R381: flip by 16. -/
theorem test_slx_flip : ((ran 0x6038050204001030 fun k => (k.setV 4 16 7).setV 4 0 9).map fun k => (k.v 5 0, k.v 5 16)) = some (7, 9) := by
  decide +kernel
/-- R350: an exclusive scan of sums. -/
theorem test_lscan_exclusive : lanesOf 3 4 (ran 0x60B8030080000001 (vals 1 [5, 6, 7, 8])) = some [0, 5, 11, 18] := by decide +kernel
/-- R85: SR_LANE. -/
theorem test_rdsr_lane : lanesOf 3 3 (ran 0x1038030000000000) = some [0, 1, 2] := by decide +kernel
/-- R360: an F64 immediate is an F32 value, widened: 1.5. -/
theorem test_movi_f64 : ((ran 0x383804E03FC00000).map fun k => k.v64 4 31) = some 0x3FF8000000000000 := by decide +kernel
/-- R109, R385: a store reaches the group's scratch, and only its bytes. -/
theorem test_sts : stepped ((State.reset.loadWord 0x887804010C900000).modSkein tid fun k => vals 4 [0x11223344] (vals 2 ((List.range 32).map fun l => BitVec.ofNat 32 (4 * l)) k))
    (fun t => t.scratch) = some [(0, 0x44), (1, 0x33), (2, 0x22), (3, 0x11)] := by decide +kernel
/-- R127: a load of a line that the L1 lacks asks the home and counts in L. -/
theorem test_ld_asks : stepped ((State.reset.loadWord 0x803A060080F00000).modSkein tid fun k => k.setS 1 0x10008)
    (fun t => (t.net.map (·.kind), t.skeins.map fun x => x.2.cntL)) = some ([.rdq], [1]) := by decide +kernel
/-- R311: a branch to the block's own header. -/
theorem test_bra : ((ran 0x043800FFFFFF0000).map fun k => k.live.map fun x => (x.2.pc, x.2.blk.isSome)) = some [(0x10000, false)] := by decide +kernel
/-- R80, R308: with a debugger attached the skein stops at the next word, and the vector is not entered. -/
theorem test_bkpt_debugged : stepped ((State.reset.loadWord 0x0CB8000000000009).modWork fun w => { w with jobs := w.jobs.map fun j => { j with debugger := true } })
    (fun t => t.skeins.map fun x => (x.2.stopped, x.2.trap.isSome, x.2.live.map fun y => y.2.pc)) = some [(true, false, [0x10010])] := by decide +kernel
/-- R239, R388: a trap in trap mode is a double trap; the launch fails with its cause, at the next word. -/
theorem test_double_trap : stepped ((State.reset.loadWord 0x0C78000000000005).modSkein tid fun k => { k with trap := some ⟨0x10008, 0, 1, none, none, 1, false, false⟩ })
    (fun t => (t.skeins.length, t.work.launches.map fun l => (l.ending, l.cause, l.failPc))) = some (0, [(some 2, 0x10, 0x10010)]) := by decide +kernel
/-- R242's example: an emulated signed divide. -/
theorem test_emulated_divide : (emulated 0x5838040080800080).map (fun g => [g 7 2, g 0xFFFFFFF9 2, g 5 0, g 9 0xFFFFFFFD, g 0x80000000 0xFFFFFFFF])
    = some [3, 0xFFFFFFFD, 0xFFFFFFFF, 0xFFFFFFFD, 0x80000000] := by decide +kernel
/-- R321: the last EXIT takes the skein with it. -/
theorem test_exit : ran 0x05F8000000000000 = none := by decide +kernel
/-- R243: SVC 4 posts a request with s2 to s5. -/
theorem test_svc : stepped ((State.reset.loadWord 0x0C38000000000004).modSkein tid fun k => k.setS 2 77)
    (fun t => (t.skeins.length, t.work.svcs.map fun q => (q.service, q.args.headD 0))) = some (0, [(4, 77)]) := by decide +kernel
/-- R275: a misaligned access traps at the word. -/
theorem test_ld_misaligned : stepped ((State.reset.loadWord 0x803A060080F00000).modSkein tid fun k => k.setS 1 0x10004)
    (fun t => (t.skein? tid).bind fun k => k.trap.map fun m => (m.cause, m.entryPc, m.strand)) = some (some (0x04, 0x10008, 0)) := by decide +kernel
/-- R214: a link comes up. -/
theorem test_link_up : stepped { State.reset with agenda := [.event (.linkUp 3 8)] } (fun t => ((t.port 3).up, (t.port 3).width)) = some (true, 8) := by
  decide +kernel
/-- R261: with no image in flash the package waits for one. -/
theorem test_power_on : stepped { State.reset with agenda := [.event .powerOnReset] } (fun t => t.pkg.boot) = some .recovery := by decide +kernel

/-! ## Witnesses: states that meet the hypotheses of the statements, all together -/

/-- The strand of the loaded program issuing its word, its skein first changed by `f`. -/
def issuing (w : W64) (f : Skein → Skein := id) : State :=
  { (State.reset.loadWord w).modSkein tid f with cur := some ⟨tid, 0, w, false⟩, agenda := [] }
/-- The strand that issues in a state. -/
def ctxOf (s : State) : Ctx :=
  let cu := s.cur.getD default
  let k := (s.skein? cu.sk).getD default
  ⟨cu.sk, cu.st, k, (k.strand? cu.st).getD default, cu.iw⟩
def isIssuing (s : State) : Bool :=
  match s.cur with
  | some cu => match s.skein? cu.sk with
    | some k => (k.strand? cu.st).isSome
    | none => false
  | none => false
theorem issuing_ctxOf {s : State} (h : isIssuing s = true) : Issuing s (ctxOf s) := by
  unfold isIssuing at h
  cases hc : s.cur with
  | none => simp [hc] at h
  | some cu =>
    cases hk : s.skein? cu.sk with
    | none => simp [hc, hk] at h
    | some k =>
      cases hx : k.strand? cu.st with
      | none => simp [hc, hk, hx] at h
      | some x =>
        refine ⟨⟨cu.replay, ?_⟩, ?_, ?_⟩ <;> simp [ctxOf, hc, hk, hx]
/-- Every hypothesis about a strand that issues, for a state: it issues, and `p` holds of it. -/
theorem meets {s : State} (p : State → Ctx → Bool) (h : (isIssuing s && p s (ctxOf s)) = true) : ∃ c, Issuing s c ∧ p s c = true := by
  rw [Bool.and_eq_true] at h
  exact ⟨_, issuing_ctxOf h.1, h.2⟩

/-- As `meets`, for a decidable proposition. -/
theorem meetsP {s : State} (p : State → Ctx → Prop) [∀ s c, Decidable (p s c)] (h : (isIssuing s && decide (p s (ctxOf s))) = true) :
    ∃ c, Issuing s c ∧ p s c := by
  rw [Bool.and_eq_true, decide_eq_true_eq] at h
  exact ⟨_, issuing_ctxOf h.1, h.2⟩

def aloneB (k : Skein) (st : Nat) (x : Strand) : Bool := k.live == [(st, x)] && x.nest == [] && x.mask != 0 && k.records == []
theorem alone_iff (k : Skein) (st : Nat) (x : Strand) : k.Alone st x ↔ aloneB k st x = true := by
  simp [Skein.Alone, aloneB, and_assoc]
def shallowB (k : Skein) : Bool := (List.range 4).all fun i => match k.strand? i with
  | some x => decide (stackDepth x.nest ≤ 16) && !x.nest.contains .spilled
  | none => true
theorem shallow_of (k : Skein) (hl : k.strands.length ≤ 4) (h : shallowB k = true) : k.Shallow := by
  intro st x hx
  have hst : st < 4 := by
    by_contra hc
    have : k.strands.length ≤ st := by omega
    rw [Skein.strand?, List.getD_eq_default _ _ this] at hx
    cases hx
  have := List.all_eq_true.1 h st (List.mem_range.2 hst)
  rw [hx] at this
  simpa using this

/-- A NOP that issues, with p3 as given: the lanes that act under guard p3. -/
def atNop (m : Mask) : State := issuing 0x0678000000000000 fun k => k.setP 3 m
theorem meets_none_act : ∃ c, Issuing (atNop 0) c
    ∧ (decide ((atNop 0).vlimit c.k = 512) && c.active 3 false == 0 && c.acts 3 false == false) = true :=
  meets (fun s c => decide (s.vlimit c.k = 512) && c.active 3 false == 0 && c.acts 3 false == false) (by decide +kernel)
theorem meets_all_act : ∃ c, Issuing (atNop 0xFFFFFFFF) c
    ∧ (decide ((atNop 0xFFFFFFFF).vlimit c.k = 512) && c.active 3 false == 0xFFFFFFFF && c.acts 3 false == true) = true :=
  meets (fun s c => decide (s.vlimit c.k = 512) && c.active 3 false == 0xFFFFFFFF && c.acts 3 false == true) (by decide +kernel)
theorem test_meets_issuing : ∀ m ∈ [0, 0xFFFFFFFF], ∃ c, Issuing (atNop m) c ∧ (atNop m).vlimit c.k = 512 ∧ c.active 3 false = m
    ∧ c.acts 3 false = (m != 0) := by
  intro m hm
  rcases List.mem_pair.1 hm with rfl | rfl
  · obtain ⟨c, hc, h⟩ := meets_none_act
    simp only [Bool.and_eq_true, decide_eq_true_eq, beq_iff_eq] at h
    exact ⟨c, hc, h.1.1, h.1.2, by rw [h.2]; rfl⟩
  · obtain ⟨c, hc, h⟩ := meets_all_act
    simp only [Bool.and_eq_true, decide_eq_true_eq, beq_iff_eq] at h
    exact ⟨c, hc, h.1.1, h.1.2, by rw [h.2]; rfl⟩
/-- Register fields of every register word of the decode tests. -/
theorem fields_in_place : ∀ x ∈ wordsRa ++ wordsRb ++ wordsRc, ∃ f sh, rForm x.2 = some (f, sh) ∧ WellFormed x.2 = true
    ∧ f.regsOk sh 512 = true := by
  have h : ∀ x ∈ wordsRa ++ wordsRb ++ wordsRc, (match rForm x.2 with
      | some (f, sh) => WellFormed x.2 && f.regsOk sh 512
      | none => false) = true := by decide +kernel
  intro x hx
  have := h x hx
  split at this
  · next f sh he => exact ⟨f, sh, he, by simpa using this⟩
  · cases this
/-- What every statement of results asks (IntegerArithmeticResults to LaneReductionResults, RdsrResults): for each register word a strand
that issues with its register fields in place, for lanes that act and for lanes that do not. -/
theorem test_meets_register_words : ∀ x ∈ wordsRa ++ wordsRb ++ wordsRc, ∀ m ∈ [0, 0xFFFFFFFF], ∃ f sh c, rForm x.2 = some (f, sh)
    ∧ WellFormed x.2 = true ∧ Issuing (atNop m) c ∧ f.regsOk sh ((atNop m).vlimit c.k) = true := by
  intro x hx m hm
  obtain ⟨f, sh, h1, h2, h3⟩ := fields_in_place x hx
  obtain ⟨c, hc, hp⟩ := test_meets_issuing m hm
  exact ⟨f, sh, c, h1, h2, hc, by rw [hp.1]; exact h3⟩
/-- The boundary of R83 with every bank: the pair at 510 is in place, 511 and 512 are not (RegisterFileRules). -/
theorem test_meets_register_bounds : vregOk 512 510 2 = true ∧ vregOk 512 511 1 = true ∧ vregOk 512 511 2 = false ∧ vregOk 32 32 1 = false
    ∧ sregOk 63 1 = true ∧ sregOk 64 1 = false
    ∧ ({ r0 with d := 511, t := 6 } : RFmt).regsOk ⟨2, 2, 2, 0⟩ 512 = false ∧ WellFormed (.iadd { r0 with d := 511, t := 6 }) = true := by decide
/-- Numbers at the bounds of each clause of WrsrResults and RdsrResults. -/
theorem test_meets_special_numbers : ∀ n ∈ ([0, 15, 16, 17, 18, 19, 20, 63] : List (BitVec 9)), WellFormed (.wrsr { r0 with d := 0, a := n }) = true
    ∧ WellFormed (.rdsr { r0 with b := 0, a := n }) = true := by decide
/-- CompletedFrame, and every clause that asks for a strand alone in its skein. -/
theorem test_meets_alone : ∃ c, Issuing (atNop 0) c ∧ c.k.Shallow ∧ c.k.Alone c.st c.x ∧ (atNop 0).unperformed c.id c.st = []
    ∧ c.x.wait = .none := by
  obtain ⟨c, hc, h⟩ := meets (s := atNop 0) (fun s c => decide (c.k.strands.length ≤ 4) && shallowB c.k && aloneB c.k c.st c.x
    && decide (s.unperformed c.id c.st = []) && decide (c.x.wait = .none)) (by decide +kernel)
  simp only [Bool.and_eq_true, decide_eq_true_eq] at h
  exact ⟨c, hc, shallow_of _ h.1.1.1.1 h.1.1.1.2, (alone_iff ..).2 h.1.1.2, h.1.2, h.2⟩

/-- NopYieldRejoinComplete: every way RJOIN can go. -/
theorem test_meets_rejoin : ∀ x ∈ ([(0, []), (0xFFFFFFFF, []), (0xF, []), (0xF, [.stack ⟨1, 0, 0, none⟩])] : List (Mask × List NestItem)),
    ∃ c, Issuing (issuing 0x0878E00000000000 fun k => (k.setRejoin 7 x.1).modStrand 0 fun y => { y with nest := x.2 }) c
      ∧ (c.active 7 false &&& c.k.rejoin 7 == x.1 && stackDepth c.x.nest == x.2.length && c.k.freeEntry == some 1) = true := by
  have h : ∀ x ∈ ([(0, []), (0xFFFFFFFF, []), (0xF, []), (0xF, [.stack ⟨1, 0, 0, none⟩])] : List (Mask × List NestItem)),
    (isIssuing (issuing 0x0878E00000000000 fun k => (k.setRejoin 7 x.1).modStrand 0 fun y => { y with nest := x.2 }) &&
      (ctxOf (issuing 0x0878E00000000000 fun k => (k.setRejoin 7 x.1).modStrand 0 fun y => { y with nest := x.2 })).active 7 false
        &&& (ctxOf (issuing 0x0878E00000000000 fun k => (k.setRejoin 7 x.1).modStrand 0 fun y => { y with nest := x.2 })).k.rejoin 7 == x.1
      && stackDepth (ctxOf (issuing 0x0878E00000000000 fun k => (k.setRejoin 7 x.1).modStrand 0 fun y => { y with nest := x.2 })).x.nest == x.2.length
      && (ctxOf (issuing 0x0878E00000000000 fun k => (k.setRejoin 7 x.1).modStrand 0 fun y => { y with nest := x.2 })).k.freeEntry == some 1) = true := by
    decide +kernel
  intro x hx
  exact meets (fun _ c => c.active 7 false &&& c.k.rejoin 7 == x.1 && stackDepth c.x.nest == x.2.length && c.k.freeEntry == some 1)
    (by have := h x hx; simp only [Bool.and_assoc] at this ⊢; exact this)
/-- BranchesGoToTheirTarget: a header stands at the target of a branch that all lanes take, direct and through s1 and v2. -/
theorem test_meets_branch : ∃ c, Issuing (issuing 0x043800FFFFFF0000 fun k => (k.setS 1 0x10000)) c
    ∧ (State.targets (issuing 0x043800FFFFFF0000 fun k => (k.setS 1 0x10000)) ((issuing 0x043800FFFFFF0000 fun k => (k.setS 1 0x10000)).jobOf c.k) (dieOf c.id.core) false
        [c.x.pc + 8 * (0xFFFFFF : BitVec 24).signExtend 64]).2 = .ok
    ∧ c.x.mask ≠ 0 ∧ c.k.s 1 = 0x10000 ∧ c.k.freeEntry = some 1 ∧ c.x.joinPc = none :=
  meetsP (fun s c => (s.targets (s.jobOf c.k) (dieOf c.id.core) false [c.x.pc + 8 * (0xFFFFFF : BitVec 24).signExtend 64]).2 = .ok
    ∧ c.x.mask ≠ 0 ∧ c.k.s 1 = 0x10000 ∧ c.k.freeEntry = some 1 ∧ c.x.joinPc = none) (by decide +kernel)
/-- Its second half: a condition that holds in some lanes only, with a join PC of the block at which a header stands. -/
def divided : State := issuing 0x047800FFFFFF0000 fun k => (k.setP 0 0xF).modStrand 0 fun x => { x with blk := some ⟨0x10000, { loadHdr with join := 16 }, 255⟩ }
theorem test_meets_divided_branch : ∃ c, Issuing divided c ∧ (c.x.mask &&& c.k.guard 0 false) ≠ 0 ∧ (c.x.mask &&& c.k.guard 0 false) ≠ c.x.mask
    ∧ c.k.freeEntry = some 1 ∧ c.x.joinPc = some 0x10080
    ∧ (divided.targets (divided.jobOf c.k) (dieOf c.id.core) false [0x10000]).2 = .ok
    ∧ ((divided.targets (divided.jobOf c.k) (dieOf c.id.core) false [0x10000]).1.targets (divided.jobOf c.k) (dieOf c.id.core) false [0x10080]).2 = .ok :=
  meetsP (fun s c => (c.x.mask &&& c.k.guard 0 false) ≠ 0 ∧ (c.x.mask &&& c.k.guard 0 false) ≠ c.x.mask
    ∧ c.k.freeEntry = some 1 ∧ c.x.joinPc = some 0x10080 ∧ (s.targets (s.jobOf c.k) (dieOf c.id.core) false [0x10000]).2 = .ok
    ∧ ((s.targets (s.jobOf c.k) (dieOf c.id.core) false [0x10000]).1.targets (s.jobOf c.k) (dieOf c.id.core) false [0x10080]).2 = .ok) (by decide +kernel)
/-- HeaderOpensBlock: a header in its place; one whose LEN is 0 breaks R68. -/
theorem test_meets_header : ∃ c, Issuing (issuing (BitVec.ofNat 64 (encH loadHdr))) c
    ∧ c.x.atHeader = true ∧ loadHdr.len ≠ 0 ∧ loadHdr.rsv = 0 ∧ (issuing (BitVec.ofNat 64 (encH loadHdr))).revOk c.k loadHdr = true
    ∧ c.k.Alone c.st c.x ∧ ({ loadHdr with len := 0 } : HFmt).len = 0 ∧ (issuing (BitVec.ofNat 64 (encH loadHdr))).unperformed c.id c.st = [] := by
  obtain ⟨c, hc, h⟩ := meetsP (s := issuing (BitVec.ofNat 64 (encH loadHdr))) (fun s c => c.x.atHeader = true ∧ s.revOk c.k loadHdr = true
    ∧ aloneB c.k c.st c.x = true ∧ s.unperformed c.id c.st = []) (by decide +kernel)
  exact ⟨c, hc, h.1, by decide, by decide, h.2.1, (alone_iff ..).2 h.2.2.1, by decide, h.2.2.2⟩
/-- ExitRemovesLanes: some lanes exit (p1), all exit, none does (p0). -/
def atExit : State := issuing 0x05F8000000000000 fun k => k.setP 1 0xF
theorem test_meets_exit : ∃ c, Issuing atExit c ∧ c.active 0 false = 0 ∧ c.active 1 false ≠ 0 ∧ ~~~c.k.exited &&& ~~~(c.active 1 false) ≠ 0
    ∧ c.active 7 false ≠ 0 ∧ ~~~c.k.exited &&& ~~~(c.active 7 false) = 0 ∧ c.k.quiet = true ∧ c.k.failed = [] ∧ c.k.pendErrs = [] :=
  meetsP (fun _ c => c.active 0 false = 0 ∧ c.active 1 false ≠ 0 ∧ ~~~c.k.exited &&& ~~~(c.active 1 false) ≠ 0
    ∧ c.active 7 false ≠ 0 ∧ ~~~c.k.exited &&& ~~~(c.active 7 false) = 0 ∧ c.k.quiet = true ∧ c.k.failed = [] ∧ c.k.pendErrs = []) (by decide +kernel)
/-- TrapWords and SvcPostsRequest: nothing outstanding, outside trap mode, no other strand that refuses an SVC. -/
theorem test_meets_trap_words : ∃ c, Issuing atExit c ∧ atExit.unperformed c.id c.st = [] ∧ c.active 7 false ≠ 0 ∧ c.active 0 false = 0
    ∧ c.k.trap = none ∧ (∀ y ∈ c.k.live, y.1 ≠ c.st → y.2.wait.refusesSvc = false ∧ y.2.issued = false) ∧ c.k.quiet = true
    ∧ atExit.absentHeaders c.id (c.k.modStrand c.st Strand.retired) = [] ∧ c.k.failed = [] ∧ c.k.pendErrs = [] :=
  meetsP (fun s c => s.unperformed c.id c.st = [] ∧ c.active 7 false ≠ 0 ∧ c.active 0 false = 0
    ∧ c.k.trap = none ∧ (∀ y ∈ c.k.live, y.1 ≠ c.st → y.2.wait.refusesSvc = false ∧ y.2.issued = false) ∧ c.k.quiet = true
    ∧ s.absentHeaders c.id (c.k.modStrand c.st Strand.retired) = [] ∧ c.k.failed = [] ∧ c.k.pendErrs = []) (by decide +kernel)
/-- Words at the ends of majors 0x3F, 0x16 and 0x17 (TrapWords). -/
theorem test_meets_whole_majors : (0xFC00000000000000 : W64).toNat / 2 ^ 58 = 0x3F ∧ (0xFFFFFFFFFFFFFFFF : W64).toNat / 2 ^ 58 = 0x3F
    ∧ (0x5800000000000000 : W64).toNat / 2 ^ 58 = 0x16 ∧ (0x5FFFFFFFFFFFFFFF : W64).toNat / 2 ^ 58 = 0x17 := by decide
/-- TrapEntry: the frame is written, and the launch has a trap vector. -/
def withVector : State := (issuing 0x0C78000000000005).modWork fun w => { w with launches := w.launches.map fun l =>
  { l with lrec := { l.lrec with trapvec := 0x10000 } } }
def frameTaken (s : State) (c : Ctx) : Bool :=
  match State.privWrite { s with cur := none } (s.jobOf c.k) (dieOf c.id.core) c.k.trapFrame.toNat
      (State.frameBytes { s with cur := none } c.k c.x ⟨0x10, 0x10010, 0, 0, 5, true, 0⟩ 0) with
  | .ok s1 => (s1.lrecOf c.k).trapvec != 0
  | .error _ => false
theorem test_meets_trap_entry : ∃ c, Issuing withVector c ∧ c.k.trap = none ∧ c.k.paired = none ∧ withVector.debugged c.k = false ∧ frameTaken withVector c = true :=
  meetsP (fun s c => c.k.trap = none ∧ c.k.paired = none ∧ s.debugged c.k = false ∧ frameTaken s c = true) (by decide +kernel)
/-- RteReturns: RTE in trap mode, its frame holding the entry PC and zeros. -/
def atRte : State :=
  let s := issuing 0x0CF8000000000000 fun k => { k with trap := some ⟨0x10008, 0, 0x10, none, none, 1, false, false⟩ }
  let k := (ctxOf s).k
  match s.place (s.jobOf k) 0 (s.jobOf k).asid k.trapFrame.toNat .write with
  | (s, .at _ key) => { s with mem := Sparse.putList 0 s.mem key (toBytesLE 8 0x10008) }
  | (s, _) => s
theorem test_meets_rte : ∃ c, Issuing atRte c ∧ c.k.trap = some ⟨0x10008, 0, 0x10, none, none, 1, false, false⟩ ∧ atRte.unperformed c.id c.st = []
    ∧ (match (atRte.rteCheck c.id c.k ⟨0x10008, 0, 0x10, none, none, 1, false, false⟩).2 with
        | .ok fr => fr.pc == 0x10008 && fr.unfin == 0
        | _ => false) = true :=
  meetsP (fun s c => c.k.trap = some ⟨0x10008, 0, 0x10, none, none, 1, false, false⟩ ∧ s.unperformed c.id c.st = []
    ∧ (match (s.rteCheck c.id c.k ⟨0x10008, 0, 0x10, none, none, 1, false, false⟩).2 with
        | .ok fr => fr.pc == 0x10008 && fr.unfin == 0
        | _ => false) = true) (by decide +kernel)
/-- Its other end: a frame that lies outside the private range of its skein fails the check. -/
def badRte : State := issuing 0x0CF8000000000000 fun k => { k with trap := some ⟨0x10008, 0, 0x10, none, none, 1, false, false⟩, trapFrame := 0x50 }
theorem test_meets_bad_rte : ∃ c, Issuing badRte c ∧ c.k.trap = some ⟨0x10008, 0, 0x10, none, none, 1, false, false⟩
    ∧ (match (badRte.rteCheck c.id c.k ⟨0x10008, 0, 0x10, none, none, 1, false, false⟩).2 with | .bad => true | _ => false) = true :=
  meetsP (fun s c => c.k.trap = some ⟨0x10008, 0, 0x10, none, none, 1, false, false⟩
    ∧ (match (s.rteCheck c.id c.k ⟨0x10008, 0, 0x10, none, none, 1, false, false⟩).2 with | .bad => true | _ => false) = true) (by decide +kernel)
/-- StepRunsInstruction: the loaded strand may issue, and its word is fetched; likewise an event at the head of the agenda. -/
def mayIssue (s : State) (k : Skein) (x : Strand) (w : W64) : Bool :=
  !s.tick.down && s.tick.skeinIssues tid k 0 && k.pendTraps == [] && s.tick.strandIssues tid k 0 x && (k.errFor 0 x).isNone && !k.stepsTo 0
    && !(k.trap.any fun tr => tr.strand == 0 && s.tick.atDefaultVector k x tr)
    && (match s.tick.fetchWord (s.tick.jobOf k) (dieOf tid.core) x.pc with
        | (s2, .word v) => v == w && !(s2.wordHeld tid k 0 x (decode w)) && !(s2.stopsAtSafe k)
        | _ => false)
    && !(isSHeader (decode w)) && decide (x.count < 4096) && !x.atHeader
def loaded (w : W64) : State := State.reset.loadWord w
theorem test_meets_step : (loaded 0x2038010080401080).agenda = [.issue tid 0] ∧
    (match (loaded 0x2038010080401080).skein? tid with
      | some k => match k.strand? 0 with
        | some x => mayIssue (loaded 0x2038010080401080) k x 0x2038010080401080
        | none => false
      | none => false) = true
    ∧ isWord (.linkUp 0 8) = false ∧ ({ State.reset with agenda := [.event (.linkUp 0 8)] }).tick.opFrozen (.linkUp 0 8) = false
    ∧ ({ State.reset with agenda := [.event (.linkUp 0 8)] }).tick.down = false := by decide +kernel
/-- A fetch of a verified page (StepRunsInstruction). -/
theorem test_meets_fetch : (match (loaded 0x2038010080401080).place (((loaded 0x2038010080401080).work.jobs).headD default) 0 1 wordVa .fetch with
    | (s1, .at sl key) => !(s1.badPages.contains (1, wordVa / 65536)) && !(s1.sectorFailed sl key) && s1.verified.contains (1, wordVa / 65536)
      && (s1.softIn 1 wordVa 8).isNone
    | _ => false) = true := by decide +kernel
/-- A word whose register holds an error (StepRunsInstruction): `IADD.s32 v1, v1, 1` with v1 of lane 3; one of v2 does not touch it. A check
that comes first refuses the word of the T code 15. -/
theorem test_meets_read_soft : ∃ c, Issuing (issuing 0x2038010080401080 fun k => { k with soft := [.v 35] }) c
    ∧ c.readsSoft (issuing 0x2038010080401080) (decode 0x2038010080401080) = true
    ∧ ({ c with k := { c.k with soft := [.v 67] } } : Ctx).readsSoft (issuing 0x2038010080401080) (decode 0x2038010080401080) = false
    ∧ c.refused (issuing 0x2038010080401080 fun k => { k with soft := [.v 35] }) (decode 0x2038010080401080) = false
    ∧ c.refused (issuing 0x2038010080401080 fun k => { k with soft := [.v 35] }) (decode 0x21F8010080401080) = true :=
  meetsP (fun s c => c.readsSoft (issuing 0x2038010080401080) (decode 0x2038010080401080) = true
    ∧ ({ c with k := { c.k with soft := [.v 67] } } : Ctx).readsSoft (issuing 0x2038010080401080) (decode 0x2038010080401080) = false
    ∧ c.refused s (decode 0x2038010080401080) = false ∧ c.refused s (decode 0x21F8010080401080) = true) (by decide +kernel)
theorem test_soft_register_traps : stepped (((State.reset.loadWord 0x2038010080401080).modWork fun w => { w with launches := w.launches.map fun l =>
    { l with lrec := { l.lrec with trapvec := 0x10000 } } }).modSkein tid fun k => { k with soft := [.v 35] })
    (fun t => (t.skein? tid).bind fun k => k.trap.map (·.cause)) = some (some 7) := by decide +kernel
/-- The check symbols (R171, R172): the last step of a division leaves the generator's own coefficients, and a word with its check symbols has
no syndrome. -/
theorem test_check_symbols : rsCheck (1 :: List.replicate 127 0) = (rsGenerator 16).take 16
    ∧ (List.range 16).map (rsSyndrome (rsCheck ((List.range 8).map fun i => BitVec.ofNat 8 i)) ((List.range 8).map fun i => BitVec.ofNat 8 i)) = List.replicate 16 0 := by
  decide +kernel

/-! ### Memory -/

def dataVa : Nat := 0x20000
/-- A page of data at `dataVa`, readable and writable, that begins with the bytes. -/
def withData (bs : List Byte) (s : State) : State :=
  let j := s.work.jobs.headD default
  match s.allocPiece (f5 dataVa) with
  | (s, some p) =>
    let s := s.installPage j 0 dataVa 3 fun i => if i == 0 then ⟨1, false, 0, 0, p⟩ else ⟨3, false, 0, 0, 0⟩
    { s with mem := Sparse.putList 0 s.mem (physKey (f5 dataVa) p 0) bs }
  | (s, none) => s
/-- The program with that page, s1 naming it, issuing its word. -/
def issuingD (w : W64) (bs : List Byte) (f : Skein → Skein := id) : State :=
  withData bs (issuing w fun k => f (k.setS 1 (BitVec.ofNat 64 dataVa)))
/-- Uniform forms of 8 bytes at s1: D = s6. -/
def m64 : MFmt := ⟨7, false, true, 6, 1, 0, 3, 3, 0, 0, 0⟩
/-- One lane (p2), element by rank at s1. -/
def mRank : MFmt := ⟨2, false, false, 6, 0, 1, 2, 0, 0, 0, 0⟩
/-- The claim of a word whose registration, if it has one, the home has applied. -/
def claimOf (st : CSt) : Claim := if st == .valid then .none else .live
/-- The L1 of core 0 holds the two words at s1, in a given state. -/
def cached (st : CSt) (s : State) : State :=
  { s with caches := [(⟨s.l1 0, 1, dataVa / 4⟩, ⟨st, 7, 15, 0, false, claimOf st⟩), (⟨s.l1 0, 1, dataVa / 4 + 1⟩, ⟨st, 8, 15, 0, false, claimOf st⟩)] }
/-- LoadsServedByTheL1: LD and EXPLD of Valid words, LDA of Owned words. -/
def atLd (st : CSt) : State := cached st (issuingD 0x803A060080F00000 [] fun k => k.setP 2 8)
def heldB (s : State) (c : Ctx) (ls : List LaneAcc) (n : Nat) (acq : Bool) : Bool :=
  ls != [] && ls.all fun a => a.va.toNat % n == 0 && !isPrivate a.va.toNat
    && (wordsOf a.va.toNat n).all fun w => (s.served (s.l1 c.id.core) (s.asidOf c.k) w acq).isSome
      && !s.readSoft (s.l1 c.id.core) (s.asidOf c.k) acq w
theorem test_meets_l1_valid : ∃ c, Issuing (atLd .valid) c ∧ heldB (atLd .valid) c (c.mLanes m64 8) 8 false = true
    ∧ heldB (atLd .valid) c (c.rankLanes mRank 4) 4 false = true ∧ m64.regsOk (szRegs 8) ((atLd .valid).vlimit c.k) = true
    ∧ c.mLanes { m64 with g := 0 } 8 = [] ∧ c.rankLanes { mRank with g := 0 } 4 = [] ∧ (atLd .valid).unperformedLoads c.id c.st = [] ∧ c.x.wait = .none
    ∧ c.overlapped (atLd .valid) 8 (c.mLanes m64 8) = [] :=
  meetsP (fun s c => heldB s c (c.mLanes m64 8) 8 false = true ∧ heldB s c (c.rankLanes mRank 4) 4 false = true
    ∧ m64.regsOk (szRegs 8) (s.vlimit c.k) = true ∧ c.mLanes { m64 with g := 0 } 8 = [] ∧ c.rankLanes { mRank with g := 0 } 4 = []
    ∧ s.unperformedLoads c.id c.st = [] ∧ c.x.wait = .none ∧ c.overlapped s 8 (c.mLanes m64 8) = []) (by decide +kernel)
theorem test_meets_l1_owned : ∃ c, Issuing (atLd .owned) c ∧ heldB (atLd .owned) c (c.mLanes m64 8) 8 true = true :=
  meetsP (fun s c => heldB s c (c.mLanes m64 8) 8 true = true) (by decide +kernel)
/-- LoadsAskTheHome and StoresOwnTheirWords: every lane translates, and the L1 has not the words. -/
def atMem : State := issuingD 0x803A060080F00000 [] fun k => k.setP 2 8
def goodB (r : State × List (LaneAcc × Fate)) : Bool := r.2.all fun x => x.2 == .good
theorem test_meets_translated : ∃ c, Issuing atMem c
    ∧ goodB (atMem.classify (fun s a => s.loadFate c 8 false a) (c.mLanes m64 8)) = true
    ∧ goodB (atMem.classify (fun s a => s.storeFate c 8 false (wordsWhole 8 (c.mLanes m64 8)) a) (c.mLanes m64 8)) = true
    ∧ goodB (atMem.classify (fun s a => s.storeFate c 8 true (wordsWhole 8 (c.mLanes m64 8)) a) (c.mLanes m64 8)) = true
    ∧ goodB (atMem.classify (fun s a => s.storeFate c 4 false (wordsWhole 4 (c.rankLanes mRank 4)) a) (c.rankLanes mRank 4)) = true
    ∧ c.mLanes m64 8 = [⟨0, BitVec.ofNat 64 dataVa, 6⟩] ∧ c.rankLanes mRank 4 = [⟨3, BitVec.ofNat 64 dataVa, 6⟩]
    ∧ atMem.served (atMem.l1 0) 1 (dataVa / 4) false = none ∧ atMem.beyondGroup c.k 0 = false ∧ atMem.unperformed c.id c.st = []
    ∧ atMem.storeNow (atMem.l1 0) 1 8 false (c.mLanes m64 8) = (c.mLanes m64 8, []) ∧ atMem.storeNow (atMem.l1 0) 1 8 true (c.mLanes m64 8) = (c.mLanes m64 8, [])
    ∧ atMem.regDue (atMem.l1 0) 1 (dataVa / 4) false = true ∧ c.x.act0 = none ∧ c.x.wait = .none ∧ atMem.beyondGroup c.k 3 = true ∧ atMem.caches = [] :=
  meetsP (fun s c => goodB (s.classify (fun s a => s.loadFate c 8 false a) (c.mLanes m64 8)) = true
    ∧ goodB (s.classify (fun s a => s.storeFate c 8 false (wordsWhole 8 (c.mLanes m64 8)) a) (c.mLanes m64 8)) = true
    ∧ goodB (s.classify (fun s a => s.storeFate c 8 true (wordsWhole 8 (c.mLanes m64 8)) a) (c.mLanes m64 8)) = true
    ∧ goodB (s.classify (fun s a => s.storeFate c 4 false (wordsWhole 4 (c.rankLanes mRank 4)) a) (c.rankLanes mRank 4)) = true
    ∧ c.mLanes m64 8 = [⟨0, BitVec.ofNat 64 dataVa, 6⟩] ∧ c.rankLanes mRank 4 = [⟨3, BitVec.ofNat 64 dataVa, 6⟩]
    ∧ s.served (s.l1 0) 1 (dataVa / 4) false = none ∧ s.beyondGroup c.k 0 = false ∧ s.unperformed c.id c.st = []
    ∧ s.storeNow (s.l1 0) 1 8 false (c.mLanes m64 8) = (c.mLanes m64 8, []) ∧ s.storeNow (s.l1 0) 1 8 true (c.mLanes m64 8) = (c.mLanes m64 8, [])
    ∧ s.regDue (s.l1 0) 1 (dataVa / 4) false = true ∧ c.x.act0 = none ∧ c.x.wait = .none ∧ s.beyondGroup c.k 3 = true ∧ s.caches = []) (by decide +kernel)
/-- A store-release that goes on after a park. -/
theorem test_meets_replayed_release : ∃ c, Issuing (atMem.modStrand tid 0 fun x => { x with act0 := some 1 }) c ∧ c.x.act0 ≠ none :=
  meetsP (fun _ c => c.x.act0 ≠ none) (by decide +kernel)
/-- HomeTakesBytes: a piece that migrates has a second place. -/
def migrating : State := State.reset.modSlice 3 fun x => { x with indir := [(16, ⟨1, true, 5, 0, 2⟩)] }
theorem test_meets_migrating : migrating.altKey 3 (physKey 3 2 8) = some (physKey 3 5 8) ∧ migrating.altKey 3 (physKey 3 5 8) = none := by decide
/-- ScratchAccesses and AccessTraps: one lane (p2) at the last word of the window; a misaligned one; one just beyond. -/
def atScr (off : W32) : State := issuing 0x883804010C900000 fun k => (k.setP 2 1).setV 2 0 off
def mScr : MFmt := ⟨2, false, false, 4, 2, 0, 2, 1, 0, 0, 0⟩
theorem test_meets_scratch : ∃ c, Issuing (atScr 1212412) c ∧ c.mLanes mScr 4 = [⟨0, 1212412, 4⟩]
    ∧ scrOk ((atScr 1212412).lrecOf c.k) 1212412 4 = true ∧ scrOk ((atScr 1212412).lrecOf c.k) 1212413 4 = false
    ∧ ((atScr 1212412).group? c.k.group).isSome = true ∧ mScr.regsOk 1 ((atScr 1212412).vlimit c.k) = true
    ∧ atomRegsOk 0 mScr ((atScr 1212412).vlimit c.k) = true ∧ (atScr 1212412).unperformed c.id c.st = []
    ∧ (atScr 1212412).unperformedLoads c.id c.st = [] ∧ c.mLanes { mScr with g := 0 } 4 = [] ∧ (atScr 1212412).soft = [] :=
  meetsP (fun s c => c.mLanes mScr 4 = [⟨0, 1212412, 4⟩] ∧ scrOk (s.lrecOf c.k) 1212412 4 = true ∧ scrOk (s.lrecOf c.k) 1212413 4 = false
    ∧ (s.group? c.k.group).isSome = true ∧ mScr.regsOk 1 (s.vlimit c.k) = true ∧ atomRegsOk 0 mScr (s.vlimit c.k) = true
    ∧ s.unperformed c.id c.st = [] ∧ s.unperformedLoads c.id c.st = [] ∧ c.mLanes { mScr with g := 0 } 4 = [] ∧ s.soft = []) (by decide +kernel)
/-- Two lanes of one scratch word. -/
theorem test_meets_scratch_lanes : ∃ c, Issuing ((atScr 8).modSkein tid fun k => (k.setP 2 3).setV 2 1 8) c
    ∧ (c.mLanes mScr 4).map (fun a => (a.lane, a.va)) = [(0, 8), (1, 8)] :=
  meetsP (fun _ c => (c.mLanes mScr 4).map (fun a => (a.lane, a.va)) = [(0, 8), (1, 8)]) (by decide +kernel)
/-- An error in what it reads: the first scratch word of granule 0 in core 0. -/
def softScr : State := { atScr 0 with soft := [.scratch (scrKey (((atScr 0).group? 1).getD default) 0 0 / 4)] }
theorem test_meets_scratch_soft : ∃ c, Issuing softScr c ∧ (softScr.group? c.k.group).isSome = true
    ∧ (∀ b ∈ c.mLanes mScr 4, scrOk (softScr.lrecOf c.k) (b.va.toNat % 2 ^ 32) 4 = true ∧ b.va.toNat % 2 ^ 32 % 4 = 0)
    ∧ (c.mLanes mScr 4).find? (fun a => (softScr.scrSoft ((softScr.group? c.k.group).getD default) c.id.core (a.va.toNat % 2 ^ 32) 4).isSome) = some ⟨0, 0, 4⟩ :=
  meetsP (fun s c => (s.group? c.k.group).isSome = true
    ∧ (∀ b ∈ c.mLanes mScr 4, scrOk (s.lrecOf c.k) (b.va.toNat % 2 ^ 32) 4 = true ∧ b.va.toNat % 2 ^ 32 % 4 = 0)
    ∧ (c.mLanes mScr 4).find? (fun a => (s.scrSoft ((s.group? c.k.group).getD default) c.id.core (a.va.toNat % 2 ^ 32) 4).isSome) = some ⟨0, 0, 4⟩) (by decide +kernel)
theorem test_meets_scratch_traps : (∃ c, Issuing (atScr 1212416) c ∧ (c.mLanes mScr 4).find? (fun a => !scrOk ((atScr 1212416).lrecOf c.k) (a.va.toNat % 2 ^ 32) 4)
      = some ⟨0, 1212416, 4⟩)
    ∧ ∃ c, Issuing (atScr 2) c ∧ (∀ b ∈ c.mLanes mScr 4, scrOk ((atScr 2).lrecOf c.k) (b.va.toNat % 2 ^ 32) 4 = true)
      ∧ (c.mLanes mScr 4).find? (fun a => a.va.toNat % 2 ^ 32 % 4 != 0) = some ⟨0, 2, 4⟩ :=
  ⟨meetsP (fun s c => (c.mLanes mScr 4).find? (fun a => !scrOk (s.lrecOf c.k) (a.va.toNat % 2 ^ 32) 4) = some ⟨0, 1212416, 4⟩) (by decide +kernel),
   meetsP (fun s c => (∀ b ∈ c.mLanes mScr 4, scrOk (s.lrecOf c.k) (b.va.toNat % 2 ^ 32) 4 = true)
      ∧ (c.mLanes mScr 4).find? (fun a => a.va.toNat % 2 ^ 32 % 4 != 0) = some ⟨0, 2, 4⟩) (by decide +kernel)⟩
/-- AtomActsAtTheHome: one lane (p2), its address in v2 and v3. -/
def mAtom : MFmt := ⟨2, false, false, 8, 2, 0, 2, 3, 0, 0, 0⟩
def atAtom : State := issuingD 0x8C38080100B00000 [5] fun k => ((k.setP 2 1).setV 2 0 (BitVec.ofNat 32 dataVa)).setV 3 0 0
theorem test_meets_atom : ∃ c, Issuing atAtom c ∧ atomRegsOk 0 mAtom (atAtom.vlimit c.k) = true ∧ c.mLanes mAtom 4 = [⟨0, BitVec.ofNat 64 dataVa, 8⟩]
    ∧ isPrivate dataVa = false ∧ atAtom.unperformed c.id c.st = [] ∧ atAtom.sectorBusy (atAtom.l1 0) 1 dataVa = false
    ∧ (atAtom.atomFate c 4 ⟨0, BitVec.ofNat 64 dataVa, 8⟩).2 = .good ∧ c.k.raceTrap = false :=
  meetsP (fun s c => atomRegsOk 0 mAtom (s.vlimit c.k) = true ∧ c.mLanes mAtom 4 = [⟨0, BitVec.ofNat 64 dataVa, 8⟩]
    ∧ isPrivate dataVa = false ∧ s.unperformed c.id c.st = [] ∧ s.sectorBusy (s.l1 0) 1 dataVa = false
    ∧ (s.atomFate c 4 ⟨0, BitVec.ofNat 64 dataVa, 8⟩).2 = .good ∧ c.k.raceTrap = false) (by decide +kernel)
/-- Two lanes at one word. -/
def atAtoms : State := atAtom.modSkein tid fun k => ((k.setP 2 3).setV 2 1 (BitVec.ofNat 32 dataVa)).setV 3 1 0
theorem test_meets_atom_lanes : ∃ c, Issuing atAtoms c ∧ (c.mLanes mAtom 4).map (fun a => (a.lane, a.va.toNat)) = [(0, dataVa), (1, dataVa)]
    ∧ (match atAtoms.homeAtomic 1 (atAtoms.l1 0) dataVa 4 0 1 0 true with | (_, _, raced) => raced) = false :=
  meetsP (fun s c => (c.mLanes mAtom 4).map (fun a => (a.lane, a.va.toNat)) = [(0, dataVa), (1, dataVa)]
    ∧ (match s.homeAtomic 1 (s.l1 0) dataVa 4 0 1 0 true with | (_, _, raced) => raced) = false) (by decide +kernel)
/-! ### Barriers, fences, handles -/

/-- BarrierWords: the word or barrier at offset s5, in its window, just below its end, and beyond; misaligned ones (s6); s8 = 1. -/
def sBar (sa : BitVec 6) : SFmt := ⟨7, false, false, 8, sa, 0, 0x8001, 3⟩
def atBar (f : Skein → Skein := id) : State :=
  issuing 0x9438140000100040 fun k => f ((((k.setS 5 1212400).setS 6 12).setS 7 1212416).setS 8 1)
theorem test_meets_barriers : ∃ c, Issuing atBar c ∧ (atBar.group? c.k.group).isSome = true ∧ c.x.wait = .none ∧ c.acts 7 false = true
    ∧ c.acts 0 false = false
    ∧ scrOk (atBar.lrecOf c.k) (c.k.s 5).toNat 16 = true ∧ scrOk (atBar.lrecOf c.k) (c.k.s 5).toNat 8 = true ∧ (c.k.s 5).toNat % 16 = 0
    ∧ scrOk (atBar.lrecOf c.k) (c.k.s 7).toNat 8 = false ∧ scrOk (atBar.lrecOf c.k) (c.k.s 6).toNat 16 = true ∧ (c.k.s 6).toNat % 8 ≠ 0
    ∧ atBar.unperformed c.id c.st = [] ∧ c.x.mask = ~~~c.k.exited ∧ atBar.soft = [] := by
  exact meetsP (fun s c => (s.group? c.k.group).isSome = true ∧ c.x.wait = .none ∧ c.acts 7 false = true ∧ c.acts 0 false = false
    ∧ scrOk (s.lrecOf c.k) (c.k.s 5).toNat 16 = true ∧ scrOk (s.lrecOf c.k) (c.k.s 5).toNat 8 = true ∧ (c.k.s 5).toNat % 16 = 0
    ∧ scrOk (s.lrecOf c.k) (c.k.s 7).toNat 8 = false ∧ scrOk (s.lrecOf c.k) (c.k.s 6).toNat 16 = true ∧ (c.k.s 6).toNat % 8 ≠ 0
    ∧ s.unperformed c.id c.st = [] ∧ c.x.mask = ~~~c.k.exited ∧ s.soft = []) (by decide +kernel)
def softBar : State := { atBar with soft := [.scratch (scrKey ((atBar.group? 1).getD default) 0 1212404 / 4)] }
theorem test_meets_barrier_soft : ∃ c, Issuing softBar c ∧ c.k.group = 1 ∧ c.id.core = 0 ∧ c.acts 7 false = true ∧ softBar.unperformed c.id c.st = []
    ∧ softBar.scrSoft ((softBar.group? 1).getD default) 0 (c.k.s 5).toNat 8 = some 1212404
    ∧ softBar.scrSoft ((softBar.group? 1).getD default) 0 (c.k.s 5).toNat 16 = some 1212404 :=
  meetsP (fun s c => c.k.group = 1 ∧ c.id.core = 0 ∧ c.acts 7 false = true ∧ s.unperformed c.id c.st = []
    ∧ s.scrSoft ((s.group? 1).getD default) 0 (c.k.s 5).toNat 8 = some 1212404
    ∧ s.scrSoft ((s.group? 1).getD default) 0 (c.k.s 5).toNat 16 = some 1212404) (by decide +kernel)
/-- Its words: n = 3 arrivals none of which has come, and the last; GEN as the wait names it, and another. -/
theorem test_meets_arrivals : arriveAll 3 ⟨0, 0, 0⟩ [0] = some (⟨0, 1, 3⟩, [0]) ∧ arriveAll 3 ⟨15, 2, 3⟩ [0] = some (⟨0, 0, 3⟩, [15])
    ∧ arriveAll 3 ⟨0, 1, 4⟩ [0] = none ∧ arriveAll 2 ⟨0, 0, 0⟩ [0, 1] = some (⟨1, 0, 2⟩, [0, 0]) := by decide
/-- Its transaction barriers: after TBINIT ARR is not 0; in fresh scratch it is. -/
def tbar1 : State := { atBar with scratch := [(1212400, 9), (1212401, 3), (1212402, 0x30)] }
theorem test_meets_tbar : ∃ g, atBar.group? (ctxOf atBar).k.group = some g ∧ (atBar.tbar g 0 1212400).arr = 0 ∧ (tbar1.tbar g 0 1212400).arr ≠ 0
    ∧ g.heldArr = [] ∧ (tbar1.tbar g 0 1212400).epoch ≠ 1 := by
  have h : (match atBar.group? (ctxOf atBar).k.group with
    | some g => decide ((atBar.tbar g 0 1212400).arr = 0) && decide ((tbar1.tbar g 0 1212400).arr ≠ 0) && decide (g.heldArr = [])
        && decide ((tbar1.tbar g 0 1212400).epoch ≠ 1)
    | none => false) = true := by decide +kernel
  split at h
  · next g hg => exact ⟨g, hg, by simpa [and_assoc] using h⟩
  · cases h
/-- A release that waits for nothing (FencesAndCounters, BarrierWords, ShuttleWords, TwinAndPleatWords). -/
theorem test_meets_released : ∃ c, Issuing atBar c ∧ c.Released atBar 0 ∧ c.Released atBar 3 := by
  obtain ⟨c, hc, h⟩ := meetsP (s := atBar) (fun s c => c.x.wait = .none ∧ s.unperformed c.id c.st = [] ∧ s.caches = [] ∧ s.memops = []) (by decide +kernel)
  exact ⟨c, hc, ⟨h.1, h.2.1, fun _ => by rw [h.2.2.1, h.2.2.2]; simp⟩, ⟨h.1, h.2.1, fun _ => by rw [h.2.2.1, h.2.2.2]; simp⟩⟩
/-- FencesAndCounters: a scope beyond the group with an unpublished word; WAITC at the counters' values and below them; a finished operation
first in its class. -/
def atFence : State := cached .owned (issuingD 0x9C38000300000000 [] fun k => { k with cntL := 1, fifoL := [(9, true)] })
theorem test_meets_fence : ∃ c, Issuing atFence c ∧ atFence.beyondGroup c.k 3 = true ∧ c.active 7 false ≠ 0 ∧ c.acts 7 false = true ∧ c.x.wait = .none
    ∧ atFence.unperformed c.id c.st = [] ∧ (∃ p ∈ atFence.caches, p.1.agent = atFence.l1 c.id.core ∧ p.2.st = .owned)
    ∧ c.k.cntL ≤ 1 ∧ ¬ c.k.cntL ≤ 0 ∧ c.k.cntS = 0 ∧ c.k.fifo .load = [(9, true)] :=
  meetsP (fun s c => s.beyondGroup c.k 3 = true ∧ c.active 7 false ≠ 0 ∧ c.acts 7 false = true ∧ c.x.wait = .none
    ∧ s.unperformed c.id c.st = [] ∧ (∃ p ∈ s.caches, p.1.agent = s.l1 c.id.core ∧ p.2.st = .owned)
    ∧ c.k.cntL ≤ 1 ∧ ¬ c.k.cntL ≤ 0 ∧ c.k.cntS = 0 ∧ c.k.fifo .load = [(9, true)]) (by decide +kernel)
/-- A strand that waits for SEALACKs at its release, or for HSAVE's store. -/
theorem test_meets_second_stage : ∃ c, Issuing (atBar fun k => k.modStrand 0 fun x => { x with wait := .memops [7] 2 }) c ∧ c.x.wait = .memops [7] 2 :=
  meetsP (fun _ c => c.x.wait = .memops [7] 2) (by decide +kernel)
/-- HandleWords: h0 none, h1 done, h2 error, h3 pending, h15 of a PLEAT. -/
def atHandle : State :=
  (issuingD 0xA038000080010000 [] fun k =>
    { k with handles := [.none, .done false, .entry 2 1, .entry 0 1] ++ List.replicate 11 .none ++ [.entry 1 1] }).modCore 0 fun x =>
      { x with entries := [(0, ⟨1, true, 1, false, 0, 0, 3, false⟩), (1, ⟨1, true, 1, false, 0, 0, 4, true⟩), (2, ⟨1, true, 3, false, 5, 0x77, 5, false⟩)] }
theorem test_meets_handles : ∃ c, Issuing atHandle c ∧ c.acts 7 false = true ∧ c.acts 0 false = false ∧ atHandle.unperformed c.id c.st = []
    ∧ c.x.wait = .none
    ∧ (match atHandle.hstate 0 (c.k.handle 0), atHandle.hstate 0 (c.k.handle 1), atHandle.hstate 0 (c.k.handle 2), atHandle.hstate 0 (c.k.handle 3),
        atHandle.hstate 0 (c.k.handle 15) with
      | .none, .done _, .error .., .pending _, .pending _ => true
      | _, _, _, _, _ => false) = true
    ∧ ((atHandle.core 0).entry 0).pleat = false ∧ ((atHandle.core 0).entry 1).pleat = true
    ∧ (atHandle.storeFate c 8 false (wordsWhole 8 [⟨c.low, c.k.s 1, 0⟩]) ⟨c.low, c.k.s 1, 0⟩).2 = .good
    ∧ atHandle.storeNow (atHandle.l1 0) 1 8 false [⟨c.low, c.k.s 1, 0⟩] = ([⟨c.low, c.k.s 1, 0⟩], []) ∧ isPrivate (c.k.s 1).toNat = false ∧ (c.k.s 1).toNat % 8 = 0 :=
  meetsP (fun s c => c.acts 7 false = true ∧ c.acts 0 false = false ∧ s.unperformed c.id c.st = [] ∧ c.x.wait = .none
    ∧ (match s.hstate 0 (c.k.handle 0), s.hstate 0 (c.k.handle 1), s.hstate 0 (c.k.handle 2), s.hstate 0 (c.k.handle 3), s.hstate 0 (c.k.handle 15) with
      | .none, .done _, .error .., .pending _, .pending _ => true
      | _, _, _, _, _ => false) = true
    ∧ ((s.core 0).entry 0).pleat = false ∧ ((s.core 0).entry 1).pleat = true
    ∧ (s.storeFate c 8 false (wordsWhole 8 [⟨c.low, c.k.s 1, 0⟩]) ⟨c.low, c.k.s 1, 0⟩).2 = .good
    ∧ s.storeNow (s.l1 0) 1 8 false [⟨c.low, c.k.s 1, 0⟩] = ([⟨c.low, c.k.s 1, 0⟩], []) ∧ isPrivate (c.k.s 1).toNat = false ∧ (c.k.s 1).toNat % 8 = 0) (by decide +kernel)
/-- HLOAD of words that the L1 holds: an image of none, and one that names no live entry. -/
def atHload (x : W32) : State := { cached .valid (issuingD 0xA138050100000000 []) with
  caches := [(⟨(State.reset).l1 0, 1, dataVa / 4⟩, ⟨.valid, x, 0, 0, false, .none⟩), (⟨(State.reset).l1 0, 1, dataVa / 4 + 1⟩, ⟨.valid, 0, 0, 0, false, .none⟩)] }
theorem test_meets_hload : ∃ c, Issuing (atHload 0) c ∧ (∀ w ∈ wordsOf (c.k.s 1).toNat 8, ((atHload 0).served ((atHload 0).l1 0) ((atHload 0).asidOf c.k) w false).isSome = true)
    ∧ (atHload 0).soft = [] ∧ ((atHload 0).loadImage 0 (ofBytesLE ((atHload 0).l1Bytes 0 ((atHload 0).asidOf c.k) (c.k.s 1).toNat 8 false))) ≠ none :=
  meetsP (fun s c => (∀ w ∈ wordsOf (c.k.s 1).toNat 8, (s.served (s.l1 0) (s.asidOf c.k) w false).isSome = true)
    ∧ s.soft = [] ∧ (s.loadImage 0 (ofBytesLE (s.l1Bytes 0 (s.asidOf c.k) (c.k.s 1).toNat 8 false))) ≠ none) (by decide +kernel)
theorem test_meets_hload_bad : ∃ c, Issuing (atHload 0x400) c
    ∧ ((atHload 0x400).loadImage 0 (ofBytesLE ((atHload 0x400).l1Bytes 0 ((atHload 0x400).asidOf c.k) (c.k.s 1).toNat 8 false))) = none :=
  meetsP (fun s c => (s.loadImage 0 (ofBytesLE (s.l1Bytes 0 (s.asidOf c.k) (c.k.s 1).toNat 8 false))) = none) (by decide +kernel)
/-! ### Engine words -/

/-- A descriptor of `n` bytes with the fields given as offset, bytes and value; zeros elsewhere. -/
def desc (n : Nat) (fs : List (Nat × Nat × Nat)) : List Byte :=
  fs.foldl (fun bs x => bs.take x.1 ++ toBytesLE x.2.1 x.2.2 ++ bs.drop (x.1 + x.2.1)) (List.replicate n 0)
/-- CPY of 64 bytes from the data page to scratch (R184); one whose flags have bit 3 set. -/
def cpyBytes : List Byte := desc 128 [(8, 8, dataVa), (0x10, 8, 64), (0x18, 2, 1), (0x7C, 4, 0xFFFFFFFF)]
def cpyBad : List Byte := desc 128 [(8, 8, dataVa), (0x10, 8, 64), (0x18, 2, 9), (0x7C, 4, 0xFFFFFFFF)]
/-- A box of 4 elements of 4 bytes (R186), to scratch for CPYT, from it with an add for CPYR. -/
def tileBytes (dir op : Nat) : List Byte :=
  desc 128 [(0, 8, dataVa), (0x28, 4, 4), (0x54, 2, 4), (0x74, 1, 2), (0x75, 1, 1), (0x76, 1, dir), (0x77, 1, op), (0x7C, 4, 0xFFFFFFFF)]
/-- Two F16 operands in scratch, 256 bytes a row (R199); the same with a twin, a joint A, and an accumulator tile that does not exist. -/
def matBytes (flags acc aOff jtag : Nat) : List Byte :=
  desc 64 [(0, 4, aOff), (4, 4, 0x10000), (0x18, 4, 256), (0x1C, 4, 256), (0x20, 4, 0xFFFFFFFF), (0x24, 4, 0xFFFFFFFF), (0x30, 1, 9), (0x31, 1, 9),
    (0x32, 1, acc), (0x33, 1, flags), (0x34, 2, jtag)]
/-- 32 rows of 32 E4M3 weights in window 1, x and y in scratch (R209). -/
def geyBytes (rows : Nat) : List Byte :=
  desc 64 [(0, 8, 2 ^ 51), (8, 8, 0x1000), (0x14, 4, rows), (0x18, 4, 32), (0x1C, 4, 128), (0x20, 1, 11), (0x21, 1, 9), (0x22, 1, 1), (0x24, 4, 0xFFFFFFFF)]
/-- One participant's pattern of 2 × 2 × 2 × 2 elements (R227). -/
def patBytes (p : Nat) : List Byte :=
  desc 128 [(0, 4, 2), (4, 4, 2), (8, 4, 2), (12, 4, 2), (0x10, 2, p), (0x12, 1, 2), (0x13, 1, 0), (0x14, 1, 1), (0x16, 1, 1), (0x17, 1, 2), (0x18, 1, 3), (0x30, 4, 0xFFFFFFFF)]
def issuingE (bs : List Byte) (f : State → State := id) : State :=
  f ((issuingD 0xC03A004000000000 bs).modWork fun w => { w with jobs := w.jobs.map fun j => { j with homeMap := setAt 0 j.homeMap 1 3 } })
def describedB (s : State) (c : Ctx) (n : Nat) (bs : List Byte) : Bool :=
  match s.descFate c n (c.k.s 1) (n / 16) with
  | (s0, .good, _) => match s0.coreRead c.id c.k (c.k.s 1).toNat n with
    | (_, b, raced) => b == bs && !(raced && c.k.raceTrap)
  | _ => false
def eF : EFmt := ⟨7, false, true, 0, false, 1, 0, 0, 0, 0⟩
/-- ShuttleWords: the descriptor is read and passes its checks, or breaks one; there is room on chip. -/
theorem test_meets_cpy : ∃ c, Issuing (issuingE cpyBytes) c ∧ c.acts 7 false = true ∧ (c.k.s 1).toNat % 16 = 0
    ∧ describedB (issuingE cpyBytes) c 128 cpyBytes = true
    ∧ ((issuingE cpyBytes).cpyDesc ((issuingE cpyBytes).jobOf c.k) 0 ((issuingE cpyBytes).lrecOf c.k) (c.k.s 1) cpyBytes none).isOk = true
    ∧ ((issuingE cpyBytes).cpyDesc ((issuingE cpyBytes).jobOf c.k) 0 ((issuingE cpyBytes).lrecOf c.k) (c.k.s 1) cpyBad none).isOk = false
    ∧ (issuingE cpyBytes).shuttlePlace 0 c.k.group = some .queued ∧ c.k.cnt .copy < 63 ∧ ((issuingE cpyBytes).core 0).freeEntry = some 0
    ∧ (issuingE cpyBytes).unperformed c.id c.st = [] :=
  meetsP (fun s c => c.acts 7 false = true ∧ (c.k.s 1).toNat % 16 = 0 ∧ describedB s c 128 cpyBytes = true
    ∧ (s.cpyDesc (s.jobOf c.k) 0 (s.lrecOf c.k) (c.k.s 1) cpyBytes none).isOk = true
    ∧ (s.cpyDesc (s.jobOf c.k) 0 (s.lrecOf c.k) (c.k.s 1) cpyBad none).isOk = false
    ∧ s.shuttlePlace 0 c.k.group = some .queued ∧ c.k.cnt .copy < 63 ∧ (s.core 0).freeEntry = some 0
    ∧ s.unperformed c.id c.st = []) (by decide +kernel)
theorem test_meets_tiles : (tileDesc (loadRec 1) .cpyt 0x20000 (tileBytes 0 0) 0 0 none).isOk = true
    ∧ (tileDesc (loadRec 1) .cpyr 0x20000 (tileBytes 1 1) 0 0 none).isOk = true
    ∧ (tileDesc (loadRec 1) .cpyt 0x20000 (tileBytes 0 1) 0 0 none).isOk = false := by decide +kernel
/-- With 64 operations on the core's queue the next goes to the group's ring, whose page is in place. -/
def fullQueue : State := { issuingE cpyBytes with
  ops := (List.range 64).map fun i => { (default : EngOp) with id := 100 + i, kind := .cpy ⟨0, 0, 0, true, true, none, none⟩, group := 1, stat := .queued } }
theorem test_meets_ring : fullQueue.shuttlePlace 0 1 = some (.spilled 0) ∧ (match fullQueue.group? 1 with
    | some g => match (fullQueue.place ((fullQueue.work.jobs).headD default) 0 1 (fullQueue.ringVa g) .write).2 with
      | .at _ _ => true
      | .zero _ => true
      | _ => false
    | none => false) = true := by decide +kernel
/-- ADVST: a stage above the group's, and one that is not. -/
theorem test_meets_advst : ∃ c, Issuing (issuingE cpyBytes) c ∧ (match (issuingE cpyBytes).group? c.k.group with | some g => g.stage == 0 | none => false) = true
    ∧ (issuingE cpyBytes).unperformedAll c.id = [] ∧ c.x.wait = .none ∧ (issuingE cpyBytes).beyondGroup c.k 1 = true
    ∧ (issuingE cpyBytes).caches = [] ∧ (issuingE cpyBytes).memops = [] :=
  meetsP (fun s c => (match s.group? c.k.group with | some g => g.stage == 0 | none => false) = true ∧ s.unperformedAll c.id = []
    ∧ c.x.wait = .none ∧ s.beyondGroup c.k 1 = true ∧ s.caches = [] ∧ s.memops = []) (by decide +kernel)
def mF : EFmt := { eF with n := 2 }
def matOk (b : List Byte) : Bool := (State.reset.matDesc default 0 (loadRec 1) 512 0x20000 b false mF 0 0).isOk
/-- MatrixAndGeyserWords: descriptors plain, of a twin, of a joint A; two that break a limit. -/
theorem test_meets_matrix : ∃ c, Issuing (issuingE (matBytes 0 0 0 0)) c ∧ c.acts 7 false = true
    ∧ describedB (issuingE (matBytes 0 0 0 0)) c 64 (matBytes 0 0 0 0) = true ∧ (c.k.s 1).toNat % 64 = 0
    ∧ (issuingE (matBytes 0 0 0 0)).lrecOf c.k = loadRec 1 ∧ (issuingE (matBytes 0 0 0 0)).vlimit c.k = 512
    ∧ (issuingE (matBytes 0 0 0 0)).matQueue 0 < 32 ∧ c.k.cnt .matrix < 63 ∧ (issuingE (matBytes 0 0 0 0)).unperformed c.id c.st = []
    ∧ (issuingE (matBytes 0 0 0 0)).jointSets = [] ∧ (issuingE (matBytes 0 0 0 0)).pairingOf c.id = none :=
  meetsP (fun s c => c.acts 7 false = true ∧ describedB s c 64 (matBytes 0 0 0 0) = true ∧ (c.k.s 1).toNat % 64 = 0
    ∧ s.lrecOf c.k = loadRec 1 ∧ s.vlimit c.k = 512 ∧ s.matQueue 0 < 32 ∧ c.k.cnt .matrix < 63 ∧ s.unperformed c.id c.st = []
    ∧ s.jointSets = [] ∧ s.pairingOf c.id = none) (by decide +kernel)
/-- A member of a joint set whose first operand register holds an error. -/
theorem test_meets_joint_soft : ∃ c, Issuing ((issuingE (matBytes 0 0 0 0)).modSkein tid fun k => { k with soft := [.v 0] }) c ∧ SoftReg.v 0 ∈ c.k.soft :=
  meetsP (fun _ c => SoftReg.v 0 ∈ c.k.soft) (by decide +kernel)
theorem test_meets_matrix_descriptors : matOk (matBytes 0 127 0 0) = true ∧ matOk (matBytes 2 0 0 0) = true ∧ matOk (matBytes 16 0 0xFFFFFFFF 7) = true
    ∧ matOk (matBytes 0 128 0 0) = false ∧ matOk (matBytes 0 0 0 7) = false := by decide +kernel
/-- Its moves at the bounds: the last tile with the least pitch; a pitch and a tile beyond. -/
theorem test_meets_moves : 128 * formBytes 0 ≤ 512 ∧ 512 % formBytes 0 = 0 ∧ 127 < (loadRec 1).tiles ∧ scrOk (loadRec 1) 0 (127 * 512 + 128 * formBytes 0) = true
    ∧ ¬ 128 * formBytes 0 ≤ 508 ∧ (loadRec 1).tiles ≤ 128 ∧ scrOk (loadRec 1) (1212416 - 4) (127 * 512 + 128 * formBytes 0) = false
    ∧ 2 % formBytes 0 ≠ 0 := by decide
theorem test_meets_geyser : ∃ c, Issuing (issuingE (geyBytes 32)) c ∧ describedB (issuingE (geyBytes 32)) c 64 (geyBytes 32) = true
    ∧ ((issuingE (geyBytes 32)).geyDesc ((issuingE (geyBytes 32)).jobOf c.k) 0 ((issuingE (geyBytes 32)).lrecOf c.k) (c.k.s 1) (geyBytes 32) false 0 0).isOk = true
    ∧ ((issuingE (geyBytes 32)).geyDesc ((issuingE (geyBytes 32)).jobOf c.k) 0 ((issuingE (geyBytes 32)).lrecOf c.k) (c.k.s 1) (geyBytes 65536) false 0 0).isOk = true
    ∧ ((issuingE (geyBytes 32)).geyDesc ((issuingE (geyBytes 32)).jobOf c.k) 0 ((issuingE (geyBytes 32)).lrecOf c.k) (c.k.s 1) (geyBytes 65537) false 0 0).isOk = false
    ∧ (issuingE (geyBytes 32)).geyQueue 0 < 16 :=
  meetsP (fun s c => describedB s c 64 (geyBytes 32) = true
    ∧ (s.geyDesc (s.jobOf c.k) 0 (s.lrecOf c.k) (c.k.s 1) (geyBytes 32) false 0 0).isOk = true
    ∧ (s.geyDesc (s.jobOf c.k) 0 (s.lrecOf c.k) (c.k.s 1) (geyBytes 65536) false 0 0).isOk = true
    ∧ (s.geyDesc (s.jobOf c.k) 0 (s.lrecOf c.k) (c.k.s 1) (geyBytes 65537) false 0 0).isOk = false ∧ s.geyQueue 0 < 16) (by decide +kernel)
/-- TwinAndPleatWords: a twin group whose other core holds a partner's rendezvous; a pattern in slot 0 and a place on the engine. -/
def atTwin (rs : List Rendezvous) : State :=
  let s := (issuingE (patBytes 1)).modWork fun w => { w with launches := w.launches.map fun l => { l with lrec := { l.lrec with twin := true } } }
  { s.modGroup 1 (fun g => { g with twin := true, patterns := [(0, patBytes 1)] }) with rendezvous := rs }
theorem test_meets_twin : ∃ c, Issuing (atTwin [⟨900, ⟨1, 0⟩, 1, 5, none, none, false, false⟩]) c ∧ c.acts 7 false = true ∧ c.x.wait = .none
    ∧ ((atTwin [⟨900, ⟨1, 0⟩, 1, 5, none, none, false, false⟩]).lrecOf c.k).twin = true ∧ twinOf c.id.core = 1 ∧ c.k.group = 1
    ∧ (atTwin [⟨900, ⟨1, 0⟩, 1, 5, none, none, false, false⟩]).nextName ≠ 900 ∧ c.id ≠ ⟨1, 0⟩ :=
  meetsP (fun s c => c.acts 7 false = true ∧ c.x.wait = .none ∧ (s.lrecOf c.k).twin = true ∧ twinOf c.id.core = 1 ∧ c.k.group = 1
    ∧ s.nextName ≠ 900 ∧ c.id ≠ ⟨1, 0⟩) (by decide +kernel)
theorem test_meets_pleat : ∃ c, Issuing (atTwin []) c ∧ describedB (atTwin []) c 128 (patBytes 1) = true
    ∧ (match (atTwin []).group? c.k.group with | some g => g.patterns == [(0, patBytes 1)] && g.openPleat == [] | none => false) = true
    ∧ (atTwin []).exchanges = [] ∧ (atTwin []).fab.held = [] ∧ (atTwin []).caches = [] ∧ (atTwin []).memops = [] ∧ (atTwin []).unperformed c.id c.st = [] :=
  meetsP (fun s c => describedB s c 128 (patBytes 1) = true
    ∧ (match s.group? c.k.group with | some g => g.patterns == [(0, patBytes 1)] && g.openPleat == [] | none => false) = true
    ∧ s.exchanges = [] ∧ s.fab.held = [] ∧ s.caches = [] ∧ s.memops = [] ∧ s.unperformed c.id c.st = []) (by decide +kernel)
theorem test_meets_patterns : patternOk (patBytes 1) = true ∧ patternOk (patBytes 2) = true ∧ patternOk (patBytes 3) = false
    ∧ tbRange (loadRec 1) (patternOf (patBytes 1)).tb = .ok () ∧ (patternOf (patBytes 1)).p = 1 := by
  refine ⟨by decide, by decide, by decide, ?_, by decide⟩
  rfl
/-! ### Registration messages -/

/-- A registration message about words 0 and 3 of the sector of the data page. -/
def msgOf (src dst : Node) (kind : MsgKind) : Msg :=
  { src := src, dst := dst, kind := kind, asid := 1, sva := dataVa, mask := 9, rmask := 1, words := [], other := 5, rkind := .read, raced := false
    sealIt := false, op := 50 }
def l1n (core : Nat) : Node := agentNode (State.reset.l1 core)
def homeN : Node := .home 0 (f5 dataVa)
/-- The data page, a message under way, word 3 registered to the L1 of core 1. -/
def atHome (kind : MsgKind) (w3 : WSt) : State :=
  { withData [] (State.reset.loadWord 0) with
    net := [msgOf (l1n 0) homeN kind], homeWords := [(⟨1, dataVa / 4⟩, .valid), (⟨1, dataVa / 4 + 3⟩, w3)] }
/-- MessagesAtTheHome: REG, RDQ, SEAL, WB and GONE next on their way; a word with another owner, unpublished or published, and one without. -/
theorem test_meets_home_messages : ∀ kind ∈ ([.reg, .rdq, .seal, .wb, .gone] : List MsgKind),
    (atHome kind (.registered (State.reset.l1 1))).Next (l1n 0) homeN kind (msgOf (l1n 0) homeN kind) := by
  intro kind hk
  fin_cases hk <;> exact ⟨by decide +kernel, rfl⟩
theorem test_meets_home_owners :
    (atHome .reg (.registered (State.reset.l1 1))).owner 1 (dataVa / 4 + 3) = some (State.reset.l1 1, true)
    ∧ (atHome .reg (.sealed (State.reset.l1 1))).owner 1 (dataVa / 4 + 3) = some (State.reset.l1 1, false)
    ∧ (atHome .reg .valid).owner 1 (dataVa / 4) = none ∧ (atHome .reg .valid).pendingFor 1 (dataVa / 4) = false
    ∧ ({ atHome .reg .valid with homePend := [.request (msgOf (l1n 1) homeN .reg)] } : State).pendingFor 1 (dataVa / 4) = true
    ∧ State.reset.l1 1 ≠ nodeAgent (l1n 0) := by decide +kernel
/-- Its WB of one word by the owner, whose place is in DRAM and whose translation the slice holds. -/
def atWb : State := ((atHome .wb (.registered (State.reset.l1 0))).homePlace 1 (4 * (dataVa / 4 + 3))).1
theorem test_meets_write_back : atWb.homePend = [] ∧ (atWb.owner 1 (dataVa / 4 + 3)).map (·.1) = some (nodeAgent (l1n 0))
    ∧ (match atWb.homePlace 1 (4 * (dataVa / 4 + 3)) with
      | (s, .at sl key) => decide (s = atWb) && !(atWb.sectorFailed sl key)
      | _ => false) = true := by decide +kernel
/-- MessagesAtTheAgent: a message next on its way to the L1 of core 0, which holds word 0 as given; a memory operation that waits for it. -/
def atAgent (kind : MsgKind) (mask : W32) (ws : List (Nat × W32 × BitVec 4)) (c : Option CWord) : State :=
  { withData [] (State.reset.loadWord 0) with
    net := [{ msgOf homeN (l1n 0) kind with mask := mask, words := ws }]
    caches := match c with | some w => [(⟨State.reset.l1 0, 1, dataVa / 4⟩, w)] | none => []
    memops := [{ (default : MemOp) with
      id := 50, cnt := 50, sk := tid, strands := [0], kind := .load false, size := 4, cls := some .load, lanes := [⟨0, BitVec.ofNat 64 dataVa, 6⟩]
      need := [wkey 1 (dataVa / 4)], report := true }] }
theorem test_meets_agent_messages : ∀ kind ∈ ([.fwd, .recall, .race, .regack, .sealack, .data] : List MsgKind),
    (atAgent kind 1 [(0, 7, 15)] (some ⟨.owned, 3, 15, 0, true, .none⟩)).Next homeN (l1n 0) kind
      { msgOf homeN (l1n 0) kind with mask := 1, words := [(0, 7, 15)] } := by
  intro kind hk
  fin_cases hk <;> exact ⟨by decide +kernel, rfl⟩
theorem test_meets_agent_words :
    (atAgent .fwd 1 [] (some ⟨.owned, 3, 15, 0, true, .none⟩)).cword? (nodeAgent (l1n 0)) 1 (dataVa / 4) = some ⟨.owned, 3, 15, 0, true, .none⟩
    ∧ (atAgent .fwd 1 [] none).cword? (nodeAgent (l1n 0)) 1 (dataVa / 4) = none ∧ isL1 (nodeAgent (l1n 0)) = true
    ∧ ((atAgent .data 1 [(0, 7, 15)] none).memop? 50).map (·.need) = some [wkey 1 (dataVa / 4)]
    ∧ (((atAgent .data 1 [(0, 7, 15)] none).memop? 50).map fun o => o.laneAt (dataVa / 4)) = some (some (0, BitVec.ofNat 64 dataVa))
    ∧ ((atAgent .data 1 [(0, 7, 15)] none).skein? tid).isSome = true ∧ ((atAgent .data 1 [(0, 7, 15)] none).jobOfAsid? 1).isSome = true
    ∧ (maskWords dataVa 1).map (wkey 1) = [wkey 1 (dataVa / 4)] := by decide +kernel
/-! ### What engines do -/

def opOf (kind : OpKind) : EngOp :=
  { (default : EngOp) with id := 40, kind := kind, group := 1, sk := some tid, entry := some 0, cls := .copy, stat := .running }
/-- The operation under way, for group 1 of core 0, with the data page and an entry; names up to 99 given. -/
def atOp (o : EngOp) : State :=
  let s := (withData [] (State.reset.loadWord 0)).modCore 0 fun c =>
    { c with entries := [(0, { (default : EngEntry) with live := true, st := 1, op := 40 })] }
  { s with ops := [o], nextName := 100 }
def gAt (o : EngOp) : Group := ((atOp o).group? 1).getD default
def jAt (o : EngOp) : Job := (atOp o).jobOfGroup 1
/-- 130 bytes from the data page to scratch: two units; the first one next, then none. -/
def opCpy : EngOp := opOf (.cpy ⟨0, dataVa, 130, true, false, none, none⟩)
/-- A tile copy of 4 elements of 4 bytes, in either direction, and a reduction. -/
def tileOf (dir : Bool) : TileDesc :=
  { (default : TileDesc) with gbase := dataVa, strides := [], extents := [], coords := [0], boxes := [4], pitches := [], lesz := 2, rank := 1, dir := dir, redOp := 1 }
theorem test_meets_engine_fault :
    (atOp { opCpy with stat := .paused 0x7000 }).op? 40 = some { opCpy with stat := .paused 0x7000 }
    ∧ (atOp { opCpy with stat := .paused 0x7000 }).faults.contains ((jAt opCpy).asid, 0x7000) = false
    ∧ (atOp { opCpy with stat := .bad 6 0 }).op? 40 = some { opCpy with stat := .bad 6 0 }
    ∧ (atOp { opCpy with stat := .bad 6 0, sk := none }).op? 40 = some { opCpy with stat := .bad 6 0, sk := none }
    ∧ 40 < (atOp opCpy).nextName ∧ (Tab.get? ((atOp opCpy).core 0).entries 0).isSome = true := by decide +kernel
theorem test_meets_sector :
    (atOp opCpy).shuttleRuns opCpy = true ∧ opCpy.unitsDone = false ∧ (atOp opCpy).group? 1 = some (gAt opCpy)
    ∧ (atOp opCpy).cpyHomes opCpy ⟨0, dataVa, 130, true, false, none, none⟩ = (none, none)
    ∧ (match (atOp opCpy).engFate (jAt opCpy) 0 .read dataVa 130 with | (_, .good) => true | _ => false) = true
    ∧ (atOp opCpy).scrFate (gAt opCpy) 0 ((tileOf true).elems 0 0 |>.map fun e => (e.1, 4)) = .good := by decide +kernel
/-- A copy out of scratch, of whose first unit one word holds an error. -/
def opOut : EngOp := opOf (.cpy ⟨dataVa, 0, 130, false, true, none, none⟩)
def softOut : State := { atOp opOut with soft := [.scratch (scrKey (gAt opOut) 0 0 / 4)] }
theorem test_meets_sector_soft : softOut.op? 40 = some opOut ∧ softOut.shuttleRuns opOut = true ∧ opOut.unitsDone = false ∧ softOut.group? 1 = some (gAt opOut)
    ∧ softOut.scrFate (gAt opOut) 0 ((0, ((⟨dataVa, 0, 130, false, true, none, none⟩ : CpyDesc).unit 0).2) :: opOut.tbRange) = .bad 7 0 := by decide +kernel
/-- A page that the job maps from storage and that is not here parks a sector. -/
def parking : State := (atOp { opCpy with kind := .cpy ⟨0, 0x30000, 64, true, false, none, none⟩ }).modWork fun w =>
  { w with jobs := w.jobs.map fun j => { j with maps := j.maps ++ [(3, 1, 3, 1, 0)] } }
theorem test_meets_sector_park : (match parking.engFate (parking.jobOfGroup 1) 0 .read 0x30000 64 with
    | (_, .park va) => va == 0x30000
    | _ => false) = true ∧ parking.soft = [] := by decide +kernel
/-- One tile row is good in both directions; the ends of a copy, of a prefetch and of a cancelled operation. -/
theorem test_meets_tile_row : ∀ k ∈ [Acc.read, .write], (match (atOp opCpy).engFates (jAt opCpy) 0 k
      (((tileOf true).elems 0 0).filterMap fun e => e.2.map fun a => (a, 2 ^ (tileOf true).lesz)) with
    | (_, .good) => true
    | _ => false) = true := by
  intro k hk; fin_cases hk <;> decide +kernel
theorem test_meets_shuttle_ends :
    (atOp { opCpy with progress := 2 }).shuttleDone { opCpy with progress := 2 } = true
    ∧ (atOp { opCpy with progress := 1, cancelReq := true }).shuttleDone { opCpy with progress := 1, cancelReq := true } = false
    ∧ ((atOp (opOf (.prefetch (tileOf false) none))).prefetchRows (opOf (.prefetch (tileOf false) none)) (tileOf false) (tileOf false).rows).2 = true := by
  decide +kernel
/-- An F16 operation of one K-step, plain and half of a twin loop; MZERO of the tile above; a move; one Geyser row group. -/
def matOp : MatDesc := { (default : MatDesc) with bOff := 0x10000, aPitch := 256, bPitch := 256, aFmt := 9, bFmt := 9, steps := 1 }
def twinOp : MatDesc := { matOp with twin := true }
def geyOp : GeyDesc := { (default : GeyDesc) with wVa := 2 ^ 51, y := 0x1000, rows := 1, cols := 32, wPitch := 128, wFmt := 11, xFmt := 9, yScratch := true }
def opMat : EngOp := { opOf (.mat matOp) with cls := .matrix }
def opTwin (id pair : Nat) (d : MatDesc) : EngOp := { opOf (.mat d) with id := id, core := id - 40, stat := .queued, pairing := some pair, entry := none }
def opGey : EngOp := { opOf (.gey geyOp) with cls := .copy, xBytes := List.replicate 64 0 }
/-- Two halves whose rendezvous have met; the second's descriptor differs where asked. -/
def twins (d : MatDesc) (failed : Bool) : State := { atOp opMat with
  ops := [opTwin 40 1 twinOp, opTwin 41 2 d]
  rendezvous := [⟨1, ⟨0, 0⟩, 1, 5, none, some 2, failed, false⟩, ⟨2, ⟨1, 0⟩, 1, 5, none, some 1, failed, false⟩] }
/-- The Geyser operation with its one row on a page for Geysers, held whole by the L1 of core 0. -/
def atGey (o : EngOp) : State :=
  let s := (atOp o).modWork fun w => { w with jobs := w.jobs.map fun j => { j with homeMap := setAt 0 j.homeMap 1 3 } }
  let j := s.jobOfGroup 1
  match s.allocPiece 0 with
  | (s, some p) =>
    { s.installPage j 0 (2 ^ 51) 9 (fun i => if i == 0 then ⟨1, false, 0, 0, p⟩ else ⟨3, false, 0, 0, 0⟩) with
      caches := (List.range 9).map fun i => (⟨State.reset.l1 0, j.asid, 2 ^ 49 + i⟩, ⟨.valid, BitVec.ofNat 32 i, 0, 0, false, .none⟩) }
  | (s, none) => s
theorem test_meets_k_step :
    (atOp opMat).op? 40 = some opMat ∧ (atOp opMat).matRunnable opMat = true ∧ opMat.progress < matOp.steps ∧ (atOp opMat).twinMate opMat = none
    ∧ (∃ s1 b sb, (atOp opMat).fetchB opMat (gAt opMat) matOp 0 = (s1, .good, b, sb))
    ∧ (atOp { opMat with progress := 1 }).matRunnable { opMat with progress := 1 } = true ∧ ({ opMat with progress := 1 } : EngOp).matDone = true
    ∧ (atOp { opMat with kind := .mzero 126 2, progress := 1 }).matRunnable { opMat with kind := .mzero 126 2, progress := 1 } = true
    ∧ opMat.tainted = [] ∧ opMat.stale = [] ∧ (atOp opMat).stepFates opMat (gAt opMat) matOp 0 none = .good
    ∧ (atOp { opMat with kind := .mwr 0 0 0 512 }).moveFate { opMat with kind := .mwr 0 0 0 512 } (gAt opMat) = none
    ∧ ({ atOp opMat with soft := [.tile (tileKey (gAt opMat) 0 0 + 5)] } : State).tileSoft (gAt opMat) 0 matOp.acc = true ∧ matOp.overwrite = false := by
  refine ⟨by decide +kernel, by decide +kernel, by decide, by decide +kernel, ⟨_, _, _, rfl⟩, ?_⟩
  decide +kernel
theorem test_meets_twin_loop :
    (twins twinOp false).op? 40 = some (opTwin 40 1 twinOp) ∧ (twins twinOp false).pairingLost (opTwin 40 1 twinOp) = false
    ∧ (twins twinOp false).twinMate (opTwin 40 1 twinOp) = some (opTwin 41 2 twinOp)
    ∧ (twins twinOp false).matRunnable (opTwin 40 1 twinOp) = true ∧ (twins twinOp false).matRunnable (opTwin 41 2 twinOp) = true
    ∧ twinAgree twinOp twinOp = true ∧ twinAgree twinOp { twinOp with aOff := 4 } = true ∧ twinAgree twinOp { twinOp with bFmt := 8 } = false
    ∧ (twins twinOp true).pairingLost (opTwin 40 1 twinOp) = true := by decide +kernel
theorem test_meets_row_group :
    (atGey opGey).op? 40 = some opGey ∧ ((atGey opGey).group? 1).isSome = true ∧ (atGey opGey).geyRunnable opGey geyOp = true
    ∧ opGey.xTainted (((atGey opGey).group? 1).getD default) geyOp = false ∧ (atGey opGey).soft = []
    ∧ (match (atGey opGey).engFates ((atGey opGey).jobOfGroup 1) 0 .read [(2 ^ 51, 33)] with
      | (s1, .good) => s1.notGl ((atGey opGey).jobOfGroup 1).asid geyOp [(2 ^ 51, 33)] == none
        && decide ((s1.coreBytes 0 ((atGey opGey).jobOfGroup 1).asid (2 ^ 51) 33 false).1 = s1)
      | _ => false) = true
    ∧ geyOp.rowBytes = 33 ∧ (atOp { opGey with progress := 1 }).geyRunnable { opGey with progress := 1 } geyOp = true := by decide +kernel
/-- An exchange of two participants, rank 0, whose table is read; p as given, source and destination split along the same dimension. -/
def exOf (p : Nat) : Exchange :=
  { (default : Exchange) with op := 40, cid := 7, pattern := (patBytes p).set 0x14 0, rtab := some [(0, 0, dataVa), (9, 0, 0x40000)], tag := 5, asid := 1 }
def opPleat : EngOp := opOf (.pleat 0 (patBytes 2) 0 7)
/-- A Pleat packet of package 9: kind, ID and fields at offsets from 0x12 on. -/
def pleatPkt (kind cid : Nat) (fs : List (Nat × Nat × Nat)) (body : List (List Byte)) : Packet :=
  desc 56 ([(2, 2, 9), (4, 1, kind), (0xC, 2, 1), (0x10, 2, cid)] ++ fs) :: body
def atPleat (x : Exchange) (ps : List Packet) : State :=
  { (atOp opPleat).modFab fun f => { f with inbox := ps.map fun p => (9, p) } with exchanges := [x] }
def dataPkt : Packet := pleatPkt 9 7 [(0x18, 8, dataVa), (0x20, 4, 8)] [List.replicate 56 1]
/-- PleatEvents: nothing to send to a ready participant; a whole share; 100 ms; each message, its exchange there or not. -/
theorem test_meets_pleat_share :
    (atPleat (exOf 2) []).op? 40 = some opPleat ∧ (atPleat (exOf 2) []).exchange? 40 = some (exOf 2) ∧ (exOf 2).isOpen = true
    ∧ ({ exOf 2 with ready := [1] } : Exchange).next (patternOf (exOf 2).pattern) = some (1, 0) ∧ (patternOf (exOf 2).pattern).count 0 1 = 0
    ∧ ({ exOf 2 with sent := [1, 0] } : Exchange).next (patternOf (exOf 2).pattern) = none
    ∧ ({ exOf 2 with sent := [1, 0], received := 32 } : Exchange).share (patternOf (exOf 2).pattern) = true
    ∧ (exOf 2).issued + 125000000 ≤ ({ atPleat (exOf 2) [] with clock := 125000000 } : State).clock := by decide +kernel
theorem test_meets_pleat_packets :
    (atPleat (exOf 2) [pleatPkt 8 7 [(0x12, 2, 1), (0x14, 4, 5)] []]).firstPacket 9 = some (pleatPkt 8 7 [(0x12, 2, 1), (0x14, 4, 5)] [])
    ∧ Packet.kind (pleatPkt 8 7 [(0x12, 2, 1), (0x14, 4, 5)] []) = 8 ∧ Packet.rank (pleatPkt 8 7 [(0x12, 2, 1), (0x14, 4, 5)] []) = 1
    ∧ pfield (pleatPkt 8 7 [(0x12, 2, 1), (0x14, 4, 5)] []) 0x14 4 = (exOf 2).tag
    ∧ (atPleat (exOf 2) []).exchangesFor (pleatPkt 10 7 [(0x12, 2, 1)] []) = [exOf 2] ∧ Packet.kind (pleatPkt 10 7 [(0x12, 2, 1)] []) = 10
    ∧ (exOf 2).cid ≠ Packet.cid (pleatPkt 8 6 [] []) := by decide +kernel
theorem test_meets_pleat_data :
    Packet.kind dataPkt = 9 ∧ (atPleat (exOf 2) [dataPkt]).dataTarget dataPkt (pfield dataPkt 0x18 8) = some (exOf 2)
    ∧ (dataPkt.body.take (pfield dataPkt 0x20 4)).length = 8
    ∧ (match (atPleat (exOf 2) [dataPkt]).landFate ((atPleat (exOf 2) [dataPkt]).jobOfGroup 1) 0 (pfield dataPkt 0x18 8) 8 with
      | (_, .good) => true
      | _ => false) = true := by decide +kernel
/-! ### Records of the host -/

/-- A record for job `job` to the running package that holds the loaded program (job 1, phase 1, graph 1, launch 1.0). -/
def recOf (typ job status : Nat) (arg : W64) (body : List Byte) : HostRec := ⟨typ, 0, 32 + body.length, 3, job, status, arg, body⟩
def running : State := let s := State.reset.loadWord 0; { s with pkg := { s.pkg with boot := .running } }
def jobId : Nat := (running.work.jobs.headD default).id
def openRec (timeout : Nat) : HostRec := recOf 1 0 0 0 ((List.replicate 63 (toBytesLE 8 1) ++ [toBytesLE 8 5]).flatten ++ toBytesLE 4 timeout ++ List.replicate 4 0)
theorem test_meets_job_open : ∀ n ∈ [0, 12, 1000], running.Takes (openRec n) 1 ∧ (openRec n).len = 552
    ∧ fieldAt (openRec n).body 512 4 = n ∧ (((List.range 64).map fun i => fieldAt (openRec n).body (8 * i) 8).zipIdx.all fun e => homeEntryOk e.2 e.1) = true
    ∧ (running.work.jobs.filter fun j => j.status.isNone).length < 255 := by
  intro n hn
  fin_cases hn <;> exact ⟨⟨by decide +kernel, by decide, by decide +kernel, by decide +kernel, by decide +kernel⟩, by decide +kernel, by decide +kernel,
    by decide +kernel, by decide +kernel⟩
/-- JOB_CLOSE, PHASE_OPEN and PHASE_CLOSE, GRAPH_OPEN and GRAPH_CLOSE, each with what it names. -/
theorem test_meets_work_records :
    (∀ n ∈ [2, 3, 4, 5, 6], running.Takes (recOf n jobId 0 2 []) n) ∧ (running.job? jobId).map (fun j => (j.status, j.closed)) = some (none, false)
    ∧ running.phase? jobId 2 = none ∧ (running.phase? jobId 1).map (fun p => (p.status, p.closed)) = some (none, false)
    ∧ running.graph? jobId 2 = none ∧ (running.graph? jobId 1).isSome = true
    ∧ arg32 (recOf 5 jobId 0 0x100000002 []) false = 2 ∧ arg32 (recOf 5 jobId 0 0x100000002 []) true = 1 := by
  refine ⟨?_, by decide +kernel⟩
  intro n hn
  fin_cases hn <;> exact ⟨by decide +kernel, by decide, by decide, by decide, by decide⟩
/-- MAP: pages of zeros, of a volume, of an image; an unmap; an object. -/
def mapRec (op perm src first n arg len : Nat) : HostRec :=
  recOf 0x0A jobId 0 0 (desc 64 [(0, 1, op), (1, 1, perm), (2, 1, src), (3, 1, 2), (8, 8, 65536 * first), (0x10, 8, 65536 * n), (0x18, 8, arg), (0x20, 8, len)])
def withVolume : State := running.modHost fun h => { h with volumes := [(7, ⟨false, 131072, 5, []⟩)] }
theorem test_meets_map : (∀ op ∈ [0, 1, 2], withVolume.Takes (mapRec op 3 1 3 1 (7 * 2 ^ 56 + 65536) 4096) 0x0A)
    ∧ mapBodyOk (mapRec 0 3 1 3 1 (7 * 2 ^ 56 + 65536) 4096).body = true
    ∧ (withVolume.job? jobId).map (fun j => (withVolume.mappable j 3 1, glOk j 3 1 (3 / 8), withVolume.objectBusy j 3 1)) = some (true, true, false)
    ∧ (Tab.get? withVolume.host.volumes 7).isSome = true ∧ (65536 + 65536 * 1 ≤ 131072)
    ∧ ¬ ((6 / 2) % 2 = 1 ∧ 5 / 2 % 2 = 1) ∧ (7 / 2 % 2 = 1 ∧ 7 / 4 % 2 = 1) := by
  refine ⟨?_, by decide +kernel⟩
  intro n hn
  fin_cases hn <;> exact ⟨by decide +kernel, by decide, by decide +kernel, by decide +kernel, by decide +kernel⟩
/-- LAUNCH: a record within the limits that is admitted; one beyond them, one that is known already. -/
def launchRec (skeins index : Nat) : HostRec :=
  recOf 0x07 jobId 0 0 (desc 256 [(0, 8, codeVa), (8, 4, 2), (0xC, 4, 1), (0x10, 4, 1), (0x14, 2, skeins), (0x16, 1, 4), (0x33, 1, 1), (0x34, 4, index),
    (0x40, 8, 2 ^ 64 - 1), (0x48, 4, 1), (0x4C, 4, 1), (0x50, 4, jobId)])
theorem test_meets_launch :
    running.Takes (launchRec 32 254) 0x07 ∧ lrecLimits (launchRec 32 254).body = true ∧ running.admits (lrecOfBytes (launchRec 32 254).body) jobId = true
    ∧ running.queued (lrecOfBytes (launchRec 32 254).body).queue < 512 ∧ running.work.held = []
    ∧ lrecLimits (launchRec 33 254).body = false ∧ lrecLimits (launchRec 32 255).body = false
    ∧ running.admits (lrecOfBytes (launchRec 32 0).body) jobId = false ∧ running.predEnded (lrecOfBytes (launchRec 32 254).body) = false := by
  refine ⟨⟨by decide +kernel, by decide, by decide +kernel, by decide +kernel, by decide +kernel⟩, ?_⟩
  decide +kernel
/-- A record whose predecessor has ended cancelled. -/
def afterCancelled : State := running.modLaunch ⟨jobId, 1, 0⟩ fun l => { l with status := some 1 }
def dependentRec : HostRec :=
  recOf 0x07 jobId 0 0 (desc 256 [(0, 8, codeVa), (8, 4, 2), (0xC, 4, 1), (0x10, 4, 1), (0x14, 2, 4), (0x16, 1, 4), (0x33, 1, 1), (0x34, 4, 5),
    (0x40, 8, 2 ^ 64 - 256), (0x48, 4, 1), (0x4C, 4, 1), (0x50, 4, jobId)])
theorem test_meets_late_launch : afterCancelled.admits (lrecOfBytes dependentRec.body) jobId = true ∧ lrecLimits dependentRec.body = true
    ∧ (lrecOfBytes dependentRec.body).preds.head? = some 0 ∧ (afterCancelled.launch? ⟨jobId, 1, 0⟩).map (·.status) = some (some 1) := by decide +kernel
/-- CANCEL of each kind, of what runs, has ended and is not known; STORAGE replies for a read and a write in progress. -/
theorem test_meets_cancel : (∀ k ∈ [0, 1, 2, 3], running.Takes (recOf 8 jobId k (2 ^ 32) []) 8)
    ∧ (running.launch? ⟨jobId, 1, 0⟩).map (fun l => (l.status, l.ending)) = some (none, none) ∧ running.launch? ⟨jobId, 1, 1⟩ = none
    ∧ ((running.modLaunch ⟨jobId, 1, 0⟩ fun l => { l with status := some 0 }).launch? ⟨jobId, 1, 0⟩).map (·.status) = some (some 0)
    ∧ (running.graph? jobId 1).map (·.status) = some none ∧ running.graph? jobId 2 = none
    ∧ ((running.modGraph jobId 1 fun g => { g with status := some 0 }).graph? jobId 1).map (·.status) = some (some 0)
    ∧ (running.phase? jobId 1).map (·.status) = some none ∧ (running.job? jobId).map (·.status) = some none := by
  refine ⟨?_, by decide +kernel⟩
  intro n hn
  fin_cases hn <;> exact ⟨by decide +kernel, by decide, by decide, by decide, by decide⟩
def storeReq (op : Nat) : StoreReq := { (default : StoreReq) with num := 5, job := jobId, group := 1, op := op, bytes := 16, got := [1, 2] }
def storing (op : Nat) : State := running.modHost fun h => { h with storage := [storeReq op] }
def storeRec (st : Nat) : HostRec := recOf 0x0B jobId st 5 (toBytesLE 4 5 ++ toBytesLE 4 0 ++ List.replicate 8 9)
theorem test_meets_storage_reply : (∀ st ∈ [0, 1], (storing 0).Takes (storeRec st) 0x0B)
    ∧ (∀ op ∈ [0, 1], (storing op).host.storage.find? (fun q => q.num == arg32 (storeRec 0) false && q.chunk < 2 ^ 31) = some (storeReq op))
    ∧ (storeReq 0).kobj = none ∧ (storeReq 0).piece = none ∧ fieldAt (storeRec 0).body 4 4 = (storeReq 0).chunk := by
  refine ⟨?_, by decide +kernel⟩
  intro n hn
  fin_cases hn <;> exact ⟨by decide +kernel, by decide, by decide, by decide, by decide⟩
/-- A MGMT record: op, die, kind, index and value, the job, its group 0, and what follows the operands. -/
def mgRec (op die kind index value : Nat) (tail : List Byte := []) : HostRec :=
  recOf 0x0C 0 0 0 (desc 64 [(0, 2, op), (2, 1, die), (3, 1, kind), (4, 2, index), (8, 8, value), (0x10, 4, 1), (0x14, 4, 1)] ++ tail)
theorem test_meets_management : ∀ op ∈ List.range 14, running.TakesMgmt (mgRec op 3 0 0 0) op := by
  intro op h
  have h : op < 14 := List.mem_range.mp h
  refine ⟨⟨by decide +kernel, rfl, ?_, ?_, ?_⟩, ?_, ?_⟩ <;> interval_cases op <;> decide +kernel
theorem test_meets_management_operands :
    (mgDie (mgRec 1 3 2 31 0) ≤ 3 ∧ mgIndex (mgRec 1 3 2 31 0) < [96, 64, 32].getD (mgKind (mgRec 1 3 2 31 0)) 0)
    ∧ (sextInt 64 (mgValue (mgRec 2 3 0 0 70000)) = 70000 ∧ sextInt 64 (mgValue (mgRec 2 3 0 0 69999)) < 70000)
    ∧ mgKind (mgRec 2 3 1 0 90000) = 1 ∧ sextInt 64 (mgValue (mgRec 2 3 2 0 2000)) = 2000 ∧ mgIndex (mgRec 2 3 3 63 0) < 64
    ∧ mgKind (mgRec 7 3 7 2047 0) ≤ 7 ∧ mgIndex (mgRec 8 3 0 127 0) < 128 ∧ mgIndex (mgRec 8 3 2 7 0) < 8
    ∧ 1952 ≤ (mgTail (mgRec 9 0 0 15 0 (List.replicate 1952 1))).length ∧ mgIndex (mgRec 9 0 0 15 0) < 16
    ∧ mgIndex (mgRec 10 0 1 31 4096) < 32 ∧ mgValue (mgRec 10 0 1 31 (2 ^ 36)) = 2 ^ 36 ∧ mgAux (mgRec 10 0 1 31 4096) ≠ 0
    ∧ 64 ≤ (mgTail (mgRec 12 0 0 47 0 (List.replicate 64 1))).length ∧ mgIndex (mgRec 12 0 0 47 0) < 48
    ∧ mgIndex (mgRec 12 0 0 0xFFFF 0) = 0xFFFF ∧ running.fab.store.length < 64 := by decide +kernel
/-- A die to drain, its group running; the debugger's skein, stopped and not; the volume to delete; the job to let go. -/
theorem test_meets_debugger :
    running.mgSkein (mgRec 4 0 0 0 0) = some tid ∧ (running.skein? tid).map (·.stopped) = some false
    ∧ ((running.skein? tid).bind fun k => k.strand? 0).map (·.wait) = some .none ∧ (running.skein? tid).map (·.park) = some none
    ∧ ((running.modSkein tid fun k => { k with stopped := true }).skein? tid).map (·.stopped) = some true
    ∧ (((running.modSkein tid fun k => { k with stopped := true }).modStrand tid 0 fun x => { x with wait := .memops [] 0 }).skein? tid).bind
        (fun k => (k.strand? 0).map fun x => decide (x.wait ≠ .none)) = some true
    ∧ (running.group? 1).map (fun g => (dieOf g.core, g.st, g.cancelled, g.exited.length)) = some (0, .running, false, 0)
    ∧ ((running.group? 1).map fun g => (running.lrecOfGroup g).skeins) = some 1
    ∧ (Tab.get? withVolume.host.volumes (mgIndex (mgRec 11 0 0 7 0))).isSome = true ∧ Tab.get? running.host.volumes 31 = none
    ∧ (running.job? (mgJob (mgRec 13 0 0 0 0))).isSome = true := by decide +kernel
/-- ATTEST without a job; a boot image in recovery: a chunk of more to come, and the last. -/
def imageRec (last : Nat) : HostRec := recOf 0x0F 0 0 0 (desc 24 [(4, 4, 8), (8, 8, 8), (0x10, 4, last)] ++ List.replicate 8 1)
def inRecovery : State := { State.reset with pkg := { State.reset.pkg with boot := .recovery } }
theorem test_meets_attest_image :
    running.Takes (recOf 0x0E 0 0 0 (List.replicate 40 0)) 0x0E ∧ running.Takes (imageRec 0) 0x0F
    ∧ inRecovery.pkg.boot = .recovery ∧ (∀ i ∈ [0, 1], (imageRec i).typ = 0x0F ∧ (imageRec i).len = 32 + (imageRec i).body.length
      ∧ (imageRec i).len % 8 = 0 ∧ (imageRec i).len ≤ 65536 ∧ fieldAt (imageRec i).body 0 4 = inRecovery.host.imgNext
      ∧ ((imageRec i).body.drop 0x18).take (fieldAt (imageRec i).body 4 4) = List.replicate 8 1
      ∧ fieldAt (imageRec i).body 0x10 4 % 2 = i ∧ fieldAt (imageRec i).body 8 8 = (inRecovery.host.imgParts ++ List.replicate 8 1).length) := by
  refine ⟨⟨by decide +kernel, rfl, by decide, by decide, by decide⟩, ⟨by decide +kernel, rfl, by decide +kernel, by decide +kernel, by decide +kernel⟩, rfl, ?_⟩
  decide +kernel
/-- Volumes, plain and of LZ4: 512 bytes at the end of one, a chunk of the other, with none mapped; a chunk that a job maps. -/
def mappedVolume : State := withVolume.modWork fun w => { w with jobs := w.jobs.map fun j => { j with maps := [(3, 1, 3, 1, 7 * 2 ^ 56)] } }
theorem test_meets_volumes :
    Tab.get? withVolume.host.volumes 7 = some ⟨false, 131072, 5, []⟩ ∧ (130560 % 512 = 0 ∧ 130560 + 512 ≤ 131072)
    ∧ (∀ c, 130560 / 65536 ≤ c → c ≤ (130560 + 512 - 1) / 65536 → withVolume.chunkMapped 7 c = false)
    ∧ mappedVolume.chunkMapped 7 0 = true ∧ mappedVolume.chunkMapped 7 1 = false ∧ (65536 % 65536 = 0 ∧ 65536 + 65536 ≤ 131072) := by
  refine ⟨by decide +kernel, by decide, ?_, by decide +kernel, by decide +kernel, by decide⟩
  intro c h1 h2
  have h : c = 1 := by omega
  subst h
  decide +kernel
/-! ### Placement -/

def lid5 : LaunchId := ⟨jobId, 1, 5⟩
/-- A second launch of two groups, priority 0, on die 0, eligible since `t`, beside the first launch's group. -/
def waiting (t : Nat) (f : Launch → Launch := id) : State :=
  let l : Launch := { loadLaunch jobId 0 with lid := lid5, lrec := { lrecOfBytes (launchRec 4 5).body with dies := 1 }, counter := 2, eligible := some t, lastPlaced := t }
  running.modWork fun w => { w with launches := w.launches ++ [f l] }
def lWait (t : Nat) : Launch := ((waiting t).launch? lid5).getD default
/-- PlacementEvents, a placement: the die's head fits, and nothing goes before it. -/
def headB (s : State) (die : Nat) : Bool :=
  let s1 := (s.modDie die fun x => { x with lastStep := s.clock }).markEligible
  (s.die die).lastStep == 0 && !s1.dieShut die && match s1.candidates die with
    | l :: _ => l.lid == lid5 && s1.launch? l.lid == some l && (s1.job? l.lid.job).isSome && !l.lrec.coop && s1.savedGroups l.lid == [] && !s1.blocked die l
      && (s1.pickPlace l.lid l.lrec [die]).isSome && (s.group? s.nextName).isNone
    | [] => false
theorem test_meets_placement : headB (waiting 0) 0 = true ∧ (((waiting 0).modDie 0 fun x => { x with lastStep := 4 }).die 0).lastStep ≠ 0
    ∧ (waiting 0).clock < (((waiting 0).modDie 0 fun x => { x with lastStep := 4 }).die 0).lastStep + 8 := by decide +kernel
/-- A launch that has not fitted for 2^22 ticks; its reservation of core 0, where the first launch's group can go. -/
def unfit : State := { waiting 0 (fun l => { l with noFit := [(0, 0)], lrec := { l.lrec with priority := 7 } }) with clock := 2 ^ 22 }
def reserved : State := unfit.modDie 0 fun d => { d with reserve := [(lid5, 0, 2 ^ 22 - 2 ^ 18)] }
theorem test_meets_reservation :
    ((unfit.candidates 0).head?.map fun l => (l.lid, Tab.get? l.noFit 0, l.lrec.coop)) = some (lid5, some 0, false)
    ∧ (unfit.die 0).reserve = [] ∧ ((unfit.candidates 0).head?.map fun l => (placesOf l.lrec 0).any (unfit.reservable l)) = some true
    ∧ (reserved.die 0).reserve = [(lid5, 0, 2 ^ 22 - 2 ^ 18)] ∧ ((reserved.candidates 0).find? (·.lid == lid5)).isSome = true ∧ (2 ^ 22 - 2 ^ 18) + 2 ^ 18 ≤ reserved.clock
    ∧ ((reserved.groups.filter fun x => x.2.st != .saved && (x.2.cores.contains 0 || (false && x.2.cores.contains 1))).map (·.1)) = [1]
    ∧ ((reserved.group? 1).map fun g => (reserved.preemptable g, (reserved.lrecOfGroup g).priority, g.exited.length, (reserved.lrecOfGroup g).skeins)) = some (true, 0, 0, 1)
    ∧ ((reserved.launch? lid5).map fun l => (reserved.effective l, reserved.fitsWithout lid5 l.lrec 0 [1])) = some (9, true) := by decide +kernel
/-- Its group can stop, as it can when its die drains; with its service core frozen it cannot. -/
theorem test_meets_stop : (∀ s ∈ [reserved, running], reserved.CanStop ((s.group? 1).getD default))
    ∧ (running.groups.filter fun x => dieOf x.2.core == 0 && x.2.st == .running).map (·.1) = [1]
    ∧ ((reserved.modSlice (reserved.queueSlice ((reserved.group? 1).getD default)) fun x => { x with frozenService := true }).slice
        (reserved.queueSlice ((reserved.group? 1).getD default))).frozenService = true := by
  refine ⟨?_, by decide +kernel, by decide +kernel⟩
  intro s hs
  simp only [List.mem_cons, List.not_mem_nil, or_false] at hs
  rcases hs with rfl | rfl <;> exact ⟨by decide +kernel, by decide +kernel, by decide +kernel⟩
/-- The group on its way out: stopping with nothing under way, sealing, gone; coming back from a save; its end. -/
def leaving (f : Group → Group) (g : Skein → Skein := fun k => { k with yielded := true }) : State := (running.modSkein tid g).modGroup 1 f
def savedPlace (g : Group) : Group := { g with st := .restoring, prev := some ⟨g.core, g.gmap, g.gmap2, g.tmap, g.tmap2, g.slots⟩, saved := [(0, (running.skein? tid).getD default)] }
theorem test_meets_save :
    (((leaving fun g => { g with st := .stopping }).group? 1).map fun g => ((leaving fun g => { g with st := .stopping }).savable 1 g, g.st)) = some (true, .stopping)
    ∧ (((leaving fun g => { g with st := .saving, sealOp := 9 }).group? 1).map fun g => ((leaving fun g => { g with st := .saving, sealOp := 9 }).sealed g, g.st))
      = some (true, .saving)
    ∧ (((leaving savedPlace id).group? 1).map fun g => (g.st, g.prev.isSome, (g.saved.map fun x => g.skId (running.lrecOfGroup g) x.1).length)) = some (.restoring, true, 1) := by
  decide +kernel
def ended (op : Nat) : State := { running.modGroup 1 (fun g => { g with exited := [0], sealOp := op }) with skeins := [] }
theorem test_meets_group_end :
    (((ended 0).group? 1).map fun g => ((ended 0).endReady 1 g, g.sealOp)) = some (true, 0)
    ∧ (((ended 9).group? 1).map fun g => ((ended 9).endReady 1 g, g.sealOp)) = some (true, 9)
    ∧ ((ended 9).launch? ⟨jobId, 1, 0⟩).map (fun l => (l.counter, l.status)) = some (1, none) := by decide +kernel
/-- A submission that a full queue held, admitted and not. -/
def holding (index : Nat) : State := running.modWork fun w => { w with held := [(1, lrecOfBytes (launchRec 4 index).body, 0, none)] }
theorem test_meets_held : (∀ i ∈ [0, 5], (holding i).work.held.find? (fun x => (holding i).queued x.1 < 512)
      = some (1, lrecOfBytes (launchRec 4 i).body, 0, none))
    ∧ ((holding 5).modWork fun w => { w with held := [] }).admits (lrecOfBytes (launchRec 4 5).body) jobId = true
    ∧ ((holding 5).modWork fun w => { w with held := [] }).predEnded (lrecOfBytes (launchRec 4 5).body) = false
    ∧ ((holding 0).modWork fun w => { w with held := [] }).admits (lrecOfBytes (launchRec 4 0).body) jobId = false := by decide +kernel
/-- A copy schedule of one entry on the data page, read whole: one that passes the checks of its descriptor, one that does not; none. -/
def schedEnt (kind : Nat) : List Byte := desc 16 [(0, 2, 0), (2, 1, kind), (4, 4, 0x8000)] ++ cpyBytes
def scheduled (kind : Nat) (n : Nat) : State :=
  (withData (schedEnt kind) (waiting 0 fun l => { l with sched := none, lrec := { l.lrec with entries := n, sched := BitVec.ofNat 64 dataVa, scratch := 1212416 } }))
def schedB (kind : Nat) (good : Bool) : Bool :=
  match (scheduled kind 1).launch? lid5 with
  | some l => l.sched.isNone && l.eligible.isSome && l.status.isNone && l.ending.isNone && match (scheduled kind 1).job? lid5.job with
    | some j => match (scheduled kind 1).schedBytes j (l.queue / 2) l.lrec.sched.toNat 144 with
      | (s1, some (.ok bs)) => (s1.schedEntry j 0 l.lrec ((bs.drop 0).take 144)).isSome == good
      | _ => false
    | none => false
  | none => false
theorem test_meets_schedule : schedB 0 true = true ∧ schedB 4 false = true
    ∧ (((scheduled 0 0).launch? lid5).map fun l => (l.sched, l.eligible.isSome, l.lrec.entries)) = some (none, true, 0) := by decide +kernel
/-! ### Services -/

/-- The loaded skein in service `n`, posted: its job's data page begins with the bytes, the group runs on core 0. -/
def reqOf (n : Nat) (args : List W64) (reply : Option W64) : SvcReq :=
  ⟨1, 0, tid, n, args, (running.skein? tid).getD default, reply, [], none, true⟩
def svcAt (n : Nat) (args : List W64) (bs : List Byte := []) : State :=
  { (withData bs running).modWork fun w => { w with svcs := [reqOf n args none] } with skeins := [] }
def dv : W64 := BitVec.ofNat 64 dataVa
def jOf (s : State) : Job := s.work.jobs.headD default
def servesB (n : Nat) (args : List W64) : Bool :=
  (svcAt n args).request? tid n == some (reqOf n args none) && !((svcAt n args).slice (reqOf n args none).slice).frozenService
    && match (svcAt n args).group? 1 with
      | some g => (svcAt n args).job? g.launch.job == some (jOf (svcAt n args)) && dieOf g.core == 0
      | none => false
theorem test_meets_serves : ∀ n ∈ List.range 7, servesB n [dv, 4096] = true := by decide +kernel
/-- The bytes of a service's operand are there to read. -/
def readsB (n len : Nat) (bs : List Byte) : Bool :=
  let s := svcAt n [dv, dv] bs
  match s.engFate (jOf s) 0 .read dataVa len with
  | (s1, .good) => (s1.engRead (jOf s).asid (s.serviceAgent (reqOf n [] none).slice) dataVa len true).2 == bs
  | _ => false
def regionBytes (first last : Nat) : List Byte := toBytesLE 16 (first * 2 ^ 16 + last * 2 ^ 80)
def storeBytes (op bytes : Nat) : List Byte := desc 64 [(0, 1, op), (8, 8, 77), (0x18, 8, bytes), (0x20, 8, dataVa)]
theorem test_meets_service_operands :
    readsB 2 256 (launchRec 32 254).body = true ∧ readsB 3 16 (regionBytes 5 5) = true ∧ (∀ op ∈ [0, 1], readsB 4 64 (storeBytes op 4096) = true)
    ∧ readsB 4 64 (storeBytes 2 0) = true ∧ fieldAt (storeBytes 1 4096) 0x20 8 = dataVa ∧ zeroAt (storeBytes 1 4096) 0x28 24 = true
    ∧ bitsNat (ofBytesLE (regionBytes 5 5)) 56 16 = 5 ∧ bitsNat (ofBytesLE (regionBytes 5 5)) 120 80 = 5 ∧ dataVa % 64 = 0
    ∧ (svcAt 2 [dv]).admits { lrecOfBytes (launchRec 32 254).body with job := jobId } jobId = true
    ∧ (svcAt 2 [dv]).predEnded { lrecOfBytes (launchRec 32 254).body with job := jobId } = false := by decide +kernel
/-- Pages in place; one that waits for storage; one that the job does not map. -/
theorem test_meets_page_in :
    ((svcAt 0 [dv, 4097]).pageInNext (jOf (svcAt 0 [dv, 4097])) 0 2 dataVa).2.1 = none
    ∧ (match (parking.pageInNext (jOf parking) 0 1 0x30000).2.1 with | some (.park _) => true | _ => false) = true
    ∧ (match ((svcAt 0 [dv, 4097]).pageInNext (jOf (svcAt 0 [dv, 4097])) 0 1 0x30000).2.1 with | some (.bad _) => true | _ => false) = true := by
  decide +kernel
theorem test_meets_svc_cancel :
    (svcAt 1 [0, 2 ^ 32]).launch? ⟨jobId, 1, 1⟩ = none ∧ ((svcAt 1 [0, 2 ^ 32]).launch? ⟨jobId, 1, 0⟩).map (fun l => (l.status, l.ending)) = some (none, none)
    ∧ ((svcAt 1 [1, 1]).graph? jobId 1).map (·.status) = some none ∧ ((svcAt 1 [2, 1]).phase? jobId 1).map (·.status) = some none
    ∧ ((svcAt 1 [3, 1]).job? 1).map (·.status) = some none ∧ (reqOf 1 [3, 1] none).arg 1 = 1 ∧ (svcAt 6 [5]).pkg.id ≠ 5
    ∧ (svcAt 6 [0]).pkg.id = 0 := by decide +kernel
/-! ### Skeins that wait, pages -/

def withStrand0 (f : Strand → Strand) (g : Skein → Skein := id) : State := (running.modStrand tid 0 f).modSkein tid g
def sk (s : State) : Skein := (s.skein? tid).getD default
theorem test_meets_waits_a :
    (sk (withStrand0 fun x => { x with wait := .lastExit })).quiet = true ∧ (sk running).failed = [] ∧ (sk running).pendErrs = []
    ∧ ((sk (withStrand0 fun x => { x with wait := .lastExit })).strand? 0).map (·.wait) = some .lastExit := by decide +kernel
theorem test_meets_waits_b :
    (sk (withStrand0 id fun k => { k with svcWait := some (0, 3) })).quiet = true := by decide +kernel
theorem test_meets_waits_c : running.faults = [] := by decide +kernel
theorem test_meets_waits_d :
    ((sk running).strand? 0).map (fun x => (x.brkPassed, x.wait, x.atSafe)) = some (false, .none, false)
    ∧ (sk running).stopped = false ∧ (sk running).park = none ∧ (sk running).yielded = false ∧ (sk running).pendTraps = []
    ∧ (running.core tid.core).frozen = false := by decide +kernel
theorem test_meets_waits_e : running.unperformedAll tid = [] := by decide +kernel
/-- A skein parked at a remote access of lanes 0 and 1 whose packets have come to an end with the outcomes given. -/
def remotePkt (l o : Nat) : RemPkt := ⟨9, l, [l], [l], 0, o, 0x40000⟩
def remoteOf (o1 o2 : Nat) : Remote :=
  { (default : Remote) with
    op := 60, sk := tid, undone := 3, pkts := [remotePkt 0 o1, remotePkt 1 o2]
    lanes := [⟨0, 0x40000, 6⟩, ⟨1, 0x40004, 6⟩], size := 4, isLoad := true }
def atRemote (o1 o2 : Nat) : State :=
  (running.modSkein tid fun k => { k with park := some (0, .remote 60) }).modFab fun f => { f with remotes := [remoteOf o1 o2] }
theorem test_meets_unpark : ∀ o ∈ [(1, 1), (1, 2), (2, 3)], (sk (atRemote o.1 o.2)).park = some (0, .remote 60)
    ∧ ((atRemote o.1 o.2).fab.remotes.find? fun y => y.op == 60) = some (remoteOf o.1 o.2)
    ∧ ((remoteOf o.1 o.2).pkts.all fun p => p.outcome != 0) = true
    ∧ Mask.diff (remoteOf 1 1).undone (Mask.ofLanes (((remoteOf 1 1).pkts.filter fun p => p.outcome == 1).flatMap fun p => p.lanes)) = 0 := by decide +kernel
def replied : State := { (running.modWork fun w => { w with svcs := [reqOf 3 [] (some 7)] }) with skeins := [] }
theorem test_meets_respawn : replied.canRespawn tid = true
    ∧ ((replied.answered? tid).bind (·.reply)) = some 7 := by decide +kernel
/-- An unverified code page outside every object, and one in an object, whole, with a digest (whatever its value, one of the two clauses is met). -/
def unverified (obs : List KObj) : State := { running.modWork fun w => { w with objects := obs } with verified := [] }
def codeObj : KObj := ⟨jobId, 0, 1, 0, [(65536, [1])], []⟩
theorem test_meets_verify :
    (unverified []).codeObject? jobId 1 = none ∧ (unverified [codeObj]).codeObject? jobId 1 = some (codeObj, 65536)
    ∧ Tab.get? codeObj.digests 65536 = some [1] ∧ (running.jobOfAsid? 1).isSome = true ∧ (unverified []).verified = [] ∧ (unverified []).badPages = [] := by
  decide +kernel
theorem test_meets_page_bytes : ∃ bs, ((unverified [codeObj]).pageChecks (jOf running) 1).pageBytes (jOf running) 1 = some bs := by
  exact Option.isSome_iff_exists.mp (by decide +kernel)
/-- Faults that are to be resolved: of a page in place, of one never mapped in, of a piece that waits for storage. -/
def faulting (s : State) (va : Nat) : State := { s with faults := [(1, va)] }
theorem test_meets_fault_resolution :
    (match ((faulting (withData [] running) dataVa).placeAny (jOf running) 0 1 dataVa).2 with | .park _ => false | _ => true) = true
    ∧ (running.dieOfVa dataVa = 0)
    ∧ (match ((faulting parking 0x30000).placeAny (jOf parking) 0 1 0x30000) with
      | (s1, .park sl) => s1.leafOf 1 0x30000 == none && !(s1.slice sl).frozenService
      | _ => false) = true := by decide +kernel
/-- A piece in place that starts to move, and that moves; a discarded page. -/
def dataKey : Nat := match (withData [] running).leafOf 1 dataVa with
  | some (p, l) => pieceKey (leafFrame p l dataVa) dataVa
  | none => 0
def discarded : State := (withData [] running).discardPage (jOf running) 2
theorem test_meets_migration :
    (((withData [] running).slice (f5 dataVa)).entry dataKey).kind = 1 ∧ (((withData [] running).slice (f5 dataVa)).entry dataKey).mig = false
    ∧ (((withData [] running).slice (f5 dataVa)).claimPiece ((withData [] running).slice (f5 dataVa)).nextPiece).isSome = true
    ∧ ((((withData [] running).modSlice (f5 dataVa) fun x => x.setEntry dataKey { x.entry dataKey with mig := true, alt := 1 }).slice (f5 dataVa)).entry dataKey).mig = true
    ∧ ((discarded.leafOf 1 dataVa).map fun p => (pteDisc p.1, p.2)) = some (true, false) := by decide +kernel
/-! ### Health, links, packets -/

/-- HealthEvents: a die that comes back under its limits, one still above, a package that has shut down. -/
def hot : State := running.modDie 1 fun d => { d with throttled := true, clockKHz := 625000 }
def shut : State := running.modDie 1 fun d => { d with shutdown := true }
theorem test_meets_health : (94999 : Int) < (hot.die 1).threshold ∧ 3999 < hot.pkg.powerLimit ∧ (hot.die 1).throttled = true
    ∧ (hot.die 1).threshold ≤ (95000 : Int) ∧ shut.down = true := by decide +kernel
/-- A port of a running link: flits 3 and 4 in its retry buffer, lane repair and retraining as given. -/
def flit (seq : Nat) : Flit := mkFlit (List.replicate 56 1) seq 1 false 0 0
def upPort (f : Port → Port := id) : State :=
  { State.reset with pkg := { State.reset.pkg with id := 5, assigned := true } }.modPort 47 fun _ =>
    f { Port.empty with up := true, width := 8, txSeq := 5, rxSeq := 2, buf := [flit 3, flit 4] }
theorem test_meets_links :
    (State.reset.port 47).up = false ∧ ((upPort fun p => { p with retraining := some 4 }).port 47).retraining = some 4
    ∧ ((upPort fun p => { p with repair := [2], buf := [] }).port 47).repair = [2] ∧ ((upPort fun p => { p with repair := [2, 3], buf := [] }).port 47).repair = [2, 3]
    ∧ ((upPort fun p => { p with fails := (1, 3), repair := [2] }).port 47).fails.1 = 1 ∧ 7 ∉ ((upPort fun p => { p with repair := [2] }).port 47).repair
    ∧ ((upPort).port 47).repair = []
    ∧ ((upPort).port 47).up = true ∧ ((upPort).port 47).retraining = none ∧ ((upPort).port 47).spare = false ∧ ((upPort).port 47).fails.1 = 0
    ∧ (∃ f ∈ ((upPort).port 47).buf.filter fun f => f.seq == 3 || !seqUpTo f.seq 3, f.seq = 3)
    ∧ ((upPort fun p => { p with fails := (3, 3) }).port 47).fails = (3, 3) ∧ 4 ≤ ((upPort).port 47).width
    ∧ ((upPort fun p => { p with spare := true }).port 47).spare = true ∧ ((upPort).port 47).txq = []
    ∧ ((upPort fun p => { p with txq := [(13, 48, [List.replicate 56 1])] }).port 47).txq = [(13, 48, [List.replicate 56 1])] := by decide +kernel
/-- A flit: control of each kind; of VC 6 in order; a whole packet for this package in order; out of order; with a wrong CRC. -/
def dataFlit (seq : Nat) : Flit := mkFlit ((pleatPkt 8 7 [(0, 2, 5)] []).headD []) seq 1 false 0 0
def vc6Flit : Flit := mkFlit (List.replicate 56 1) 2 6 false 0 0
def crcOk (f : Flit) : Bool := f.crc == flitCrc f.payload (flitTrailer f.seq f.vc f.rsp f.ack f.ctl)
theorem test_meets_flits :
    (∀ c ∈ [1, 2, 3], crcOk (mkFlit [] 0 0 false 3 c) = true) ∧ crcOk vc6Flit = true ∧ vc6Flit.payload.length = 56
    ∧ vc6Flit.seq = ((upPort).port 47).rxSeq ∧ (upPort).fab.store.length < 64 ∧ crcOk (dataFlit 2) = true ∧ (dataFlit 2).payload.length = 56
    ∧ crcOk (dataFlit 3) = true ∧ (dataFlit 3).seq ≠ ((upPort).port 47).rxSeq ∧ crcOk { dataFlit 2 with crc := 0 } = false
    ∧ (upPort).pkg.assigned = true ∧ Tab.getD ((upPort).port 47).asm (flitClass 1 false) [] = [] ∧ packetFlits (dataFlit 2).payload = 1
    ∧ Packet.dst [(dataFlit 2).payload] = (upPort).pkg.id ∧ kindListed (Packet.kind [(dataFlit 2).payload]) = true
    ∧ Packet.kind [(dataFlit 2).payload] = 8 ∧ Packet.eseq [(dataFlit 2).payload] = Tab.getD (upPort).fab.rxEseq 9 0 := by decide +kernel
theorem test_meets_end_to_end :
    (((upPort).modFab fun f => { f with inbox := [(9, pleatPkt 0x0B 0 [] [])] }).fab.inbox.find? fun y => y.1 == 9 && y.2.kind == 0x0B)
      = some (9, pleatPkt 0x0B 0 [] []) ∧ (upPort).fab.waiting = [] := by decide +kernel
/-! ### Requests of other packages, answers, management messages -/

def pktOf (kind : Nat) (fs : List (Nat × Nat × Nat)) (body : List (List Byte)) : Packet := desc 56 ([(2, 2, 9), (4, 1, kind), (0xC, 2, 1)] ++ fs) :: body
/-- A request of two lanes of 4 bytes at the address: a read, a write, an atomic add. -/
def vecPkt (kind asid va : Nat) : Packet :=
  pktOf kind [(5, 1, 2), (0xC, 2, asid), (0xE, 1, 2), (0x10, 8, va), (0x18, 2, 0), (0x1A, 2, 4)] [List.replicate 56 1]
def withPkt (p : Packet) (s : State) : State := s.modFab fun f => { f with inbox := [(9, p)] }
def dataHere : State := withData [] running
def lanesB (kind : Nat) (s : State) (va : Nat) (f : Served → Bool) : Bool :=
  let (_, fs) := s.laneFates (jOf s) kind 4 (vecPkt kind 1 va).laneVas
  fs.length == 2 && fs.all fun x => f x.2
theorem test_meets_requests : ∀ k ∈ [1, 2, 3], (withPkt (vecPkt k 1 dataVa) dataHere).firstPacket 9 = some (vecPkt k 1 dataVa)
    ∧ Packet.kind (vecPkt k 1 dataVa) = k ∧ dataHere.fab.held = [] ∧ dataHere.jobOfAsid? (Packet.asid (vecPkt k 2 dataVa)) = none := by decide +kernel
theorem test_meets_lanes : (∀ k ∈ [1, 2, 3], lanesB k dataHere dataVa (fun x => x == .good) = true)
    ∧ (∀ k ∈ [1, 2, 3], lanesB k parking 0x30000 (fun x => match x with | .park _ => true | _ => false) = true) := by decide +kernel
/-- Data of a bulk copy: 64 bytes within a sector. -/
def bulkPkt (asid : Nat) : Packet := pktOf 6 [(0xC, 2, asid), (0x10, 8, dataVa + 64), (0x18, 4, 64)] [List.replicate 56 1, List.replicate 56 1]
theorem test_meets_bulk : Packet.kind (bulkPkt 1) = 6 ∧ pfield (bulkPkt 1) 0x10 8 % 128 + pfield (bulkPkt 1) 0x18 4 ≤ 128
    ∧ dataHere.jobOfAsid? (Packet.asid (bulkPkt 2)) = none
    ∧ (match dataHere.targetFate (jOf dataHere) .write (dataVa + 64) 1 with | (_, .good) => true | _ => false) = true := by decide +kernel
/-- An answer and a refusal for lane 0 of the access of `atRemote`; for an operation's unit; for none. -/
def answerPkt (kind rseq : Nat) : Packet := pktOf kind [(0xE, 1, 2), (0x18, 2, rseq), (0x1C, 4, 1), (0x20, 8, 0x40000)] [List.replicate 56 7]
def awaiting : State := { (running.modSkein tid fun k => { k with park := some (0, .remote 60) }).modFab fun f =>
  { f with remotes := [{ remoteOf 0 0 with pkts := [{ remotePkt 0 0 with eseq := 4 }, { remotePkt 1 0 with eseq := 5 }] }] } with
  ops := [{ opCpy with remote := [(9, 6, 0, 0)] }] }
def waitingPkt (s : State) (rseq : Nat) : Option (List Nat) :=
  (s.fab.remotes.find? fun r => r.pkts.any fun y => y.awaits 9 rseq).bind fun r => (r.pkts.find? fun y => y.awaits 9 rseq).map (·.lanes)
theorem test_meets_answers : (∀ k ∈ [4, 5], Packet.kind (answerPkt k 4) = k ∧ pfield (answerPkt k 4) 0x18 2 = 4)
    ∧ waitingPkt awaiting 4 = some [0] ∧ RemPkt.named { remotePkt 0 0 with eseq := 4 } (pfield (answerPkt 4 4) 0x1C 4) = [0]
    ∧ waitingPkt awaiting 6 = none ∧ (awaiting.opFor 9 6).map (fun y => (y.1.id, y.2)) = some (40, (9, 6, 0, 0))
    ∧ waitingPkt awaiting 7 = none ∧ (awaiting.opFor 9 7).isNone = true ∧ (awaiting.skein? tid).isSome = true
    ∧ (remoteOf 0 0).isLoad = true ∧ (remoteOf 0 0).handle = none ∧ ((remoteOf 0 0).lanes.find? fun y => y.lane == 0).map (·.reg) = some 6 := by
  decide +kernel
/-- ManagementMessages: each kind for package 5, with the session's token and without one; ports and values at their bounds. -/
def mgmt (dst kind tok : Nat) (fs : List (Nat × Nat × Nat)) : List Byte := desc 56 ([(0, 2, dst), (2, 2, 9), (4, 1, kind), (6, 2, 77), (8, 4, tok)] ++ fs)
def managed (bs : List Byte) : State := (upPort).modFab fun f => { f with token := some 3, store := [(47, bs)] }
theorem test_meets_manages : ∀ k ∈ [0x20, 0x21, 0x22, 0x24, 0x25], ∀ d ∈ [5, 0xFFFF], (managed (mgmt d k 3 [])).firstMgmt 47 = some (mgmt d k 3 [])
    ∧ forUs (managed (mgmt d k 3 [])) (mgmt d k 3 []) = true ∧ fieldAt (mgmt d k 3 []) 4 1 = k
    ∧ fieldAt (mgmt d k 3 []) 6 2 ∉ Tab.getD (managed (mgmt d k 3 [])).fab.mseqSeen (fieldAt (mgmt d k 3 []) 2 2) []
    ∧ tokenOk (managed []) (mgmt d k 3 []) = true ∧ tokenOk (managed []) (mgmt d k 4 []) = false := by decide +kernel
theorem test_meets_messages : (upPort).pkg.assigned = true ∧ State.reset.pkg.assigned = false
    ∧ fieldAt (mgmt 5 0x20 3 [(0x10, 2, 1023)]) 0x10 2 = 1023 ∧ fieldAt (mgmt 5 0x21 3 [(0x0C, 1, 4), (0x10, 2, 1023)]) 0x0C 1 = 4
    ∧ (∀ i ∈ [0, 1, 2, 3], fieldAt (mgmt 5 0x21 3 [(0x0C, 1, 4), (0x10, 2, 1023)]) (0x10 + 10 * i) 2 < 1024)
    ∧ fieldAt (mgmt 5 0x24 3 [(0x10, 1, 47), (0x11, 1, 8)]) 0x11 1 ≤ 8 ∧ fieldAt (mgmt 5 0x25 3 [(0x10, 1, 47), (0x11, 1, 2)]) 0x11 1 ∈ [2, 4, 8]
    ∧ ((managed []).port 47).up = true := by decide +kernel
/-- A message that goes on: of another kind for this package, for another package by its route, and with neither route nor manager. -/
def routed : State := (managed (mgmt 6 0x27 0 [])).modFab fun f => { f with routes := [(6, BitVec.ofNat 64 (47 + 64))] }
def ownB (b : List Byte) : Bool := [0x20, 0x21, 0x22, 0x24, 0x25].contains (fieldAt b 4 1)
theorem test_meets_forward :
    ((managed (mgmt 5 0x27 0 [])).fab.store.find? fun y => !(forUs (managed []) y.2 && ownB y.2)) = some (47, mgmt 5 0x27 0 [])
    ∧ forUs (managed []) (mgmt 6 0x20 0 []) = false
    ∧ ((routed.modFab fun f => { f with store := [] }).route 6).2 = some 47 ∧ (managed []).portSequence 6 = [] ∧ (managed []).fab.manager = none := by
  decide +kernel
/-- EventFrames: an event of each class that answers a next state. -/
def nextB (i : Instr) (s : State) : Bool := match exec i s with | .next _ => true | _ => false
theorem test_meets_frames :
    nextB (.masterFreeze (.core 3) 0) running = true ∧ heatEvent (.masterFreeze (.core 3) 0) = true
    ∧ nextB (.linkNak 47 3) upPort = true ∧ linkEvent (.linkNak 47 3) = true
    ∧ nextB (.recall homeN (l1n 0)) (atAgent .recall 1 [] (some ⟨.owned, 3, 15, 0, true, .none⟩)) = true ∧ registrationEvent (.recall homeN (l1n 0)) = true
    ∧ nextB (.sensorRead (mgRec 1 3 2 31 0)) running = true ∧ managementEvent (.sensorRead (mgRec 1 3 2 31 0)) = true
    ∧ nextB (.graphClose (recOf 6 jobId 0 1 [])) running = true ∧ unitEvent (.graphClose (recOf 6 jobId 0 1 [])) = true := by decide +kernel
/-- DecodeEncode: well-formed instructions of every format that have a word. -/
theorem test_meets_encode : (wordsRa ++ wordsRb ++ wordsRc ++ wordsM ++ wordsC ++ wordsS ++ wordsE).all (fun x => WellFormed x.2 && encode x.2 == some x.1) = true
    ∧ WellFormed (.blockHeader loadHdr) = true ∧ (encode (.blockHeader loadHdr)).isSome = true := by decide +kernel
/-- SettledKept: steps from settled states, of a strand and of the clock alone; a package that has shut down. -/
theorem test_meets_settled : (State.reset.cur = none ∧ State.reset.net = []) ∧ (stepped State.reset (·.clock)) = some 1
    ∧ ((loaded 0x2038010080401080).cur = none ∧ (loaded 0x2038010080401080).net = []) ∧ (stepped (loaded 0x2038010080401080) (·.clock)).isSome = true
    ∧ shut.down = true ∧ shut.cur = none ∧ ({ shut with agenda := [.event .consoleInput] } : State).agenda.head? ≠ some (.event .powerOnReset) := by decide +kernel
theorem test_meets_settled_loaded : Settled (loaded 0x2038010080401080) := by
  refine ⟨by decide +kernel, fun _ m hm => ?_⟩
  rw [show (loaded 0x2038010080401080).net = [] from by decide +kernel] at hm
  cases hm
/-- RoundingKeepsRepresentable: the least and the greatest finite value of FP16. -/
theorem test_meets_rounding : ∀ x ∈ [1, 0x7BFF, 0x8000], x < 2 ^ (1 + (Arith.fmtOf 9).eb + (Arith.fmtOf 9).mb) ∧ ((Arith.fmtOf 9).value x).isNan = false
    ∧ ((Arith.fmtOf 9).value x).isInf = false := by decide +kernel
/-! ### Further clauses -/

/-- SvcPostsRequest: beside a strand that waits at a barrier word whose generation has not moved. -/
def atSvcBeside : State := issuing 0x0C38000000000004 fun k => (k.modStrand 0 fun x => { x with mask := 1 }).setStrand 1 (some
  { ((k.strand? 0).getD default) with mask := 2, wait := .barwt 0 0 })
theorem test_meets_svc_refused : ∃ c, Issuing atSvcBeside c ∧ c.active 7 false ≠ 0 ∧ c.k.trap = none ∧ atSvcBeside.unperformed c.id c.st = []
    ∧ (c.k.live.any fun y => y.1 != c.st && y.2.wait.refusesSvc && !atSvcBeside.waitOver c.id c.k y.2) = true :=
  meetsP (fun s c => c.active 7 false ≠ 0 ∧ c.k.trap = none ∧ s.unperformed c.id c.st = []
    ∧ (c.k.live.any fun y => y.1 != c.st && y.2.wait.refusesSvc && !s.waitOver c.id c.k y.2) = true) (by decide +kernel)
/-- LoadsServedByTheL1 and StoresOwnTheirWords: the skein's own private range, which s1 names. -/
def atPriv : State := issuing 0x803A060080F00000 fun k => k.setS 1 k.privBase
theorem test_meets_private : ∃ c, Issuing atPriv c ∧ (c.mLanes m64 8).length = 1
    ∧ (∀ a ∈ c.mLanes m64 8, a.va.toNat % 8 = 0 ∧ isPrivate a.va.toNat = true)
    ∧ goodB (atPriv.classify (fun s a => s.loadFate c 8 false a) (c.mLanes m64 8)) = true
    ∧ goodB (atPriv.classify (fun s a => s.storeFate c 8 false (wordsWhole 8 (c.mLanes m64 8)) a) (c.mLanes m64 8)) = true :=
  meetsP (fun s c => (c.mLanes m64 8).length = 1 ∧ (∀ a ∈ c.mLanes m64 8, a.va.toNat % 8 = 0 ∧ isPrivate a.va.toNat = true)
    ∧ goodB (s.classify (fun s a => s.loadFate c 8 false a) (c.mLanes m64 8)) = true
    ∧ goodB (s.classify (fun s a => s.storeFate c 8 false (wordsWhole 8 (c.mLanes m64 8)) a) (c.mLanes m64 8)) = true) (by decide +kernel)
/-- MatrixAndGeyserWords: a group of four skeins, for the first member of a joint set; the set of three that waits for the fourth. -/
def jointDesc : MatDesc := matOf false mF (matBytes 16 0 0xFFFFFFFF 7) 0 0
def joint3 : List JointMember := (List.range 3).map fun i => { (default : JointMember) with sk := ⟨0, i + 1⟩, quarter := i + 1, op := 200 + i, desc := jointDesc }
def atJoint (ms : List JointMember) : State :=
  let s := issuingE (matBytes 16 0 0xFFFFFFFF 7)
  { s with skeins := s.skeins ++ (List.range 3).map (fun i => (⟨0, i + 1⟩, { ((s.skein? tid).getD default) with index := i + 1 }))
           jointSets := if ms.isEmpty then [] else [⟨0, 1, 7, ms, []⟩] }
theorem test_meets_joint : (∃ c, Issuing (atJoint []) c ∧ c.k.group = 1 ∧ c.k.soft = [] ∧ c.k.cnt .matrix < 63
      ∧ describedB (atJoint []) c 64 (matBytes 16 0 0xFFFFFFFF 7) = true ∧ ((atJoint []).outsiders c.k.group c.id.core ([] ++ [c.id])).length = 3)
    ∧ ∃ c, Issuing (atJoint joint3) c ∧ (∀ m ∈ joint3, m.quarter ≠ 0 ∧ m.desc = jointDesc) ∧ joint3.length = 3
      ∧ (atJoint joint3).matQueue c.id.core < 32 :=
  ⟨meetsP (fun s c => c.k.group = 1 ∧ c.k.soft = [] ∧ c.k.cnt .matrix < 63 ∧ describedB s c 64 (matBytes 16 0 0xFFFFFFFF 7) = true
      ∧ (s.outsiders c.k.group c.id.core ([] ++ [c.id])).length = 3) (by decide +kernel),
   meetsP (fun s c => (∀ m ∈ joint3, m.quarter ≠ 0 ∧ m.desc = jointDesc) ∧ joint3.length = 3 ∧ s.matQueue c.id.core < 32) (by decide +kernel)⟩
/-- MessagesAtTheHome: a word whose bytes the home can read; a SEAL behind its sender's REG that waits. -/
theorem test_meets_home_reads : ((atHome .reg .valid).homeRead 1 (dataVa / 4)).2 = some 0
    ∧ ({ atHome .seal .valid with homePend := [.request (msgOf (l1n 0) homeN .reg)] } : State).regWaits (l1n 0) 1 (dataVa / 4) = true
    ∧ (atHome .seal .valid).regWaits (l1n 0) 1 (dataVa / 4) = false := by decide +kernel
/-- MessagesAtTheAgent: a word sealed to its owner at the home; an acknowledgement with no other REG of the word on its way. -/
theorem test_meets_agent_owner :
    ({ atAgent .fwd 1 [] (some ⟨.ownedSealed, 3, 15, 0, false, .live⟩) with homeWords := [(⟨1, dataVa / 4⟩, .sealed (nodeAgent (l1n 0)))] } : State).hword 1
      (dataVa / 4) = some (.sealed (nodeAgent (l1n 0)))
    ∧ ((atAgent .regack 1 [(0, 7, 15)] (some ⟨.owned, 3, 3, 0, true, .none⟩)).taking homeN (l1n 0)).regFlies (nodeAgent (l1n 0)) 1 (dataVa / 4) = false := by
  decide +kernel
/-- ShuttleEvents: a copy into window 5, which another package homes and a route reaches. -/
def opFar : EngOp := opOf (.cpy ⟨5 * 2 ^ 51, dataVa, 64, false, false, none, none⟩)
def atFar : State :=
  (((atOp opFar).modWork fun w => { w with jobs := w.jobs.map fun j => { j with homeMap := setAt 0 j.homeMap 5 (BitVec.ofNat 64 (4 + 9 * 2 ^ 14)) } }).modFab
    fun f => { f with routes := [(9, BitVec.ofNat 64 (47 + 64))] }).modPort 47 fun p => { p with up := true, width := 8 }
theorem test_meets_far_copy : atFar.op? 40 = some opFar ∧ atFar.shuttleRuns opFar = true ∧ opFar.unitsDone = false
    ∧ atFar.cpyHomes opFar ⟨5 * 2 ^ 51, dataVa, 64, false, false, none, none⟩ = (some 9, none) ∧ atFar.reachable 9 = true
    ∧ (match atFar.engFate (atFar.jobOfGroup 1) 0 .read dataVa 64 with | (_, .good) => true | _ => false) = true := by decide +kernel
/-- PleatEvents: data for an exchange whose engine a fault pauses. -/
theorem test_meets_paused_pleat : ({ opPleat with stat := .paused 0x7000 } : EngOp).stat = .paused 0x7000
    ∧ ({ atPleat (exOf 2) [dataPkt] with ops := [{ opPleat with stat := .paused 0x7000 }] } : State).op? 40 = some { opPleat with stat := .paused 0x7000 }
    ∧ (exOf 2).incoming = [] ∧ pfield dataPkt 0x18 8 % 128 + 8 ≤ 128 := by decide +kernel
/-- WorkRecords: a space can be made, the counters have room, the graph is not cancelled. -/
theorem test_meets_room : (∀ a k, (running.newSpace a k).isSome = true) ∧ ((running.job? jobId).map fun j => decide (j.counter < 65535)) = some true
    ∧ ((running.phase? jobId 1).map fun p => decide (p.counter < 65535)) = some true ∧ (running.graph? jobId 1).map (·.cancelled) = some false := by
  refine ⟨fun a k => ?_, by decide +kernel⟩
  have h : (running.newTable none).isSome = true := by decide +kernel
  simpa only [State.newSpace, Option.isSome_map] using h
/-- ManagementRecords: devices that are there and one that is not; volumes with room for a chunk and without; what a chunk holds. -/
def lz4Vol : Volume := ⟨true, 131072, 5, []⟩
def full : State := (List.range 32).foldl (fun s i => s.modSlice i fun x => { x with nextPiece := stackPieces, freePieces := [] }) withVolume
theorem test_meets_devices : (∀ d ∈ [0, 8, 34, 65], withVolume.hasDevice d = true) ∧ (∀ d ∈ [1, 33, 66], withVolume.hasDevice d = false)
    ∧ withVolume.pkg.boot = .running ∧ State.reset.pkg.boot ≠ .running := by decide +kernel
theorem test_meets_volume_bytes :
    (withVolume.volWrite ⟨false, 131072, 5, []⟩ 130560 [1, 2] [1]).isSome = true ∧ (withVolume.volWrite lz4Vol 65536 [1, 2] [1]).isSome = true
    ∧ (full.volWrite ⟨false, 131072, 5, []⟩ 130560 [1, 2] [1]).isNone = true ∧ (full.volWrite lz4Vol 65536 [1, 2] [1]).isNone = true
    ∧ (withVolume.volBlock ⟨false, 131072, 5, []⟩ 31).2.isSome = true ∧ (withVolume.volBlock ⟨true, 131072, 5, [(1, ⟨0, [], 0⟩)]⟩ 31).2.isNone = true
    ∧ Sparse.wf 0 withVolume.mem = true ∧ (1 < (⟨0, [3, 9], 8192⟩ : VChunk).pieces.length ∧ 4096 ≤ 8190 ∧ 8190 + 2 ≤ 8192) := by decide +kernel
/-- PlacementEvents: the groups of a cooperative launch that save together; a place that can take its saved entries; a schedule that lies where
the job maps nothing. -/
def coopLaunch : State := running.modWork fun w => { w with launches := w.launches.map fun l => { l with lrec := { l.lrec with coop := true } } }
def twoGroups : State := { coopLaunch with groups := (coopLaunch.groups.map fun x => (x.1, { x.2 with st := .saving }))
  ++ [(2, { ((coopLaunch.group? 1).getD default) with core := 3, lin := 1, st := .stopping })] }
def restorable : State := leaving savedPlace id
def noSched : State := waiting 0 fun l => { l with sched := none, lrec := { l.lrec with entries := 1, sched := 0x70000000 } }
theorem test_meets_together : ((twoGroups.group? 1).map fun g => (g.st, (twoGroups.peers 1 g).any fun i => (twoGroups.group? i).any fun x => x.st != .saving))
      = some (.saving, true)
    ∧ ((restorable.group? 1).map fun g => (restorable.canRestore 1 g, (restorable.lrecOfGroup g).coop)) = some (true, false)
    ∧ (match noSched.launch? lid5 with
      | some l => match noSched.job? jobId with
        | some j => match (noSched.schedBytes j (l.queue / 2) l.lrec.sched.toNat 144).2 with | some (.error (c, a)) => c == 6 && a == 0x70000000 | _ => false
        | none => false
      | none => false) = true := by decide +kernel
/-- SkeinAndPagingEvents: an SVC that waits with nothing else live; no race of the access to report; the homes of a discarded page. -/
theorem test_meets_svc_waits : (sk (withStrand0 id fun k => { k with svcWait := some (0, 3) })).quietBut 0 = true ∧ (running.core 0).frozen = false
    ∧ (withStrand0 id fun k => { k with svcWait := some (0, 3) }).absentHeaders tid
        ((sk (withStrand0 id fun k => { k with svcWait := some (0, 3) })).modStrand 0 Strand.retired) = []
    ∧ (remoteOf 1 1).onRace = false ∧ (sk running).trap = none ∧ ((sk running).strand? 0).map (·.replay) = some none ∧ (sk running).svcWait = none := by
  decide +kernel
theorem test_meets_discarded : (discarded.jobOfAsid? 1).map (fun j => discarded.home j 0 (2 * 65536)) = some (.here (f5 dataVa))
    ∧ ((discarded.leafOf 1 (2 * 65536)).map fun p => (pteDisc p.1, p.2)) = some (true, false)
    ∧ (discarded.faultOpen 1 0x30000) = false := by decide +kernel
/-- Two faults of places in place that cannot be reached: a leaf with key 0 and one with a piece on storage. -/
def leafKey (s : State) (va : Nat) : Option Nat := (s.leafOf 1 va).map fun p => pteKey p.1
def stored : State :=
  let s := withData [] running
  faulting (s.modSlice (f5 dataVa) fun x =>
    { x with tokens := [((x.entry dataKey).loc, default)] }.setEntry dataKey { x.entry dataKey with kind := 0 }) dataVa
theorem test_meets_stored_piece : leafKey stored dataVa ≠ some 0 ∧ leafKey stored dataVa ≠ none
    ∧ (match stored.placeAny (jOf stored) 0 1 dataVa with | (s1, .park sl) => !(s1.slice sl).frozenService | _ => false) = true := by decide +kernel
/-- LinksAndFlits: a NAK that tells of a flit behind one already sent again. -/
theorem test_meets_late_nak : 0 < ((upPort fun p => { p with fails := (1, 3), naks := 2 }).port 47).naks
    ∧ ((upPort fun p => { p with fails := (1, 3), naks := 2 }).port 47).fails = (1, 3)
    ∧ ((upPort fun p => { p with fails := (1, 3), naks := 0 }).port 47).naks = 0 := by decide +kernel
/-- RemoteRequestsAndAnswers: an operation's packet past its limit, sent and with no answer here; the same as a refusal finds it. -/
theorem test_meets_late_operation : (awaiting.op? 40).map (fun o => (o.remote, (awaiting.ops.filter fun y => y.id == o.id).length)) = some ([(9, 6, 0, 0)], 1)
    ∧ awaiting.unsent 9 6 = false ∧ awaiting.answerHere 9 6 = false ∧ remoteLimit (awaiting.jobOfGroup 1) ≤ ({ awaiting with clock := 2 ^ 31 } : State).clock
    ∧ awaiting.nackOf 9 (answerPkt 5 4) = 9 := by decide +kernel
/-- EventFrames: a write to a volume, whose bytes go to DRAM. -/
theorem test_meets_volume_frame : nextB (.virtioBlkWrite 7 130560 (List.replicate 512 1)) withVolume = true
    ∧ managementEvent (.virtioBlkWrite 7 130560 (List.replicate 512 1)) = true := by decide +kernel
/-- ShuttleWords and MatrixAndGeyserWords: a descriptor that breaks a check of its list, and descriptors that break none. -/
theorem test_meets_cpy_checks (s : State) (j : Job) (die : Nat) (r : LRec) (va : W64) :
    ∃ p ∈ cpyChecks s j die r va cpyBad, p.1 ∧ p.2 = (0x12, va) :=
  ⟨_, List.mem_cons_self .., fun h => absurd h.2.1 (by decide +kernel), rfl⟩
theorem test_meets_tile_checks : (∃ p ∈ tileChecks (loadRec 1) .cpyt 0x20000 (tileBytes 0 1) 0 0, p.1 ∧ p.2 = (0x12, 0x20000))
    ∧ (∃ p ∈ tileChecks (loadRec 1) .cpyt 0x20000 (tileBytes 0 0) 0x7FFFFFFC 0, p.1 ∧ p.2.1 = 0x05)
    ∧ ∀ p ∈ tileChecks (loadRec 1) .cpyt 0x20000 (tileBytes 0 0) 0 0, ¬ p.1 := by
  refine ⟨⟨_, List.mem_cons_self .., fun h => absurd h.2.2.2.2.2.2.2.2.2.2.2.2.1 (by decide +kernel), rfl⟩,
    ⟨_, List.mem_cons_of_mem _ (List.mem_cons_self ..), ?_, rfl⟩, ?_⟩
  · right; right; decide +kernel
  · simp only [tileChecks, List.forall_mem_cons, Leaves, TbLeaves, TbField]
    refine ⟨not_not_intro ?_, ?_, ?_, by simp⟩
    · decide +kernel
    · decide +kernel
    · decide +kernel
theorem test_meets_mat_checks : (∃ p ∈ matChecks State.reset default 0 (loadRec 1) 512 0x20000 mF (matBytes 0 128 0 0) (matOf false mF (matBytes 0 128 0 0) 0 0),
      p.1 ∧ p.2.1 = 0x12)
    ∧ ∀ p ∈ matChecks State.reset default 0 (loadRec 1) 512 0x20000 mF (matBytes 0 0 0 0) (matOf false mF (matBytes 0 0 0 0) 0 0), ¬ p.1 := by
  refine ⟨⟨_, List.mem_cons_self .., fun h => absurd h.2.2.2.2.2.2.2.2.2.2.2.2 (by decide +kernel), rfl⟩, ?_⟩
  simp only [matChecks, List.forall_mem_cons, Leaves, MatFormats]
  refine ⟨not_not_intro ?_, ?_, ?_, ?_, ?_, ?_, ?_, ?_, ?_, by simp⟩
  · decide +kernel
  · exact fun h => absurd h.1 (by decide +kernel)
  · exact fun h => absurd h.1 (by decide +kernel)
  · rintro ⟨-, t, i, ht, hi, h⟩
    revert h; revert hi; revert i; revert ht; revert t
    decide +kernel
  · rintro ⟨-, t, i, ht, hi, h⟩
    revert h; revert hi; revert i; revert ht; revert t
    decide +kernel
  · exact fun ⟨o, t, h, _⟩ => absurd (h ▸ rfl : (none : Option Nat) = some o) (by simp)
  · exact fun ⟨o, t, h, _⟩ => absurd (h ▸ rfl : (none : Option Nat) = some o) (by simp)
  · decide +kernel
  · decide +kernel
theorem test_meets_gey_checks : (∃ p ∈ geyChecks State.reset default 0 (loadRec 1) 0x20000 (geyBytes 65537) (geyOf default false (geyBytes 65537) 0 0),
      p.1 ∧ p.2.1 = 0x12) :=
  ⟨_, List.mem_cons_self .., fun h => absurd h.2.2.2.2.1 (by decide +kernel), rfl⟩
/-- MessagesAtTheAgent: a word with registered bytes, one that the home has taken back, and a Valid one; an acknowledgement's message; the fill of
a load. -/
def me : Nat := nodeAgent (l1n 0)
def atData : State := atAgent .data 1 [(0, 7, 15)] none
theorem test_meets_agent_claims :
    (⟨.ownedSealed, 3, 15, 0, false, .live⟩ : CWord).held = some (3, 15) ∧ (⟨.ownedSealed, 3, 15, 0, false, .none⟩ : CWord).held = none
    ∧ (⟨.valid, 3, 0, 0, false, .none⟩ : CWord).held = none
    ∧ (atAgent .recall 1 [] (some ⟨.valid, 3, 0, 0, false, .none⟩)).regFlies me 1 (dataVa / 4) = false
    ∧ (atAgent .recall 1 [] (some ⟨.valid, 3, 0, 0, false, .none⟩)).wbComing me 1 (dataVa / 4) = false
    ∧ ({ msgOf homeN (l1n 0) .regack with words := [(0, 7, 15)] } : Msg).acksReg = true
    ∧ (atAgent .regack 1 [(0, 7, 15)] (some ⟨.owned, 3, 3, 0, true, .live⟩)).memops.map (·.fill) = [[]] := by decide +kernel
theorem test_meets_agent_fill : isPrivate (4 * (dataVa / 4)) = false ∧ dataVa % 128 = 0
    ∧ (List.range 8).all (fun v => (((atData.taking homeN (l1n 0)).victimSector me v).cword? me 1 (dataVa / 4)).isNone
        && ((atData.taking homeN (l1n 0)).victimSector me v).l1Fits me 1 (dataVa / 4) []) = true
    ∧ (atData.memop? 50).map (fun o => (o.fill, o.isLoad, atData.l1 o.sk.core == me)) = some ([], true, true) := by decide +kernel
/-- ShuttleWords: the slot of the group's ring is in DRAM. -/
theorem test_meets_slot : (match fullQueue.group? 1 with
    | some g => match (fullQueue.slotFate ((fullQueue.work.jobs).headD default) 0 (fullQueue.slotVa g 0)).2.1 with
      | .at _ _ => true
      | .zero _ => true
      | _ => false
    | none => false) = true := by decide +kernel
/-- ShuttleEvents: the words of a row of a reduction take their updates. -/
theorem test_meets_reduction_row : (match (atOp opCpy).engUpdates (jAt opCpy) 0
      (((tileOf true).elems 0 0).filterMap fun e => e.2.map fun a => (a, 2 ^ (tileOf true).lesz)) with
    | (_, .good) => true
    | _ => false) = true := by decide +kernel
/-- MatrixAndGeyserWords: the words themselves pass their checks. -/
theorem test_meets_engine_well_formed : WellFormed (.mloop mF) = true ∧ WellFormed (.mloopl mF) = true := by decide +kernel
/-- ManagementRecords: a sensor that has reported, and one that has not; a stopped skein whose wait is over, and one whose wait is not. -/
def dbgSkein (w : Wait) : State := (running.modSkein tid fun k => { k with stopped := true }).modStrand tid 0 fun x => { x with wait := w }
def overB (w : Wait) : Bool := match (dbgSkein w).skein? tid with
  | some k => match k.strand? 0 with
    | some x => (dbgSkein w).waitOver tid k x
    | none => false
  | none => false
theorem test_meets_sensor : Tab.get? ((running.modDie 3 fun d => { d with readings := [((2, 31), 41)] }).die 3).readings (2, 31) = some 41
    ∧ Tab.get? (running.die 3).readings (2, 31) = none := by decide +kernel
theorem test_meets_debugged_wait : overB .none = true ∧ overB (.memops [] 0) = true ∧ overB .join = false
    ∧ ((dbgSkein .join).skein? tid).map (fun k => (k.stopped, k.park)) = some (true, none)
    ∧ (((dbgSkein .none).modSkein tid fun k => { k with park := some (0, .remote 60) }).skein? tid).map (fun k => k.park.isSome) = some true := by
  decide +kernel
/-- ServiceEvents: a Valid copy that a new region drops. -/
theorem test_meets_stale : (⟨.valid, 3, 0, 0, false, .none⟩ : CWord).stale = true ∧ (⟨.ownedSealed, 3, 15, 0, false, .none⟩ : CWord).stale = false := by decide
/-- RteReturns: the strand that issues it is the one in trap mode. -/
theorem test_meets_rte_strand : ∃ c, Issuing atRte c ∧ c.k.trapOf c.st = some ⟨0x10008, 0, 0x10, none, none, 1, false, false⟩ :=
  meetsP (fun _ c => c.k.trapOf c.st = some ⟨0x10008, 0, 0x10, none, none, 1, false, false⟩) (by decide +kernel)
/-- SHAKE256 of the empty message (FIPS 202). -/
theorem test_shake256_empty : (shake256 []).take 8 = [0x46, 0xB9, 0xDD, 0x2B, 0x0B, 0xA8, 0x8D, 0x13] := by decide +kernel

end Sys2Proof.Machine.Tests
end

section
/-! PROOFS. What traffic on the links can change (R214 to R216, R225): a port that sends, a state that puts packets out, and the
events of the fabric manager. -/

namespace Sys2Proof.Machine

theorem Tab.getD_set_same {κ ν : Type} [DecidableEq κ] (m : List (κ × ν)) (a : κ) (v d : ν) : Tab.getD (Tab.set m a v) a d = v := by
  simp [Tab.getD]

/-- Of several entries set in order, the last one of a name is read. -/
theorem Tab.get?_foldl_set_range {κ ν : Type} [DecidableEq κ] (m : List (κ × ν)) (k : Nat → κ) (v : Nat → ν) (n i : Nat) (hi : i < n)
    (last : ∀ j, i < j → j < n → k j ≠ k i) :
    Tab.get? ((List.range n).foldl (fun m j => Tab.set m (k j) (v j)) m) (k i) = some (v i) := by
  induction n with
  | zero => omega
  | succ n ih =>
    rw [List.range_succ, List.foldl_append, List.foldl_cons, List.foldl_nil]
    rcases Nat.lt_succ_iff_lt_or_eq.1 hi with hlt | rfl
    · rw [Tab.get?_set_other _ _ (last n hlt n.lt_succ_self).symm]
      exact ih hlt fun j hj hjn => last j hj (hjn.trans n.lt_succ_self)
    · exact Tab.get?_set_same ..

/-! ### Ports -/

/-- `q` is `p` after flits and packets went into its queue and onto its wire: the link itself and what it received stay. -/
structure Port.Sends (p q : Port) : Prop where
  rest : q = { p with txq := q.txq, turn := q.turn, credits := q.credits, txSeq := q.txSeq, wire := q.wire, buf := q.buf }
  wire : p.wire <+: q.wire

theorem Port.Sends.refl (p : Port) : p.Sends p := ⟨rfl, List.prefix_rfl⟩
theorem Port.Sends.trans {p q r : Port} (h : p.Sends q) (h' : q.Sends r) : p.Sends r :=
  ⟨h'.rest.trans (by rw [h.rest]), h.wire.trans h'.wire⟩

section
variable {p q : Port} (h : p.Sends q)
include h
theorem Port.Sends.up : q.up = p.up := by rw [h.rest]
theorem Port.Sends.width : q.width = p.width := by rw [h.rest]
theorem Port.Sends.spare : q.spare = p.spare := by rw [h.rest]
theorem Port.Sends.thr : q.thr = p.thr := by rw [h.rest]
theorem Port.Sends.retraining : q.retraining = p.retraining := by rw [h.rest]
end

theorem Port.sendOne_sends {p q : Port} (h : p.sendOne = some q) : p.Sends q := by
  unfold Port.sendOne at h
  split at h
  · cases h
  · split at h
    · cases h
    · split at h
      · simp only [Option.some.injEq] at h
        subst h
        exact ⟨by simp only, by simp only [List.prefix_append]⟩
      · cases h

theorem Port.pump_sends (p : Port) (n : Nat) : p.Sends (p.pump n) := by
  induction n generalizing p with
  | zero => exact .refl p
  | succ n ih =>
    unfold Port.pump
    split
    · next q hq => exact (Port.sendOne_sends hq).trans (ih q)
    · exact .refl p

theorem Port.pumpAll_sends (p : Port) : p.Sends p.pumpAll := p.pump_sends _

theorem Port.queued_sends (p : Port) (q : List (Nat × Nat × List (List Byte))) : p.Sends { p with txq := q }.pumpAll :=
  .trans (q := { p with txq := q }) ⟨rfl, List.prefix_rfl⟩ (Port.pumpAll_sends _)

theorem Port.pumpAll_of_txq_nil {p : Port} (h : p.txq = []) : p.pumpAll = p := by
  simp [Port.pumpAll, h, Port.pump]

/-- A search that can find one thing only, and does find it, answers it. -/
theorem findSome?_of_unique {α β : Type} {f : α → Option β} {l : List α} {a : α} {b : β} (one : ∀ a b', f a = some b' → b' = b)
    (ha : a ∈ l) (hb : f a = some b) : l.findSome? f = some b := by
  obtain ⟨b', hb'⟩ := Option.isSome_iff_exists.1 ((List.findSome?_isSome_iff (f := f)).2 ⟨a, ha, by rw [hb]; rfl⟩)
  obtain ⟨a', -, h'⟩ := List.exists_of_findSome?_eq_some hb'
  rw [hb', one a' b' h']

/-- A class with one packet queued sends from that packet. -/
theorem Port.nextPacket_of_single {p : Port} {c i : Nat} {bs : List Byte} (h : p.txq = [(c, i, [bs])]) (hi : i < 50) :
    p.nextPacket c = some (c, i, [bs]) := by
  unfold Port.nextPacket
  by_cases hb : i = begun
  · simp [h, hb]
  · have hmem : i ∈ (List.range 49).map fun d => (Tab.getD p.turn c ownInput + 1 + d) % 49 := by
      have hlt : i < 49 := by unfold begun at hb; omega
      refine List.mem_map.2 ⟨(i + 49 - (Tab.getD p.turn c ownInput + 1) % 49) % 49, List.mem_range.2 (Nat.mod_lt _ (by omega)), ?_⟩
      omega
    have hne : (i == begun) = false := by simpa using hb
    simp only [h, List.find?_cons, beq_self_eq_true, Bool.true_and, hne, List.find?_nil]
    refine findSome?_of_unique (fun j x hx => ?_) hmem (by simp)
    split at hx
    · exact (Option.some.inj hx).symm
    · cases hx

/-- A port finds the one class that has a packet, where that has a credit. -/
theorem Port.classOrder_find_of_single {p : Port} {c i : Nat} {bs : List Byte} (h : p.txq = [(c, i, [bs])]) (hc : c < 14)
    (hcr : 0 < Tab.getD p.credits c 0) : (classOrder.find? fun d => p.txq.any (·.1 == d) && Tab.getD p.credits d 0 > 0) = some c := by
  have only : (fun d => p.txq.any (·.1 == d) && decide (Tab.getD p.credits d 0 > 0)) = fun d => d == c := by
    funext d
    rcases eq_or_ne d c with rfl | hd
    · simp [h, hcr]
    · simp [h, hd.symm, beq_false_of_ne hd]
  rw [only]
  interval_cases c <;> rfl

/-- A port with one packet of one flit and a credit for it puts that flit on the wire. -/
theorem Port.pumpAll_of_single {p : Port} {c i : Nat} {bs : List Byte} (h : p.txq = [(c, i, [bs])]) (hi : i < 50) (hc : c < 14)
    (hup : p.up = true) (hr : p.retraining = none) (hcr : 0 < Tab.getD p.credits c 0) :
    p.pumpAll.txq = [] ∧ p.pumpAll.wire = p.wire ++ [mkFlit bs p.txSeq (c / 2) (c % 2 == 1) 0 0]
      ∧ p.pumpAll.txSeq = (p.txSeq + 1) % 4096 ∧ p.pumpAll.credits = Tab.set p.credits c (Tab.getD p.credits c 0 - 1) := by
  have hone : p.pumpAll = p.pump 1 := by simp [Port.pumpAll, h]
  rw [hone]
  simp only [Port.pump, Port.sendOne, hup, hr, Port.classOrder_find_of_single h hc hcr, Port.nextPacket_of_single h hi]
  simp [h]

/-! ### Packets that leave -/

/-- `t` is `s` after packets were put out: ports send, counters of routes advance, records go to the host, and nothing else changes. -/
structure State.Emits (s t : State) : Prop where
  rest : t = { s with host := t.host, fab := { s.fab with ports := t.fab.ports, counters := t.fab.counters } }
  port : ∀ i, (s.port i).Sends (t.port i)

theorem State.Emits.refl (s : State) : s.Emits s := ⟨rfl, fun _ => .refl _⟩
theorem State.Emits.trans {s t u : State} (h : s.Emits t) (h' : t.Emits u) : s.Emits u :=
  ⟨h'.rest.trans (by rw [h.rest]), fun i => (h.port i).trans (h'.port i)⟩
theorem State.Emits.foldl {α : Type} {f : State → α → State} (h : ∀ (s : State) (a : α), s.Emits (f s a)) (as : List α) (s : State) :
    s.Emits (as.foldl f s) := by
  induction as generalizing s with
  | nil => exact .refl s
  | cons a as ih => exact (h s a).trans (ih _)

section
variable {s t : State} (h : s.Emits t)
include h
theorem State.Emits.pkg : t.pkg = s.pkg := by rw [h.rest]
theorem State.Emits.routes : t.fab.routes = s.fab.routes := by rw [h.rest]
theorem State.Emits.unacked : t.fab.unacked = s.fab.unacked := by rw [h.rest]
theorem State.Emits.toAck : t.fab.toAck = s.fab.toAck := by rw [h.rest]
theorem State.Emits.mseqSeen : t.fab.mseqSeen = s.fab.mseqSeen := by rw [h.rest]
theorem State.Emits.mseqNext : t.fab.mseqNext = s.fab.mseqNext := by rw [h.rest]
theorem State.Emits.token : t.fab.token = s.fab.token := by rw [h.rest]
theorem State.Emits.manager : t.fab.manager = s.fab.manager := by rw [h.rest]
end

theorem State.port_modPort_same (s : State) (p : Nat) (f : Port → Port) : (s.modPort p f).port p = f (s.port p) := by
  simp [State.port_modPort]

theorem State.health_emits (s : State) (event die slice source addr value job : Nat) (tail : List Byte) :
    s.Emits (s.health event die slice source addr value job tail) := ⟨rfl, fun _ => .refl _⟩

theorem State.enqueue_emits (s : State) (port vc : Nat) (rsp : Bool) (p : Packet) (input : Nat) :
    s.Emits (s.enqueue port vc rsp p input) := by
  refine ⟨rfl, fun i => ?_⟩
  rw [State.enqueue, State.port_modPort]
  split
  · next hi =>
    subst hi
    exact Port.queued_sends ..
  · exact .refl _

theorem State.route_emits (s : State) (dst : Nat) : s.Emits (s.route dst).1 := by
  unfold State.route
  dsimp only
  split
  · exact .refl s
  · exact ⟨rfl, fun _ => .refl _⟩

theorem State.route_of_unreachable {s : State} {dst : Nat} (h : s.portSequence dst = []) : s.route dst = (s, none) := by
  simp [State.route, h]

theorem State.transmit_emits (s : State) (dst : Nat) (rsp : Bool) (p : Packet) : s.Emits (s.transmit dst rsp p) := by
  have hr := s.route_emits dst
  unfold State.transmit
  split
  · next h => rw [h] at hr; exact hr.trans (State.enqueue_emits ..)
  · next h => rw [h] at hr; exact hr

theorem State.mgmtOut_emits (s : State) (port : Nat) (p : List Byte) (input : Nat) : s.Emits (s.mgmtOut port p input) := by
  unfold State.mgmtOut
  split
  · exact State.health_emits ..
  · exact State.enqueue_emits ..

theorem State.mgmtTo_emits (s : State) (dst port : Nat) (p : List Byte) : s.Emits (s.mgmtTo dst port p) := by
  have hr := s.route_emits dst
  unfold State.mgmtTo
  split
  · exact State.mgmtOut_emits ..
  · split
    · next h => rw [h] at hr; exact hr.trans (State.mgmtOut_emits ..)
    · next h => rw [h] at hr; exact hr.trans (State.mgmtOut_emits ..)

/-! ### Events told to the fabric manager, and links that go down or retrain -/

theorem State.fabEvent_of_no_manager {s : State} (h : s.fab.manager = none) (port ev lane : Nat) : s.fabEvent port ev lane = s := by
  unfold State.fabEvent
  rw [h]

theorem State.fabEvent_port (s : State) (port ev lane i : Nat) : (s.port i).Sends ((s.fabEvent port ev lane).port i) := by
  unfold State.fabEvent
  split
  · exact .refl _
  · exact (State.mgmtTo_emits s.nextMseq.1 ..).port i

@[simp] theorem State.resetCounters_port (s : State) (port i : Nat) : (s.resetCounters port).port i = s.port i := rfl

theorem State.linkDown_down (s : State) (port : Nat) : ((s.linkDown port).port port).up = false := by
  have h := (((s.modPort port fun p => { Port.empty with thr := p.thr }).resetCounters port).fabEvent_port port 1 0 port).up
  rw [State.linkDown, h, State.resetCounters_port, State.port_modPort_same]
  rfl

theorem State.startRetrain_of_two_le (s : State) (port : Nat) {width : Nat} (h : 2 ≤ width) :
    s.startRetrain port width = s.modPort port fun p => { p with retraining := some width, fails := (0, 0), naks := 0 } :=
  if_neg (by omega)

theorem State.startRetrain_retraining (s : State) (port : Nat) {width : Nat} (h : 2 ≤ width) :
    ((s.startRetrain port width).port port).retraining = some width := by
  rw [s.startRetrain_of_two_le port h, State.port_modPort_same]

/-! ### Repairs (R226) -/

theorem State.tryRepair_of_none {s : State} {port : Nat} (h : (s.port port).repair = []) : s.tryRepair port = s := by
  simp only [State.tryRepair, h]

theorem State.tryRepair_of_replays {s : State} {port : Nat} (h : 0 < (s.port port).fails.1) : s.tryRepair port = s := by
  have hf : ((s.port port).fails.1 == 0) = false := beq_false_of_ne (by omega)
  unfold State.tryRepair
  simp only [hf, Bool.false_and, Bool.false_eq_true, if_false]
  split <;> rfl

theorem State.tryRepair_spare {s : State} {port lane : Nat} (h : (s.port port).repair = [lane]) (hf : (s.port port).fails.1 = 0)
    (hr : (s.port port).retraining = none) : ((s.tryRepair port).port port).spare = true := by
  simp only [State.tryRepair, h, hf, hr, beq_self_eq_true, Option.isNone_none, Bool.and_self, if_true, List.isEmpty_nil]
  rw [(State.fabEvent_port ..).spare, State.port_modPort_same]

theorem State.tryRepair_retrains {s : State} {port l1 l2 : Nat} {ls : List Nat} (h : (s.port port).repair = l1 :: l2 :: ls)
    (hf : (s.port port).fails.1 = 0) (hr : (s.port port).retraining = none) (hw : 4 ≤ (s.port port).width) :
    ((s.tryRepair port).port port).retraining = some ((s.port port).width / 2) := by
  simp only [State.tryRepair, h, hf, hr, beq_self_eq_true, Option.isNone_none, Bool.and_self, if_true, List.isEmpty_cons,
    Bool.false_eq_true, if_false]
  exact State.startRetrain_retraining _ _ (by omega)

end Sys2Proof.Machine
end

section
/-! PROOFS. Links, flits and end-to-end numbering (R15, R214 to R217, R219, R225, R226). -/

namespace Sys2Proof.Machine

variable (s : State) (port : Nat)

/-! ### Links (R225, R226) -/

theorem execLinkUp_of_down {width : Nat} (hp : port < 48) (hw : width ∈ [2, 4, 8]) (hup : (s.port port).up = false) :
    ∃ t : State, execLinkUp port width s = .next t ∧ t.port port = { Port.empty with up := true, width := width, thr := (s.port port).thr } := by
  have hcond : ¬ (decide (port ≥ 48) || !([2, 4, 8].contains width) || (s.port port).up) = true := by
    simp only [hup, List.contains_iff_mem.2 hw, Bool.not_true, Bool.or_false, decide_eq_true_eq]
    omega
  refine ⟨_, if_neg hcond, ?_⟩
  rw [State.resetCounters_port, State.port_modPort_same]

/-- What the end of a retraining leaves of a port, before it sends on. -/
def Port.retrained (p : Port) (width : Nat) : Port :=
  { p with retraining := none, width := width, spare := p.spare || !p.repair.isEmpty, repair := [], wire := p.wire ++ p.buf }

/-- A link that has retrained sends its retry buffer again, before anything else. -/
theorem execLinkRetrainComplete_up {w width : Nat} (hr : (s.port port).retraining = some w) (hw : width ≤ w) (h2 : 2 ≤ width) :
    ∃ t : State, execLinkRetrainComplete port width s = .next t ∧ (t.port port).retraining = none ∧ (t.port port).width = width
      ∧ ((s.port port).wire ++ (s.port port).buf) <+: (t.port port).wire := by
  unfold execLinkRetrainComplete
  simp only [hr]
  rw [if_neg (by omega), if_neg (by omega)]
  refine ⟨_, rfl, ?_⟩
  have hsend := State.fabEvent_port (s.modPort port fun p => (p.retrained width).pumpAll) port 2 0 port
  rw [State.port_modPort_same] at hsend
  have hall := (Port.pumpAll_sends _).trans hsend
  exact ⟨hall.retraining, hall.width, hall.wire⟩

theorem execLinkRetrainComplete_down {w width : Nat} (hr : (s.port port).retraining = some w) (hw : width ≤ w) (h2 : width < 2) :
    ∃ t : State, execLinkRetrainComplete port width s = .next t ∧ (t.port port).up = false := by
  unfold execLinkRetrainComplete
  simp only [hr]
  rw [if_neg (by omega), if_pos h2]
  exact ⟨_, rfl, s.linkDown_down port⟩

/-- What an acknowledgement leaves of a port, before a repair that waited for it. -/
def Port.acked (p : Port) (ack : Nat) : Port :=
  let buf := p.buf.filter fun f => !seqUpTo f.seq ack
  if buf.any (fun f => f.seq == p.fails.2) then { p with buf := buf } else { p with buf := buf, fails := (0, 0), naks := 0 }

section
variable (p : Port) (ack : Nat)
theorem Port.acked_buf : (p.acked ack).buf = p.buf.filter fun f => !seqUpTo f.seq ack := by
  unfold Port.acked; dsimp only; split <;> rfl
theorem Port.acked_repair : (p.acked ack).repair = p.repair := by
  unfold Port.acked; dsimp only; split <;> rfl
theorem Port.acked_width : (p.acked ack).width = p.width := by
  unfold Port.acked; dsimp only; split <;> rfl
theorem Port.acked_retraining : (p.acked ack).retraining = p.retraining := by
  unfold Port.acked; dsimp only; split <;> rfl
theorem Port.acked_fails_of_buf_nil (h : p.buf = []) : (p.acked ack).fails = (0, 0) := by simp [Port.acked, h]
end

theorem execLinkAck_eq (ack : Nat) : execLinkAck port ack s = .next ((s.modPort port (·.acked ack)).tryRepair port) := rfl

theorem execLinkAck_answers (ack : Nat) :
    let p := s.port port
    ∃ t : State, execLinkAck port ack s = .next t
      ∧ (p.repair = [] → (t.port port).buf = p.buf.filter fun f => !seqUpTo f.seq ack)
      ∧ (∀ lane, p.repair = [lane] → p.retraining = none → p.buf = [] → (t.port port).spare = true)
      ∧ (∀ l1 l2 ls, p.repair = l1 :: l2 :: ls → p.retraining = none → p.buf = [] → 4 ≤ p.width →
          (t.port port).retraining = some (p.width / 2)) := by
  have hport : (s.modPort port (·.acked ack)).port port = (s.port port).acked ack := s.port_modPort_same ..
  refine ⟨_, execLinkAck_eq .., fun hrep => ?_, fun lane hrep hret hbuf => ?_, fun l1 l2 ls hrep hret hbuf hw => ?_⟩
  · rw [State.tryRepair_of_none (by rw [hport, Port.acked_repair, hrep]), hport, Port.acked_buf]
  · refine State.tryRepair_spare (lane := lane) ?_ ?_ ?_ <;> rw [hport]
    · rw [Port.acked_repair, hrep]
    · rw [Port.acked_fails_of_buf_nil _ _ hbuf]
    · rw [Port.acked_retraining, hret]
  · rw [State.tryRepair_retrains (l1 := l1) (l2 := l2) (ls := ls), hport, Port.acked_width] <;> rw [hport]
    · rw [Port.acked_repair, hrep]
    · rw [Port.acked_fails_of_buf_nil _ _ hbuf]
    · rw [Port.acked_retraining, hret]
    · rwa [Port.acked_width]

/-- A NAK behind a replay that is under way tells nothing; any other begins a replay, until three have failed (R225, log 79). -/
theorem execLinkNak_answers (seq : Nat) :
    let p := s.port port
    let buf := p.buf.filter fun f => f.seq == seq || !seqUpTo f.seq seq
    let again := p.fails.2 = seq ∧ 0 < p.fails.1
    let naks := if again then p.fails.1 + 1 else 1
    p.up = true → p.retraining = none → (∃ f ∈ buf, f.seq = seq) →
    (again → 0 < p.naks → execLinkNak port seq s = .next (s.modPort port fun q => { q with naks := q.naks - 1 }))
    ∧ (¬ (again ∧ 0 < p.naks) → naks ≤ 3 → execLinkNak port seq s =
        .next (s.modPort port fun q => { q with buf := buf, fails := (naks, seq), naks := buf.length - 1, wire := q.wire ++ buf }))
    ∧ (¬ (again ∧ 0 < p.naks) → 3 < naks → 4 ≤ p.width →
        ∃ t : State, execLinkNak port seq s = .next t ∧ (t.port port).retraining = some (p.width / 2)) := by
  intro p buf again naks hup hret ⟨f, hf, hseq⟩
  have hbuf : (buf.any fun f => f.seq == seq) = true := List.any_eq_true.2 ⟨f, hf, by simpa using hseq⟩
  have heq : execLinkNak port seq s =
      if again ∧ 0 < p.naks then .next (s.modPort port fun q => { q with naks := q.naks - 1 })
      else if naks > 3 then .next ((s.modPort port fun q => { q with buf := buf }).startRetrain port (p.width / 2))
      else .next (s.modPort port fun q => { q with buf := buf, fails := (naks, seq), naks := buf.length - 1, wire := q.wire ++ buf }) := by
    have hlive : ¬ ((s.port port).retraining.isSome || !(s.port port).up || !(buf.any fun f => f.seq == seq)) = true := by
      rw [hbuf, show (s.port port).up = true from hup, show (s.port port).retraining = none from hret]
      decide
    dsimp only [execLinkNak]
    rw [if_neg hlive]
    simp [p, buf, again, naks]
  refine ⟨fun h h' => ?_, fun h h' => ?_, fun h h' hw => ?_⟩
  · rw [heq, if_pos ⟨h, h'⟩]
  · rw [heq, if_neg h, if_neg (by omega)]
  · rw [heq, if_neg h, if_pos h']
    exact ⟨_, rfl, State.startRetrain_retraining _ _ (by omega)⟩

theorem execCreditUpdate_of_idle (cls n : Nat) (h : (s.port port).txq = []) :
    ∃ t : State, execCreditUpdate port cls n s = .next t
      ∧ Tab.getD (t.port port).credits cls 0 = Tab.getD (s.port port).credits cls 0 + n := by
  refine ⟨_, rfl, ?_⟩
  rw [State.port_modPort_same, Port.pumpAll_of_txq_nil (by exact h)]
  exact Tab.getD_update_same (s.port port).credits cls 0 (· + n)

/-- A credit lets the one flit that waits for it go. -/
theorem execCreditUpdate_sends {cls i n : Nat} {bs : List Byte} (h : (s.port port).txq = [(cls, i, [bs])]) (hi : i < 50) (hc : cls < 14)
    (hup : (s.port port).up = true) (hr : (s.port port).retraining = none) (hn : 1 ≤ n) :
    let p := s.port port
    ∃ t : State, execCreditUpdate port cls n s = .next t ∧ (t.port port).txq = []
      ∧ (t.port port).wire = p.wire ++ [mkFlit bs p.txSeq (cls / 2) (cls % 2 == 1) 0 0] ∧ (t.port port).txSeq = (p.txSeq + 1) % 4096
      ∧ Tab.getD (t.port port).credits cls 0 = Tab.getD p.credits cls 0 + n - 1 := by
  intro p
  have hcr : Tab.getD (Tab.update p.credits cls 0 (· + n)) cls 0 = Tab.getD p.credits cls 0 + n := Tab.getD_update_same ..
  obtain ⟨htxq, hwire, hseq, hcredits⟩ :=
    Port.pumpAll_of_single (p := { p with credits := Tab.update p.credits cls 0 (· + n) }) h hi hc hup hr (by rw [hcr]; omega)
  refine ⟨_, rfl, ?_⟩
  rw [State.port_modPort_same]
  exact ⟨htxq, hwire, hseq, by rw [hcredits, Tab.getD_set_same, hcr]⟩

/-- A data lane that crosses its threshold waits for its repair, which may come at once. -/
theorem execLaneErrorThreshold_waits {lane : Nat} (hup : (s.port port).up = true) (hs : (s.port port).spare = false) (hl : lane < 8)
    (hrep : lane ∉ (s.port port).repair) : execLaneErrorThreshold port lane s =
      .next ((s.modPort port fun q => { q with repair := q.repair ++ [lane] }).tryRepair port) := by
  have hnew : ¬ (decide (lane ≥ 8) || (s.port port).repair.contains lane) = true := by
    simp only [Bool.or_eq_true, decide_eq_true_eq, List.contains_iff_mem, not_or]
    exact ⟨by omega, hrep⟩
  dsimp only [execLaneErrorThreshold]
  rw [if_neg (by simp [hup]), if_neg (by simp [hs]), if_neg hnew]

theorem execLaneErrorThreshold_answers (lane : Nat) :
    let p := s.port port
    p.up = true → p.retraining = none →
    (p.spare = false → lane < 8 → p.repair = [] → p.fails.1 = 0 →
      ∃ t : State, execLaneErrorThreshold port lane s = .next t ∧ (t.port port).spare = true)
    ∧ (p.spare = false → 8 ≤ lane → execLaneErrorThreshold port lane s = .next s)
    ∧ (p.spare = false → lane < 8 → lane ∉ p.repair → 0 < p.fails.1 → execLaneErrorThreshold port lane s =
        .next (s.modPort port fun q => { q with repair := q.repair ++ [lane] }))
    ∧ (p.spare = true → 4 ≤ p.width → ∃ t : State, execLaneErrorThreshold port lane s = .next t
        ∧ (t.port port).retraining = some (p.width / 2)) := by
  intro p hup hret
  refine ⟨fun hs hl hrep hf => ?_, fun hs hl => ?_, fun hs hl hrep hf => ?_, fun hs hw => ?_⟩
  · refine ⟨_, execLaneErrorThreshold_waits s port hup hs hl (hrep ▸ List.not_mem_nil), State.tryRepair_spare (lane := lane) ?_ ?_ ?_⟩
      <;> rw [State.port_modPort_same]
    · exact congrArg (· ++ [lane]) hrep
    · exact hf
    · exact hret
  · dsimp only [execLaneErrorThreshold]
    rw [if_neg (by simpa using hup), if_neg (by simpa using hs), if_pos (by simp [hl])]
  · rw [execLaneErrorThreshold_waits s port hup hs hl hrep, State.tryRepair_of_replays]
    rwa [State.port_modPort_same]
  · refine ⟨s.startRetrain port (p.width / 2), ?_, s.startRetrain_retraining port (by omega)⟩
    dsimp only [execLaneErrorThreshold]
    rw [if_neg (by simpa using hup), if_pos hs, if_neg (by simpa [p] using hret)]

/-! ### Packets delivered in their order (R219, R220) -/

/-- `t` is `s` after packets were delivered: what was received stays, and no acknowledgement is forgotten. -/
structure State.Delivers (s t : State) : Prop where
  inbox : s.fab.inbox ⊆ t.fab.inbox
  toAck : t.fab.toAck = s.fab.toAck

theorem State.Delivers.trans {s t u : State} (h : s.Delivers t) (h' : t.Delivers u) : s.Delivers u :=
  ⟨List.Subset.trans h.inbox h'.inbox, h'.toAck.trans h.toAck⟩

theorem State.deliverPacket_delivers (p : Packet) : s.Delivers (s.deliverPacket p) := by
  unfold State.deliverPacket
  split
  · split
    · exact ⟨List.Subset.refl _, rfl⟩
    · exact ⟨List.Subset.refl _, rfl⟩
  · split
    · exact ⟨List.subset_append_left .., rfl⟩
    · exact ⟨List.Subset.refl _, rfl⟩

theorem State.deliverEarly_delivers (src n : Nat) : s.Delivers (s.deliverEarly src n) := by
  induction n generalizing s with
  | zero => exact ⟨List.Subset.refl _, rfl⟩
  | succ n ih =>
    unfold State.deliverEarly
    dsimp only
    split
    · exact ⟨List.Subset.refl _, rfl⟩
    · refine .trans (.trans ?_ (State.deliverPacket_delivers _ _)) (ih _)
      exact ⟨List.Subset.refl _, rfl⟩

/-- The packet that is due is put in the inbox. -/
theorem State.mem_inbox_deliverPacket {p : Packet} (hk : kindListed p.kind = true) (h7 : p.kind ≠ 7) :
    (p.src, p) ∈ (s.deliverPacket p).fab.inbox := by
  simp [State.deliverPacket, hk, h7]

/-- A packet in its order is delivered, and its source is owed an acknowledgement. -/
theorem State.receivePacket_in_order {p : Packet} (hk : kindListed p.kind = true) (h7 : p.kind ≠ 7) (hB : p.kind ≠ 0x0B)
    (he : p.eseq = Tab.getD s.fab.rxEseq p.src 0) :
    (p.src, p) ∈ (s.receivePacket p).fab.inbox ∧ Tab.getD (s.receivePacket p).fab.toAck p.src 0 ≠ 0 := by
  have hB' : (p.kind == 0x0B) = false := beq_false_of_ne hB
  have hahead : ((p.eseq + 65536 - Tab.getD s.fab.rxEseq p.src 0) % 65536 == 0) = true := by rw [← he]; simp
  unfold State.receivePacket
  simp only [hB', hahead, Bool.false_eq_true, if_false, if_true]
  have hearly := State.deliverEarly_delivers (State.deliverPacket ((s.modFab fun f =>
    { f with toAck := Tab.update f.toAck p.src 0 (· + 1) }).modFab fun f =>
      { f with rxEseq := Tab.set f.rxEseq p.src ((Tab.getD s.fab.rxEseq p.src 0 + 1) % 65536) }) p) p.src 1024
  refine ⟨hearly.inbox (State.mem_inbox_deliverPacket _ hk h7), ?_⟩
  rw [hearly.toAck, (State.deliverPacket_delivers _ _).toAck]
  exact (Tab.getD_update_same s.fab.toAck p.src 0 (· + 1)).trans_ne (Nat.succ_ne_zero _)

/-! ### Flits (R215, R216, R225) -/

/-- A flit's CRC is right (R216). -/
def GoodCrc (f : Flit) : Prop := f.crc = flitCrc f.payload (flitTrailer f.seq f.vc f.rsp f.ack f.ctl)
/-- A flit is one that a port can take: whole, with a good CRC, and the next in order. -/
def FlitFits (f : Flit) (p : Port) : Prop := f.payload.length = 56 ∧ f.seq < 4096 ∧ f.vc < 7 ∧ GoodCrc f ∧ f.seq = p.rxSeq

/-- A port that takes a flit acknowledges it and gives its credit back. -/
def Port.takes (p : Port) (f : Flit) : Port :=
  ({ p with rxSeq := (p.rxSeq + 1) % 4096 }.control 1 f.seq 0).control 3 1 f.vc f.rsp

theorem Port.takes_rxSeq (p : Port) (f : Flit) : (p.takes f).rxSeq = (p.rxSeq + 1) % 4096 := rfl
theorem Port.takes_wire (p : Port) (f : Flit) : (p.takes f).wire = ((p.control 1 f.seq 0).control 3 1 f.vc f.rsp).wire := rfl
theorem Port.takes_asm (p : Port) (f : Flit) : (p.takes f).asm = p.asm := rfl

theorem State.storeMgmt_of_room {s : State} (h : s.fab.store.length < 64) (port : Nat) (bs : List Byte) :
    s.storeMgmt port bs = s.modFab fun f => { f with store := f.store ++ [(port, bs)] } := if_pos h

/-- The check of a flit that carries no control (R216) is that it fits. -/
theorem flit_check_iff {f : Flit} {p : Port} : (f.payload.length != 56 || decide (f.seq ≥ 4096) || decide (f.vc ≥ 7)
    || f.crc != flitCrc f.payload (flitTrailer f.seq f.vc f.rsp f.ack f.ctl) || f.seq != p.rxSeq) = true
      ↔ ¬ FlitFits f p := by
  simp only [Bool.or_eq_true, bne_iff_ne, decide_eq_true_eq, FlitFits, GoodCrc, not_and_or, ge_iff_le, not_lt, or_assoc, ne_eq]

section
variable {s port} {f : Flit} (hup : (s.port port).up = true) (hr : (s.port port).retraining = none)
include hup hr

theorem port_listens : ¬ (!(s.port port).up || (s.port port).retraining.isSome) = true := by simp [hup, hr]

theorem execFlitReceive_control (hg : GoodCrc f) :
    (f.ctl = 1 → execFlitReceive port f s = execLinkAck port f.ack s)
    ∧ (f.ctl = 2 → execFlitReceive port f s = execLinkNak port f.ack s)
    ∧ (f.ctl = 3 → execFlitReceive port f s = execCreditUpdate port (flitClass f.vc f.rsp) f.ack s) := by
  have hctl (h : f.ctl ≠ 0) : (f.ctl != 0 && f.crc == flitCrc f.payload (flitTrailer f.seq f.vc f.rsp f.ack f.ctl)) = true := by
    rw [← show f.crc = _ from hg]
    simpa using h
  refine ⟨fun h => ?_, fun h => ?_, fun h => ?_⟩
  all_goals
    dsimp only [execFlitReceive]
    rw [if_neg (port_listens hup hr), if_pos (hctl (by omega)), h]
    rfl

theorem execFlitReceive_refused (hf : ¬ FlitFits f (s.port port)) (hc : f.ctl = 0 ∨ ¬ GoodCrc f) :
    execFlitReceive port f s = .next (s.modPort port fun q => q.control 2 q.rxSeq 0) := by
  have hctl : ¬ (f.ctl != 0 && f.crc == flitCrc f.payload (flitTrailer f.seq f.vc f.rsp f.ack f.ctl)) = true := by
    simpa [GoodCrc, or_iff_not_imp_left] using hc
  dsimp only [execFlitReceive]
  rw [if_neg (port_listens hup hr), if_neg hctl, if_pos (flit_check_iff.2 hf)]

section
variable (hf : FlitFits f (s.port port)) (hc : f.ctl = 0)
include hf hc

/-- A management flit that finds room in the store is kept there. -/
theorem execFlitReceive_management (h6 : f.vc = 6) (hroom : s.fab.store.length < 64) : ∃ t : State,
    execFlitReceive port f s = .next t ∧ t.fab.store = s.fab.store ++ [(port, f.payload)] ∧ t.port port = (s.port port).takes f := by
  have hstore := State.storeMgmt_of_room (s := s.modPort port (·.takes f)) hroom port f.payload
  refine ⟨(s.modPort port (·.takes f)).storeMgmt port f.payload, ?_, by rw [hstore]; rfl,
    by rw [hstore]; exact s.port_modPort_same port (·.takes f)⟩
  dsimp only [execFlitReceive]
  rw [if_neg (port_listens hup hr), if_neg (by simp [hc]), if_neg (fun h => flit_check_iff.1 h hf), if_pos (by simpa using h6)]
  rfl

/-- A packet of one flit for this package is received. -/
theorem execFlitReceive_packet (h6 : f.vc ≠ 6) (ha : s.pkg.assigned = true)
    (hasm : Tab.getD (s.port port).asm (flitClass f.vc f.rsp) [] = []) (hone : packetFlits f.payload = 1)
    (hdst : Packet.dst [f.payload] = s.pkg.id) : ∃ s1 : State, s1.fab.rxEseq = s.fab.rxEseq
      ∧ execFlitReceive port f s = .next (s1.receivePacket [f.payload]) := by
  have hgot : Tab.getD ((s.modPort port (·.takes f)).port port).asm (flitClass f.vc f.rsp) [] ++ [f.payload] = [f.payload] := by
    rw [State.port_modPort_same, Port.takes_asm, hasm, List.nil_append]
  refine ⟨(s.modPort port (·.takes f)).modPort port fun p => { p with asm := Tab.erase p.asm (flitClass f.vc f.rsp) }, rfl, ?_⟩
  dsimp only [execFlitReceive]
  rw [if_neg (port_listens hup hr), if_neg (by simp [hc]), if_neg (fun h => flit_check_iff.1 h hf), if_neg (by simpa using h6),
    if_neg (by simp [ha])]
  unfold Port.takes at hgot
  rw [hgot, if_neg (by simp [hone]), if_pos (by simpa using hdst)]
  rfl
end
end

/-! ### End-to-end acknowledgements (R219) -/

theorem execEndToEndAck_of_none_waiting {spkg : Nat} {p : Nat × Packet}
    (h : (s.fab.inbox.find? fun y => y.1 == spkg && y.2.kind == 0x0B) = some p) (hw : s.fab.waiting = []) :
    ∃ t : State, execEndToEndAck spkg s = .next t
      ∧ t.fab.unacked = s.fab.unacked.filter fun u => !(u.dst == spkg && (p.2.eseq + 65536 - u.eseq) % 65536 < 1024) := by
  unfold execEndToEndAck
  rw [show (s.fab.inbox.find? fun (q, p) => q == spkg && p.kind == 0x0B) = some p from h]
  refine ⟨_, rfl, ?_⟩
  simp only [State.modFab_fab, hw, List.length_nil, State.sendWaiting]

theorem execEndToEndAckSend_owes_none : ∃ t : State, execEndToEndAckSend s = .next t ∧ t.fab.toAck = [] :=
  ⟨_, rfl, (State.Emits.foldl (fun _ _ => State.transmit_emits ..) _ _).toAck⟩

/-- What a packet sent again changes of its record: the time of its sending. -/
def Unacked.again (now : Nat) (u : Unacked) : Unacked := if u.sentAt + ms 1 ≤ now then { u with sentAt := now } else u

theorem Unacked.again_in_time (now : Nat) (u : Unacked) : now < (u.again now).sentAt + 1250000 := by
  unfold Unacked.again ms
  split
  · show now < now + 1250000
    omega
  · omega

theorem Unacked.again_names (now : Nat) (u : Unacked) : ((u.again now).dst, (u.again now).eseq) = (u.dst, u.eseq) := by
  unfold Unacked.again
  split <;> rfl

theorem execPacketRetransmitTimeout_unacked :
    ∃ t : State, execPacketRetransmitTimeout s = .next t ∧ t.fab.unacked = s.fab.unacked.map (Unacked.again s.clock) :=
  ⟨_, rfl, (State.Emits.foldl (fun _ _ => State.transmit_emits ..) _ _).unacked⟩

theorem execPacketRetransmitTimeout_sends_again :
    ∃ t : State, execPacketRetransmitTimeout s = .next t ∧ (∀ u ∈ t.fab.unacked, s.clock < u.sentAt + 1250000)
      ∧ t.fab.unacked.map (fun u => (u.dst, u.eseq)) = s.fab.unacked.map fun u => (u.dst, u.eseq) := by
  obtain ⟨t, ht, hu⟩ := execPacketRetransmitTimeout_unacked s
  refine ⟨t, ht, ?_, ?_⟩ <;> rw [hu]
  · rintro u hmem
    obtain ⟨v, -, rfl⟩ := List.mem_map.1 hmem
    exact v.again_in_time _
  · rw [List.map_map]
    exact List.map_congr_left fun u _ => u.again_names _

/-! ### The statement -/

/-- Settles O52: each event of a link by the lemma that says what it answers. -/
theorem linksAndFlits : Obligations.LinksAndFlits := by
  intro s port
  refine ⟨fun w => execLinkUp_of_down s port, fun w w' hr hw => ⟨execLinkRetrainComplete_up s port hr hw,
      execLinkRetrainComplete_down s port hr hw⟩, execLinkAck_answers s port, execLinkNak_answers s port,
    fun cls n => ⟨execCreditUpdate_of_idle s port cls n, fun i bs => execCreditUpdate_sends s port⟩,
    execLaneErrorThreshold_answers s port, fun f hup hr => ?_,
    fun spkg p => execEndToEndAck_of_none_waiting s, execEndToEndAckSend_owes_none s, execPacketRetransmitTimeout_sends_again s⟩
  refine ⟨fun hg => (execFlitReceive_control hup hr hg).1, fun hg => (execFlitReceive_control hup hr hg).2.1,
    fun hg => (execFlitReceive_control hup hr hg).2.2, execFlitReceive_refused hup hr, fun hf hc h6 hroom => ?_,
    fun hf hc h6 ha hasm hone hdst hk h7 hB he => ?_⟩
  · obtain ⟨t, ht, hstore, hport⟩ := execFlitReceive_management hup hr hf hc h6 hroom
    exact ⟨t, ht, hstore, by rw [hport, Port.takes_rxSeq], by rw [hport, Port.takes_wire, h6]⟩
  · obtain ⟨s1, hrx, hexec⟩ := execFlitReceive_packet hup hr hf hc h6 ha hasm hone hdst
    exact ⟨_, hexec, s1.receivePacket_in_order hk h7 hB (hrx ▸ he)⟩

end Sys2Proof.Machine
end

section
/-! PROOFS. The fabric manager's messages (R15, R213, R215, R221, R226). -/

namespace Sys2Proof.Machine

variable {s : State} {port kind : Nat} {bs : List Byte}

/-! ### A message applied once and acknowledged (R221) -/

/-- The state from which a message is applied: it has left the store. -/
def State.dropMgmt (s : State) (port : Nat) : State := s.modFab fun g => { g with store := g.store.eraseP (·.1 == port) }

/-- What is noted once a message of this number from `src` is applied, and once its acknowledgement has a number of its own. -/
def State.noted (s : State) (src n : Nat) (seen : List Nat) : State :=
  s.modFab fun g => { g with mseqSeen := Tab.set g.mseqSeen src (seenWith n seen), mseqNext := (g.mseqNext + 1) % 65536 }

theorem State.ackMgmt_emits (s : State) (port : Nat) (bs : List Byte) (status : Nat) :
    s.nextMseq.1.Emits (s.ackMgmt port bs status) := State.mgmtTo_emits s.nextMseq.1 ..

theorem State.onMgmtMsg_eq (h : s.Manages port kind bs) (f : State → List Byte → State × Nat) :
    s.onMgmtMsg port kind f =
      let r := f (s.dropMgmt port) bs
      let s1 := if r.2 == 0 then r.1.modFab fun g =>
          { g with mseqSeen := Tab.set g.mseqSeen (fieldAt bs 2 2) (seenWith (fieldAt bs 6 2) (Tab.getD s.fab.mseqSeen (fieldAt bs 2 2) [])) }
        else r.1
      s1.ackMgmt port bs r.2 := by
  obtain ⟨hfirst, hus, hkind, hnew⟩ := h
  have hmine : ¬ (!forUs s bs || fieldAt bs 4 1 != kind) = true := by simp [hus, hkind]
  have hunseen : ¬ (Tab.getD (s.dropMgmt port).fab.mseqSeen (fieldAt bs 2 2) []).contains (fieldAt bs 6 2) = true := by
    rw [List.contains_iff_mem]
    exact hnew
  unfold State.onMgmtMsg
  simp only [hfirst]
  rw [if_neg hmine]
  exact if_neg hunseen

/-- What an applied message leaves of the state it has set, `s1`. -/
def Applied (s s1 : State) (bs : List Byte) (t : State) : Prop :=
  (s1.noted (fieldAt bs 2 2) (fieldAt bs 6 2) (Tab.getD s.fab.mseqSeen (fieldAt bs 2 2) [])).Emits t

/-- A message that is applied: what it has set stands, its number is noted, and an acknowledgement goes out. -/
theorem State.onMgmtMsg_applied (h : s.Manages port kind bs) {f : State → List Byte → State × Nat} {s1 : State}
    (hf : f (s.dropMgmt port) bs = (s1, 0)) :
    Applied s s1 bs (s.onMgmtMsg port kind f) := by
  rw [State.onMgmtMsg_eq h, hf]
  exact State.ackMgmt_emits (s1.modFab fun g => { g with
    mseqSeen := Tab.set g.mseqSeen (fieldAt bs 2 2) (seenWith (fieldAt bs 6 2) (Tab.getD s.fab.mseqSeen (fieldAt bs 2 2) [])) }) port bs 0

/-- A message that is refused sets nothing. -/
theorem State.onMgmtMsg_refused (h : s.Manages port kind bs) {f : State → List Byte → State × Nat} {st : Nat} (hst : st ≠ 0)
    (hf : f (s.dropMgmt port) bs = (s.dropMgmt port, st)) : (s.dropMgmt port).nextMseq.1.Emits (s.onMgmtMsg port kind f) := by
  rw [State.onMgmtMsg_eq h, hf]
  simp only [beq_false_of_ne hst, Bool.false_eq_true, if_false]
  exact State.ackMgmt_emits ..

theorem Applied.emits {s s1 t : State} (h : Applied s s1 bs t) :
    (s1.noted (fieldAt bs 2 2) (fieldAt bs 6 2) (Tab.getD s.fab.mseqSeen (fieldAt bs 2 2) [])).Emits t := h
/-- The message's number is among those applied (R221). -/
def SeenIn (s : State) (bs : List Byte) (t : State) : Prop :=
  Tab.getD t.fab.mseqSeen (fieldAt bs 2 2) [] = seenWith (fieldAt bs 6 2) (Tab.getD s.fab.mseqSeen (fieldAt bs 2 2) [])
theorem Applied.seen {s s1 t : State} (h : Applied s s1 bs t) : SeenIn s bs t := by
  unfold SeenIn
  rw [h.emits.mseqSeen]
  exact Tab.getD_set_same ..

theorem Applied.routes {s s1 t : State} (h : Applied s s1 bs t) : t.fab.routes = s1.fab.routes := h.emits.routes
theorem Applied.sends {s s1 t : State} (h : Applied s s1 bs t) (i : Nat) : (s1.port i).Sends (t.port i) := h.emits.port i

/-! ### The messages -/

theorem execAssign_applied (h : s.Manages port 0x20 bs) (hid : fieldAt bs 0x10 2 < 1024)
    (htok : s.pkg.assigned = false ∨ tokenOk s bs = true) : ∃ t : State, execAssign port s = .next t
      ∧ SeenIn s bs t
      ∧ t.pkg = { s.pkg with id := fieldAt bs 0x10 2, assigned := true } ∧ t.fab.manager = some (fieldAt bs 2 2, port)
      ∧ t.fab.token = some (s.fab.token.getD (fieldAt bs 8 4)) := by
  have htok' : ¬ (s.pkg.assigned && !tokenOk s bs) = true := by rcases htok with h | h <;> simp [h]
  obtain ⟨t, ht, hE⟩ : ∃ t, execAssign port s = .next t ∧ Applied s _ bs t :=
    ⟨_, rfl, State.onMgmtMsg_applied h ((if_neg (not_le.2 hid)).trans (if_neg htok'))⟩
  exact ⟨t, ht, hE.seen, hE.emits.pkg, hE.emits.manager, hE.emits.token⟩

theorem execAssign_refused (h : s.Manages port 0x20 bs) (hid : fieldAt bs 0x10 2 < 1024) (ha : s.pkg.assigned = true)
    (htok : tokenOk s bs = false) : ∃ t : State, execAssign port s = .next t ∧ t.pkg = s.pkg ∧ t.fab.token = s.fab.token := by
  have htok' : (s.pkg.assigned && !tokenOk s bs) = true := by simp [ha, htok]
  obtain ⟨t, ht, hE⟩ : ∃ t, execAssign port s = .next t ∧ (s.dropMgmt port).nextMseq.1.Emits t :=
    ⟨_, rfl, State.onMgmtMsg_refused h Nat.one_ne_zero ((if_neg (not_le.2 hid)).trans (if_pos htok'))⟩
  exact ⟨t, ht, hE.pkg, hE.token⟩

/-- Record `i` of a ROUTE: a destination, and its entry of R213. -/
def routeRecord (bs : List Byte) (i : Nat) : Nat × Nat := (fieldAt bs (0x10 + 10 * i) 2, fieldAt bs (0x12 + 10 * i) 8 % 2 ^ 40)

/-- A route set, with the counter of its entry at 0 (R214). -/
def State.setRoute (s : State) (r : Nat × Nat) : State :=
  s.modFab fun f => { f with routes := Tab.set f.routes r.1 (BitVec.ofNat 64 r.2), counters := Tab.erase f.counters r.1 }

theorem State.setRoutes_routes (recs : List (Nat × Nat)) (s : State) :
    (recs.foldl State.setRoute s).fab.routes = recs.foldl (fun m r => Tab.set m r.1 (BitVec.ofNat 64 r.2)) s.fab.routes := by
  induction recs generalizing s with
  | nil => rfl
  | cons r recs ih => exact ih (s.setRoute r)

theorem execRoute_applied (h : s.Manages port 0x21 bs) (htok : tokenOk s bs = true) (h1 : 1 ≤ fieldAt bs 0x0C 1)
    (h4 : fieldAt bs 0x0C 1 ≤ 4) (hdst : ∀ i, i < fieldAt bs 0x0C 1 → (routeRecord bs i).1 < 1024) :
    ∃ t : State, execRoute port s = .next t
      ∧ Applied s (((List.range (fieldAt bs 0x0C 1)).map (routeRecord bs)).foldl State.setRoute (s.dropMgmt port)) bs t := by
  have hgood : ¬ (decide (fieldAt bs 0x0C 1 < 1) || decide (fieldAt bs 0x0C 1 > 4)
      || ((List.range (fieldAt bs 0x0C 1)).map (routeRecord bs)).any fun x => x.1 ≥ 1024) = true := by
    simp only [Bool.or_eq_true, decide_eq_true_eq, List.any_eq_true, List.mem_map, List.mem_range, not_or, not_exists, not_and]
    refine ⟨⟨by omega, by omega⟩, ?_⟩
    rintro _ ⟨i, hi, rfl⟩
    exact not_le.2 (hdst i hi)
  have htok' : ¬ (!tokenOk s bs) = true := by simp [htok]
  exact ⟨_, rfl, State.onMgmtMsg_applied h ((if_neg hgood).trans (if_neg htok'))⟩

/-- Where a destination stands in several records, the last is its entry. -/
theorem execRoute_sets (h : s.Manages port 0x21 bs) (htok : tokenOk s bs = true) (h1 : 1 ≤ fieldAt bs 0x0C 1)
    (h4 : fieldAt bs 0x0C 1 ≤ 4) (hdst : ∀ i, i < fieldAt bs 0x0C 1 → (routeRecord bs i).1 < 1024) :
    ∃ t : State, execRoute port s = .next t
      ∧ SeenIn s bs t
      ∧ ∀ i, i < fieldAt bs 0x0C 1 → (∀ k, i < k → k < fieldAt bs 0x0C 1 → (routeRecord bs k).1 ≠ (routeRecord bs i).1) →
        Tab.get? t.fab.routes (routeRecord bs i).1 = some (BitVec.ofNat 64 (routeRecord bs i).2) := by
  obtain ⟨t, ht, hE⟩ := execRoute_applied h htok h1 h4 hdst
  refine ⟨t, ht, hE.seen, fun i hi hlast => ?_⟩
  rw [hE.routes, State.setRoutes_routes, List.foldl_map]
  exact Tab.get?_foldl_set_range _ (fun j => (routeRecord bs j).1) (fun j => BitVec.ofNat 64 (routeRecord bs j).2) _ i hi hlast

theorem execQuery_applied (h : s.Manages port 0x22 bs) : ∃ t : State, execQuery port s = .next t
      ∧ SeenIn s bs t
      ∧ t.fab.mseqNext = (s.fab.mseqNext + 2) % 65536 ∧ t.pkg = s.pkg ∧ t.fab.routes = s.fab.routes := by
  obtain ⟨t, s1, ht, hanswer, hE⟩ : ∃ t s1, execQuery port s = .next t ∧ (s.dropMgmt port).nextMseq.1.Emits s1 ∧ Applied s s1 bs t :=
    ⟨_, _, rfl, State.mgmtTo_emits .., State.onMgmtMsg_applied h rfl⟩
  refine ⟨t, ht, hE.seen, ?_, hE.emits.pkg.trans hanswer.pkg, hE.routes.trans hanswer.routes⟩
  have hnext : t.fab.mseqNext = (s1.fab.mseqNext + 1) % 65536 := hE.emits.mseqNext
  have hanswered : s1.fab.mseqNext = (s.fab.mseqNext + 1) % 65536 := hanswer.mseqNext
  omega

theorem execThresh_applied (h : s.Manages port 0x24 bs) (htok : tokenOk s bs = true) (hp : fieldAt bs 0x10 1 < 48)
    (hl : fieldAt bs 0x11 1 ≤ 8) (hz : fieldAt bs 0x12 2 = 0) : ∃ t : State, execThresh port s = .next t
      ∧ SeenIn s bs t
      ∧ Tab.get? (t.port (fieldAt bs 0x10 1)).thr (fieldAt bs 0x11 1) = some (fieldAt bs 0x14 4) := by
  have hgood : ¬ (decide (fieldAt bs 0x10 1 ≥ 48) || decide (fieldAt bs 0x11 1 > 8) || !zeroAt bs 0x12 2) = true := by
    simp only [zeroAt, hz, beq_self_eq_true, Bool.not_true, Bool.or_false, Bool.or_eq_true, decide_eq_true_eq]
    omega
  have htok' : ¬ (!tokenOk s bs) = true := by simp [htok]
  obtain ⟨t, ht, hE⟩ : ∃ t, execThresh port s = .next t ∧ Applied s ((s.dropMgmt port).modPort (fieldAt bs 0x10 1) fun x =>
      { x with thr := Tab.set x.thr (fieldAt bs 0x11 1) (fieldAt bs 0x14 4) }) bs t :=
    ⟨_, rfl, State.onMgmtMsg_applied h ((if_neg hgood).trans (if_neg htok'))⟩
  refine ⟨t, ht, hE.seen, ?_⟩
  rw [(hE.sends (fieldAt bs 0x10 1)).thr, State.port_modPort_same]
  exact Tab.get?_set_same ..

theorem execRetrain_applied (h : s.Manages port 0x25 bs) (htok : tokenOk s bs = true) (hp : fieldAt bs 0x10 1 < 48)
    (hw : fieldAt bs 0x11 1 ∈ [2, 4, 8]) (hup : (s.port (fieldAt bs 0x10 1)).up = true) : ∃ t : State, execRetrain port s = .next t
      ∧ SeenIn s bs t
      ∧ (t.port (fieldAt bs 0x10 1)).retraining = some (fieldAt bs 0x11 1) := by
  have hgood : ¬ (decide (fieldAt bs 0x10 1 ≥ 48) || !([2, 4, 8].contains (fieldAt bs 0x11 1))) = true := by
    simp only [List.contains_iff_mem.2 hw, Bool.not_true, Bool.or_false, decide_eq_true_eq]
    omega
  have htok' : ¬ (!tokenOk s bs || !(s.port (fieldAt bs 0x10 1)).up) = true := by simp [htok, hup]
  have h2 : 2 ≤ fieldAt bs 0x11 1 := (by decide : ∀ w ∈ [2, 4, 8], 2 ≤ w) _ hw
  obtain ⟨t, ht, hE⟩ : ∃ t, execRetrain port s = .next t
      ∧ Applied s ((s.dropMgmt port).startRetrain (fieldAt bs 0x10 1) (fieldAt bs 0x11 1)) bs t :=
    ⟨_, rfl, State.onMgmtMsg_applied h ((if_neg hgood).trans (if_neg htok'))⟩
  exact ⟨t, ht, hE.seen, (hE.sends (fieldAt bs 0x10 1)).retraining.trans (State.startRetrain_retraining _ _ h2)⟩

/-! ### Messages that go on (R215, R254) -/

/-- The message that goes on has left the store. -/
def State.unstore (s : State) (m : Nat × List Byte) : State := s.modFab fun f => { f with store := f.store.erase m }

/-- Is a message of a kind that this package's service core acts on itself? -/
def actedOn (bs : List Byte) : Bool := [0x20, 0x21, 0x22, 0x24, 0x25].contains (fieldAt bs 4 1)

@[simp] theorem forUs_modFab (s : State) (f : Fabric → Fabric) (bs : List Byte) : forUs (s.modFab f) bs = forUs s bs := rfl

section
variable (h : (s.fab.store.find? fun y => !(forUs s y.2 && actedOn y.2)) = some (port, bs))
include h

theorem execMgmtPacketForward_found : (s.fab.store.find? fun (_, b) =>
    !(forUs s b && [0x20, 0x21, 0x22, 0x24, 0x25].contains (fieldAt b 4 1))) = some (port, bs) := h

theorem execMgmtPacketForward_host (hus : forUs s bs = true) : execMgmtPacketForward s =
    .next ((s.unstore (port, bs)).health 6 0 0 0 0 0 0 (bs ++ List.replicate 8 0)) := by
  simp only [execMgmtPacketForward, execMgmtPacketForward_found h, forUs_modFab, hus, if_true]
  rfl

theorem execMgmtPacketForward_routed (hus : forUs s bs = false) {s2 : State} {q : Nat}
    (hroute : (s.unstore (port, bs)).route (fieldAt bs 0 2) = (s2, some q)) (hq : q < 48) :
    execMgmtPacketForward s = .next (s2.enqueue q 6 false [bs] (min port ownInput)) := by
  have hport : (q == 0xFFFF) = false := beq_false_of_ne (by omega)
  unfold State.unstore at hroute
  simp only [execMgmtPacketForward, execMgmtPacketForward_found h, forUs_modFab, hus, hroute, State.mgmtOut, hport, Bool.false_eq_true,
    if_false]

theorem execMgmtPacketForward_dropped (hus : forUs s bs = false)
    (hroute : (s.unstore (port, bs)).portSequence (fieldAt bs 0 2) = [])
    (hm : s.fab.manager = none) : execMgmtPacketForward s =
      .next ((s.unstore (port, bs)).modFab fun f => { f with mgmtDropped := f.mgmtDropped + 1 }) := by
  unfold State.unstore at hroute
  simp only [execMgmtPacketForward, execMgmtPacketForward_found h, forUs_modFab, hus, State.route_of_unreachable hroute,
    Bool.false_eq_true, if_false]
  exact congrArg Host.Outcome.next (State.fabEvent_of_no_manager (by exact hm) port 5 0)

end

/-- Settles O54: each message by what it sets once it is applied. -/
theorem managementMessages : Obligations.ManagementMessages := by
  intro s port bs
  refine ⟨fun h hid => ⟨execAssign_applied h hid, execAssign_refused h hid⟩, execRoute_sets, execQuery_applied, execThresh_applied,
    execRetrain_applied, ?_⟩
  rintro own rfl hfind
  exact ⟨execMgmtPacketForward_host hfind, fun hus _ _ => execMgmtPacketForward_routed hfind hus,
    execMgmtPacketForward_dropped hfind⟩

end Sys2Proof.Machine
end

section
/-! PROOFS. Frames: which parts of the package a shared operation of the model can change. A frame is a list of parts; what is outside it
stays. -/

-- one proof at a time: proofs elaborated side by side wait for each other's case splits, each on a stack of its own
set_option Elab.async false

namespace Sys2Proof.Machine

/-- The parts of a package's state, by the fields of `State`. -/
inductive Part where
  | clock | cur | agenda | freeCtr | mem | nextDfn | verified | badPages | skeins | groups | cores | scratch | tiles | caches | homeWords
  | homePend | faults | slices | net | memops | ops | past | rendezvous | jointSets | exchanges | work | host | fab | dies | pkg | nextName
  | nextPriv | soft
  deriving DecidableEq

/-- A part is the same in two states. -/
def Part.Same (s t : State) : Part → Prop
  | .clock => t.clock = s.clock
  | .cur => t.cur = s.cur
  | .agenda => t.agenda = s.agenda
  | .freeCtr => t.freeCtr = s.freeCtr
  | .mem => t.mem = s.mem
  | .nextDfn => t.nextDfn = s.nextDfn
  | .verified => t.verified = s.verified
  | .badPages => t.badPages = s.badPages
  | .skeins => t.skeins = s.skeins
  | .groups => t.groups = s.groups
  | .cores => t.cores = s.cores
  | .scratch => t.scratch = s.scratch
  | .tiles => t.tiles = s.tiles
  | .caches => t.caches = s.caches
  | .homeWords => t.homeWords = s.homeWords
  | .homePend => t.homePend = s.homePend
  | .faults => t.faults = s.faults
  | .slices => t.slices = s.slices
  | .net => t.net = s.net
  | .memops => t.memops = s.memops
  | .ops => t.ops = s.ops
  | .past => t.past = s.past
  | .rendezvous => t.rendezvous = s.rendezvous
  | .jointSets => t.jointSets = s.jointSets
  | .exchanges => t.exchanges = s.exchanges
  | .work => t.work = s.work
  | .host => t.host = s.host
  | .fab => t.fab = s.fab
  | .dies => t.dies = s.dies
  | .pkg => t.pkg = s.pkg
  | .nextName => t.nextName = s.nextName
  | .nextPriv => t.nextPriv = s.nextPriv
  | .soft => t.soft = s.soft

/-- The parts of `P` as they are in `t`, the others as in `s`. -/
def State.mix (P : List Part) (t s : State) : State where
  clock := bif P.contains .clock then t.clock else s.clock
  cur := bif P.contains .cur then t.cur else s.cur
  agenda := bif P.contains .agenda then t.agenda else s.agenda
  freeCtr := bif P.contains .freeCtr then t.freeCtr else s.freeCtr
  mem := bif P.contains .mem then t.mem else s.mem
  nextDfn := bif P.contains .nextDfn then t.nextDfn else s.nextDfn
  verified := bif P.contains .verified then t.verified else s.verified
  badPages := bif P.contains .badPages then t.badPages else s.badPages
  skeins := bif P.contains .skeins then t.skeins else s.skeins
  groups := bif P.contains .groups then t.groups else s.groups
  cores := bif P.contains .cores then t.cores else s.cores
  scratch := bif P.contains .scratch then t.scratch else s.scratch
  tiles := bif P.contains .tiles then t.tiles else s.tiles
  caches := bif P.contains .caches then t.caches else s.caches
  homeWords := bif P.contains .homeWords then t.homeWords else s.homeWords
  homePend := bif P.contains .homePend then t.homePend else s.homePend
  faults := bif P.contains .faults then t.faults else s.faults
  slices := bif P.contains .slices then t.slices else s.slices
  net := bif P.contains .net then t.net else s.net
  memops := bif P.contains .memops then t.memops else s.memops
  ops := bif P.contains .ops then t.ops else s.ops
  past := bif P.contains .past then t.past else s.past
  rendezvous := bif P.contains .rendezvous then t.rendezvous else s.rendezvous
  jointSets := bif P.contains .jointSets then t.jointSets else s.jointSets
  exchanges := bif P.contains .exchanges then t.exchanges else s.exchanges
  work := bif P.contains .work then t.work else s.work
  host := bif P.contains .host then t.host else s.host
  fab := bif P.contains .fab then t.fab else s.fab
  dies := bif P.contains .dies then t.dies else s.dies
  pkg := bif P.contains .pkg then t.pkg else s.pkg
  nextName := bif P.contains .nextName then t.nextName else s.nextName
  nextPriv := bif P.contains .nextPriv then t.nextPriv else s.nextPriv
  soft := bif P.contains .soft then t.soft else s.soft

/-- `t` is `s` but for the parts of `P`, and no record posted to the host is taken back. -/
structure State.Within (P : List Part) (s t : State) : Prop where
  same : ∀ p, p ∉ P → p.Same s t
  out : s.host.out <+: t.host.out

theorem Part.same_refl (s : State) (p : Part) : p.Same s s := by cases p <;> rfl
theorem Part.Same.trans {s t u : State} {p : Part} (h : p.Same s t) (h' : p.Same t u) : p.Same s u := by
  cases p <;> exact Eq.trans h' h

theorem State.mix_same (t s : State) {P : List Part} {p : Part} (hp : p ∉ P) : p.Same s (State.mix P t s) := by
  have absent : P.contains p = false := by simpa using hp
  cases p <;> exact congrArg (fun b : Bool => bif b then _ else _) absent

section
variable {P Q : List Part} {s t u : State}

theorem State.Within.refl (P : List Part) (s : State) : State.Within P s s := ⟨fun p _ => p.same_refl s, List.prefix_rfl⟩
/-- A frame of an update: the new state's parts of `P` make the new state. -/
theorem State.Within.of_mix (h : t = State.mix P t s) (hout : s.host.out <+: t.host.out) : State.Within P s t :=
  ⟨fun p hp => by rw [h]; exact State.mix_same t s hp, hout⟩
/-- The same, of an update that posts nothing to the host. -/
theorem State.Within.of_update (h : t = State.mix P t s) (hout : t.host.out = s.host.out := by rfl) : State.Within P s t :=
  .of_mix h (hout ▸ List.prefix_rfl)
theorem State.Within.trans (h : State.Within P s t) (h' : State.Within P t u) : State.Within P s u :=
  ⟨fun p hp => (h.same p hp).trans (h'.same p hp), h.out.trans h'.out⟩
theorem State.Within.mono (h : State.Within P s t) (hPQ : P ⊆ Q := by decide) : State.Within Q s t :=
  ⟨fun p hp => h.same p fun hm => hp (hPQ hm), h.out⟩
theorem State.Within.foldl {α : Type} {f : State → α → State} (h : ∀ (s : State) (a : α), State.Within P s (f s a)) (as : List α) (s : State) :
    State.Within P s (as.foldl f s) := by
  induction as generalizing s with
  | nil => exact .refl P s
  | cons a as ih => exact (h s a).trans (ih _)
theorem State.Within.foldl_fst {α β : Type} {f : State × β → α → State × β} (h : ∀ (r : State × β) (a : α), State.Within P r.1 (f r a).1)
    (as : List α) (r : State × β) : State.Within P r.1 (as.foldl f r).1 := by
  induction as generalizing r with
  | nil => exact .refl P r.1
  | cons a as ih => exact (h r a).trans (ih _)
/-- A frame of a function's result, where the result is known. -/
theorem State.Within.of_eq {α : Type} {r : State × α} {x : α} (h : State.Within P s r.1) (hr : r = (t, x)) : State.Within P s t := by
  rw [hr] at h; exact h
end


/-! ### Updates of one part -/

section
variable (s : State)

theorem State.modSkein_within (id : SkId) (f : Skein → Skein) : State.Within [.skeins] s (s.modSkein id f) := .of_update rfl
theorem State.modStrand_within (id : SkId) (st : Nat) (f : Strand → Strand) : State.Within [.skeins] s (s.modStrand id st f) :=
  s.modSkein_within id _
theorem State.setSkein_within (id : SkId) (k : Skein) : State.Within [.skeins] s (s.setSkein id k) := .of_update rfl
theorem State.modGroup_within (g : Nat) (f : Group → Group) : State.Within [.groups] s (s.modGroup g f) := .of_update rfl
theorem State.modCore_within (c : Nat) (f : Core → Core) : State.Within [.cores] s (s.modCore c f) := .of_update rfl
theorem State.modSlice_within (n : Nat) (f : Slice → Slice) : State.Within [.slices] s (s.modSlice n f) := .of_update rfl
theorem State.modHost_within (f : HostIf → HostIf) (hf : s.host.out <+: (f s.host).out := by exact List.prefix_rfl) :
    State.Within [.host] s (s.modHost f) :=
  .of_mix rfl hf
theorem State.send_within (r : HostRec) : State.Within [.host] s (s.send r) := s.modHost_within _ (List.prefix_append ..)
theorem State.modWork_within (f : Work → Work) : State.Within [.work] s (s.modWork f) := .of_update rfl
theorem State.cur_within (c : Option Cur) : State.Within [.cur] s { s with cur := c } := .of_update rfl
theorem State.nextDfn_within (n : Nat) : State.Within [.nextDfn] s { s with nextDfn := n } := .of_update rfl
theorem State.verified_within (v : List (Nat × Nat)) : State.Within [.verified] s { s with verified := v } := .of_update rfl
theorem State.badPages_within (b : List (Nat × Nat)) : State.Within [.badPages] s { s with badPages := b } := .of_update rfl
theorem State.slices_within (x : List (Nat × Slice)) : State.Within [.slices] s { s with slices := x } := .of_update rfl
theorem State.mem_within (m : List Host.Cell) : State.Within [.mem] s { s with mem := m } := .of_update rfl
end

/-! ### Translation -/

/-- What the service cores and the integrity units change where an address is translated (R151 to R173). -/
def placeParts : List Part := [.mem, .slices, .host, .nextDfn, .verified, .badPages]

section
variable (s : State)

theorem State.health_within (event die slice source addr value job : Nat) (tail : List Byte) :
    State.Within [.host] s (s.health event die slice source addr value job tail) := s.send_within _

theorem State.checkSector_within (slice key : Nat) : State.Within [.slices, .host] s (s.checkSector slice key) := by
  have told (f : Slice → Slice) (e d l c a v j : Nat) (bs : List Byte) :
      State.Within [.slices, .host] s ((s.modSlice slice f).health e d l c a v j bs) :=
    (s.modSlice_within slice f).mono.trans (State.health_within (s.modSlice slice f) ..).mono
  simp only [State.checkSector]
  split
  · exact .refl ..
  · split
    · exact told ..
    · split
      · exact .refl ..
      · exact told ..

theorem State.allocPieces_within {s s' : State} {slice n : Nat} {ps : List Nat} (h : s.allocPieces slice n = some (s', ps)) :
    State.Within [.slices, .mem] s s' := by
  simp only [State.allocPieces] at h
  split at h
  · cases h
  · cases h
    exact (s.modSlice_within slice _).mono.trans (State.mem_within _ _).mono

theorem State.allocPiece_within (slice : Nat) : State.Within [.slices, .mem] s (s.allocPiece slice).1 := by
  unfold State.allocPiece
  split
  · next h => exact State.allocPieces_within h
  · exact .refl ..

theorem State.installPieces_within {s s' : State} {slice n pk : Nat} {bs : List Byte} (h : s.installPieces slice n pk bs = some s') :
    State.Within [.slices, .mem] s s' := by
  induction n generalizing s pk bs with
  | zero => cases h; exact .refl ..
  | succ n ih =>
    have alloc := s.allocPiece_within slice
    simp only [State.installPieces] at h
    split at h
    · cases h
    · next s1 p hs1 =>
      rw [hs1] at alloc
      exact alloc.trans ((State.mem_within s1 _).mono.trans ((State.modSlice_within _ slice _).mono.trans (ih h)))

theorem State.walkFrom_within (va n lv dfn : Nat) : State.Within [.slices, .host] s (State.walkFrom va n lv dfn s).1 := by
  induction n generalizing s lv dfn with
  | zero => exact .refl ..
  | succ n ih =>
    have checked (k : Option Nat) : State.Within [.slices, .host] s
        (match k with | some k => s.checkSector (tableSlice dfn) k | none => s) := by
      cases k
      · exact .refl ..
      · exact s.checkSector_within ..
    unfold State.walkFrom
    extract_lets i p k s1
    have hs1 : State.Within [.slices, .host] s s1 := checked k
    split_ifs
    on_goal -1 => exact hs1.trans (ih ..)
    all_goals exact hs1

theorem State.leaf_within (slice asid va : Nat) : State.Within [.slices, .host] s (s.leaf slice asid va).1 := by
  simp only [State.leaf]
  split
  · exact .refl ..
  · next root _ _ =>
    have walked : State.Within [.slices, .host] s (s.walk root va).1 := s.walkFrom_within ..
    split
    · exact .refl ..
    · exact .refl ..
    · split
      · next s1 p l hs1 =>
        rw [hs1] at walked
        exact walked.trans (s1.modSlice_within slice _).mono
      · exact walked

theorem State.expand_within (slice pk rec : Nat) : State.Within [.slices, .host, .mem] s (s.expand slice pk rec) := by
  have checked (ks : List Nat) : State.Within [.slices, .host, .mem] s (ks.foldl (fun s k => s.checkSector slice k) s) :=
    .foldl (fun s k => (s.checkSector_within slice k).mono) ks s
  simp only [State.expand]
  split
  · exact .refl ..
  · next b _ =>
    split_ifs
    · exact .refl ..
    · exact checked _
    all_goals
      split
      · split
        · next s' hs' => exact (checked _).trans ((State.installPieces_within hs').mono.trans (s'.modSlice_within slice _).mono)
        · exact checked _
      · exact (checked _).trans ((State.modSlice_within _ slice _).mono.trans (State.health_within _ ..).mono)

theorem State.putPte_within (dfn i : Nat) (p : W64) : State.Within [.mem] s (s.putPte dfn i p) := by
  unfold State.putPte
  split
  · exact s.mem_within _
  · exact .refl ..

theorem State.newTable_within {s s' : State} {root : Option Nat} {n : Nat} (h : s.newTable root = some (s', n)) :
    State.Within [.slices, .mem, .nextDfn] s s' := by
  simp only [State.newTable, Option.map_eq_some_iff, Prod.mk.injEq] at h
  obtain ⟨⟨s1, ps⟩, hs1, rfl, -⟩ := h
  have named : State.Within [.slices, .mem, .nextDfn] s1 { s1 with nextDfn := s.nextDfn + 1 } := (s1.nextDfn_within _).mono
  exact (State.allocPieces_within hs1).mono.trans (named.trans (State.modSlice_within _ _ _).mono)

theorem State.tableUnder_within {s s' : State} {root dfn i d : Nat} (h : s.tableUnder root dfn i = some (s', d)) :
    State.Within [.slices, .mem, .nextDfn] s s' := by
  simp only [State.tableUnder] at h
  split at h
  · cases h; exact .refl ..
  · simp only [Option.map_eq_some_iff, Prod.mk.injEq] at h
    obtain ⟨⟨s1, n⟩, hs1, rfl, -⟩ := h
    exact (State.newTable_within hs1).trans (s1.putPte_within ..).mono

theorem State.leafTable_within {s s' : State} {root va d : Nat} (h : s.leafTable root va = some (s', d)) :
    State.Within [.slices, .mem, .nextDfn] s s' := by
  simp only [State.leafTable] at h
  split at h
  · cases h
  · next s1 d1 h1 =>
    split at h
    · cases h
    · next s2 d2 h2 =>
      exact (State.tableUnder_within h1).trans ((State.tableUnder_within h2).trans (State.tableUnder_within h))

theorem State.writeLeaf_within (asid va : Nat) (p : W64) : State.Within placeParts s (s.writeLeaf asid va p) := by
  unfold State.writeLeaf
  split
  · exact .refl ..
  · split
    · exact .refl ..
    · next s1 d h1 =>
      have dropped (t : State) (v b : List (Nat × Nat)) (n m : Nat) :
          State.Within placeParts t (({ t with verified := v, badPages := b } : State).tlbDrop n m) :=
        State.Within.mono (P := [.verified, .badPages, .slices]) (.of_update rfl)
      exact (State.leafTable_within h1).mono.trans ((s1.putPte_within ..).mono.trans (dropped ..))

theorem State.zeroPieces_within (j : Job) (die va dfn : Nat) (skip : Option Nat) (n : Nat) :
    State.Within [.slices] s (s.zeroPieces j die va dfn skip n) := by
  induction n with
  | zero => exact .refl ..
  | succ n ih =>
    simp only [State.zeroPieces]
    split
    · split
      · exact ih
      · exact ih.trans (State.modSlice_within ..)
    · exact ih

/-- The tables of a discarded page forget that it was. -/
theorem State.undiscard_within (j : Job) (die asid va dfn pk : Nat) (p : W64) (disc : Bool) : State.Within placeParts s
    (if disc then (s.zeroPieces j die (va / 65536 * 65536) dfn (some pk) 16).writeLeaf asid va p else s) := by
  split
  · exact (s.zeroPieces_within ..).mono.trans (State.writeLeaf_within ..)
  · exact .refl ..

theorem State.place_within (j : Job) (die asid va : Nat) (acc : Acc) : State.Within placeParts s (s.place j die asid va acc).1 := by
  unfold State.place
  split
  · exact .refl ..
  · exact .refl ..
  · next sl _ =>
    have looked : State.Within placeParts s (s.leaf sl asid va).1 := (s.leaf_within sl asid va).mono
    split
    · next hs1 => rw [hs1] at looked; exact looked
    · next hs1 => rw [hs1] at looked; exact looked
    · next hs1 => rw [hs1] at looked; exact looked
    · next s1 p large hs1 =>
      rw [hs1] at looked
      refine looked.trans ?_
      have alloc : State.Within placeParts s1 (s1.allocPiece sl).1 := (s1.allocPiece_within sl).mono
      extract_lets kind dfn pk e zeroLike s2 e2
      have grown : State.Within placeParts s1 s2 := (s1.expand_within ..).mono
      split
      · exact .refl ..
      split
      · exact .refl ..
      split
      · exact .refl ..
      split
      · split
        · exact .refl ..
        · split
          · next hs3 => rw [hs3] at alloc; exact alloc
          · next s3 q hs3 =>
            rw [hs3] at alloc
            exact alloc.trans ((s3.modSlice_within sl _).mono.trans (State.undiscard_within ..))
      · split
        · exact .refl ..
        · split <;> exact grown
        · split <;> exact .refl ..

theorem State.placeAny_within (j : Job) (die asid va : Nat) : State.Within placeParts s (s.placeAny j die asid va).1 := by
  have orElse (r : State × Xl) (acc : Acc) (h : State.Within placeParts s r.1) :
      State.Within placeParts s (if r.2 == .bad clsPermission then r.1.place j die asid va acc else r).1 := by
    split
    · exact h.trans (State.place_within ..)
    · exact h
  exact orElse _ _ (orElse _ _ (s.place_within ..))

theorem State.homePlace_within (asid va : Nat) : State.Within placeParts s (s.homePlace asid va).1 := by
  unfold State.homePlace
  split
  · exact .refl ..
  · next j _ =>
    have placed := s.place_within j 0 asid va .write
    split
    · next hs1 => rw [hs1] at placed; exact placed.trans (State.placeAny_within ..)
    · exact placed

theorem State.reportFault_within (asid va : Nat) : State.Within [.faults] s (s.reportFault asid va) := by
  unfold State.reportFault
  split
  · exact .refl ..
  · exact .of_update rfl

/-! ### Fetching -/

/-- What fetching changes: what translation does, and the faults reported. -/
def fetchParts : List Part := .faults :: placeParts

theorem State.fetchWord_within (j : Job) (die : Nat) (va : W64) : State.Within placeParts s (s.fetchWord j die va).1 := by
  have placed := s.place_within j die j.asid va.toNat .fetch
  unfold State.fetchWord
  split
  · next hs1 => rw [hs1] at placed; exact placed
  · next hs1 => rw [hs1] at placed; exact placed
  · next hs1 => rw [hs1] at placed; exact placed
  · next hs1 => rw [hs1] at placed; split_ifs <;> exact placed
  · next s1 sl key hs1 =>
    rw [hs1] at placed
    have checked : State.Within placeParts s (s1.checkSector sl key) := placed.trans (s1.checkSector_within ..).mono
    split
    · exact placed
    split
    · exact checked
    split
    · exact checked
    · exact placed

theorem State.pageChecks_within (j : Job) (page : Nat) : State.Within placeParts s (s.pageChecks j page) := by
  refine .foldl (fun s i => ?_) _ s
  have placed := s.place_within j 0 j.asid (page * 65536 + 4096 * i) .fetch
  split
  · next hs1 =>
    rw [hs1] at placed
    exact placed.trans (.foldl (fun s n => (s.checkSector_within ..).mono) _ _)
  · next hs1 => rw [hs1] at placed; exact placed

theorem State.verifyPage_within (asid page : Nat) : State.Within fetchParts s (s.verifyPage asid page) := by
  have failed (s : State) (b : List (Nat × Nat)) : State.Within fetchParts s { s with badPages := b } :=
    (s.badPages_within b).mono
  have passed (s : State) (b : List (Nat × Nat)) : State.Within fetchParts s { s with verified := b } :=
    (s.verified_within b).mono
  unfold State.verifyPage
  split
  · exact .refl ..
  · next j _ =>
    extract_lets fail s1
    split
    · exact .refl ..
    split
    · exact failed ..
    · have checked : State.Within fetchParts s s1 := (s.pageChecks_within j page).mono
      refine checked.trans ?_
      clear_value s1
      split
      · split
        · exact passed ..
        · exact failed ..
      · split
        · exact failed ..
        · exact .foldl (fun s va => (s.reportFault_within ..).mono) _ _
      · exact failed ..

theorem State.fetchVerified_within (j : Job) (die : Nat) (va : W64) : State.Within fetchParts s (s.fetchVerified j die va).1 := by
  have fetched : State.Within fetchParts s (s.fetchWord j die va).1 := (s.fetchWord_within ..).mono
  unfold State.fetchVerified
  split
  · next hs1 =>
    rw [hs1] at fetched
    exact fetched.trans ((State.verifyPage_within ..).trans (State.fetchWord_within ..).mono)
  · exact fetched

end
end Sys2Proof.Machine
end

section
/-! PROOFS. A skein alone with one strand that waits for nothing does nothing by itself (R70 to R76), and a block header in its place opens its
block (R24, R58, R67, R68). -/

-- one proof at a time: proofs elaborated side by side wait for each other's case splits, each on a stack of its own
set_option Elab.async false

namespace Sys2Proof.Machine

/-- A skein whose strand `st`, divided by nothing, is alone and waits for nothing: nothing of R70 to R76 applies to it. -/
structure Skein.Still (k : Skein) (st : Nat) (x : Strand) : Prop where
  alone : k.Alone st x
  wait : x.wait = .none
  inBlock : x.atHeader = false

theorem Skein.strand?_mem_live {k : Skein} {i : Nat} {x : Strand} (hi : i < 4) (h : k.strand? i = some x) : (i, x) ∈ k.live := by
  unfold Skein.live
  exact List.mem_filterMap.2 ⟨i, List.mem_range.2 hi, by rw [h]; rfl⟩

section
variable {s : State} {id : SkId} {k : Skein} {st : Nat} {x : Strand} (hk : s.skein? id = some k) (h : k.Still st x)
include hk h

theorem State.afterExit_of_still (i : Nat) (hi : i < 4) : s.afterExit id i = s := by
  obtain ⟨⟨hlive, -, hmask, -⟩, -, -⟩ := h
  simp only [State.afterExit, hk]
  split
  · rfl
  · next y hy =>
    have hm := Skein.strand?_mem_live hi hy
    rw [hlive, List.mem_singleton, Prod.mk.injEq] at hm
    rw [if_pos (bne_iff_ne.2 (hm.2 ▸ hmask))]

theorem State.atNamed_of_still (i : Nat) (hi : i < 4) : s.atNamed id i = s := by
  obtain ⟨⟨hlive, -, -, -⟩, -, hin⟩ := h
  simp only [State.atNamed, hk]
  split
  · rfl
  · next y hy =>
    have hm := Skein.strand?_mem_live hi hy
    rw [hlive, List.mem_singleton, Prod.mk.injEq] at hm
    simp [hm.2, hin]

theorem State.completeRejoin_of_still (n : Nat) : s.completeRejoin id n = s := by
  obtain ⟨⟨hlive, -, -, -⟩, hwait, -⟩ := h
  simp [State.completeRejoin, hk, hlive, hwait]

theorem State.completions_of_still : s.completions id = s := by
  have hrec : k.records = [] := h.alone.2.2.2
  have rejoins (ns : List Nat) : ns.foldl (fun s n => s.completeRejoin id n) s = s := by
    induction ns with
    | nil => rfl
    | cons n ns ih => rw [List.foldl_cons, State.completeRejoin_of_still hk h, ih]
  simp [State.completions, State.afterExit_of_still hk h, State.atNamed_of_still hk h, hk, hrec, rejoins]

theorem State.release_of_still : s.release id = s := by
  obtain ⟨⟨hlive, -, -, -⟩, hwait, -⟩ := h
  simp [State.release, hk, hlive, hwait]

theorem State.settle_of_still : s.settle id = s := by
  have still : State.untilStill (·.completions id) id 40 s = s := by
    simp [State.untilStill, State.completions_of_still hk h]
  unfold State.settle
  split
  · rfl
  · simp [still, State.release_of_still hk h]
end

/-- The strands of a skein after one of them has been replaced. -/
theorem Skein.live_setStrand {k : Skein} {st : Nat} {x : Strand} (h : k.strand? st = some x) (y : Strand) :
    (k.setStrand st (some y)).live = k.live.map fun p => if p.1 = st then (p.1, y) else p := by
  unfold Skein.live
  rw [List.map_filterMap]
  refine List.filterMap_congr fun i _ => ?_
  rw [Skein.strand?_setStrand]
  split
  · next hi => subst hi; simp [h]
  · next hi => cases k.strand? i <;> simp [hi]

/-- A strand that is alone stays alone when another strand, divided by nothing, takes its place. -/
theorem Skein.Alone.setStrand {k : Skein} {st : Nat} {x y : Strand} (h : k.Alone st x) (hx : k.strand? st = some x) (hn : y.nest = [])
    (hm : y.mask ≠ 0) : (k.setStrand st (some y)).Alone st y := by
  obtain ⟨hlive, -, -, hrec⟩ := h
  exact ⟨by simp [Skein.live_setStrand hx, hlive], hn, hm, hrec⟩

theorem State.prefetchLine_within (s : State) (j : Job) (die : Nat) (hdr : W64) (h : HFmt) :
    State.Within fetchParts s (s.prefetchLine j die hdr h) := by
  unfold State.prefetchLine
  split
  · exact .refl ..
  · extract_lets va line
    have fetched := s.fetchVerified_within j die line
    split
    · next hs1 => rw [hs1] at fetched; exact fetched.trans (State.reportFault_within ..).mono
    · next hs1 => rw [hs1] at fetched; exact fetched

theorem State.skein?_modSkein_of {s : State} {id : SkId} {k : Skein} (hk : s.skein? id = some k) (f : Skein → Skein) :
    (s.modSkein id f).skein? id = some (f k) := by
  rw [State.skein?_modSkein, if_pos rfl, hk, Option.map_some]

theorem State.noteHeader_skein? {s : State} {id : SkId} {k : Skein} (hk : s.skein? id = some k) (h : HFmt) :
    ∃ k', (s.noteHeader id k h).skein? id = some k' ∧ k'.strands = k.strands ∧ k'.records = k.records := by
  unfold State.noteHeader
  split
  · split
    · exact ⟨k, hk, rfl, rfl⟩
    · exact ⟨_, State.skein?_modSkein_of hk _, rfl, rfl⟩
  · exact ⟨_, State.skein?_modSkein_of hk _, rfl, rfl⟩

theorem State.noteSafe_within (s : State) (k : Skein) : State.Within [.groups] s (s.noteSafe k) := s.modGroup_within _ _

theorem Skein.alone_of_strands {k k' : Skein} {st : Nat} {x : Strand} (h : k.Alone st x) (hs : k'.strands = k.strands)
    (hr : k'.records = k.records) : k'.Alone st x := by
  simpa [Skein.Alone, Skein.live, Skein.strand?, hs, hr] using h

/-- The strand once it has passed the header `h`. -/
def Strand.opened (x : Strand) (h : HFmt) : Strand :=
  { x.retired with blk := some ⟨x.pc, h, h.len.toNat⟩, count := if h.s then 0 else x.count }

theorem Strand.atHeader_opened (x : Strand) {h : HFmt} (hl : h.len ≠ 0) : (x.opened h).atHeader = false := by
  have : h.len.toNat ≠ 0 := fun h0 => hl (BitVec.eq_of_toNat_eq h0)
  simpa [Strand.opened, Strand.atHeader] using this

/-- What a header in its place leads to. -/
def Ctx.opens (c : Ctx) (s : State) (h : HFmt) : State :=
  let s1 := (s.noteHeader c.id c.k h).prefetchLine (s.jobOf c.k) (dieOf c.id.core) c.x.pc h
  let s2 := if h.s then s1.noteSafe c.k else s1
  (({ s2 with cur := none } : State).modStrand c.id c.st (·.opened h)).settle c.id

/-- A strand that is alone stands in the block whose header it has passed. -/
theorem Ctx.opens_strand {s : State} {c : Ctx} {h : HFmt} (hc : Issuing s c) (hl : h.len ≠ 0) (alone : c.k.Alone c.st c.x) :
    ∃ k', (c.opens s h).skein? c.id = some k' ∧ k'.strand? c.st = some (c.x.opened h) := by
  obtain ⟨-, hk, hx⟩ := hc
  obtain ⟨k1, hk1, hstr, hrec⟩ := State.noteHeader_skein? hk h
  unfold Ctx.opens
  extract_lets s1 s2
  have hs1 : s1.skeins = (s.noteHeader c.id c.k h).skeins := (State.prefetchLine_within _ _ _ _ _).same .skeins (by decide)
  have hs2 : s2.skein? c.id = some k1 := by
    have : s2.skeins = s1.skeins := by unfold s2; split <;> rfl
    rw [State.skein?, this, hs1]; exact hk1
  have hx1 : k1.strand? c.st = some c.x := by rw [Skein.strand?, hstr]; exact hx
  have hmod : (({ s2 with cur := none } : State).modStrand c.id c.st (·.opened h)).skein? c.id
      = some (k1.setStrand c.st (some (c.x.opened h))) := by
    have : ({ s2 with cur := none } : State).skein? c.id = some k1 := hs2
    simp [State.modStrand, State.skein?_modSkein, this, Skein.modStrand, hx1]
  have alone1 := Skein.alone_of_strands alone hstr hrec
  have still : (k1.setStrand c.st (some (c.x.opened h))).Still c.st (c.x.opened h) :=
    ⟨alone1.setStrand hx1 alone.2.1 alone.2.2.1, rfl, c.x.atHeader_opened hl⟩
  rw [State.settle_of_still hmod still]
  exact ⟨_, hmod, by simp [Skein.strand?_setStrand]⟩

theorem exec_blockHeader (h : HFmt) (s : State) : exec (.blockHeader h) s = execBlockHeader h s := rfl

/-- Settles O20: a header in its place notes itself and opens its block, which a strand that is alone stands in, since nothing of R70 to R76
applies to it; one that breaks R68 is trapped. -/
theorem headerOpensBlock : Obligations.HeaderOpensBlock := by
  intro h s c hc fits
  have broken : (!c.x.atHeader || h.len == 0 || h.rsv != 0 || !s.revOk c.k h) = true ↔ ¬ fits := by
    simp [fits, or_iff_not_imp_left]
  rw [exec_blockHeader, execBlockHeader, withStrand_of_issuing hc]
  constructor
  · intro hfits
    refine ⟨c.opens s h, ?_, Ctx.opens_strand hc hfits.2.1⟩
    rw [if_neg (fun hb => broken.1 hb hfits)]
    rfl
  · intro hfits hperf
    have hperf' : (s.noteBadEntry c.id c.k).unperformed c.id c.st = [] := by
      rw [← hperf]; unfold State.noteBadEntry; split <;> rfl
    rw [if_pos (broken.2 hfits)]
    exact Ctx.trap_eq hperf' ..

end Sys2Proof.Machine
end

section
/-! PROOFS. A registration event that installs page tables (R127, R156, R169): a home reads a word of a discarded page that only a write may
reach, and gives the page the one free piece of its slice, which an indirection entry still names. -/

-- one proof at a time: proofs elaborated side by side wait for each other's case splits, each on a stack of its own
set_option Elab.async false

namespace Sys2Proof.Machine

/-- Job 0 with ASID 1, whose window 0 is homed at slice 0. -/
def writeOnlyJob : Job := { (default : Job) with asid := 1, homeMap := [3], status := none }

/-- The page at 0x10000 is discarded and may be written only; its slice counts piece 5 as free while an indirection entry names it; an RDQ
for a word of the page is on its way. -/
def discardedAtUsedPiece : State :=
  { State.reset with
    nextDfn := 32
    work := { State.reset.work with jobs := [writeOnlyJob] }
    slices := [(0, { Slice.empty with
      asids := [(1, 7, 1)], tlb := [((1, 2), leafPte 9 1 2 true, false)], indir := [(500, ⟨1, false, 0, 0, 5⟩)], keys := [1], freePieces := [5] })]
    net := [{ blankMsg with src := .agent 3, dst := .home 0 0, kind := .rdq, asid := 1, sva := 65536, mask := 1 }] }

def afterRdq : State :=
  discardedAtUsedPiece.deliver (.agent 3) (.home 0 0) .rdq fun s m => s.homeTake none m

/-- Three page tables have been installed for the page. -/
theorem afterRdq_nextDfn : afterRdq.nextDfn = 35 := by decide +kernel

/-- Refutes O55: the RDQ of `discardedAtUsedPiece` takes new frames for the page's tables, which its class is not to change. -/
theorem not_eventFrames : ¬ Obligations.EventFrames := by
  intro h
  obtain ⟨-, -, registration, -, -⟩ := h (.rdq (.agent 3) (.home 0 0) none) discardedAtUsedPiece afterRdq rfl
  have frame := (registration rfl).1
  have kept : afterRdq.nextDfn = discardedAtUsedPiece.nextDfn := by rw [frame]
  exact absurd (afterRdq_nextDfn.symm.trans kept) (by decide)

end Sys2Proof.Machine
end

section
/-! PROOFS. Frames of registration and of the accesses that engines make: they change DRAM, caches, homes and messages, and no work,
skein, group or operation (R117 to R133, R146 to R148). -/

-- one proof at a time: proofs elaborated side by side wait for each other's case splits, each on a stack of its own
set_option Elab.async false

namespace Sys2Proof.Machine

/-- What a home, and what an access that it serves at once, can change (R117 to R133). -/
def homeParts : List Part := [.caches, .homeWords, .homePend, .net, .soft, .freeCtr] ++ placeParts

/-! ### Updates of one part -/

section
variable (s : State)

theorem State.caches_within (x : List (CKey × CWord)) : State.Within [.caches] s { s with caches := x } := .of_update rfl
theorem State.net_within (x : List Msg) : State.Within [.net] s { s with net := x } := .of_update rfl
theorem State.homePend_within (x : List HomePend) : State.Within [.homePend] s { s with homePend := x } := .of_update rfl
theorem State.homeWords_within (x : List (HKey × WSt)) : State.Within [.homeWords] s { s with homeWords := x } := .of_update rfl
theorem State.soft_within (x : List SoftPlace) : State.Within [.soft] s { s with soft := x } := .of_update rfl
theorem State.freeCtr_within (x : Nat) : State.Within [.freeCtr] s { s with freeCtr := x } := .of_update rfl
theorem State.memops_within (x : List MemOp) : State.Within [.memops] s { s with memops := x } := .of_update rfl
theorem State.scratch_within (x : List (Nat × Byte)) : State.Within [.scratch] s { s with scratch := x } := .of_update rfl
theorem State.ops_within (x : List EngOp) : State.Within [.ops] s { s with ops := x } := .of_update rfl
theorem State.nextName_within (x : Nat) : State.Within [.nextName] s { s with nextName := x } := .of_update rfl

theorem State.post_within (m : Msg) : State.Within [.net] s (s.post m) := s.net_within _
theorem State.setCword_within (agent asid wa : Nat) (w : CWord) : State.Within [.caches] s (s.setCword agent asid wa w) := s.caches_within _
theorem State.dropCword_within (agent asid wa : Nat) : State.Within [.caches] s (s.dropCword agent asid wa) := s.caches_within _
theorem State.setHword_within (asid wa : Nat) (w : WSt) : State.Within [.homeWords] s (s.setHword asid wa w) := s.homeWords_within _
theorem State.cleanWords_within (asid : Nat) (ws : List Nat) : State.Within [.soft] s (s.cleanWords asid ws) := s.soft_within _
theorem State.modOp_within (op : Nat) (f : EngOp → EngOp) : State.Within [.ops] s (s.modOp op f) := s.ops_within _
end

/-! ### The home -/

section
variable (s : State)

theorem State.putWord_within (slice k : Nat) (x : W32) (mask : BitVec 4) : State.Within [.mem] s (s.putWord slice k x mask) := by
  unfold State.putWord
  extract_lets s1
  split
  · exact (s.mem_within _).trans (State.mem_within _ _)
  · exact s.mem_within _

theorem State.reportLoss_within (job sl k : Nat) : State.Within [.host] s (s.reportLoss job sl k) := State.health_within ..

theorem State.homeRead_within (asid wa : Nat) : State.Within placeParts s (s.homeRead asid wa).1 := by
  unfold State.homeRead
  split
  · exact .refl ..
  split
  · exact .refl ..
  split
  · exact .refl ..
  · next j _ =>
    have placed := s.placeAny_within j 0 asid (4 * wa)
    split
    · next s1 sl k hs1 =>
      split
      · exact (placed.of_eq hs1).trans (s1.checkSector_within sl k).mono
      · exact .refl ..
    · next s1 x _ hs1 => exact placed.of_eq hs1

theorem State.mergeHome_within (asid wa : Nat) (x : W32) (m : BitVec 4) (whole : Bool) :
    State.Within placeParts s (s.mergeHome asid wa x m whole) := by
  have placed := s.homePlace_within asid (4 * wa)
  unfold State.mergeHome
  split
  · next s1 sl k hs1 =>
    refine (placed.of_eq hs1).trans ?_
    split
    · exact (s1.reportLoss_within ..).mono
    · extract_lets fresh s2
      have cleared : State.Within placeParts s1 s2 := by
        unfold s2
        split
        · exact (s1.modSlice_within ..).mono
        · exact .refl ..
      exact cleared.trans (s2.putWord_within ..).mono
  · next s1 _ _ hs1 => exact placed.of_eq hs1

theorem State.logRace_within (asid va a b : Nat) (k : RaceKind) : State.Within [.slices] s (s.logRace asid va a b k) := by
  unfold State.logRace
  split
  · exact .refl ..
  · exact s.modSlice_within ..

theorem State.comeHome_within (asid wa : Nat) : State.Within [.homeWords] s (s.comeHome asid wa) := by
  unfold State.comeHome
  split
  · split
    · exact s.homeWords_within _
    · exact s.setHword_within ..
  · exact s.setHword_within ..

theorem State.takeSent_within (a asid wa : Nat) (flying : Bool) : State.Within homeParts s (s.takeSent a asid wa flying).1 := by
  unfold State.takeSent
  simp only
  refine State.Within.trans ?_ (.foldl (fun (s : State) (y : W32 × BitVec 4) => (s.mergeHome_within asid wa y.1 y.2 false).mono) _ _)
  exact State.Within.mono (P := [.homePend, .net]) (.of_update rfl)

theorem State.regApply_within (m : Msg) (w : Nat) : State.Within homeParts s (s.regApply m w) := by
  unfold State.regApply
  extract_lets wa me s1
  have dropped : State.Within homeParts s s1 := (s.caches_within _).mono
  have read : State.Within homeParts s1 (s1.homeRead m.asid wa).1 := (s1.homeRead_within ..).mono
  refine dropped.trans ?_
  have acked (u : State) (h : State.Within homeParts s1 u) (v : WSt) (q : Msg) : State.Within homeParts s1 ((u.setHword m.asid wa v).post q) :=
    h.trans ((u.setHword_within ..).mono.trans (State.post_within _ q).mono)
  split
  next _ u bytes hu =>
  refine acked u ?_ _ _
  split at hu
  · split at hu
    · next s2 x hs2 => cases hu; exact read.of_eq hs2
    · next s2 hs2 =>
      cases hu
      exact (read.of_eq hs2).trans ((s2.freeCtr_within _).mono.trans (State.soft_within _ _).mono)
  · cases hu; exact .refl ..

theorem State.sendRace_within (home : Node) (m : Msg) (wa other : Nat) (k : RaceKind) : State.Within [.net] s (s.sendRace home m wa other k) :=
  s.post_within _
theorem State.sendRecall_within (home : Node) (asid wa owner : Nat) : State.Within [.net] s (s.sendRecall home asid wa owner) := s.post_within _

theorem State.regWord_within (m : Msg) (w : Nat) : State.Within homeParts s (s.regWord m w).1 := by
  unfold State.regWord
  extract_lets wa
  split
  · next a unpub _ =>
    split
    · exact s.regApply_within ..
    · extract_lets s1 m'
      have raced : State.Within homeParts s s1 := by
        unfold s1
        split
        · exact (s.sendRace_within ..).mono
        · exact .refl ..
      have sent := s1.takeSent_within a m.asid wa false
      split
      · next s2 hs2 => exact raced.trans ((sent.of_eq hs2).trans (s2.regApply_within ..))
      · next s2 hs2 => exact raced.trans ((sent.of_eq hs2).trans (s2.sendRecall_within ..).mono)
  · exact s.regApply_within ..

theorem State.rdqHere_within (m : Msg) (w : Nat) : State.Within homeParts s (s.rdqHere m w).1 := by
  unfold State.rdqHere
  extract_lets wa
  have read : State.Within homeParts s (s.homeRead m.asid wa).1 := (s.homeRead_within ..).mono
  split
  · next s1 x hs1 =>
    refine (read.of_eq hs1).trans ?_
    dsimp only
    split
    · exact (s1.setHword_within ..).mono
    · exact .refl ..
  · next s1 hs1 =>
    refine (read.of_eq hs1).trans ?_
    split
    · exact (s1.freeCtr_within _).mono
    · exact .refl ..

theorem State.rdqWord_within (m : Msg) (w : Nat) : State.Within homeParts s (s.rdqWord m w).1 := by
  have posted (u : State) (q : Msg) : State.Within homeParts u (u.post q) := (u.post_within q).mono
  unfold State.rdqWord
  dsimp only
  split
  · split
    · exact s.rdqHere_within ..
    split
    · exact posted ..
    split
    · exact State.Within.trans (P := homeParts) (s.sendRace_within ..).mono (posted ..)
    · exact .refl ..
  · exact s.rdqHere_within ..

theorem State.sendData_within (src dst : Node) (m : Msg) (ws : List (Nat × W32 × BitVec 4)) (refused : W32) :
    State.Within [.net] s (s.sendData src dst m ws refused) := by
  unfold State.sendData
  split
  · exact .refl ..
  · exact s.post_within _

theorem State.sealWord_within (m : Msg) (w : Nat) : State.Within [.homeWords] s (s.sealWord m w) := by
  unfold State.sealWord
  extract_lets me
  split
  · exact s.setHword_within ..
  · exact .refl ..

theorem State.sealAck_within (m : Msg) (mask : W32) : State.Within [.net] s (s.sealAck m mask) := by
  unfold State.sealAck
  split
  · exact .refl ..
  · exact s.post_within _

theorem State.wbWord_within (m : Msg) (whole : Bool) (w : Nat) : State.Within homeParts s (s.wbWord m whole w) := by
  unfold State.wbWord
  split
  · exact .refl ..
  · have merged := State.Within.foldl (P := homeParts) (f := fun (s : State) (y : Nat × W32 × BitVec 4) =>
      s.mergeHome m.asid (m.wa w) y.2.1 y.2.2 whole) (fun s y => (s.mergeHome_within ..).mono) (m.words.filter (·.1 == w)) s
    exact merged.trans (State.comeHome_within ..).mono

theorem State.turn_within (m : Msg) (w : Nat) : State.Within homeParts s (s.turn m w).1 := by
  unfold State.turn
  split
  · exact s.regWord_within m w
  · exact (s.rdqWord_within m w).trans (State.sendData_within ..).mono
  · exact (s.sealWord_within m w).mono.trans (State.sealAck_within ..).mono
  · exact s.wbWord_within m false w
  · exact .refl ..

theorem State.homeResume_within (asid wa n : Nat) : State.Within homeParts s (s.homeResume asid wa n) := by
  induction n generalizing s with
  | zero => exact .refl ..
  | succ n ih =>
    unfold State.homeResume
    split
    · exact .refl ..
    · next m _ =>
      have turned := (s.homePend_within (s.homePend.erase (.request m))).mono.trans
        (State.turn_within { s with homePend := s.homePend.erase (.request m) } m (wa % 32))
      split
      · next s1 m' hs1 => exact (turned.of_eq hs1).trans (s1.homePend_within _).mono
      · next s1 hs1 => exact (turned.of_eq hs1).trans (ih s1)

theorem State.homeApply_within (m : Msg) : State.Within homeParts s (s.homeApply m) := by
  unfold State.homeApply
  extract_lets queue
  have queued (u : State) (q : Msg) : State.Within homeParts u (queue u q) := (u.homePend_within _).mono
  split
  · refine State.Within.trans (.foldl_fst (fun r w => ?_) _ (s, [], 0)) (State.sendData_within ..).mono
    obtain ⟨u, bs, no⟩ := r
    dsimp only
    split
    · exact queued ..
    · exact u.rdqWord_within m w
  · refine .foldl (fun s w => ?_) _ s
    split
    · exact queued ..
    · have word := s.regWord_within m w
      split
      · next s1 m' hs1 => exact (word.of_eq hs1).trans (queued ..)
      · next s1 hs1 => exact word.of_eq hs1

theorem State.evictDone_within : State.Within homeParts s s.evictDone := by
  unfold State.evictDone
  refine .foldl (fun s p => ?_) _ s
  split
  · split
    · exact .refl ..
    · exact State.Within.mono (P := [.homeWords, .homePend]) (.of_update rfl)
  · exact .refl ..

theorem State.evictLine_within (home : Node) (asid line : Nat) : State.Within homeParts s (s.evictLine home asid line) := by
  unfold State.evictLine
  extract_lets owned s1
  have recalled : State.Within homeParts s s1 := by
    refine .foldl (fun s p => ?_) _ s
    obtain ⟨k, w⟩ := p
    cases w
    · exact .refl ..
    · exact (s.sendRecall_within ..).mono
    · exact (s.sendRecall_within ..).mono
  exact recalled.trans ((s1.homePend_within _).mono.trans (State.evictDone_within _))

theorem State.touchLine_within (asid wa : Nat) : State.Within homeParts s (s.touchLine asid wa) := by
  unfold State.touchLine
  extract_lets n l set s1 free
  have touched : State.Within homeParts s s1 := (s.modSlice_within ..).mono
  split
  · exact touched
  · split
    · exact touched.trans ((s1.modSlice_within ..).mono.trans (State.evictLine_within ..))
    · exact touched

theorem State.victimLine_within (home : Node) (v : Option Nat) : State.Within homeParts s (s.victimLine home v) := by
  unfold State.victimLine
  split
  · exact .refl ..
  · exact s.evictLine_within ..

theorem State.homeTake_within (victim : Option Nat) (m : Msg) : State.Within homeParts s (s.homeTake victim m) :=
  (s.victimLine_within ..).trans ((State.touchLine_within ..).trans (State.homeApply_within ..))

theorem State.wbArrive_within (m : Msg) : State.Within homeParts s (s.wbArrive m) := by
  unfold State.wbArrive
  extract_lets whole
  refine (State.Within.foldl (fun (s : State) w => ?_) _ s).trans (State.evictDone_within _)
  split
  · exact (s.homePend_within _).mono
  split
  · exact (s.wbWord_within ..).trans (State.homeResume_within ..)
  · exact .refl ..

theorem State.sealArrive_within (m : Msg) : State.Within homeParts s (s.sealArrive m) := by
  unfold State.sealArrive
  extract_lets late now s1
  have queued : State.Within homeParts s s1 := (s.homePend_within _).mono
  exact queued.trans ((State.Within.foldl (fun (s : State) w => (s.sealWord_within m w).mono) now s1).trans (State.sealAck_within ..).mono)

theorem State.goneArrive_within (m : Msg) : State.Within homeParts s (s.goneArrive m) := by
  refine State.Within.trans (P := homeParts) (.foldl_fst (β := RdqPart) (fun r w => ?_) _ (s, ⟨[], 0⟩)) (State.sendData_within ..).mono
  exact r.1.rdqHere_within { m with rmask := m.mask } w

theorem State.atHome_within (m : Msg) : State.Within homeParts s (s.atHome m) := by
  unfold State.atHome
  split
  · exact s.homeTake_within ..
  · exact s.homeTake_within ..
  · exact s.sealArrive_within m
  · exact s.wbArrive_within m
  · exact s.goneArrive_within m
  · exact .refl ..
end

end Sys2Proof.Machine
end

section
/-! PROOFS. Frames of recalls, of a page's recall, and of maps (R128, R132, R154 to R157, R253). -/

-- one proof at a time: proofs elaborated side by side wait for each other's case splits, each on a stack of its own
set_option Elab.async false

namespace Sys2Proof.Machine

/-! ### Recalls -/

section
variable (s : State)

theorem State.surrenderNow_within (a asid wa : Nat) : State.Within [.caches, .net] s (s.surrenderNow a asid wa) := by
  unfold State.surrenderNow
  split
  · exact .refl ..
  split
  · exact (s.setCword_within ..).mono
  split
  · exact .refl ..
  split
  · exact State.Within.trans (P := [.caches, .net]) (s.net_within _).mono (State.setCword_within _ ..).mono
  · exact (s.setCword_within ..).mono

theorem State.dropRecall_within (asid wa : Nat) : State.Within [.net] s (s.dropRecall asid wa) := s.net_within _
theorem State.dropGiven_within (asid wa agent : Nat) : State.Within [.caches] s (s.dropGiven asid wa agent) := s.caches_within _

theorem State.recallNow_within (asid wa : Nat) : State.Within homeParts s (s.recallNow asid wa) := by
  have home (u : State) : State.Within homeParts u ((u.dropRecall asid wa).comeHome asid wa) :=
    State.Within.trans (P := homeParts) (u.dropRecall_within asid wa).mono (State.comeHome_within _ asid wa).mono
  unfold State.recallNow
  split
  · exact (s.comeHome_within ..).mono
  · next a _ _ =>
    have sent := s.takeSent_within a asid wa true
    split
    · next u hu => exact (sent.of_eq hu).trans (home u)
    · next u hu =>
      refine (sent.of_eq hu).trans (State.Within.trans ?_ (home _))
      split
      · exact State.Within.trans (P := homeParts) (u.mergeHome_within ..).mono (State.surrenderNow_within ..).mono
      · exact .refl ..

theorem State.drain_within (asid wa n : Nat) : State.Within homeParts s (s.drain asid wa n) := by
  induction n generalizing s with
  | zero => exact .refl ..
  | succ n ih =>
    unfold State.drain
    split
    · exact .refl ..
    · next m _ =>
      have taken : State.Within homeParts s { s with homePend := s.homePend.erase (.request m) } := (s.homePend_within _).mono
      have turned (u : State) (q : Msg) (w : Nat) : State.Within homeParts u ((u.turn q w).1.drain asid wa n) := (u.turn_within q w).trans (ih _)
      have raced (u : State) (b : Bool) (a : Nat) : State.Within homeParts u (if b then u.sendRace m.dst m wa a .register else u) := by
        split
        · exact (u.sendRace_within ..).mono
        · exact .refl ..
      dsimp only
      split
      · split
        · exact taken.trans (turned ..)
        · exact taken.trans ((raced ..).trans ((State.recallNow_within ..).trans (turned ..)))
      · exact taken.trans (turned ..)

theorem State.drained_within (asid wa : Nat) : State.Within homeParts s (s.drained asid wa) := s.drain_within ..
theorem State.reach_within (asid wa : Nat) : State.Within homeParts s (s.reach asid wa) :=
  (s.touchLine_within ..).trans (State.drained_within ..)

theorem State.landRequests_within (asid page n : Nat) : State.Within homeParts s (State.landRequests asid page n s) := by
  induction n generalizing s with
  | zero => exact .refl ..
  | succ n ih =>
    unfold State.landRequests
    split
    · exact .refl ..
    · split
      · exact .refl ..
      · exact State.Within.trans (P := homeParts) (s.net_within _).mono ((State.atHome_within ..).trans (ih _))

/-- What the recall of a page changes: what its words' homes do, and what loads in flight install. -/
def recallParts : List Part := .memops :: homeParts

theorem State.forgotPage_within (h : List (HKey × WSt)) (c : List (CKey × CWord)) (x : List (Nat × Slice)) (m : List MemOp) :
    State.Within [.homeWords, .caches, .slices, .memops] s { s with homeWords := h, caches := c, slices := x, memops := m } := .of_update rfl
theorem State.recallPage_within (asid page : Nat) : State.Within recallParts s (s.recallPage asid page) := by
  unfold State.recallPage
  extract_lets s1 here ws s2
  have landed : State.Within recallParts s s1 := (s.landRequests_within ..).mono
  have recalled : State.Within recallParts s1 s2 := .foldl (fun s w => ((s.drained_within ..).trans (State.recallNow_within ..)).mono) ws s1
  exact landed.trans (recalled.trans (s2.forgotPage_within ..).mono)

/-! ### Maps -/

theorem State.cleanPage_within (asid va : Nat) : State.Within [.soft] s (s.cleanPage asid va) := s.soft_within _
theorem State.bumpGen_within (asid page : Nat) : State.Within [.host] s (s.bumpGen asid page) := s.modHost_within _

theorem State.freePieces_within (j : Job) (die va dfn n : Nat) : State.Within [.slices] s (s.freePieces j die va dfn n) := by
  induction n with
  | zero => exact .refl ..
  | succ n ih =>
    unfold State.freePieces
    dsimp only
    split
    · exact ih.trans (State.modSlice_within ..)
    · exact ih

theorem State.unmapPage_within (j : Job) (die va : Nat) : State.Within (.soft :: placeParts) s (s.unmapPage j die va) := by
  unfold State.unmapPage
  split
  · exact State.Within.trans (P := .soft :: placeParts) (s.freePieces_within ..).mono
      ((State.writeLeaf_within ..).mono.trans (State.cleanPage_within ..).mono)
  · exact .refl ..

theorem State.setPieces_within (j : Job) (die va dfn : Nat) (f : Nat → Indir → Indir) (n : Nat) :
    State.Within [.slices] s (s.setPieces j die va dfn f n) := by
  induction n with
  | zero => exact .refl ..
  | succ n ih =>
    unfold State.setPieces
    dsimp only
    split
    · exact ih.trans (State.modSlice_within ..)
    · exact ih

theorem State.installPage_within (j : Job) (die va perm : Nat) (f : Nat → Indir) : State.Within placeParts s (s.installPage j die va perm f) := by
  have named (n : Nat) : State.Within placeParts s { s with nextDfn := n } := (s.nextDfn_within n).mono
  exact (named _).trans ((State.setPieces_within ..).mono.trans (State.writeLeaf_within ..))

theorem State.pageEntries_within (j : Job) (page src arg : Nat) : State.Within [.slices] s (s.pageEntries j page src arg).1 := by
  refine .foldl_fst (fun r k => ?_) _ (s, [])
  obtain ⟨u, es⟩ := r
  dsimp only
  split
  · exact .refl ..
  · split
    · split
      · exact State.modSlice_within ..
      · exact .refl ..
    · exact .refl ..

theorem State.mapOne_within (j : Job) (die page perm src arg : Nat) : State.Within placeParts s (s.mapOne j die page perm src arg) := by
  have given := s.pageEntries_within j page src arg
  unfold State.mapOne
  split
  next s1 es hs1 => exact (given.of_eq hs1).mono.trans (s1.installPage_within ..)

theorem State.dropSpace_within (j : Job) : State.Within [.slices] s (s.dropSpace j) := by
  unfold State.dropSpace
  extract_lets s1
  have freed : State.Within [.slices] s s1 := by
    refine .foldl (fun s m => .foldl (fun s i => ?_) _ s) _ s
    dsimp only
    split
    · exact s.freePieces_within ..
    · exact .refl ..
  refine freed.trans ?_
  split
  · exact .of_update rfl
  · exact .refl ..

theorem State.newSpace_within {s s' : State} {asid key : Nat} (h : s.newSpace asid key = some s') :
    State.Within [.slices, .mem, .nextDfn] s s' := by
  simp only [State.newSpace, Option.map_eq_some_iff] at h
  obtain ⟨⟨s1, root⟩, hs1, rfl⟩ := h
  exact (State.newTable_within hs1).trans (.foldl (fun s n => (s.modSlice_within ..).mono) _ _)

end
end Sys2Proof.Machine
end

section
/-! PROOFS. Units of work that end: what a lookup finds after one field of a record has changed, and what an end or a cancel can change
(R25 to R32). -/

-- one proof at a time: proofs elaborated side by side wait for each other's case splits, each on a stack of its own
set_option Elab.async false

namespace Sys2Proof.Machine

/-! ### Lookups -/

theorem find?_map_update {α : Type} (p : α → Bool) (f : α → α) (hf : ∀ x, p x = true → p (f x) = true) (l : List α) :
    (l.map fun x => if p x then f x else x).find? p = (l.find? p).map f := by
  induction l with
  | nil => rfl
  | cons x l ih =>
    cases hx : p x
    · simp [hx, ih]
    · simp [hx, hf x hx]
theorem find?_map_keep {α : Type} (p : α → Bool) (f : α → α) (hf : ∀ x, p (f x) = p x) (l : List α) :
    (l.map f).find? p = (l.find? p).map f := by
  induction l with
  | nil => rfl
  | cons x l ih =>
    cases hx : p x
    · simp [hf, hx, ih]
    · simp [hf, hx]

section
variable (s : State)

theorem State.job?_modJob (i : Nat) (f : Job → Job) (hf : ∀ x, (f x).id = x.id) : (s.modJob i f).job? i = (s.job? i).map f :=
  find?_map_update _ f (fun x hx => by simpa [hf] using hx) _
theorem State.phase?_modPhase (j p : Nat) (f : Phase → Phase) (hf : ∀ x, (f x).job = x.job ∧ (f x).id = x.id) :
    (s.modPhase j p f).phase? j p = (s.phase? j p).map f :=
  find?_map_update _ f (fun x hx => by simpa [hf] using hx) _
theorem State.graph?_modGraph (j g : Nat) (f : Graph → Graph) (hf : ∀ x, (f x).job = x.job ∧ (f x).id = x.id) :
    (s.modGraph j g f).graph? j g = (s.graph? j g).map f :=
  find?_map_update _ f (fun x hx => by simpa [hf] using hx) _
theorem State.launch?_modLaunch (lid : LaunchId) (f : Launch → Launch) (hf : ∀ x, (f x).lid = x.lid) :
    (s.modLaunch lid f).launch? lid = (s.launch? lid).map f :=
  find?_map_update _ f (fun x hx => by simpa [hf] using hx) _

theorem State.id_of_job? {s : State} {i : Nat} {j : Job} (h : s.job? i = some j) : j.id = i := by
  simpa using List.find?_some h
theorem State.lid_of_launch? {s : State} {i : LaunchId} {l : Launch} (h : s.launch? i = some l) : l.lid = i := by
  simpa using List.find?_some h
theorem State.ids_of_graph? {s : State} {i g : Nat} {x : Graph} (h : s.graph? i g = some x) : x.job = i ∧ x.id = g := by
  simpa using List.find?_some h
theorem State.ids_of_phase? {s : State} {i p : Nat} {x : Phase} (h : s.phase? i p = some x) : x.job = i ∧ x.id = p := by
  simpa using List.find?_some h
end

section
variable {P : List Part} {s t : State} (h : State.Within P s t)
include h
theorem State.Within.job?_eq (i : Nat) (hw : Part.work ∉ P := by decide) : t.job? i = s.job? i := by
  rw [State.job?, State.job?, h.same .work hw]
theorem State.Within.phase?_eq (j p : Nat) (hw : Part.work ∉ P := by decide) : t.phase? j p = s.phase? j p := by
  rw [State.phase?, State.phase?, h.same .work hw]
theorem State.Within.graph?_eq (j g : Nat) (hw : Part.work ∉ P := by decide) : t.graph? j g = s.graph? j g := by
  rw [State.graph?, State.graph?, h.same .work hw]
theorem State.Within.launch?_eq (lid : LaunchId) (hw : Part.work ∉ P := by decide) : t.launch? lid = s.launch? lid := by
  rw [State.launch?, State.launch?, h.same .work hw]
theorem State.Within.group?_eq (g : Nat) (hg : Part.groups ∉ P := by decide) : t.group? g = s.group? g := by
  rw [State.group?, State.group?, h.same .groups hg]
theorem State.Within.skein?_eq (id : SkId) (hk : Part.skeins ∉ P := by decide) : t.skein? id = s.skein? id := by
  rw [State.skein?, State.skein?, h.same .skeins hk]
theorem State.Within.op?_eq (o : Nat) (ho : Part.ops ∉ P := by decide) : t.op? o = s.op? o := by
  rw [State.op?, State.op?, h.same .ops ho]
end

/-! ### Pairs of lists -/

theorem forall₂_trans {α : Type} {R S T : α → α → Prop} (h : ∀ x y z, R x y → S y z → T x z) {l m n : List α}
    (hlm : List.Forall₂ R l m) (hmn : List.Forall₂ S m n) : List.Forall₂ T l n := by
  induction hlm generalizing n with
  | nil => cases hmn; exact .nil
  | cons hxy _ ih =>
    cases hmn with
    | cons hyz hmn => exact .cons (h _ _ _ hxy hyz) (ih hmn)
theorem forall₂_map_of {α : Type} {R : α → α → Prop} {f : α → α} {l : List α} (h : ∀ x ∈ l, R x (f x)) : List.Forall₂ R l (l.map f) :=
  List.forall₂_map_right_iff.2 (List.forall₂_same.2 h)
theorem exists_of_mem_forall₂ {α : Type} {R : α → α → Prop} {l m : List α} (h : List.Forall₂ R l m) {y : α} (hy : y ∈ m) : ∃ x ∈ l, R x y := by
  induction h with
  | nil => cases hy
  | cons hxy _ ih =>
    rcases List.mem_cons.1 hy with rfl | hy
    · exact ⟨_, by simp, hxy⟩
    · obtain ⟨x, hx, hr⟩ := ih hy
      exact ⟨x, by simp [hx], hr⟩
theorem find?_of_forall₂ {α : Type} {R : α → α → Prop} {p : α → Bool} (hp : ∀ x y, R x y → p y = p x) {l m : List α}
    (h : List.Forall₂ R l m) {x : α} (hx : l.find? p = some x) : ∃ y, m.find? p = some y ∧ R x y := by
  induction h with
  | nil => cases hx
  | @cons a b l m hxy _ ih =>
    rw [List.find?_cons] at hx ⊢
    rw [hp a b hxy]
    cases ha : p a
    · rw [ha] at hx
      exact ih hx
    · rw [ha] at hx
      cases hx
      exact ⟨b, rfl, hxy⟩

/-! ### Ends -/

/-- What stays of a job while units end: it keeps its name, and a close or a cancel is not taken back. -/
structure Job.Ends (x y : Job) : Prop where
  id : y.id = x.id
  closed : x.closed = true → y.closed = true
  cancelled : x.cancelled = true → y.cancelled = true
structure Phase.Ends (x y : Phase) : Prop where
  job : y.job = x.job
  id : y.id = x.id
  closed : x.closed = true → y.closed = true
  cancelled : x.cancelled = true → y.cancelled = true
structure Graph.Ends (x y : Graph) : Prop where
  job : y.job = x.job
  id : y.id = x.id
  closed : x.closed = true → y.closed = true
  cancelled : x.cancelled = true → y.cancelled = true
/-- What stays of a launch while units end. How it ends is settled once; `ls` are the launches before. -/
structure Launch.Ends (ls : List Launch) (x y : Launch) : Prop where
  lid : y.lid = x.lid
  lrec : y.lrec = x.lrec
  ending : x.ending.isSome = true → y.ending.isSome = true
  kept : (y.ending = x.ending ∧ y.cause = x.cause ∧ y.failVa = x.failVa) ∨ ∃ z ∈ ls, z.lid = x.lid ∧ z.ending = none

theorem Job.Ends.refl (x : Job) : x.Ends x := ⟨rfl, fun h => h, fun h => h⟩
theorem Phase.Ends.refl (x : Phase) : x.Ends x := ⟨rfl, rfl, fun h => h, fun h => h⟩
theorem Graph.Ends.refl (x : Graph) : x.Ends x := ⟨rfl, rfl, fun h => h, fun h => h⟩
theorem Launch.Ends.refl (ls : List Launch) (x : Launch) : x.Ends ls x := ⟨rfl, rfl, id, .inl ⟨rfl, rfl, rfl⟩⟩

/-- `t` is `s` but for the parts of `P`, and if work has changed then units of work have ended or been cancelled; no engine operation is
new. -/
structure State.Unwinds (P : List Part) (s t : State) : Prop where
  within : State.Within P s t
  jobs : List.Forall₂ Job.Ends s.work.jobs t.work.jobs
  phases : List.Forall₂ Phase.Ends s.work.phases t.work.phases
  graphs : List.Forall₂ Graph.Ends s.work.graphs t.work.graphs
  launches : List.Forall₂ (Launch.Ends s.work.launches) s.work.launches t.work.launches
  ops : t.ops.map (·.id) ⊆ s.ops.map (·.id)

section
variable {P Q : List Part} {s t u : State}

theorem State.Unwinds.of_fields (h : State.Within P s t) (hj : t.work.jobs = s.work.jobs := by rfl)
    (hp : t.work.phases = s.work.phases := by rfl) (hg : t.work.graphs = s.work.graphs := by rfl)
    (hl : t.work.launches = s.work.launches := by rfl) (ho : t.ops.map (·.id) ⊆ s.ops.map (·.id) := by exact List.Subset.refl _) :
    State.Unwinds P s t where
  within := h
  jobs := hj ▸ List.forall₂_same.2 fun x _ => .refl x
  phases := hp ▸ List.forall₂_same.2 fun x _ => .refl x
  graphs := hg ▸ List.forall₂_same.2 fun x _ => .refl x
  launches := hl ▸ List.forall₂_same.2 fun x _ => .refl _ x
  ops := ho
theorem State.Unwinds.of_within (h : State.Within P s t) (hPQ : P ⊆ Q := by decide) (hw : Part.work ∉ P := by decide)
    (ho : Part.ops ∉ P := by decide) : State.Unwinds Q s t := by
  have work : t.work = s.work := h.same .work hw
  have ops : t.ops = s.ops := h.same .ops ho
  exact .of_fields (h.mono hPQ) (by rw [work]) (by rw [work]) (by rw [work]) (by rw [work]) (by rw [ops]; exact List.Subset.refl _)
theorem State.Unwinds.refl (P : List Part) (s : State) : State.Unwinds P s s := .of_fields (.refl P s)
theorem State.Unwinds.mono (h : State.Unwinds P s t) (hPQ : P ⊆ Q := by decide) : State.Unwinds Q s t :=
  ⟨h.within.mono hPQ, h.jobs, h.phases, h.graphs, h.launches, h.ops⟩

theorem Launch.Ends.trans {ls ms : List Launch} (hlm : List.Forall₂ (Launch.Ends ls) ls ms) {x y z : Launch} (h : x.Ends ls y)
    (h' : y.Ends ms z) : x.Ends ls z where
  lid := h'.lid.trans h.lid
  lrec := h'.lrec.trans h.lrec
  ending := h'.ending ∘ h.ending
  kept := by
    rcases h.kept with ⟨he, hc, hv⟩ | hw
    · rcases h'.kept with ⟨he', hc', hv'⟩ | ⟨w, hw, hlid, hnone⟩
      · exact .inl ⟨he'.trans he, hc'.trans hc, hv'.trans hv⟩
      · obtain ⟨v, hv, hvw⟩ := exists_of_mem_forall₂ hlm hw
        refine .inr ⟨v, hv, hvw.lid.symm.trans (hlid.trans h.lid), ?_⟩
        by_contra hne
        have some := hvw.ending (Option.isSome_iff_ne_none.2 hne)
        rw [hnone] at some
        cases some
    · exact .inr hw

theorem State.Unwinds.trans (h : State.Unwinds P s t) (h' : State.Unwinds P t u) : State.Unwinds P s u where
  within := h.within.trans h'.within
  jobs := forall₂_trans (fun _ _ _ a b => ⟨b.id.trans a.id, b.closed ∘ a.closed, b.cancelled ∘ a.cancelled⟩) h.jobs h'.jobs
  phases := forall₂_trans (fun _ _ _ a b => ⟨b.job.trans a.job, b.id.trans a.id, b.closed ∘ a.closed, b.cancelled ∘ a.cancelled⟩)
    h.phases h'.phases
  graphs := forall₂_trans (fun _ _ _ a b => ⟨b.job.trans a.job, b.id.trans a.id, b.closed ∘ a.closed, b.cancelled ∘ a.cancelled⟩)
    h.graphs h'.graphs
  launches := forall₂_trans (fun _ _ _ a b => a.trans h.launches b) h.launches h'.launches
  ops := List.Subset.trans h'.ops h.ops
theorem State.Unwinds.foldl {α : Type} {f : State → α → State} (h : ∀ (s : State) (a : α), State.Unwinds P s (f s a)) (as : List α) (s : State) :
    State.Unwinds P s (as.foldl f s) := by
  induction as generalizing s with
  | nil => exact .refl P s
  | cons a as ih => exact (h s a).trans (ih _)

theorem State.Unwinds.job? (h : State.Unwinds P s t) {i : Nat} {x : Job} (hx : s.job? i = some x) : ∃ y, t.job? i = some y ∧ x.Ends y :=
  find?_of_forall₂ (fun x y h => by rw [h.id]) h.jobs hx
theorem State.Unwinds.phase? (h : State.Unwinds P s t) {i p : Nat} {x : Phase} (hx : s.phase? i p = some x) :
    ∃ y, t.phase? i p = some y ∧ x.Ends y :=
  find?_of_forall₂ (fun x y h => by rw [h.id, h.job]) h.phases hx
theorem State.Unwinds.graph? (h : State.Unwinds P s t) {i g : Nat} {x : Graph} (hx : s.graph? i g = some x) :
    ∃ y, t.graph? i g = some y ∧ x.Ends y :=
  find?_of_forall₂ (fun x y h => by rw [h.id, h.job]) h.graphs hx
theorem State.Unwinds.launch? (h : State.Unwinds P s t) {lid : LaunchId} {x : Launch} (hx : s.launch? lid = some x) :
    ∃ y, t.launch? lid = some y ∧ x.Ends s.work.launches y :=
  find?_of_forall₂ (fun x y h => by rw [h.lid]) h.launches hx

end

/-! ### Updates of one unit -/

section
variable (s : State)

theorem Job.ends_same (l : List Job) : List.Forall₂ Job.Ends l l := List.forall₂_same.2 fun x _ => .refl x
theorem Phase.ends_same (l : List Phase) : List.Forall₂ Phase.Ends l l := List.forall₂_same.2 fun x _ => .refl x
theorem Graph.ends_same (l : List Graph) : List.Forall₂ Graph.Ends l l := List.forall₂_same.2 fun x _ => .refl x
theorem Launch.ends_same (l : List Launch) : List.Forall₂ (Launch.Ends l) l l := List.forall₂_same.2 fun x _ => .refl l x

theorem State.modWork_unwinds (f : Work → Work)
    (hj : List.Forall₂ Job.Ends s.work.jobs (f s.work).jobs := by exact Job.ends_same _)
    (hp : List.Forall₂ Phase.Ends s.work.phases (f s.work).phases := by exact Phase.ends_same _)
    (hg : List.Forall₂ Graph.Ends s.work.graphs (f s.work).graphs := by exact Graph.ends_same _)
    (hl : List.Forall₂ (Launch.Ends s.work.launches) s.work.launches (f s.work).launches := by exact Launch.ends_same _) :
    State.Unwinds [.work] s (s.modWork f) :=
  ⟨s.modWork_within f, hj, hp, hg, hl, List.Subset.refl _⟩
theorem State.modJob_unwinds (i : Nat) (f : Job → Job) (hf : ∀ x : Job, x.Ends (f x)) : State.Unwinds [.work] s (s.modJob i f) :=
  s.modWork_unwinds _ (hj := forall₂_map_of fun x _ => by split_ifs; exacts [hf x, .refl x])
theorem State.modPhase_unwinds (j p : Nat) (f : Phase → Phase) (hf : ∀ x : Phase, x.Ends (f x)) :
    State.Unwinds [.work] s (s.modPhase j p f) :=
  s.modWork_unwinds _ (hp := forall₂_map_of fun x _ => by split_ifs; exacts [hf x, .refl x])
theorem State.modGraph_unwinds (j g : Nat) (f : Graph → Graph) (hf : ∀ x : Graph, x.Ends (f x)) :
    State.Unwinds [.work] s (s.modGraph j g f) :=
  s.modWork_unwinds _ (hg := forall₂_map_of fun x _ => by split_ifs; exacts [hf x, .refl x])
theorem State.modLaunch_unwinds (lid : LaunchId) (f : Launch → Launch) (hf : ∀ x ∈ s.work.launches, x.lid = lid → x.Ends s.work.launches (f x)) :
    State.Unwinds [.work] s (s.modLaunch lid f) :=
  s.modWork_unwinds _ (hl := forall₂_map_of fun x hx => by
    split_ifs with h
    exacts [hf x hx (by simpa using h), .refl _ x])

/-! ### Ends of jobs, phases, graphs and launches -/

/-- What an end of units of work changes (R26 to R32, R415). -/
def endParts : List Part := [.work, .host, .slices, .caches, .homeWords, .verified, .badPages, .soft, .dies]

theorem State.statusRec_within (kind : Nat) (tag : W64) (job status cause graph phase index : Nat) (pc fva : W64) (group skein core : Nat) :
    State.Within [.host] s (s.statusRec kind tag job status cause graph phase index pc fva group skein core) := s.send_within _

theorem State.svcReply_unwinds (group index : Nat) (x : W64) : State.Unwinds [.work] s (s.svcReply group index x) := s.modWork_unwinds _

theorem State.tellWaiters_unwinds (unit : Nat × Nat × Nat × Nat) (status : Nat) : State.Unwinds endParts s (s.tellWaiters unit status) := by
  unfold State.tellWaiters
  extract_lets mine s1
  have taken : State.Unwinds endParts s s1 := .of_within (s.modHost_within _)
  refine taken.trans (.foldl (fun s w => ?_) mine s1)
  dsimp only
  split
  · exact .of_within (s.send_within _)
  · exact (s.svcReply_unwinds ..).mono

theorem State.forgotSpace_within (c : List (CKey × CWord)) (h : List (HKey × WSt)) (v b : List (Nat × Nat)) (p : List SoftPlace)
    (x : List (Nat × Slice)) : State.Within [.caches, .homeWords, .verified, .badPages, .soft, .slices] s
      { s with caches := c, homeWords := h, verified := v, badPages := b, soft := p, slices := x } := .of_update rfl
theorem State.endJob_unwinds (j : Nat) : State.Unwinds endParts s (s.endJob j) := by
  unfold State.endJob
  split
  · exact .refl ..
  · next job _ =>
    split
    · extract_lets st s1 s2 s3
      have dropped : State.Unwinds endParts s (s.dropSpace job) := .of_within (s.dropSpace_within job)
      have ended : State.Unwinds endParts (s.dropSpace job) s1 := (State.modJob_unwinds _ j (fun x => { x with status := some st }) fun x => ⟨rfl, id, id⟩).mono
      have freed : State.Unwinds endParts s1 s2 :=
        .of_within (s1.forgotSpace_within ..)
      have gone : State.Unwinds endParts s2 s3 := (s2.modWork_unwinds _).mono
      have posted : State.Unwinds endParts s3 (s3.statusRec 3 job.tag j st 0 0 0 0 0 0 0 0 0) := .of_within (s3.statusRec_within ..)
      exact dropped.trans (ended.trans (freed.trans (gone.trans (posted.trans (State.tellWaiters_unwinds ..)))))
    · exact .refl ..

theorem State.endPhase_unwinds (j p : Nat) : State.Unwinds endParts s (s.endPhase j p) := by
  unfold State.endPhase
  split
  · exact .refl ..
  · next ph _ =>
    split
    · extract_lets st s1 s2
      have ended : State.Unwinds endParts s s1 := (s.modPhase_unwinds j p (fun x => { x with status := some st }) fun x => ⟨rfl, rfl, id, id⟩).mono
      have posted : State.Unwinds endParts s1 (s1.statusRec 2 ph.tag j st 0 0 p 0 0 0 0 0 0) := .of_within (s1.statusRec_within ..)
      have told : State.Unwinds endParts s1 s2 := posted.trans (State.tellWaiters_unwinds ..)
      have counted := (s2.modJob_unwinds j (fun x => { x with counter := x.counter - 1 }) fun x => ⟨rfl, id, id⟩).mono (Q := endParts)
      exact ended.trans (told.trans (counted.trans (State.endJob_unwinds ..)))
    · exact .refl ..

theorem State.endGraph_unwinds (j g : Nat) : State.Unwinds endParts s (s.endGraph j g) := by
  unfold State.endGraph
  split
  · exact .refl ..
  · next gr _ =>
    split
    · extract_lets st s1 s2
      have ended : State.Unwinds endParts s s1 := (s.modGraph_unwinds j g (fun x => { x with status := some st }) fun x => ⟨rfl, rfl, id, id⟩).mono
      have posted : State.Unwinds endParts s1 (s1.statusRec 1 gr.tag j st 0 g gr.phase 0 0 0 0 0 0) := .of_within (s1.statusRec_within ..)
      have told : State.Unwinds endParts s1 s2 := posted.trans (State.tellWaiters_unwinds ..)
      have counted := (s2.modPhase_unwinds j gr.phase (fun x => { x with counter := x.counter - 1 }) fun x => ⟨rfl, rfl, id, id⟩).mono 
        (Q := endParts)
      exact ended.trans (told.trans (counted.trans (State.endPhase_unwinds ..)))
    · exact .refl ..

theorem State.launchStatus_unwinds (l : Launch) (st : Nat) : State.Unwinds endParts s (s.launchStatus l st) := by
  unfold State.launchStatus
  extract_lets s1 r
  have ended : State.Unwinds endParts s s1 := (s.modLaunch_unwinds l.lid (fun x => { x with status := some st }) fun x _ _ => ⟨rfl, rfl, id, .inl ⟨rfl, rfl, rfl⟩⟩).mono
  have posted : State.Unwinds endParts s1
      (s1.statusRec 0 l.tag l.lid.job st l.cause r.graph r.phase r.index l.failPc l.failVa l.failGroup l.failSkein l.failCore) :=
    .of_within (s1.statusRec_within ..)
  exact ended.trans (posted.trans (State.tellWaiters_unwinds ..))

/-- A launch that is still to end is cancelled in turn (R31). -/
theorem State.Unwinds.cancelDependant {P : List Part} {s t : State} (hP : Part.work ∈ P) (h : State.Unwinds P s t) {d : Launch}
    (hd : d ∈ s.work.launches) (hnone : d.ending = none) :
    State.Unwinds P s (t.modLaunch d.lid fun x => { x with ending := some stCancelled, counter := 0 }) where
  within := h.within.trans ((t.modWork_within _).mono (by simpa using hP))
  jobs := h.jobs
  phases := h.phases
  graphs := h.graphs
  launches := List.forall₂_map_right_iff.2 (h.launches.imp fun x y hxy => by
    split_ifs with hy
    · exact ⟨hxy.lid, hxy.lrec, fun _ => rfl, .inr ⟨d, hd, hxy.lid ▸ (beq_iff_eq.1 hy).symm, hnone⟩⟩
    · exact hxy)
  ops := h.ops

theorem State.settleLaunch_unwinds (n : Nat) (lid : LaunchId) : State.Unwinds endParts s (State.settleLaunch n s lid) := by
  induction n generalizing s lid with
  | zero => exact .refl ..
  | succ n ih =>
    unfold State.settleLaunch
    split
    · exact .refl ..
    · next l _ =>
      split
      · exact .refl ..
      · extract_lets st s1 s2 s3 deps s4
        have told : State.Unwinds endParts s s1 := s.launchStatus_unwinds l st
        have freed : State.Unwinds endParts s1 s2 := .of_fields (State.Within.mono (P := [.dies]) (.of_update rfl))
        have counted : State.Unwinds endParts s2 s3 := (s2.modGraph_unwinds lid.job lid.graph (fun x => { x with counter := x.counter - 1 }) fun x => ⟨rfl, rfl, id, id⟩).mono
        have cancelled (ds : List Launch) (hds : ∀ d ∈ ds, d ∈ s3.work.launches ∧ d.ending = none) (t : State)
            (ht : State.Unwinds endParts s3 t) : State.Unwinds endParts s3 (ds.foldl (fun (s : State) (d : Launch) =>
              State.settleLaunch n (s.modLaunch d.lid fun x => { x with ending := some stCancelled, counter := 0 }) d.lid) t) := by
          induction ds generalizing t with
          | nil => exact ht
          | cons d ds ihd =>
            obtain ⟨hd, hnone⟩ := hds d (by simp)
            exact ihd (fun x hx => hds x (by simp [hx])) _ ((ht.cancelDependant (by decide) hd hnone).trans (ih ..))
        have dependants : State.Unwinds endParts s3 s4 := by
          unfold s4
          split
          · exact .refl ..
          · refine cancelled deps (fun d hd => ?_) s3 (.refl ..)
            simp only [deps, List.mem_filter, Bool.and_eq_true, Option.isNone_iff_eq_none] at hd
            tauto
        exact told.trans (freed.trans (counted.trans (dependants.trans (s4.endGraph_unwinds ..))))
end

end Sys2Proof.Machine
end

section
/-! PROOFS. Skeins and groups that go away: what they can change (R28, R30, R63, R204, R205). -/

-- one proof at a time: proofs elaborated side by side wait for each other's case splits, each on a stack of its own
set_option Elab.async false

namespace Sys2Proof.Machine

/-- What an engine operation's report changes (R176, R178). -/
def reportParts : List Part := [.skeins, .cores]
/-- What a skein's discard changes (R30, R204, R205). -/
def discardParts : List Part := [.memops, .fab, .groups, .jointSets, .rendezvous] ++ reportParts
/-- What a group's cancel, and what its end, changes (R28, R30). -/
def unwindParts : List Part := [.ops, .mem, .nextDfn] ++ discardParts ++ endParts

section
variable (s : State)

theorem State.fab_within (f : Fabric → Fabric) : State.Within [.fab] s (s.modFab f) := .of_update rfl
theorem State.jointSets_within (x : List JointSet) : State.Within [.jointSets] s { s with jointSets := x } := .of_update rfl
theorem State.rendezvous_within (x : List Rendezvous) : State.Within [.rendezvous] s { s with rendezvous := x } := .of_update rfl

theorem State.freeEntries_within (core : Nat) : State.Within [.cores] s (s.freeEntries core) := s.modCore_within ..

theorem State.reportEnd_within (core : Nat) (sk : Option SkId) (entry : Option Nat) (cls : Cls) (op lane : Nat) (err : Option (Nat × W64))
    (canc : Bool) : State.Within reportParts s (s.reportEnd core sk entry cls op lane err canc) := by
  unfold State.reportEnd
  extract_lets s1 s2
  have reported : State.Within reportParts s s1 := by
    unfold s1
    split
    · extract_lets gen named u
      have ended : State.Within reportParts s u := (s.modCore_within ..).mono
      split
      · split
        · exact ended.trans (u.modSkein_within ..).mono
        · exact ended.trans (u.modSkein_within ..).mono
      · exact ended
    · split
      · next id =>
        extract_lets u
        have finished : State.Within reportParts s u := (s.modSkein_within ..).mono
        split
        · exact finished.trans (u.modSkein_within ..).mono
        · exact finished
      · exact .refl ..
  have left : State.Within reportParts s1 s2 := by
    unfold s2
    split
    · exact (s1.modSkein_within ..).mono
    · exact .refl ..
  exact reported.trans (left.trans (s2.freeEntries_within core).mono)

theorem State.removeSkein_within (id : SkId) : State.Within discardParts s (s.removeSkein id) := by
  unfold State.removeSkein
  split
  · exact .refl ..
  · extract_lets s1 s2 s3 s4
    have dropped : State.Within discardParts s s2 := State.Within.mono (P := [.skeins, .memops]) (.of_update rfl)
    have forgot : State.Within discardParts s2 s3 := (s2.fab_within _).mono
    have counted : State.Within discardParts s3 s4 := (s3.modGroup_within ..).mono
    exact dropped.trans (forgot.trans (counted.trans (s4.freeEntries_within ..).mono))

theorem State.settleExits_within (gid : Nat) : State.Within discardParts s (s.settleExits gid) := by
  unfold State.settleExits
  split
  · exact .refl ..
  · next g _ =>
    extract_lets s1
    have joint : State.Within discardParts s s1 := by
      refine .foldl (fun s js => ?_) _ s
      split
      · exact .refl ..
      split
      · exact State.Within.trans (P := discardParts) (s.jointSets_within _).mono (.foldl (fun s m => (s.reportEnd_within ..).mono) _ _)
      · exact .refl ..
    split
    · exact joint
    · refine joint.trans (.foldl (fun s v => ?_) _ s1)
      split
      · exact .refl ..
      split
      · extract_lets s2
        have marked : State.Within discardParts s s2 := (s.rendezvous_within _).mono
        split
        · exact marked.trans (s2.reportEnd_within ..).mono
        · exact marked
      · exact .refl ..

theorem State.discardSkein_within (id : SkId) : State.Within discardParts s (s.discardSkein id) := by
  unfold State.discardSkein
  split
  · exact .refl ..
  · exact (s.removeSkein_within id).trans (State.settleExits_within ..)

theorem State.freeArea_within (gid : Nat) : State.Within [.slices, .groups] s (s.freeArea gid) := by
  unfold State.freeArea
  split
  · exact .refl ..
  split
  · exact .refl ..
  · exact (s.modSlice_within ..).mono.trans (State.modGroup_within ..).mono

theorem State.stopOps_unwinds (gid : Nat) : State.Unwinds [.ops] s (s.stopOps gid) :=
  .of_fields (s.ops_within _) (ho := by
    intro i hi
    simp only [State.stopOps, List.map_map, List.mem_map] at hi ⊢
    obtain ⟨o, ho, rfl⟩ := hi
    exact ⟨o, ho, by dsimp only [Function.comp]; split <;> rfl⟩)

theorem State.cancelGroup_unwinds (gid : Nat) : State.Unwinds unwindParts s (s.cancelGroup gid) := by
  unfold State.cancelGroup
  split
  · exact .refl ..
  · extract_lets s1 s2 s3 r held s4 s5 mine
    have freed : State.Unwinds unwindParts s s1 := .of_within (s.freeArea_within gid)
    have marked : State.Unwinds unwindParts s1 s2 := .of_within (s1.modGroup_within ..)
    have answered : State.Unwinds unwindParts s2 s3 := (s2.modWork_unwinds _).mono
    have exited : State.Unwinds unwindParts s3 s4 := .of_within (s3.modGroup_within ..)
    have stopped : State.Unwinds unwindParts s4 s5 := (s4.stopOps_unwinds gid).mono
    refine freed.trans (marked.trans (answered.trans (exited.trans (stopped.trans (.foldl (fun s x => ?_) mine s5)))))
    dsimp only
    split
    · exact .of_within (s.discardSkein_within _)
    · exact .of_within (s.modSkein_within ..)

theorem State.freeClaims_within (g : Group) : State.Within [.cores] s (s.freeClaims g) := by
  unfold State.freeClaims
  extract_lets r one
  split
  · exact State.Within.trans (P := [.cores]) (s.modCore_within ..) (State.modCore_within ..)
  · exact s.modCore_within ..

/-- What a group held is given back, before it leaves its table (R28). -/
theorem State.freedGroup_within (gid : Nat) (g : Group) :
    State.Within [.slices, .groups, .cores] s (if g.st == .saved then s.freeArea gid else (s.freeArea gid).freeClaims g) := by
  split
  · exact (s.freeArea_within gid).mono
  · exact (s.freeArea_within gid).mono.trans (State.freeClaims_within ..).mono

theorem State.dropPrivate_within (g : Group) : State.Within (.soft :: placeParts) s (match s.job? g.launch.job with
    | some j => (List.range ((g.privBytes + 65535) / 65536)).foldl (fun (s : State) i =>
        s.unmapPage j g.homeDie (g.privBase.toNat + 65536 * i)) s
    | none => s) := by
  split
  · exact .foldl (fun s i => s.unmapPage_within ..) _ s
  · exact .refl ..

theorem State.dropGroup_unwinds (gid : Nat) : State.Unwinds unwindParts s (s.dropGroup gid) := by
  unfold State.dropGroup
  split
  · exact .refl ..
  · next g _ =>
    extract_lets s1 s2 s3 s4
    have freed : State.Unwinds unwindParts s s1 := .of_within (s.freedGroup_within gid g)
    have dropped : State.Unwinds unwindParts s1 s2 := .of_within (s1.dropPrivate_within g)
    have gone : State.Unwinds unwindParts s2 s3 := by
      exact .of_fields (State.Within.mono (P := [.groups, .ops, .rendezvous, .jointSets]) (.of_update rfl)) (ho := List.Sublist.subset (List.Sublist.map _ List.filter_sublist))
    have counted : State.Unwinds unwindParts s3 s4 := (s3.modLaunch_unwinds g.launch (fun l => { l with counter := l.counter - 1 })
      fun x _ _ => ⟨rfl, rfl, id, .inl ⟨rfl, rfl, rfl⟩⟩).mono
    exact freed.trans (dropped.trans (gone.trans (counted.trans (s4.settleLaunch_unwinds ..).mono)))

/-- A launch that has not been told how it ends is told so, and whatever else is noted of it. -/
theorem State.endsLaunch_unwinds {l : Launch} {lid : LaunchId} (hl : s.launch? lid = some l) (hnone : l.ending = none) (f : Launch → Launch)
    (hlid : ∀ x, (f x).lid = x.lid) (hrec : ∀ x, (f x).lrec = x.lrec) (hend : ∀ x, x.ending.isSome = true → (f x).ending.isSome = true) :
    State.Unwinds unwindParts s (s.modLaunch lid f) :=
  (s.modLaunch_unwinds lid f fun x _ hx =>
    ⟨hlid x, hrec x, hend x, .inr ⟨l, List.mem_of_find?_eq_some hl, (State.lid_of_launch? hl).trans hx.symm, hnone⟩⟩).mono

/-- A launch that has not been told how it ends, and has not ended (R30). -/
structure State.Running (s : State) (lid : LaunchId) (l : Launch) : Prop where
  launch : s.launch? lid = some l
  status : l.status = none
  ending : l.ending = none

theorem State.running_of_not {lid : LaunchId} {l : Launch} (hl : s.launch? lid = some l) (h : ¬ (l.status.isSome || l.ending.isSome) = true) :
    s.Running lid l := by
  simp only [Bool.or_eq_true, not_or, Bool.not_eq_true, Option.isSome_eq_false_iff, Option.isNone_iff_eq_none] at h
  exact ⟨hl, h.1, h.2⟩

/-- A stop first says how the launch will end; the rest unwinds. -/
theorem State.stopLaunch_from {lid : LaunchId} {l : Launch} (h : s.Running lid l) (st : Nat) : State.Unwinds unwindParts
    (s.modLaunch lid fun x => { x with ending := some st, counter := (s.groupsOf lid).length }) (s.stopLaunch lid st) := by
  simp -zeta only [State.stopLaunch, h.launch, h.status, h.ending, Option.isSome_none, Bool.or_false, Bool.false_eq_true, if_false]
  extract_lets gs s1 s2 s3
  have cancelled : State.Unwinds unwindParts s1 s2 := .foldl (fun s g => s.cancelGroup_unwinds g) gs s1
  have dropped : State.Unwinds unwindParts s2 s3 := .foldl (fun s g => s.dropGroup_unwinds g) _ s2
  exact cancelled.trans (dropped.trans (s3.settleLaunch_unwinds ..).mono)

theorem State.stopLaunch_unwinds (lid : LaunchId) (st : Nat) : State.Unwinds unwindParts s (s.stopLaunch lid st) := by
  cases hl : s.launch? lid with
  | none => rw [State.stopLaunch, hl]; exact .refl ..
  | some l =>
    by_cases ended : (l.status.isSome || l.ending.isSome) = true
    · simp only [State.stopLaunch, hl, ended, if_true]
      exact .refl ..
    · have run := s.running_of_not hl ended
      refine .trans (s.endsLaunch_unwinds hl run.ending _ ?_ ?_ ?_) (s.stopLaunch_from run st)
      exacts [fun _ => rfl, fun _ => rfl, fun _ _ => rfl]

/-- Where every launch of an ID has been told how it ends, it stays so. -/
theorem State.Unwinds.launch?_kept {P : List Part} {s t : State} (h : State.Unwinds P s t) {lid : LaunchId} {x : Launch}
    (hx : s.launch? lid = some x) (told : ∀ z ∈ s.work.launches, z.lid = lid → z.ending ≠ none) :
    ∃ y, t.launch? lid = some y ∧ y.lrec = x.lrec ∧ y.ending = x.ending ∧ y.cause = x.cause ∧ y.failVa = x.failVa := by
  obtain ⟨y, hy, ends⟩ := h.launch? hx
  rcases ends.kept with ⟨he, hc, hv⟩ | ⟨z, hz, hlid, hnone⟩
  · exact ⟨y, hy, ends.lrec, he, hc, hv⟩
  · exact absurd hnone (told z hz (hlid.trans (State.lid_of_launch? hx)))

theorem State.stopLaunch_launch? {lid : LaunchId} {l : Launch} (h : s.Running lid l) (st : Nat) : ∃ l', (s.stopLaunch lid st).launch? lid = some l'
    ∧ l'.lrec = l.lrec ∧ l'.ending = some st ∧ l'.cause = l.cause ∧ l'.failVa = l.failVa := by
  have marked := s.launch?_modLaunch lid (fun x => { x with ending := some st, counter := (s.groupsOf lid).length }) fun _ => rfl
  rw [h.launch] at marked
  refine (s.stopLaunch_from h st).launch?_kept marked fun z hz hlid => ?_
  obtain ⟨x, -, rfl⟩ := List.mem_map.1 hz
  by_cases hx : (x.lid == lid) = true
  · rw [if_pos hx]
    exact Option.some_ne_none _
  · rw [if_neg hx] at hlid
    exact absurd (beq_iff_eq.2 hlid) hx

theorem State.failLaunch_unwinds (lid : LaunchId) (cause : Nat) (pc fva : W64) (group skein core : Nat) :
    State.Unwinds unwindParts s (s.failLaunch lid cause pc fva group skein core) := by
  unfold State.failLaunch
  split
  · exact .refl ..
  · next l hl =>
    split
    · exact .refl ..
    · next hopen =>
      have hnone : l.ending = none := (s.running_of_not hl hopen).ending
      extract_lets s1
      have noted : State.Unwinds unwindParts s s1 := by
        refine s.endsLaunch_unwinds hl hnone _ ?_ ?_ ?_
        exacts [fun _ => rfl, fun _ => rfl, fun _ h => h]
      exact noted.trans (s1.stopLaunch_unwinds ..)

end
end Sys2Proof.Machine
end

section
/-! PROOFS. The host's records about jobs, phases and graphs (R25 to R27, R251, R252, R415). -/

-- one proof at a time: proofs elaborated side by side wait for each other's case splits, each on a stack of its own
set_option Elab.async false

namespace Sys2Proof.Machine

/-! ### A record that is taken up -/

section
variable {s : State} {r : HostRec} {typ : Nat}

theorem State.onRecord_of_takes {f : State → State} (h : s.Takes r typ) (ht : typ ∈ hostTypes) : s.onRecord r typ f = f s := by
  obtain ⟨hboot, htyp, hlen, height, hmax⟩ := h
  simp only [State.onRecord, hboot, bne_self_eq_false, Bool.false_and, Bool.false_eq_true, if_false]
  rw [← hlen]
  simp [height, htyp, ht, hmax]
theorem State.onJob_of_takes {f : State → Job → State} {j : Job} (h : s.Takes r typ) (ht : typ ∈ hostTypes) (hj : s.job? r.job = some j)
    (hs : j.status = none) : s.onJob r typ f = f s j := by
  rw [State.onJob, State.onRecord_of_takes h ht]
  simp [hj, hs]
end

theorem State.reply_out (s : State) (r : HostRec) (st : Nat) (arg : W64) (body : List Byte) :
    (s.reply r st arg body).host.out = s.host.out ++ [replyTo r r.job st arg body] := rfl
theorem State.reply_within (s : State) (r : HostRec) (st : Nat) (arg : W64) (body : List Byte) : State.Within [.host] s (s.reply r st arg body) :=
  s.send_within _
/-- What a reply posted stays posted. -/
theorem State.Within.replied {P : List Part} {s t : State} {r : HostRec} {st : Nat} {arg : W64} {body : List Byte}
    (h : State.Within P (s.reply r st arg body) t) : replyTo r r.job st arg body ∈ t.host.out :=
  h.out.subset (by simp [State.reply_out])

/-! ### JOB_OPEN -/

theorem lowestFrom_le (taken : List Nat) (k n : Nat) : lowestFrom taken k n ≤ n + k := by
  induction k generalizing n with
  | zero => exact Nat.le_refl n
  | succ k ih =>
    have := ih (n + 1)
    unfold lowestFrom
    split <;> omega
theorem le_lowestFrom (taken : List Nat) (k n : Nat) : n ≤ lowestFrom taken k n := by
  induction k generalizing n with
  | zero => exact Nat.le_refl n
  | succ k ih =>
    have := ih (n + 1)
    unfold lowestFrom
    split <;> omega
/-- A search that ends at a number that is taken has found all the numbers before it taken. -/
theorem taken_of_lowestFrom_mem {taken : List Nat} {k n : Nat} (h : lowestFrom taken k n ∈ taken) {i : Nat} (hi : i ≤ k) : n + i ∈ taken := by
  induction k generalizing n i with
  | zero => simpa [Nat.le_zero.1 hi, lowestFrom] using h
  | succ k ih =>
    rw [lowestFrom] at h
    split at h
    · next hn =>
      rcases i with _ | i
      · simpa using hn
      · rw [Nat.add_comm i 1, ← Nat.add_assoc]
        exact ih h (i := i) (by omega)
    · next hn => exact absurd h (by simpa using hn)
theorem lowestFrom_not_mem (taken : List Nat) (n : Nat) : lowestFrom taken taken.length n ∉ taken := fun h => by
  have all : List.range' n (taken.length + 1) ⊆ taken := fun x hx => by
    obtain ⟨i, hi, rfl⟩ := List.mem_range'.1 hx
    simpa using taken_of_lowestFrom_mem h (i := i) (by omega)
  have len := ((List.nodup_range' (step := 1)).subperm all).length_le
  simp at len

/-- What JOB_OPEN checks of its record (R415). -/
structure State.OpensJob (s : State) (r : HostRec) : Prop where
  takes : s.Takes r 0x01
  len : r.len = 552
  timeout : fieldAt r.body 512 4 = 0 ∨ (12 ≤ fieldAt r.body 512 4 ∧ fieldAt r.body 512 4 ≤ 1000)
  map : ∀ e ∈ ((List.range 64).map fun i => fieldAt r.body (8 * i) 8).zipIdx, homeEntryOk e.2 e.1 = true
  live : (s.work.jobs.filter fun j => j.status.isNone).length < 255
  space : ∀ a k, (s.newSpace a k).isSome = true

theorem exec_jobOpen {s : State} {r : HostRec} (h : State.OpensJob s r) :
    ∃ (t : State) (j : Job), exec (.jobOpen r) s = .next t ∧ t.work.jobs = s.work.jobs ++ [j] ∧ j.id = s.work.nextJob ∧ j.status = none
      ∧ j.closed = false ∧ j.homeMap = ((List.range 64).map fun i => fieldAt r.body (8 * i) 8).map (BitVec.ofNat 64 ·)
      ∧ j.timeoutMs = fieldAt r.body 512 4 ∧ j.tag = r.tag ∧ j.counter = 0 ∧ 1 ≤ j.asid ∧ 1 ≤ j.key
      ∧ (∀ y ∈ s.work.jobs.filter fun j => j.status.isNone, y.asid ≠ j.asid ∧ y.key ≠ j.key)
      ∧ t.host.out = s.host.out ++ [replyTo r j.id 0 (BitVec.ofNat 64 (j.id % 2 ^ 32 + j.asid * 2 ^ 32 + j.key * 2 ^ 48)) []] := by
  obtain ⟨takes, len, timeout, map, live, space⟩ := h
  show ∃ t j, execJobOpen r s = .next t ∧ _
  rw [execJobOpen, State.onRecord_of_takes takes (by decide)]
  extract_lets bytes ms now asid key id j
  have asidNew : asid ∉ now.map (·.asid) := by simpa [asid] using lowestFrom_not_mem (now.map (·.asid)) 1
  have keyNew : key ∉ now.map (·.key) := by simpa [key] using lowestFrom_not_mem (now.map (·.key)) 1
  have asidLe : asid ≤ 1 + now.length := lowestFrom_le ..
  have keyLe : key ≤ 1 + now.length := lowestFrom_le ..
  have few : now.length < 255 := live
  have mapOk : (bytes.zipIdx.all fun (e, i) => homeEntryOk i e) = true := List.all_eq_true.2 fun e he => map e he
  have timeOk : (ms == 0 || (decide (12 ≤ ms) && decide (ms ≤ 1000))) = true := by simpa [ms] using timeout
  have taken : ¬ (r.len != 552 || !(ms == 0 || (decide (12 ≤ ms) && decide (ms ≤ 1000))) || !(bytes.zipIdx.all fun (e, i) => homeEntryOk i e)
      || decide (asid ≥ 65536) || decide (key ≥ 256)) = true := by
    rw [mapOk, timeOk, len]
    simp only [bne_self_eq_false, Bool.not_true, Bool.false_or, Bool.or_eq_true, decide_eq_true_eq]
    omega
  rw [if_neg taken]
  obtain ⟨s1, hs1⟩ := Option.isSome_iff_exists.1 (space asid key)
  have spaced := State.newSpace_within hs1
  have work : s1.work = s.work := spaced.same .work (by decide)
  have host : s1.host = s.host := spaced.same .host (by decide)
  simp only [hs1]
  refine ⟨_, j, rfl, ?_, rfl, rfl, rfl, rfl, rfl, rfl, rfl, le_lowestFrom .., le_lowestFrom .., fun y hy => ⟨?_, ?_⟩, ?_⟩
  · show s1.work.jobs ++ [j] = _
    rw [work]
  · exact fun he => asidNew (List.mem_map.2 ⟨y, hy, he⟩)
  · exact fun he => keyNew (List.mem_map.2 ⟨y, hy, he⟩)
  · show s1.host.out ++ _ = _
    rw [host]

/-! ### Closing and opening units of a job -/

/-- A record about a job that has not ended, which the running package takes up (R251). -/
structure State.OnJob (s : State) (r : HostRec) (typ : Nat) (j : Job) : Prop where
  takes : s.Takes r typ
  job : s.job? r.job = some j
  open_ : j.status = none

section
variable {s : State} {r : HostRec} {j : Job}

theorem State.OnJob.id {typ : Nat} (h : s.OnJob r typ j) : j.id = r.job := State.id_of_job? h.job
theorem State.OnJob.eq {typ : Nat} (h : s.OnJob r typ j) {f : State → Job → State} (ht : typ ∈ hostTypes := by decide) :
    s.onJob r typ f = f s j := State.onJob_of_takes h.takes ht h.job h.open_

theorem foldl_keeps {α β : Type} {f : State → α → State} {p : State → β} (h : ∀ s a, p (f s a) = p s) (as : List α) (s : State) :
    p (as.foldl f s) = p s := by
  induction as generalizing s with
  | nil => rfl
  | cons a as ih => exact (ih _).trans (h s a)
theorem State.tellWaiters_jobs (s : State) (unit : Nat × Nat × Nat × Nat) (st : Nat) : (s.tellWaiters unit st).work.jobs = s.work.jobs := by
  refine foldl_keeps (p := fun s => s.work.jobs) (fun s w => ?_) _ _
  dsimp only
  split <;> rfl

/-- A job that has closed ends where its counter is zero (R27). -/
theorem State.endJob_job? {i : Nat} (hj : s.job? i = some j) (hc : j.closed = true) (hs : j.status = none) :
    (s.endJob i).job? i = some { j with status := if j.counter = 0 then some (if j.cancelled = true then stCancelled else stCompleted) else none } := by
  have ends : (j.closed && j.counter == 0 && j.status.isNone) = decide (j.counter = 0) := by simp [hc, hs, Bool.beq_eq_decide_eq]
  simp only [State.endJob, hj, ends, decide_eq_true_eq]
  split
  · have kept : (s.dropSpace j).work = s.work := (s.dropSpace_within j).same .work (by decide)
    rw [State.job?, State.tellWaiters_jobs]
    refine Eq.trans (State.job?_modJob (s.dropSpace j) i _ ?_) ?_
    · exact fun _ => rfl
    · rw [State.job?, kept]
      simp only [State.job?] at hj
      rw [hj]
      rfl
  · rw [hj, ← hs]

theorem exec_jobClose (h : s.OnJob r 0x02 j) :
    ∃ (t : State) (j' : Job), exec (.jobClose r) s = .next t ∧ replyTo r r.job 0 0 [] ∈ t.host.out ∧ t.job? r.job = some j' ∧ j'.closed = true
      ∧ j'.status = if j.counter = 0 then some (if j.cancelled then 1 else 0) else none := by
  show ∃ t j', execJobClose r s = .next t ∧ _
  rw [execJobClose, h.eq, h.id]
  have closed : ((s.modJob r.job fun x => { x with closed := true }).reply r 0).job? r.job = some { j with closed := true } := by
    refine Eq.trans (s.job?_modJob r.job _ ?_) ?_
    · exact fun _ => rfl
    · rw [h.job]; rfl
  exact ⟨_, _, rfl, (State.endJob_unwinds _ r.job).within.replied, State.endJob_job? closed rfl h.open_, rfl, rfl⟩

theorem exec_phaseOpen (h : s.OnJob r 0x03 j) (hc : j.closed = false) (hp : s.phase? r.job (arg32 r false) = none) (hn : j.counter < 65535) :
    ∃ (t : State) (j' : Job), exec (.phaseOpen r) s = .next t ∧ t.host.out = s.host.out ++ [replyTo r r.job 0 0 []] ∧ t.job? r.job = some j'
      ∧ j'.counter = j.counter + 1
      ∧ t.phase? r.job (arg32 r false) = some ⟨r.job, arg32 r false, false, false, 0, none, r.tag, s.work.nextOrder⟩ := by
  show ∃ t j', execPhaseOpen r s = .next t ∧ _
  rw [execPhaseOpen, h.eq]
  simp only [h.id, hc, hp, Option.isSome_none, Bool.or_false, Bool.false_or, ge_iff_le, decide_eq_true_eq, Nat.not_le.2 hn, if_false]
  refine ⟨_, { j with counter := j.counter + 1 }, rfl, rfl, ?_, rfl, ?_⟩
  · refine Eq.trans (State.job?_modJob _ r.job _ ?_) ?_
    · exact fun _ => rfl
    · show Option.map _ (s.job? r.job) = _
      rw [h.job]; rfl
  · show List.find? _ (s.work.phases ++ [_]) = _
    rw [List.find?_append, show s.work.phases.find? _ = none from hp]
    simp

theorem exec_phaseClose {ph : Phase} (h : s.OnJob r 0x04 j) (hp : s.phase? r.job (arg32 r false) = some ph) :
    ∃ (t : State) (p' : Phase), exec (.phaseClose r) s = .next t ∧ replyTo r r.job 0 0 [] ∈ t.host.out
      ∧ t.phase? r.job (arg32 r false) = some p' ∧ p'.closed = true := by
  show ∃ t p', execPhaseClose r s = .next t ∧ _
  rw [execPhaseClose, h.eq]
  simp only [h.id, hp]
  have closed : ((s.modPhase r.job (arg32 r false) fun x => { x with closed := true }).reply r 0).phase? r.job (arg32 r false)
      = some { ph with closed := true } := by
    refine Eq.trans (s.phase?_modPhase r.job _ _ ?_) ?_
    · exact fun _ => ⟨rfl, rfl⟩
    · rw [hp]; rfl
  have ended := State.endPhase_unwinds ((s.modPhase r.job (arg32 r false) fun x => { x with closed := true }).reply r 0) r.job (arg32 r false)
  obtain ⟨p', hp', ends⟩ := ended.phase? closed
  exact ⟨_, p', rfl, ended.within.replied, hp', ends.closed rfl⟩

theorem exec_graphOpen {ph : Phase} (h : s.OnJob r 0x05 j) (hc : j.closed = false) (hp : s.phase? r.job (arg32 r true) = some ph)
    (hpc : ph.closed = false) (hps : ph.status = none) (hg : s.graph? r.job (arg32 r false) = none) (hn : ph.counter < 65535) :
    ∃ (t : State), exec (.graphOpen r) s = .next t ∧ t.host.out = s.host.out ++ [replyTo r r.job 0 0 []]
      ∧ t.graph? r.job (arg32 r false) = some ⟨r.job, arg32 r false, arg32 r true, false, false, 0, none, r.tag, []⟩
      ∧ t.phase? r.job (arg32 r true) = some { ph with counter := ph.counter + 1 } := by
  show ∃ t, execGraphOpen r s = .next t ∧ _
  rw [execGraphOpen, h.eq]
  simp only [h.id, hp]
  rw [if_neg (by simp [hc, hpc, hps, hg, hn])]
  refine ⟨_, rfl, rfl, ?_, ?_⟩
  · show List.find? _ (s.work.graphs ++ [_]) = _
    rw [List.find?_append, show s.work.graphs.find? _ = none from hg]
    simp
  · refine Eq.trans (State.phase?_modPhase _ r.job _ _ ?_) ?_
    · exact fun _ => ⟨rfl, rfl⟩
    · show Option.map _ (s.phase? r.job (arg32 r true)) = _
      rw [hp]; rfl

theorem State.closeGraph_graph? {i g : Nat} {x : Graph} (hx : s.graph? i g = some x) :
    ∃ y, (s.closeGraph i g).graph? i g = some y ∧ x.Ends y ∧ y.closed = true := by
  refine ⟨_, Eq.trans (s.graph?_modGraph i g _ ?_) (congrArg _ hx), ⟨rfl, rfl, fun _ => rfl, id⟩, rfl⟩
  exact fun _ => ⟨rfl, rfl⟩

theorem exec_graphClose {g : Graph} (h : s.OnJob r 0x06 j) (hg : s.graph? r.job (arg32 r false) = some g) :
    ∃ (t : State) (g' : Graph), exec (.graphClose r) s = .next t ∧ replyTo r r.job 0 0 [] ∈ t.host.out
      ∧ t.graph? r.job (arg32 r false) = some g' ∧ g'.closed = true := by
  show ∃ t g', execGraphClose r s = .next t ∧ _
  rw [execGraphClose, h.eq]
  simp only [h.id, hg]
  obtain ⟨x, hx, -, closed⟩ := State.closeGraph_graph? hg
  have ended := State.endGraph_unwinds ((s.closeGraph r.job (arg32 r false)).reply r 0) r.job (arg32 r false)
  obtain ⟨g', hg', ends⟩ := ended.graph? hx
  exact ⟨_, g', rfl, ended.within.replied, hg', ends.closed closed⟩

end

end Sys2Proof.Machine
end

section
/-! PROOFS. The host's MAP records (R153, R156, R253, R290). -/

-- one proof at a time: proofs elaborated side by side wait for each other's case splits, each on a stack of its own
set_option Elab.async false

namespace Sys2Proof.Machine

/-! ### Ranges of pages -/

/-- What a cut leaves of maps lies before or after the pages cut out. -/
theorem apart_of_mem_cutMaps {ms : List (Nat × Nat × Nat × Nat × Nat)} {a k : Nat} {m : Nat × Nat × Nat × Nat × Nat} (hm : m ∈ cutMaps ms a k) :
    m.1 + m.2.1 ≤ a ∨ a + k ≤ m.1 := by
  simp only [cutMaps, List.mem_flatMap, List.mem_append] at hm
  obtain ⟨⟨first, n, perm, src, arg⟩, -, hleft | hright⟩ := hm
  · split at hleft
    · obtain rfl := List.mem_singleton.1 hleft
      dsimp only
      omega
    · cases hleft
  · split at hright
    · obtain rfl := List.mem_singleton.1 hright
      dsimp only
      omega
    · cases hright

/-- What a change of a job's maps changes (R156, R253). -/
def mapParts : List Part := .work :: recallParts

section
variable (s : State) (j : Job)

theorem State.recallMapped_within (ps : List Nat) : State.Within recallParts s
    (ps.foldl (fun s p => ((s.recallPage j.asid p).unmapPage j 0 (p * 65536)).bumpGen j.asid p) s) := by
  refine .foldl (fun s p => ?_) ps s
  exact State.Within.trans (P := recallParts) (s.recallPage_within ..)
    (State.Within.trans (P := recallParts) (State.unmapPage_within ..).mono (State.bumpGen_within ..).mono)

theorem State.unmapRange_within (first n : Nat) : State.Within mapParts s (s.unmapRange j first n) := by
  unfold State.unmapRange
  extract_lets s1 gone
  have recalled : State.Within mapParts s s1 := (s.recallMapped_within j _).mono
  exact recalled.trans (State.Within.trans (P := mapParts) (s1.modWork_within _).mono (State.modWork_within _ _).mono)
theorem State.unmapRange_job? (first n : Nat) :
    (s.unmapRange j first n).job? j.id = (s.job? j.id).map fun x => { x with maps := cutMaps x.maps first n } := by
  refine Eq.trans (State.job?_modJob _ j.id _ fun _ => rfl) ?_
  exact congrArg (Option.map _) ((s.recallMapped_within j (mappedIn j first n)).job?_eq j.id)

theorem State.mapRange_within (first n perm src arg : Nat) : State.Within mapParts s (s.mapRange j first n perm src arg) := by
  unfold State.mapRange
  extract_lets s1 s2
  have mapped : State.Within mapParts s1 s2 := .foldl (fun s i =>
    State.Within.trans (P := mapParts) (s.mapOne_within ..).mono (State.bumpGen_within ..).mono) _ s1
  exact (s.unmapRange_within ..).trans (mapped.trans (s2.modWork_within _).mono)
theorem State.mapRange_job? (first n perm src arg : Nat) : (s.mapRange j first n perm src arg).job? j.id
    = (s.job? j.id).map fun x => { x with maps := cutMaps x.maps first n ++ [(first, n, perm, src, arg)] } := by
  unfold State.mapRange
  extract_lets s1 s2
  have mapped : State.Within (.host :: placeParts) s1 s2 := .foldl (fun s i =>
    State.Within.trans (P := .host :: placeParts) (s.mapOne_within ..).mono (State.bumpGen_within ..).mono) _ s1
  refine Eq.trans (State.job?_modJob _ j.id _ fun _ => rfl) ?_
  rw [mapped.job?_eq, s.unmapRange_job? j, Option.map_map]
  rfl
end

/-! ### MAP records -/

section
variable {s : State} {r : HostRec} {j : Job}

theorem State.OnJob.mine {typ : Nat} (h : s.OnJob r typ j) : s.job? j.id = some j := by
  rw [h.id]
  exact h.job
theorem State.onMap_of {op : Nat} {f : State → Job → State} (h : s.OnJob r 0x0A j) (hb : mapBodyOk r.body = true) (hop : fieldAt r.body 0 1 = op)
    (hle : op ≤ 2) : s.onMap r op f = f s j := by
  rw [State.onMap, h.eq]
  simp [hop, hb, hle]

theorem exec_mapPages {perm src first n arg : Nat} (h : s.OnJob r 0x0A j) (hb : mapBodyOk r.body = true) (hop : fieldAt r.body 0 1 = 0)
    (hperm : fieldAt r.body 1 1 = perm) (hsrc : fieldAt r.body 2 1 = src) (hfirst : fieldAt r.body 8 8 / 65536 = first)
    (hn : fieldAt r.body 0x10 8 / 65536 = n) (harg : fieldAt r.body 0x18 8 = arg) (permLt : perm < 16)
    (notWX : ¬ (perm / 2 % 2 = 1 ∧ perm / 4 % 2 = 1)) (srcLe : src ≤ 2) (some_ : n ≠ 0)
    (volume : src = 1 → ∃ v, Tab.get? s.host.volumes (arg / 2 ^ 56) = some v ∧ arg % 65536 = 0 ∧ arg % 2 ^ 56 + 65536 * n ≤ v.capacity)
    (mappable : s.mappable j first n = true) (gl : glOk j first n (perm / 8) = true) (free : s.objectBusy j first n = false) :
    ∃ (t : State) (j' : Job), exec (.mapPages r) s = .next t ∧ replyTo r r.job 0 0 [] ∈ t.host.out ∧ t.job? r.job = some j'
      ∧ (first, n, perm, src, arg) ∈ j'.maps := by
  have job : ((s.mapRange j first n perm src arg).reply r 0).job? r.job
      = some { j with maps := cutMaps j.maps first n ++ [(first, n, perm, src, arg)] } := by
    rw [← h.id]
    refine (s.mapRange_job? j ..).trans ?_
    rw [h.mine]
    rfl
  refine ⟨(s.mapRange j first n perm src arg).reply r 0, _, ?_, by simp [State.reply_out], job, by simp⟩
  show execMapPages r s = _
  rw [execMapPages, State.onMap_of h hb hop (by decide)]
  simp only [hperm, hsrc, hfirst, hn, harg]
  rw [if_neg ?_]
  simp only [Bool.or_eq_true, Bool.and_eq_true, beq_iff_eq, decide_eq_true_eq, Bool.not_eq_true', mappable, gl, free, notWX, some_, or_false,
    Bool.true_eq_false, Bool.false_eq_true]
  rintro ((hp | hs) | ⟨h1, hv⟩)
  · omega
  · omega
  · obtain ⟨v, hvol, hal, hcap⟩ := volume h1
    simp only [hvol, hal, beq_self_eq_true, Bool.true_and, decide_eq_false_iff_not] at hv
    exact hv hcap

theorem exec_mapUnmap {first n : Nat} (h : s.OnJob r 0x0A j) (hb : mapBodyOk r.body = true) (hop : fieldAt r.body 0 1 = 1)
    (hfirst : fieldAt r.body 8 8 / 65536 = first) (hn : fieldAt r.body 0x10 8 / 65536 = n) (free : s.objectBusy j first n = false) :
    ∃ (t : State) (j' : Job), exec (.mapUnmap r) s = .next t ∧ replyTo r r.job 0 0 [] ∈ t.host.out ∧ t.job? r.job = some j'
      ∧ ∀ m ∈ j'.maps, m.1 + m.2.1 ≤ first ∨ first + n ≤ m.1 := by
  have job : ((s.unmapRange j first n).reply r 0).job? r.job = some { j with maps := cutMaps j.maps first n } := by
    rw [← h.id]
    refine (s.unmapRange_job? j ..).trans ?_
    rw [h.mine]
    rfl
  refine ⟨(s.unmapRange j first n).reply r 0, _, ?_, by simp [State.reply_out], job, fun m hm => apart_of_mem_cutMaps hm⟩
  show execMapUnmap r s = _
  rw [execMapUnmap, State.onMap_of h hb hop (by decide)]
  simp only [hfirst, hn, free, Bool.false_eq_true, if_false]

theorem exec_mapRegisterObject (h : s.OnJob r 0x0A j) (hb : mapBodyOk r.body = true) (hop : fieldAt r.body 0 1 = 2)
    (slot : fieldAt r.body 3 1 < 16) (len : fieldAt r.body 0x20 8 ≠ 0) :
    ∃ (t : State) (q : StoreReq) (x : HostRec), exec (.mapRegisterObject r) s = .next t ∧ t.host.storage = s.host.storage ++ [q]
      ∧ q.num = s.host.nextReq ∧ q.job = r.job ∧ q.obj = BitVec.ofNat 64 (fieldAt r.body 0x18 8) ∧ q.bytes = fieldAt r.body 0x20 8
      ∧ q.kobj = some (fieldAt r.body 3 1, fieldAt r.body 0x20 8, r.tag) ∧ t.host.out = s.host.out ++ [x] ∧ x.typ = 0x0B
      ∧ x.tag = BitVec.ofNat 64 q.num := by
  show ∃ t q x, execMapRegisterObject r s = .next t ∧ _
  rw [execMapRegisterObject, State.onMap_of h hb hop (by decide)]
  dsimp only
  rw [if_neg (by simp [len, slot])]
  exact ⟨_, _, _, rfl, rfl, rfl, h.id, rfl, rfl, rfl, rfl, rfl, rfl⟩

end
end Sys2Proof.Machine
end

section
/-! PROOFS. Launches that are accepted, and units that are cancelled (R22, R23, R30 to R32, R43). -/

-- one proof at a time: proofs elaborated side by side wait for each other's case splits, each on a stack of its own
set_option Elab.async false

namespace Sys2Proof.Machine

/-! ### An accepted launch -/

/-- The launch of a record as it enters its queue (R42). -/
def LRec.entered (r : LRec) (tag : W64) : Launch :=
  { lid := r.lid, lrec := r, queue := r.queue, counter := r.groups, eligible := none, lastPlaced := 0, next := 0, status := none
    ending := none, cause := 0, failPc := 0, failVa := 0, failGroup := 0, failSkein := 0, failCore := 0
    sched := if r.entries == 0 then some [] else none, tag := tag, placedAll := false, noFit := [] }
/-- A record's launch has entered its queue, and its graph counts it. -/
def State.enterLaunch (s : State) (r : LRec) (tag : W64) : State :=
  (s.modWork fun w => { w with launches := w.launches ++ [r.entered tag] }).modGraph r.job r.graph fun g => { g with counter := g.counter + 1 }

theorem State.acceptLaunch_eq (s : State) (r : LRec) (tag : W64) (svc : Option (Nat × Nat)) : s.acceptLaunch r tag svc =
    let t := (s.enterLaunch r tag).answerLaunch r.job tag svc true
    if t.predEnded r || (t.graph? r.job r.graph).any (·.cancelled) then t.stopLaunch r.lid stCancelled else t.markEligible := rfl

section
variable {s t : State} {r : LRec} {tag : W64} {svc : Option (Nat × Nat)}

/-- The launches and graphs of a state once a record's launch has entered. -/
structure State.Entered (s t : State) (r : LRec) (tag : W64) : Prop where
  launches : t.work.launches = s.work.launches ++ [r.entered tag]
  graphs : t.work.graphs = s.work.graphs.map fun x => if x.job == r.job && x.id == r.graph then { x with counter := x.counter + 1 } else x
  held : t.work.held = s.work.held

theorem State.entered_of_answer (s : State) (r : LRec) (tag : W64) (svc : Option (Nat × Nat)) (ok : Bool) :
    s.Entered ((s.enterLaunch r tag).answerLaunch r.job tag svc ok) r tag := by
  cases svc <;> exact ⟨rfl, rfl, rfl⟩

theorem State.Entered.launch? (h : s.Entered t r tag) (hnew : s.launch? r.lid = none) : t.launch? r.lid = some (r.entered tag) := by
  rw [State.launch?] at hnew ⊢
  rw [h.launches, List.find?_append, hnew]
  simp [LRec.entered]
theorem State.Entered.launch?_any (h : s.Entered t r tag) (p : Launch → Bool) (hp : p (r.entered tag) = false) (lid : LaunchId) :
    (t.launch? lid).any p = (s.launch? lid).any p := by
  rw [State.launch?, State.launch?, h.launches, List.find?_append]
  cases s.work.launches.find? fun x => x.lid == lid with
  | some x => rfl
  | none =>
    rw [Option.none_or, List.find?_singleton]
    split
    · simp [hp]
    · rfl
theorem State.Entered.graph?_any (h : s.Entered t r tag) (p : Graph → Bool) (hp : ∀ x : Graph, p { x with counter := x.counter + 1 } = p x)
    (j g : Nat) : (t.graph? j g).any p = (s.graph? j g).any p := by
  rw [State.graph?, State.graph?, h.graphs, find?_map_keep]
  · cases s.work.graphs.find? fun x => x.job == j && x.id == g with
    | none => rfl
    | some x =>
      simp only [Option.map_some, Option.any_some]
      split
      · exact hp x
      · rfl
  · intro x
    split <;> rfl
theorem State.predEnded_eq (s : State) (r : LRec) : s.predEnded r = r.preds.any fun p => s.dependsOn r p &&
    (s.launch? ⟨r.job, r.graph, p⟩).any fun x => x.status == some stCancelled || x.status == some stFailed := by
  simp only [State.predEnded]
  congr 1
  funext p
  cases s.launch? ⟨r.job, r.graph, p⟩ <;> rfl
/-- A launch that enters ends no other's wait. -/
theorem State.Entered.predEnded (h : s.Entered t r tag) : t.predEnded r = s.predEnded r := by
  rw [State.predEnded_eq, State.predEnded_eq]
  congr 1
  funext p
  rw [h.launch?_any _ rfl]
  simp only [State.dependsOn]
  rw [h.graph?_any (fun g => g.closed && !g.present.contains p) fun _ => rfl]

/-- Eligibility changes no more of a launch than when it came (R33). -/
theorem State.markEligible_launch? {s : State} {lid : LaunchId} {l : Launch} (hl : s.launch? lid = some l) :
    ∃ e n, s.markEligible.launch? lid = some { l with eligible := e, lastPlaced := n } := by
  have found : s.markEligible.launch? lid = (s.launch? lid).map fun l =>
      if l.eligible.isNone && s.launchReady l then { l with eligible := some s.clock, lastPlaced := s.clock } else l := by
    refine find?_map_keep _ _ (fun x => ?_) _
    split <;> rfl
  rw [found, hl, Option.map_some]
  split
  · exact ⟨_, _, rfl⟩
  · exact ⟨l.eligible, l.lastPlaced, rfl⟩

/-- A launch whose predecessors have not ended cancelled or failed stands in its queue (R42). -/
theorem State.acceptLaunch_enters (hnew : s.launch? r.lid = none) (hp : s.predEnded r = false)
    (hg : ∀ x, s.graph? r.job r.graph = some x → x.cancelled = false) :
    ∃ x, (s.acceptLaunch r tag svc).launch? r.lid = some x ∧ x.lrec = r ∧ x.counter = r.groups ∧ x.status = none ∧ x.queue = r.queue
      ∧ x.tag = tag ∧ (s.acceptLaunch r tag svc).work.held = s.work.held
      ∧ (s.acceptLaunch r tag svc).host = ((s.enterLaunch r tag).answerLaunch r.job tag svc true).host := by
  have entered := s.entered_of_answer r tag svc true
  have open_ : (((s.enterLaunch r tag).answerLaunch r.job tag svc true).graph? r.job r.graph).any (·.cancelled) = false := by
    rw [entered.graph?_any _ fun _ => rfl]
    cases hx : s.graph? r.job r.graph with
    | none => rfl
    | some x => exact hg x hx
  rw [State.acceptLaunch_eq]
  dsimp only
  rw [entered.predEnded, hp, open_, Bool.false_or, if_neg Bool.false_ne_true]
  obtain ⟨e, n, hx⟩ := State.markEligible_launch? (entered.launch? hnew)
  exact ⟨_, hx, rfl, rfl, rfl, rfl, rfl, entered.held, rfl⟩

/-- A launch that depends on one ended cancelled or failed is cancelled as it comes (R31). -/
theorem State.acceptLaunch_cancels (hnew : s.launch? r.lid = none) (hp : s.predEnded r = true) :
    ∃ x, (s.acceptLaunch r tag svc).launch? r.lid = some x ∧ x.lrec = r ∧ x.ending = some 1
      ∧ ((s.enterLaunch r tag).answerLaunch r.job tag svc true).host.out <+: (s.acceptLaunch r tag svc).host.out := by
  have entered := s.entered_of_answer r tag svc true
  rw [State.acceptLaunch_eq]
  dsimp only
  rw [entered.predEnded, hp, Bool.true_or, if_pos rfl]
  obtain ⟨x, hx, hrec, hend, -, -⟩ := State.stopLaunch_launch? _ ⟨entered.launch? hnew, rfl, rfl⟩ stCancelled
  exact ⟨x, hx, hrec, hend, (State.stopLaunch_unwinds _ r.lid stCancelled).within.out⟩
end

section
variable {s : State} {r : HostRec}

/-- What a LAUNCH record that enters its queue at once has to meet (R22, R23, R43). -/
structure State.Submits (s : State) (r : HostRec) (l : LRec) : Prop where
  takes : s.Takes r 0x07
  lrec : lrecOfBytes r.body = l
  limits : lrecLimits r.body = true
  admits : s.admits l r.job = true
  room : s.queued l.queue < 512
  first : ∀ h ∈ s.work.held, h.1 ≠ l.queue

theorem State.Submits.exec {l : LRec} (h : s.Submits r l) : exec (.launch r) s = .next (s.acceptLaunch l r.tag none) := by
  show execLaunch r s = _
  have none_ : (s.work.held.any fun x => x.1 == l.queue) = false := by simpa using fun a b c d hm => h.first (a, b, c, d) hm
  rw [execLaunch, State.onRecord_of_takes h.takes (by decide)]
  simp only [State.submit, Option.isSome_none, Bool.false_eq_true, if_false, h.lrec, h.limits, h.admits, Bool.not_true, Bool.or_self,
    none_, Bool.or_false, ge_iff_le, decide_eq_true_eq, Nat.not_le.2 h.room]
theorem State.Submits.job {l : LRec} (h : s.Submits r l) : l.job = r.job := by
  have := h.admits
  simp only [State.admits, Bool.and_eq_true, beq_iff_eq] at this
  tauto
theorem State.Submits.new {l : LRec} (h : s.Submits r l) : s.launch? l.lid = none := by
  have := h.admits
  simp only [State.admits, Bool.and_eq_true, Option.isNone_iff_eq_none] at this
  tauto
theorem State.Submits.graph {l : LRec} (h : s.Submits r l) : ∃ g, s.graph? l.job l.graph = some g ∧ g.closed = false := by
  have ok := h.admits
  simp only [State.admits, Bool.and_eq_true] at ok
  have open_ := ok.2
  rw [h.job]
  cases hg : s.graph? r.job l.graph with
  | none => rw [hg] at open_; cases open_
  | some g =>
    rw [hg] at open_
    exact ⟨g, rfl, by simpa using (Bool.and_eq_true_iff.1 (Bool.and_eq_true_iff.1 open_).1).1⟩

/-- In a graph that is open every predecessor that a record names counts (R25). -/
theorem State.predEnded_of_open {l : LRec} {g : Graph} (hg : s.graph? l.job l.graph = some g) (hc : g.closed = false) {p : Nat} (hp : p ∈ l.preds)
    (hne : p ≠ 255) {y : Launch} (hy : s.launch? ⟨l.job, l.graph, p⟩ = some y) (hst : y.status = some 1 ∨ y.status = some 2) :
    s.predEnded l = true := by
  rw [State.predEnded_eq, List.any_eq_true]
  refine ⟨p, hp, ?_⟩
  have st : (y.status == some stCancelled || y.status == some stFailed) = true := by rcases hst with h | h <;> rw [h] <;> rfl
  simp [State.dependsOn, hne, hp, hg, hc, hy, st]

end

/-! ### Cancels -/

/-- The cancel of a graph: it closes, its launches stop (R30). -/
def State.cancelGraph (s : State) (job g : Nat) : State :=
  let s := (s.closeGraph job g).modGraph job g fun x => { x with cancelled := true }
  let ls := s.work.launches.filter fun l => l.lid.job == job && l.lid.graph == g
  (ls.foldl (fun s l => s.stopLaunch l.lid stCancelled) s).endGraph job g
/-- The cancel of a phase: it closes, its graphs are cancelled. -/
def State.cancelPhase (s : State) (job p : Nat) : State :=
  let s := s.modPhase job p fun x => { x with cancelled := true, closed := true }
  let gs := s.work.graphs.filter fun g => g.job == job && g.phase == p && g.status.isNone
  (gs.foldl (fun s g => s.cancelGraph job g.id) s).endPhase job p
/-- The cancel of a job: it closes, its phases are cancelled. -/
def State.cancelJob (s : State) (job a : Nat) : State :=
  let s := s.modJob a fun x => { x with cancelled := true, closed := true }
  let ps := s.work.phases.filter fun p => p.job == a && p.status.isNone
  (ps.foldl (fun s p => s.cancelPhase job p.id) s).endJob a

section
variable (s : State) (job a b : Nat)

theorem State.cancelUnit_launch : s.cancelUnit job 0 a b = match s.launch? ⟨job, a, b⟩ with
    | none => (s, some stUnknown)
    | some l => match l.status with
      | some st => (s, some st)
      | none => (s.stopLaunch l.lid stCancelled, none) := rfl
theorem State.cancelUnit_graph : s.cancelUnit job 1 a b = match s.graph? job a with
    | none => (s, some stUnknown)
    | some g => match g.status with
      | some st => (s, some st)
      | none => (s.cancelGraph job a, none) := rfl
theorem State.cancelUnit_phase : s.cancelUnit job 2 a b = match s.phase? job a with
    | none => (s, some stUnknown)
    | some p => match p.status with
      | some st => (s, some st)
      | none => (s.cancelPhase job a, none) := rfl
theorem State.cancelUnit_job : s.cancelUnit job 3 a b = match s.job? a with
    | none => (s, some stUnknown)
    | some j => match j.status with
      | some st => (s, some st)
      | none => (s.cancelJob job a, none) := rfl

theorem State.cancelGraph_from (g : Nat) : State.Unwinds unwindParts
    ((s.closeGraph job g).modGraph job g fun x => { x with cancelled := true }) (s.cancelGraph job g) := by
  unfold State.cancelGraph
  extract_lets s1 ls
  refine State.Unwinds.trans (.foldl (fun s l => ?_) ls s1) (State.endGraph_unwinds ..).mono
  exact s.stopLaunch_unwinds ..
theorem State.cancelGraph_unwinds (g : Nat) : State.Unwinds unwindParts s (s.cancelGraph job g) := by
  have closed : State.Unwinds unwindParts s (s.closeGraph job g) := by
    refine (s.modGraph_unwinds job g _ ?_).mono
    exact fun x => ⟨rfl, rfl, fun _ => rfl, id⟩
  refine closed.trans (State.Unwinds.trans ?_ (s.cancelGraph_from job g))
  refine (State.modGraph_unwinds _ job g _ ?_).mono
  exact fun x => ⟨rfl, rfl, id, fun _ => rfl⟩
theorem State.cancelPhase_from (p : Nat) : State.Unwinds unwindParts
    (s.modPhase job p fun x => { x with cancelled := true, closed := true }) (s.cancelPhase job p) := by
  unfold State.cancelPhase
  extract_lets s1 gs
  refine State.Unwinds.trans (.foldl (fun s g => ?_) gs s1) (State.endPhase_unwinds ..).mono
  exact s.cancelGraph_unwinds ..
theorem State.cancelPhase_unwinds (p : Nat) : State.Unwinds unwindParts s (s.cancelPhase job p) := by
  refine State.Unwinds.trans ?_ (s.cancelPhase_from job p)
  refine (s.modPhase_unwinds job p _ ?_).mono
  exact fun x => ⟨rfl, rfl, fun _ => rfl, fun _ => rfl⟩
theorem State.cancelJob_from : State.Unwinds unwindParts
    (s.modJob a fun x => { x with cancelled := true, closed := true }) (s.cancelJob job a) := by
  unfold State.cancelJob
  extract_lets s1 ps
  refine State.Unwinds.trans (.foldl (fun s p => ?_) ps s1) (State.endJob_unwinds ..).mono
  exact s.cancelPhase_unwinds ..

variable {s job a b}
/-- A graph that is cancelled is marked so, and closed (R30; log 26). -/
theorem State.cancelGraph_graph? {x : Graph} (hx : s.graph? job a = some x) :
    ∃ y, (s.cancelGraph job a).graph? job a = some y ∧ y.cancelled = true ∧ y.closed = true := by
  obtain ⟨x1, hx1, -, closed⟩ := State.closeGraph_graph? hx
  have marked := (s.closeGraph job a).graph?_modGraph job a (fun x => { x with cancelled := true }) fun _ => ⟨rfl, rfl⟩
  rw [hx1] at marked
  obtain ⟨y, hy, ends⟩ := (s.cancelGraph_from job a).graph? marked
  exact ⟨y, hy, ends.cancelled rfl, ends.closed closed⟩
theorem State.cancelPhase_phase? {x : Phase} (hx : s.phase? job a = some x) :
    ∃ y, (s.cancelPhase job a).phase? job a = some y ∧ y.cancelled = true ∧ y.closed = true := by
  have marked := s.phase?_modPhase job a (fun x => { x with cancelled := true, closed := true }) fun _ => ⟨rfl, rfl⟩
  rw [hx] at marked
  obtain ⟨y, hy, ends⟩ := (s.cancelPhase_from job a).phase? marked
  exact ⟨y, hy, ends.cancelled rfl, ends.closed rfl⟩
theorem State.cancelJob_job? {x : Job} (hx : s.job? a = some x) :
    ∃ y, (s.cancelJob job a).job? a = some y ∧ y.cancelled = true ∧ y.closed = true := by
  have marked := s.job?_modJob a (fun x => { x with cancelled := true, closed := true }) fun _ => rfl
  rw [hx] at marked
  obtain ⟨y, hy, ends⟩ := (s.cancelJob_from job a).job? marked
  exact ⟨y, hy, ends.cancelled rfl, ends.closed rfl⟩
end

section
variable {s : State} {r : HostRec}

/-- The state in which a CANCEL looks its unit up: whoever asked waits for the end (R32). -/
def State.asking (s : State) (r : HostRec) (unit : Nat × Nat × Nat × Nat) : State :=
  s.modHost fun h => { h with waiters := h.waiters ++ [(unit, .host r.tag r.job)] }
/-- The unit that a cancel waits for. -/
def cancelledUnit (job kind a b : Nat) : Nat × Nat × Nat × Nat :=
  match kind with
  | 0 => (0, job, a, b)
  | 3 => (3, a, 0, 0)
  | k => (k, job, a, 0)

theorem exec_cancel (h : s.Takes r 0x08) {k a b : Nat} (hk : r.status = k) (hids : cancelIds k r.arg.toNat = (a, b)) : exec (.cancel r) s =
    .next (match (s.asking r (cancelledUnit r.job k a b)).cancelUnit r.job k a b with | (t, none) => t | (_, some st) => s.reply r st) := by
  show execCancel r s = _
  rw [execCancel, State.onRecord_of_takes h (by decide)]
  subst hk
  simp only [hids]
  show Host.Outcome.next (match (match (s.asking r (cancelledUnit r.job r.status a b)).cancelUnit r.job r.status a b with
    | (s2, none) => (s2, none) | (_, some st) => (s, some st) : State × Option Nat) with | (s, some st) => s.reply r st | (s, none) => s) = _
  rcases (s.asking r (cancelledUnit r.job r.status a b)).cancelUnit r.job r.status a b with ⟨t, _ | st⟩ <;> rfl

/-- A cancel of a unit that is not there, or has ended, is answered at once (R32). -/
theorem exec_cancel_refused (h : s.Takes r 0x08) {k a b st : Nat} (hk : r.status = k) (hids : cancelIds k r.arg.toNat = (a, b))
    (hu : ∀ u, ((s.asking r u).cancelUnit r.job k a b).2 = some st) : exec (.cancel r) s = .next (s.reply r st) := by
  rw [exec_cancel h hk hids]
  have := hu (cancelledUnit r.job k a b)
  split
  · next heq => rw [heq] at this; cases this
  · next heq => rw [heq] at this; cases this; rfl

theorem exec_cancel_taken (h : s.Takes r 0x08) {k a b : Nat} {t : State} (hk : r.status = k) (hids : cancelIds k r.arg.toNat = (a, b))
    (hu : (s.asking r (cancelledUnit r.job k a b)).cancelUnit r.job k a b = (t, none)) : exec (.cancel r) s = .next t := by
  rw [exec_cancel h hk hids, hu]

theorem exec_cancel_launch (h : s.Takes r 0x08) (hk : r.status = 0) {l : Launch}
    (hl : s.Running ⟨r.job, r.arg.toNat / 2 ^ 32, r.arg.toNat % 2 ^ 32⟩ l) :
    ∃ (t : State) (l' : Launch), exec (.cancel r) s = .next t ∧ t.launch? ⟨r.job, r.arg.toNat / 2 ^ 32, r.arg.toNat % 2 ^ 32⟩ = some l'
      ∧ l'.ending = some 1 := by
  let u := s.asking r (cancelledUnit r.job 0 (r.arg.toNat / 2 ^ 32) (r.arg.toNat % 2 ^ 32))
  obtain ⟨l', hl', -, hend, -⟩ := State.stopLaunch_launch? u ⟨hl.launch, hl.status, hl.ending⟩ stCancelled
  refine ⟨_, l', exec_cancel_taken h hk rfl ?_, hl', hend⟩
  rw [State.cancelUnit_launch, show u.launch? _ = some l from hl.launch]
  simp only [hl.status, State.lid_of_launch? hl.launch]
  rfl

theorem exec_cancel_graph (h : s.Takes r 0x08) (hk : r.status = 1) {g : Graph} (hg : s.graph? r.job r.arg.toNat = some g)
    (hs : g.status = none) :
    ∃ (t : State) (g' : Graph), exec (.cancel r) s = .next t ∧ t.graph? r.job r.arg.toNat = some g' ∧ g'.cancelled = true ∧ g'.closed = true := by
  let u := s.asking r (cancelledUnit r.job 1 r.arg.toNat 0)
  obtain ⟨g', hg', marked⟩ := State.cancelGraph_graph? (s := u) hg
  refine ⟨_, g', exec_cancel_taken h hk rfl ?_, hg', marked⟩
  rw [State.cancelUnit_graph, show u.graph? _ _ = some g from hg]
  simp only [hs]
  rfl

theorem exec_cancel_phase (h : s.Takes r 0x08) (hk : r.status = 2) {p : Phase} (hp : s.phase? r.job r.arg.toNat = some p)
    (hs : p.status = none) :
    ∃ (t : State) (p' : Phase), exec (.cancel r) s = .next t ∧ t.phase? r.job r.arg.toNat = some p' ∧ p'.cancelled = true ∧ p'.closed = true := by
  let u := s.asking r (cancelledUnit r.job 2 r.arg.toNat 0)
  obtain ⟨p', hp', marked⟩ := State.cancelPhase_phase? (s := u) hp
  refine ⟨_, p', exec_cancel_taken h hk rfl ?_, hp', marked⟩
  rw [State.cancelUnit_phase, show u.phase? _ _ = some p from hp]
  simp only [hs]
  rfl

theorem exec_cancel_job (h : s.Takes r 0x08) (hk : r.status = 3) {j : Job} (hj : s.job? r.arg.toNat = some j) (hs : j.status = none) :
    ∃ (t : State) (j' : Job), exec (.cancel r) s = .next t ∧ t.job? r.arg.toNat = some j' ∧ j'.cancelled = true ∧ j'.closed = true := by
  let u := s.asking r (cancelledUnit r.job 3 r.arg.toNat 0)
  obtain ⟨j', hj', marked⟩ := State.cancelJob_job? (s := u) (job := r.job) hj
  refine ⟨_, j', exec_cancel_taken h hk rfl ?_, hj', marked⟩
  rw [State.cancelUnit_job, show u.job? _ = some j from hj]
  simp only [hs]
  rfl
end

/-! ### Storage replies -/

section
variable {s : State} {r : HostRec} {q : StoreReq}

/-- A STORAGE_REPLY that finds a read or write of a buffer (R255, R258). -/
structure State.Answers (s : State) (r : HostRec) (q : StoreReq) : Prop where
  takes : s.Takes r 0x0B
  found : (s.host.storage.find? fun q => q.num == arg32 r false && q.chunk < 2 ^ 31) = some q
  kobj : q.kobj = none
  piece : q.piece = none

/-- A request is taken off the list of those under way. -/
def State.dropStorage (s : State) (q : StoreReq) : State := s.modHost fun h => { h with storage := h.storage.filter (·.num != q.num) }

theorem exec_storageReply_write (h : s.Answers r q) (hs : r.status = 0) (hop : q.op ≠ 0) :
    exec (.storageReply r) s = .next ((s.dropStorage q).svcReply q.group q.index 0) := by
  show execStorageReply r s = _
  rw [execStorageReply, State.onRecord_of_takes h.takes (by decide)]
  simp only [h.found, hs, bne_self_eq_false, Bool.false_eq_true, if_false, bne_iff_ne, ne_eq, hop, not_false_eq_true, if_true,
    State.endStorage, h.kobj, h.piece, Bool.not_true, beq_iff_eq]
  rfl
theorem exec_storageReply_fails (h : s.Answers r q) (hs : r.status ≠ 0) :
    exec (.storageReply r) s = .next ((s.dropStorage q).svcReply q.group q.index (BitVec.ofNat 64 (2 ^ 63 + 9))) := by
  show execStorageReply r s = _
  rw [execStorageReply, State.onRecord_of_takes h.takes (by decide)]
  simp only [h.found, bne_iff_ne, ne_eq, hs, not_false_eq_true, if_true, State.endStorage, h.kobj, h.piece, Bool.not_false]
  rfl
theorem exec_storageReply_chunk (h : s.Answers r q) (hs : r.status = 0) (hop : q.op = 0) (hc : fieldAt r.body 4 4 = q.chunk) :
    ∃ (t : State), exec (.storageReply r) s = .next t ∧ ∀ y ∈ t.host.storage, y.num = q.num →
      y.got = (q.got ++ r.body.drop 8).take q.bytes ∧ y.chunk = q.chunk + 1 := by
  have found := List.find?_some h.found
  simp only [Bool.and_eq_true, beq_iff_eq, decide_eq_true_eq] at found
  have notLast : ¬ q.chunk ≥ 2 ^ 31 := Nat.not_le.2 found.2
  have low : q.chunk % 2 ^ 31 = q.chunk := Nat.mod_eq_of_lt found.2
  show ∃ t, execStorageReply r s = .next t ∧ _
  rw [execStorageReply, State.onRecord_of_takes h.takes (by decide)]
  simp only [h.found, hs, bne_self_eq_false, Bool.false_eq_true, if_false, hop, hc, low, notLast]
  refine ⟨_, rfl, fun y hy hnum => ?_⟩
  obtain ⟨x, -, rfl⟩ := List.mem_map.1 hy
  split at hnum
  · next he => rw [if_pos he]; exact ⟨rfl, rfl⟩
  · next he => exact absurd (beq_iff_eq.2 hnum) he
end

end Sys2Proof.Machine
end

section
/-! PROOFS. The host's work records: the obligation. -/

-- one proof at a time: proofs elaborated side by side wait for each other's case splits, each on a stack of its own
set_option Elab.async false

namespace Sys2Proof.Machine

section
variable {s : State} {r : HostRec}

theorem exec_launch_enters {l : LRec} (h : s.Submits r l) (hg : ∀ g, s.graph? l.job l.graph = some g → g.cancelled = false)
    (hp : s.predEnded l = false) :
    ∃ (t : State) (x : Launch), exec (.launch r) s = .next t ∧ t.launch? l.lid = some x ∧ x.lrec = l ∧ x.counter = l.groups ∧ x.status = none
      ∧ x.queue = l.queue ∧ x.tag = r.tag ∧ t.host.out = s.host.out ++ [⟨0x07, 1, 32, r.tag, r.job, 0, 0, []⟩] := by
  obtain ⟨x, hx, hrec, hcounter, hstatus, hqueue, htag, -, hhost⟩ := State.acceptLaunch_enters (tag := r.tag) (svc := none) h.new hp hg
  refine ⟨_, x, h.exec, hx, hrec, hcounter, hstatus, hqueue, htag, ?_⟩
  rw [hhost, ← h.job]
  rfl
theorem exec_launch_cancels {l : LRec} (h : s.Submits r l)
    (hp : ∃ p ∈ l.preds, p ≠ 255 ∧ ∃ y, s.launch? ⟨l.job, l.graph, p⟩ = some y ∧ (y.status = some 1 ∨ y.status = some 2)) :
    ∃ (t : State) (x : Launch), exec (.launch r) s = .next t ∧ t.launch? l.lid = some x ∧ x.lrec = l ∧ x.ending = some 1
      ∧ ⟨0x07, 1, 32, r.tag, r.job, 0, 0, []⟩ ∈ t.host.out := by
  obtain ⟨p, hmem, hne, y, hy, hst⟩ := hp
  obtain ⟨g, hg, hc⟩ := h.graph
  obtain ⟨x, hx, hrec, hend, hout⟩ := State.acceptLaunch_cancels (tag := r.tag) (svc := none) h.new (State.predEnded_of_open hg hc hmem hne hy hst)
  refine ⟨_, x, h.exec, hx, hrec, hend, hout.subset ?_⟩
  rw [← h.job]
  exact List.mem_append_right _ (List.mem_singleton.2 rfl)
theorem exec_launch_rejects (h : s.Takes r 0x07) (hbad : lrecLimits r.body = false ∨ s.admits (lrecOfBytes r.body) r.job = false) :
    exec (.launch r) s = .next (s.send ⟨0x07, 1, 32, r.tag, r.job, 3, 0, []⟩) := by
  have refused : (!lrecLimits r.body || !s.admits (lrecOfBytes r.body) r.job) = true := by
    rcases hbad with h | h <;> simp [h]
  show execLaunch r s = _
  rw [execLaunch, State.onRecord_of_takes h (by decide)]
  simp only [State.submit, Option.isSome_none, Bool.false_eq_true, if_false, refused, if_true]
  rfl
end

/-- Settles O46: each record by what it looks up; a cancel and an end change no more of a unit than its state (`State.Unwinds`), and a
recall of pages no unit at all (`State.Within`). -/
theorem workRecords : Obligations.WorkRecords := by
  intro s r
  refine ⟨fun takes len timeout map live space => exec_jobOpen ⟨takes, len, timeout, map, live, space⟩, fun j hj hs => ?_, fun h => ?_,
    fun h => ?_, fun h q hq hk hp => ?_⟩
  · refine ⟨fun h => exec_jobClose ⟨h, hj, hs⟩, fun h => exec_phaseOpen ⟨h, hj, hs⟩, fun ph h => exec_phaseClose ⟨h, hj, hs⟩,
      fun ph h => exec_graphOpen ⟨h, hj, hs⟩, fun g h => exec_graphClose ⟨h, hj, hs⟩, fun h hb => ⟨fun hop permLt notWX srcLe n0 vol ok gl free => ?_,
      fun hop free => ?_, fun hop slot len => ?_⟩⟩
    · exact exec_mapPages ⟨h, hj, hs⟩ hb hop rfl rfl rfl rfl rfl permLt notWX srcLe n0 vol ok gl free
    · exact exec_mapUnmap ⟨h, hj, hs⟩ hb hop rfl rfl free
    · exact exec_mapRegisterObject ⟨h, hj, hs⟩ hb hop slot len
  · exact ⟨fun limits admits room first open_ => ⟨exec_launch_enters ⟨h, rfl, limits, admits, room, first⟩ open_,
      exec_launch_cancels ⟨h, rfl, limits, admits, room, first⟩⟩, exec_launch_rejects h⟩
  · refine ⟨fun hk hn => ?_, fun hk l st hl hst => ?_, fun hk l hl hst hend => ?_, fun hk hn => ?_, fun hk g st hg hst => ?_,
      fun hk g hg hst => ?_, fun hk p hp hst => ?_, fun hk j hj hst => ?_⟩
    · refine exec_cancel_refused h hk rfl fun u => ?_
      rw [State.cancelUnit_launch, show (s.asking r u).launch? _ = none from hn]
      rfl
    · refine exec_cancel_refused h hk rfl fun u => ?_
      rw [State.cancelUnit_launch, show (s.asking r u).launch? _ = some l from hl]
      simp only [hst]
    · exact exec_cancel_launch h hk ⟨hl, hst, hend⟩
    · refine exec_cancel_refused h hk rfl fun u => ?_
      rw [State.cancelUnit_graph, show (s.asking r u).graph? _ _ = none from hn]
      rfl
    · refine exec_cancel_refused h hk rfl fun u => ?_
      rw [State.cancelUnit_graph, show (s.asking r u).graph? _ _ = some g from hg]
      simp only [hst]
    · exact exec_cancel_graph h hk hg hst
    · exact exec_cancel_phase h hk hp hst
    · exact exec_cancel_job h hk hj hst
  · have found : s.Answers r q := ⟨h, hq, hk, hp⟩
    exact ⟨exec_storageReply_write found, exec_storageReply_fails found, exec_storageReply_chunk found⟩

end Sys2Proof.Machine
end

section
/-! PROOFS. Frames of what engines read and write, and of private memory (R105, R106, R128, R129, R166, R173, R190, R193). -/

-- one proof at a time: proofs elaborated side by side wait for each other's case splits, each on a stack of its own
set_option Elab.async false

namespace Sys2Proof.Machine

/-! ### Engine accesses -/

section
variable (s : State)

theorem State.atomicReach_within (asid wa agent : Nat) (report : Bool) : State.Within homeParts s (s.atomicReach asid wa agent report).1 := by
  unfold State.atomicReach
  extract_lets s1
  have reached : State.Within homeParts s s1 := (s.reach_within asid wa).trans (State.dropGiven_within ..).mono
  refine reached.trans ?_
  split
  · dsimp only
    split
    · exact State.Within.trans (P := homeParts) (s1.logRace_within ..).mono (State.recallNow_within ..)
    · exact s1.recallNow_within ..
  · exact s1.recallNow_within ..

theorem State.engineWord_within (asid wa agent : Nat) (report : Bool) : State.Within homeParts s (s.engineWord asid wa agent report).1 := by
  unfold State.engineWord
  extract_lets s1
  have reached : State.Within homeParts s s1 := s.reach_within asid wa
  refine reached.trans ?_
  split
  · split
    · exact .refl ..
    · dsimp only
      split
      · exact (s1.logRace_within ..).mono
      · exact .refl ..
  · next a _ =>
    extract_lets s2 s3
    have home : State.Within homeParts s1 s2 := by
      have sent := s1.takeSent_within a asid wa true
      unfold s2
      split
      · next hu => exact sent.of_eq hu
      · next u hu =>
        refine (sent.of_eq hu).trans ?_
        split
        · exact State.Within.trans (P := homeParts) (u.mergeHome_within ..).mono (State.setCword_within ..).mono
        · exact .refl ..
    exact home.trans (s2.comeHome_within ..).mono
  · exact (s1.comeHome_within ..).mono

/-- Another agent's registration ends before an engine's (R129). -/
theorem State.otherHome_within (asid wa agent : Nat) (report : Bool) : State.Within homeParts s (match s.owner asid wa with
    | some (a, unpub) =>
      if a == agent then s
      else
        let s := if unpub && report then s.logRace asid (4 * wa) agent a .register else s
        s.recallNow asid wa
    | none => s) := by
  split
  · split
    · exact .refl ..
    · dsimp only
      split
      · exact State.Within.trans (P := homeParts) (s.logRace_within ..).mono (State.recallNow_within ..)
      · exact s.recallNow_within ..
  · exact .refl ..

theorem State.cleanWhole_within (asid wa : Nat) (m : BitVec 4) : State.Within homeParts s (if m == 0xF#4 then s.cleanWords asid [wa] else s) := by
  split
  · exact (s.cleanWords_within ..).mono
  · exact .refl ..

theorem State.engineStore_within (asid wa agent : Nat) (x : W32) (m : BitVec 4) (whole report : Bool) :
    State.Within homeParts s (s.engineStore asid wa agent x m whole report) := by
  unfold State.engineStore
  extract_lets s1 s2 s3
  have reached : State.Within homeParts s s1 := (s.reach_within asid wa).trans (State.dropGiven_within ..).mono
  have alone : State.Within homeParts s1 s2 := s1.otherHome_within asid wa agent report
  have cleaned : State.Within homeParts s2 s3 := s2.cleanWhole_within asid wa m
  exact reached.trans (alone.trans (cleaned.trans
    (State.Within.trans (P := homeParts) (s3.mergeHome_within ..).mono (State.setHword_within ..).mono)))

theorem State.engineSeal_within (agent : Nat) (ws : List (Nat × Nat)) : State.Within [.homeWords] s (s.engineSeal agent ws) := by
  refine .foldl (fun s w => ?_) ws s
  dsimp only
  split
  · exact s.setHword_within ..
  · exact .refl ..

theorem State.engFate1_within (j : Job) (die : Nat) (acc : Acc) (va : Nat) (needs : Bool) :
    State.Within placeParts s (s.engFate1 j die acc va needs).1 := by
  have placed := s.place_within j die j.asid va acc
  unfold State.engFate1
  split
  · exact .refl ..
  split
  · next s1 sl key hs1 =>
    split
    · exact placed.of_eq hs1
    · exact (placed.of_eq hs1).trans (s1.checkSector_within ..).mono
  all_goals next hs1 => exact placed.of_eq hs1

theorem State.engFate_within (j : Job) (die : Nat) (acc : Acc) (va n : Nat) (needs : Bool) :
    State.Within placeParts s (s.engFate j die acc va n needs).1 := by
  refine .foldl_fst (β := EngFate) (fun r i => ?_) _ (s, _)
  dsimp only
  split
  · exact .refl ..
  · exact r.1.engFate1_within ..

theorem State.engFates_within (j : Job) (die : Nat) (acc : Acc) (rs : List (Nat × Nat)) :
    State.Within placeParts s (s.engFates j die acc rs).1 := by
  refine .foldl_fst (β := EngFate) (fun r x => ?_) rs (s, .good)
  dsimp only
  split
  · exact .refl ..
  · exact r.1.engFate_within ..

theorem State.engUpdates_within (j : Job) (die : Nat) (rs : List (Nat × Nat)) : State.Within placeParts s (s.engUpdates j die rs).1 := by
  refine .foldl_fst (β := EngFate) (fun r x => ?_) rs (s, .good)
  dsimp only
  split
  · exact .refl ..
  · exact r.1.engFate_within ..

theorem State.engRead_within (asid agent va n : Nat) (report : Bool) : State.Within homeParts s (s.engRead asid agent va n report).1 := by
  refine .foldl_fst (β := List Byte) (fun r w => ?_) _ (s, [])
  exact r.1.engineWord_within ..

theorem State.engWrite_within (asid agent va : Nat) (bs : List Byte) (report : Bool) :
    State.Within homeParts s (s.engWrite asid agent va bs report) := by
  refine .foldl (fun s x => ?_) _ s
  exact s.engineStore_within ..

theorem State.coreWord_within (core asid wa : Nat) (report : Bool) : State.Within homeParts s (s.coreWord core asid wa report).1 := by
  unfold State.coreWord
  extract_lets agent
  split
  · exact .refl ..
  · exact s.engineWord_within ..

theorem State.coreRead_within (id : SkId) (k : Skein) (va n : Nat) : State.Within homeParts s (s.coreRead id k va n).1 := by
  unfold State.coreRead
  split
  · exact .refl ..
  · refine .foldl_fst (β := List Byte × Bool) (fun r w => ?_) _ (s, [], false)
    exact r.1.coreWord_within ..

theorem State.atomicUpdate_within (asid agent va size : Nat) (f : Nat → Nat) (report : Bool) :
    State.Within homeParts s (s.atomicUpdate asid agent va size f report) := by
  unfold State.atomicUpdate
  extract_lets ws s1 bs new
  have reached : State.Within homeParts s s1 := .foldl (fun s w => s.atomicReach_within ..) ws s
  refine reached.trans (.foldl (fun s x => ?_) _ s1)
  exact State.Within.trans (P := homeParts) (s.mergeHome_within ..).mono (State.setHword_within ..).mono

theorem State.evictSector_within (agent asid sva : Nat) : State.Within [.caches, .net] s (s.evictSector agent asid sva) := by
  unfold State.evictSector
  extract_lets goes dirty s1
  have gone : State.Within [.caches, .net] s s1 := (s.caches_within _).mono
  split
  · exact gone
  · exact gone.trans (s1.post_within _).mono

theorem State.l1Room_within (agent asid wa : Nat) : State.Within [.caches, .net, .cores] s (s.l1Room agent asid wa) := by
  unfold State.l1Room
  extract_lets set
  split
  · exact .refl ..
  split
  · exact State.Within.trans (P := [.caches, .net, .cores]) (.foldl (fun s o => (s.evictSector_within ..).mono) _ s) (State.modCore_within ..).mono
  · exact .refl ..

/-- What a copy's bytes change where they are written (R129, R185). -/
def storeParts : List Part := [.cores, .scratch, .memops] ++ homeParts

theorem State.deliverWord_within (j : Job) (agent wa : Nat) (x : W32) (m : BitVec 4) (report : Bool) :
    State.Within storeParts s (s.deliverWord j agent wa x m report) := by
  unfold State.deliverWord
  extract_lets asid s1 s2 s3
  have cleaned : State.Within storeParts s s1 := (s.cleanWhole_within asid wa m).mono
  have reached : State.Within storeParts s1 s2 := ((s1.reach_within asid wa).trans (State.dropGiven_within ..).mono).mono
  have alone : State.Within storeParts s2 s3 := (s2.otherHome_within asid wa agent report).mono
  refine cleaned.trans (reached.trans (alone.trans ?_))
  split
  · exact State.Within.trans (P := storeParts) (s3.setCword_within ..).mono (State.setHword_within ..).mono
  split
  · exact State.Within.trans (P := storeParts) (s3.l1Room_within ..).mono
      (State.Within.trans (P := storeParts) (State.setCword_within ..).mono (State.setHword_within ..).mono)
  · exact State.Within.trans (P := storeParts) (s3.mergeHome_within ..).mono (State.comeHome_within ..).mono

theorem State.deliverTo_within (asid agent va : Nat) (bs : List Byte) (report : Bool) :
    State.Within storeParts s (s.deliverTo asid agent va bs report) := by
  unfold State.deliverTo
  split
  · exact .refl ..
  · refine .foldl (fun s x => ?_) _ s
    exact s.deliverWord_within ..

/-! ### Scratch and barriers -/

theorem State.scrTake_within (o : EngOp) (g : Group) (core off n : Nat) : State.Within [.freeCtr] s (s.scrTake o g core off n).1 := by
  unfold State.scrTake
  extract_lets bs
  split
  · exact .refl ..
  · exact s.freeCtr_within _

theorem State.scrWrite_within (g : Group) (core off : Nat) (bs : List Byte) : State.Within [.scratch, .soft] s (s.scrWrite g core off bs) := .of_update rfl

theorem State.cpyStore_within (o : EngOp) (g : Group) (d : CpyDesc) (va : Nat) (bs : List Byte) :
    State.Within storeParts s (s.cpyStore o g d va bs) := by
  unfold State.cpyStore
  extract_lets asid
  split
  · exact (s.scrWrite_within ..).mono
  split
  · exact s.deliverTo_within ..
  · exact (s.engWrite_within ..).mono

/-- What an arrival or a credit at a barrier changes (R193). -/
def barrierParts : List Part := [.scratch, .soft, .groups]

theorem State.tbUpdate_within (gid core off : Nat) (f : TBar → TBar) : State.Within barrierParts s (s.tbUpdate gid core off f) := by
  unfold State.tbUpdate
  split
  · exact .refl ..
  · extract_lets b0 b key held
    split
    · exact (s.scrWrite_within ..).mono
    · exact State.Within.trans (P := barrierParts) (s.scrWrite_within ..).mono (State.modGroup_within ..).mono

theorem State.tbCredit_within (gid core off units : Nat) : State.Within barrierParts s (s.tbCredit gid core off units) := s.tbUpdate_within ..
theorem State.tbArrive_within (gid core off : Nat) : State.Within barrierParts s (s.tbArrive gid core off) := by
  unfold State.tbArrive
  split
  · exact .refl ..
  · dsimp only
    split
    · exact (s.modGroup_within ..).mono
    · exact s.tbUpdate_within ..
theorem State.creditTb_within (o : EngOp) (n : Nat) : State.Within barrierParts s (s.creditTb o n) := by
  unfold State.creditTb
  split
  · split
    · exact .refl ..
    · exact s.tbCredit_within ..
  · exact .refl ..

/-! ### Seals and invalidations of whole caches -/

theorem State.caches_memops_within (x : List (CKey × CWord)) (y : List MemOp) :
    State.Within [.caches, .memops] s { s with caches := x, memops := y } := .of_update rfl
theorem State.dropSectors_within (agent : Nat) (ws : List (Nat × Nat)) : State.Within [.caches, .memops] s (s.dropSectors agent ws) := by
  exact State.Within.trans (P := [.caches, .memops]) (s.caches_within _).mono (State.memops_within _ _).mono

theorem State.selfInvalidate_within (agent : Nat) (regions : BitVec 16) : State.Within [.caches, .memops] s (s.selfInvalidate agent regions) := by
  exact s.caches_memops_within _ _
theorem State.acquireCores_within (g : Group) : State.Within [.caches, .memops] s (s.acquireCores g) :=
  .foldl (fun s _ => s.selfInvalidate_within ..) g.cores s

theorem State.sealSet_within (agent op : Nat) : State.Within [.caches, .net] s (s.sealSet agent op).1 := by
  unfold State.sealSet
  extract_lets ws s1 asids
  have marked : State.Within [.caches, .net] s s1 := (s.caches_within _).mono
  refine marked.trans (.foldl (fun s a => .foldl (fun s x => ?_) _ s) asids s1)
  exact (s.post_within _).mono

theorem State.sealCores_within (cores : List Nat) : State.Within [.nextName, .caches, .net, .memops] s (s.sealCores cores).1 := by
  unfold State.sealCores
  have named : State.Within [.nextName, .caches, .net, .memops] s s.fresh.1 := (s.nextName_within _).mono
  refine named.trans (.foldl (fun s c => ?_) cores s.fresh.1)
  generalize State.fresh _ = fresh
  obtain ⟨-, op⟩ := fresh
  have sent := s.sealSet_within (s.l1 c) op
  split
  next u ws hu =>
  have posted : State.Within [.nextName, .caches, .net, .memops] s u := (sent.of_eq hu).mono
  split
  · exact posted
  · exact posted.trans (u.memops_within _).mono

/-- What the end of an operation's accesses changes (R129, R148). -/
theorem State.publish_within (o : EngOp) (agent : Nat) : State.Within [.homeWords, .caches, .memops] s (s.publish o agent) := by
  unfold State.publish
  extract_lets s1 cores
  have sealed_ : State.Within [.homeWords, .caches, .memops] s s1 := (s.engineSeal_within ..).mono
  exact sealed_.trans (.foldl (fun s c => (s.dropSectors_within ..).mono) cores s1)

/-! ### Private memory -/

theorem State.privCheck_within (j : Job) (die va n : Nat) : State.Within placeParts s (s.privCheck j die va n) := by
  refine .foldl (fun s i => ?_) _ s
  have placed := s.place_within j die j.asid (va / 128 * 128 + 128 * i) .read
  split
  · next s1 sl k hs1 => exact (placed.of_eq hs1).trans (s1.checkSector_within ..).mono
  · next hs1 => exact placed.of_eq hs1

theorem State.renewPriv_within (j : Job) (die : Nat) (bytes : List Nat) : State.Within placeParts s (s.renewPriv j die bytes) := by
  unfold State.renewPriv
  split
  · exact .refl ..
  · refine .foldl (fun s n => ?_) _ s
    have placed := s.place_within j die j.asid (128 * n) .write
    split
    · next s1 sl k hs1 => exact (placed.of_eq hs1).trans (s1.modSlice_within ..).mono
    · exact .refl ..

theorem State.privBytes_within {s t : State} {j : Job} {die va : Nat} {bs : List Byte} (h : s.privBytes j die va bs = .ok t) :
    State.Within placeParts s t := by
  induction bs generalizing s va with
  | nil => cases h; exact .refl ..
  | cons b bs ih =>
    have placed := s.place_within j die j.asid va .write
    rw [State.privBytes] at h
    split at h
    · next s1 sl k hs1 =>
      refine (placed.of_eq hs1).trans (State.Within.trans ?_ (ih h))
      split
      · split
        · exact (s1.reportLoss_within ..).mono
        · exact .refl ..
      · exact (s1.putWord_within ..).mono
    · cases h

theorem State.privWrite_within {s t : State} {j : Job} {die va : Nat} {bs : List Byte} (h : s.privWrite j die va bs = .ok t) :
    State.Within placeParts s t :=
  (s.renewPriv_within ..).trans (State.privBytes_within h)

/-- What a core's own write of its skein's private memory changes (R72, R106). -/
def privParts : List Part := [.caches, .soft] ++ placeParts

theorem State.skWrite_within (id : SkId) (k : Skein) (va : Nat) (bs : List Byte) : State.Within privParts s (s.skWrite id k va bs) := by
  unfold State.skWrite
  split
  · next s1 hs1 =>
    have written : State.Within privParts s s1 := (State.privWrite_within hs1).mono
    exact written.trans (State.Within.mono (P := [.soft, .caches]) (.of_update rfl))
  · exact .refl ..

theorem State.ringPut_within (g : Group) (st : OpStat) (k : OpKind) : State.Within placeParts s (s.ringPut g st k) := by
  unfold State.ringPut
  split
  · exact .refl ..
  split
  · next hs1 => exact State.privWrite_within hs1
  · exact .refl ..

/-! ### Packets -/

theorem State.transmit_within (dst : Nat) (rsp : Bool) (p : Packet) : State.Within [.fab] s (s.transmit dst rsp p) := by
  have routed : State.Within [.fab] s (s.route dst).1 := by
    unfold State.route
    dsimp only
    split
    · exact .refl ..
    · dsimp only
      exact s.fab_within _
  unfold State.transmit
  split
  · next s1 port hs1 =>
    exact (routed.of_eq hs1).trans (.of_update rfl)
  · next hs1 => exact routed.of_eq hs1

theorem State.sendPacket_within (dst : Nat) (p : Packet) : State.Within [.fab] s (s.sendPacket dst p) := by
  unfold State.sendPacket
  extract_lets rsp e q s1
  split
  · exact s.fab_within _
  · have numbered : State.Within [.fab] s s1 := s.fab_within _
    exact numbered.trans (s1.transmit_within ..)

end
end Sys2Proof.Machine
end

section
/-! PROOFS. Frames of what a skein does by itself after a word (R70 to R76), and of the release of copy schedule entries (R39). -/

-- one proof at a time: proofs elaborated side by side wait for each other's case splits, each on a stack of its own
set_option Elab.async false

namespace Sys2Proof.Machine

/-! ### Settling -/

/-- What a skein that settles changes: itself, its accesses in flight, and its spill slots (R70 to R78). -/
def settleParts : List Part := [.skeins, .memops] ++ privParts

/-- What a skein holds of its engine operations: its handle registers, their names, and the queues of its class counters (R175, R178). -/
structure Skein.Holds (k k' : Skein) : Prop where
  handles : k'.handles = k.handles
  ops : k'.ops = k.ops
  fifo : ∀ c, k'.fifo c = k.fifo c

section
variable (k : Skein)

theorem Skein.Holds.refl : k.Holds k := ⟨rfl, rfl, fun _ => rfl⟩
theorem Skein.Holds.trans {k k' k'' : Skein} (h : k.Holds k') (h' : k'.Holds k'') : k.Holds k'' :=
  ⟨h'.handles.trans h.handles, h'.ops.trans h.ops, fun c => (h'.fifo c).trans (h.fifo c)⟩
theorem Skein.setStrand_holds (st : Nat) (x : Option Strand) : k.Holds (k.setStrand st x) := ⟨rfl, rfl, fun c => by cases c <;> rfl⟩
theorem Skein.modStrand_holds (st : Nat) (f : Strand → Strand) : k.Holds (k.modStrand st f) := by
  unfold Skein.modStrand
  split
  · exact k.setStrand_holds ..
  · exact .refl k
theorem Skein.dropRecord_holds (rid : Nat) : k.Holds (k.dropRecord rid) := ⟨rfl, rfl, fun c => by cases c <;> rfl⟩
theorem Skein.records_holds (x : List JoinRec) : k.Holds { k with records := x } := ⟨rfl, rfl, fun c => by cases c <;> rfl⟩
theorem Skein.addErr_holds (cause : Nat) (fva : W64) (lane : Nat) : k.Holds (k.addErr cause fva lane) := ⟨rfl, rfl, fun c => by cases c <;> rfl⟩
theorem Skein.Holds.foldl {α : Type} {f : Skein → α → Skein} (h : ∀ k a, Skein.Holds k (f k a)) (as : List α) : k.Holds (as.foldl f k) := by
  induction as generalizing k with
  | nil => exact .refl k
  | cons a as ih => exact (h k a).trans (ih _)
theorem Skein.merge_holds (ids : List Nat) (keep : Strand) : k.Holds (k.merge ids keep) :=
  (Skein.Holds.foldl k (fun k i => k.setStrand_holds i none) ids).trans (Skein.setStrand_holds ..)
end

/-- Every skein holds the engine operations that it held. -/
structure State.HoldsAll (s t : State) : Prop where
  each : ∀ i k, s.skein? i = some k → ∃ k', t.skein? i = some k' ∧ k.Holds k'

section
variable {s t u : State}

theorem State.HoldsAll.refl (s : State) : s.HoldsAll s := ⟨fun _ k h => ⟨k, h, .refl k⟩⟩
theorem State.HoldsAll.trans (h : s.HoldsAll t) (h' : t.HoldsAll u) : s.HoldsAll u := ⟨fun i k hk => by
  obtain ⟨k1, h1, hold⟩ := h.each i k hk
  obtain ⟨k2, h2, hold'⟩ := h'.each i k1 h1
  exact ⟨k2, h2, hold.trans hold'⟩⟩
theorem State.HoldsAll.foldl {α : Type} {f : State → α → State} (h : ∀ s a, State.HoldsAll s (f s a)) (as : List α) (s : State) :
    s.HoldsAll (as.foldl f s) := by
  induction as generalizing s with
  | nil => exact .refl s
  | cons a as ih => exact (h s a).trans (ih _)
theorem State.Within.holdsAll {P : List Part} (h : State.Within P s t) (hp : Part.skeins ∉ P := by decide) : s.HoldsAll t :=
  ⟨fun i k hk => ⟨k, by rw [← hk]; exact congrArg (Tab.get? · i) (h.same .skeins hp), .refl k⟩⟩

/-- What a skein does by itself after a word changes no more than `settleParts`, and nothing that a skein holds of its engine operations. -/
structure State.Settles (s t : State) : Prop where
  within : State.Within settleParts s t
  holds : s.HoldsAll t

theorem State.Settles.refl (s : State) : s.Settles s := ⟨.refl .., .refl s⟩
theorem State.Settles.trans (h : s.Settles t) (h' : t.Settles u) : s.Settles u := ⟨h.within.trans h'.within, h.holds.trans h'.holds⟩
theorem State.Settles.foldl {α : Type} {f : State → α → State} (h : ∀ s a, State.Settles s (f s a)) (as : List α) (s : State) :
    s.Settles (as.foldl f s) := by
  induction as generalizing s with
  | nil => exact .refl s
  | cons a as ih => exact (h s a).trans (ih _)
theorem State.Within.settles {P : List Part} (h : State.Within P s t) (hP : P ⊆ settleParts := by decide) (hk : Part.skeins ∉ P := by decide) :
    s.Settles t := ⟨h.mono hP, h.holdsAll hk⟩

variable (s) (id : SkId)
theorem State.modSkein_settles {f : Skein → Skein} (hf : ∀ k, Skein.Holds k (f k)) : s.Settles (s.modSkein id f) where
  within := (s.modSkein_within id f).mono
  holds := ⟨fun i k hk => by
    rw [State.skein?_modSkein]
    split
    · next h => subst h; exact ⟨f k, by rw [hk]; rfl, hf k⟩
    · exact ⟨k, hk, .refl k⟩⟩
theorem State.modStrand_settles (st : Nat) (f : Strand → Strand) : s.Settles (s.modStrand id st f) :=
  s.modSkein_settles id fun k => k.modStrand_holds st f
theorem State.memops_settles (x : List MemOp) : s.Settles { s with memops := x } := (s.memops_within x).settles
theorem State.skWrite_settles (k : Skein) (va : Nat) (bs : List Byte) : s.Settles (s.skWrite id k va bs) := (s.skWrite_within ..).settles

theorem State.readSpill_settles (k : Skein) (st : Nat) (n : List NestItem) (lane : Nat) : s.Settles (s.readSpill id k st n lane) := by
  unfold State.readSpill
  split
  · extract_lets va j s1 told
    have checked : s.Settles s1 := (s.privCheck_within ..).settles
    split
    · exact checked
    · exact checked.trans (s1.modSkein_settles id fun k => k.addErr_holds ..)
  · exact .refl s

theorem State.putTop_settles (st : Nat) (e : StackEnt) : s.Settles (s.putTop id st e) := by
  unfold State.putTop
  split
  · exact .refl s
  split
  · exact .refl s
  split
  · exact s.modStrand_settles ..
  · exact s.skWrite_settles ..
  · exact .refl s

theorem State.afterExit_settles (st : Nat) : s.Settles (s.afterExit id st) := by
  unfold State.afterExit
  split
  · exact .refl s
  split
  · exact .refl s
  split
  · exact .refl s
  split
  · exact (s.memops_settles _).trans (State.modSkein_settles _ id fun k => k.setStrand_holds st none)
  · extract_lets inner s1
    have read : s.Settles s1 := s.readSpill_settles ..
    split
    · exact read
    · dsimp only
      split
      · exact read.trans ((s1.modStrand_settles ..).trans ((State.putTop_settles ..).trans (State.modStrand_settles ..)))
      · exact read.trans (s1.modStrand_settles ..)

theorem State.atNamed_settles (st : Nat) : s.Settles (s.atNamed id st) := by
  unfold State.atNamed
  split
  · exact .refl s
  split
  · exact .refl s
  split
  · exact .refl s
  split
  · split
    · exact s.modStrand_settles ..
    · exact .refl s
  · extract_lets s1
    have read : s.Settles s1 := s.readSpill_settles ..
    split
    · exact read
    split
    · exact read
    · dsimp only
      split
      · exact read.trans ((State.putTop_settles ..).trans (State.modStrand_settles ..))
      · exact read.trans (s1.modStrand_settles ..)

theorem State.moveSpill_settles (k : Skein) (src dst depth : Nat) : s.Settles (s.moveSpill id k src dst depth) := by
  unfold State.moveSpill
  split
  · exact .refl s
  · exact s.skWrite_settles ..

theorem State.completeRecord_settles (r : JoinRec) : s.Settles (s.completeRecord id r) := by
  unfold State.completeRecord
  split
  · exact .refl s
  extract_lets need waiting lanes withStack ids
  clear_value withStack
  split
  · exact s.modSkein_settles id fun k => k.dropRecord_holds _
  split
  · exact .refl s
  split
  · exact .refl s
  · dsimp only
    exact (s.moveSpill_settles ..).trans ((State.memops_settles ..).trans
      (State.modSkein_settles _ id fun k => (k.merge_holds ..).trans (Skein.dropRecord_holds ..)))

theorem State.completeRejoin_settles (n : Nat) : s.Settles (s.completeRejoin id n) := by
  unfold State.completeRejoin
  split
  · exact .refl s
  extract_lets waiting lanes
  split
  · exact .refl s
  split
  · exact .refl s
  · exact (State.memops_settles ..).trans (State.modSkein_settles _ id fun k => (k.merge_holds ..).trans (Skein.records_holds ..))

theorem State.completions_settles : s.Settles (s.completions id) := by
  unfold State.completions
  extract_lets s1 s2 s3
  have exited : s.Settles s1 := .foldl (fun s i => s.afterExit_settles id i) _ s
  have named : s1.Settles s2 := .foldl (fun s i => s.atNamed_settles id i) _ s1
  have joined : s2.Settles s3 := .foldl (fun s r => s.completeRecord_settles id r) _ s2
  exact exited.trans (named.trans (joined.trans (.foldl (fun s n => s.completeRejoin_settles id n) _ s3)))

theorem State.untilStill_settles {f : State → State} (hf : ∀ s, State.Settles s (f s)) (n : Nat) : s.Settles (State.untilStill f id n s) := by
  induction n generalizing s with
  | zero => exact .refl s
  | succ n ih =>
    unfold State.untilStill
    dsimp only
    split
    · exact hf s
    · exact (hf s).trans (ih _)

theorem State.reportLost_settles (lane : Nat) : s.Settles (s.reportLost id lane) :=
  s.modSkein_settles id fun k => by
    have lost : k.Holds { k with joinLost := true, paired := k.paired.map fun p => { p with lost := true } } := ⟨rfl, rfl, fun c => by cases c <;> rfl⟩
    dsimp only
    split
    · exact lost.trans (Skein.addErr_holds ..)
    · exact lost

theorem State.release_settles : s.Settles (s.release id) := by
  unfold State.release
  split
  · exact .refl s
  extract_lets waits s1 s2
  split
  · exact .refl s
  · have freed : s.Settles s1 := s.modSkein_settles id fun k => .foldl k (fun k p => by
      dsimp only
      split
      · split
        · exact (k.modStrand_holds ..).trans (Skein.dropRecord_holds ..)
        · exact k.modStrand_holds ..
      · exact k.modStrand_holds ..) _
    have joined : s1.Settles s2 := s1.memops_settles _
    split
    · exact freed.trans (joined.trans (s2.reportLost_settles ..))
    · exact freed.trans joined

theorem State.settle_settles : s.Settles (s.settle id) := by
  unfold State.settle
  split
  · exact .refl s
  extract_lets s1 s2
  have completed : s.Settles s1 := s.untilStill_settles id (fun s => s.completions_settles id) 40
  have released : s1.Settles s2 := s1.release_settles id
  split
  · exact completed.trans released
  · exact completed.trans (released.trans (s2.untilStill_settles id (fun s => s.completions_settles id) 40))

theorem State.settle_within : State.Within settleParts s (s.settle id) := (s.settle_settles id).within

end

/-! ### The release of copy schedule entries -/

/-- What the release of entries changes: the queues, their names, the group's place in its schedule, and the ring (R39, R190). -/
def releaseParts : List Part := [.ops, .nextName, .groups] ++ placeParts

/-- Every group is what it was, but for its place in its copy schedule. -/
def State.Releases (s t : State) : Prop :=
  ∀ gid g, s.group? gid = some g → ∃ p r, t.group? gid = some { g with schedPos := p, released := r }

section
variable {s t u : State} {gid : Nat}

theorem State.Releases.refl (s : State) : s.Releases s := fun _ g h => ⟨g.schedPos, g.released, h⟩
theorem State.Releases.trans (h : s.Releases t) (h' : t.Releases u) : s.Releases u := fun gid g hg => by
  obtain ⟨p, r, ht⟩ := h gid g hg
  obtain ⟨p', r', hu⟩ := h' gid { g with schedPos := p, released := r } ht
  exact ⟨p', r', hu⟩
theorem State.Within.releases {P : List Part} (h : State.Within P s t) (hg : Part.groups ∉ P := by decide) : s.Releases t :=
  fun gid g hs => ⟨g.schedPos, g.released, (h.group?_eq gid hg).trans hs⟩
theorem State.modGroup_releases (f : Group → Group) (hf : ∀ g, ∃ p r, f g = { g with schedPos := p, released := r }) :
    s.Releases (s.modGroup gid f) := fun i g hg => by
  rw [State.group?_modGroup]
  split
  · next h =>
    subst h
    obtain ⟨p, r, he⟩ := hf g
    exact ⟨p, r, by rw [hg, Option.map_some, he]⟩
  · exact ⟨g.schedPos, g.released, hg⟩

variable (s)
/-- A release puts operations of new names behind those that are there. -/
structure State.Queues (s t : State) : Prop where
  within : State.Within releaseParts s t
  groups : s.Releases t
  names : s.nextName ≤ t.nextName
  ops : ∃ os, t.ops = s.ops ++ os ∧ ∀ o ∈ os, s.nextName ≤ o.id

theorem State.Queues.refl : s.Queues s := ⟨.refl .., .refl s, Nat.le_refl _, [], by simp, by simp⟩
variable {s}
theorem State.Queues.trans (h : s.Queues t) (h' : t.Queues u) : s.Queues u := by
  obtain ⟨os, hos, new⟩ := h.ops
  obtain ⟨os', hos', new'⟩ := h'.ops
  refine ⟨h.within.trans h'.within, h.groups.trans h'.groups, h.names.trans h'.names, os ++ os', by rw [hos', hos, List.append_assoc], ?_⟩
  intro o ho
  rcases List.mem_append.1 ho with ho | ho
  · exact new o ho
  · exact h.names.trans (new' o ho)

/-- The operation of an entry that is released for a group. -/
def State.releasedOp (s : State) (gid : Nat) (g : Group) (e : SchedEnt) (stat : OpStat) : EngOp :=
  { id := s.nextName, kind := e.forGroup (s.lrecOfGroup g) g.lin, core := g.core, group := gid, sk := none, lane := 0
    entry := none, cls := .copy, stat := stat, progress := 0, credited := 0, cancelReq := false, members := []
    pairing := none, written := [], report := g.reportsAt e.stage, remote := [], xBytes := [], tainted := [], stale := [] }
/-- The state in which an entry's operation has its name, and its slot of the ring where it goes there. -/
def State.named (s : State) (g : Group) (o : EngOp) : State := ({ s with nextName := s.nextName + 1 } : State).ringPut g o.stat o.kind
/-- One entry is released. -/
def State.releaseEntry (s : State) (gid : Nat) (g : Group) (o : EngOp) : State :=
  ({ s.named g o with ops := (s.named g o).ops ++ [o] } : State).modGroup gid fun g =>
    { g with schedPos := g.schedPos + 1, released := g.released ++ [o.id] }

theorem State.releaseDue_succ (s : State) (gid n : Nat) : s.releaseDue gid (n + 1) =
    match s.group? gid with
    | none => s
    | some g => match s.dueEntry g, s.shuttlePlace g.core gid with
      | some e, some stat => (s.releaseEntry gid g (s.releasedOp gid g e stat)).releaseDue gid n
      | _, _ => s := rfl

theorem State.named_within (s : State) (g : Group) (o : EngOp) : State.Within (.nextName :: placeParts) s (s.named g o) :=
  (s.nextName_within _).mono.trans (State.ringPut_within ..).mono
theorem State.named_nextName (s : State) (g : Group) (o : EngOp) : (s.named g o).nextName = s.nextName + 1 :=
  (State.ringPut_within _ g o.stat o.kind).same .nextName (by decide)

theorem State.releaseEntry_queues (s : State) (gid : Nat) (g : Group) {o : EngOp} (ho : o.id = s.nextName) :
    s.Queues (s.releaseEntry gid g o) where
  within := (s.named_within g o).mono.trans ((State.ops_within _ _).mono.trans (State.modGroup_within ..).mono)
  groups := ((s.named_within g o).releases).trans (State.Releases.trans ((State.ops_within _ _).releases)
    (State.modGroup_releases _ fun g => ⟨_, _, rfl⟩))
  names := by
    show s.nextName ≤ (s.named g o).nextName
    rw [State.named_nextName]
    exact Nat.le_succ _
  ops := by
    refine ⟨[o], ?_, fun x hx => ?_⟩
    · show (s.named g o).ops ++ [o] = _
      rw [(s.named_within g o).same .ops (by decide)]
    · obtain rfl := List.mem_singleton.1 hx
      exact ho.ge

theorem State.releaseDue_queues (s : State) (gid n : Nat) : s.Queues (s.releaseDue gid n) := by
  induction n generalizing s with
  | zero => exact .refl s
  | succ n ih =>
    rw [State.releaseDue_succ]
    split
    · exact .refl s
    · split
      · exact State.Queues.trans (s.releaseEntry_queues _ _ rfl) (ih _)
      · exact .refl s

theorem State.release_queues (s : State) (gid : Nat) : s.Queues (s.release_ gid) := by
  unfold State.release_
  split
  · exact s.releaseDue_queues ..
  · exact .refl s
end

end Sys2Proof.Machine
end

section
/-! PROOFS. The governor, the entry state of a skein, reservations, held submissions and copy schedules (R34, R38, R43, R48, R56). -/

-- one proof at a time: proofs elaborated side by side wait for each other's case splits, each on a stack of its own
set_option Elab.async false

namespace Sys2Proof.Machine

theorem State.launch?_modLaunch_of {s : State} {lid : LaunchId} {l : Launch} (hl : s.launch? lid = some l) (f : Launch → Launch)
    (hf : ∀ x, (f x).lid = x.lid := by exact fun _ => rfl) : (s.modLaunch lid f).launch? lid = some (f l) := by
  rw [State.launch?_modLaunch s lid f hf, hl, Option.map_some]

/-! ### The governor (R56, R263) -/

theorem State.kLimit_eq (s : State) (core : Nat) : s.kLimit core = (let d := s.die (dieOf core)
    if d.throttled = true ∨ d.powerThrottled = true ∨ (∃ x, d.droopAt = some x ∧ (s.core core).winPrev ≤ x) ∨ d.clockKHz ≠ 1250000
    then 0 else 8) := by
  unfold State.kLimit
  dsimp only
  congr 1
  simp only [Bool.or_eq_true, Option.any_eq_true, decide_eq_true_eq, bne_iff_ne, or_assoc]

theorem exec_governorWindow (s : State) (core gated : Nat) : ∃ t, exec (.governorWindow core gated) s = .next t
    ∧ (t.core core).k = min (min 8 (16 * gated / 131072)) (t.core core).kLimit ∧ (t.core core).kLimit = s.kLimit core := by
  refine ⟨_, rfl, ?_⟩
  rw [State.core_modCore, if_pos rfl]
  exact ⟨rfl, rfl⟩

/-! ### The state of a skein at entry (R34) -/

/-- A read of a store that lists some keys of a range. -/
theorem Sparse.get_filterMap_range' {ν : Type} (d : ν) (p : Nat → Bool) (v : Nat → ν) (a n m : Nat) :
    Sparse.get d ((List.range' a n).filterMap fun l => if p l then none else some (l, v l)) m =
      if a ≤ m ∧ m < a + n ∧ p m = false then v m else d := by
  induction n generalizing a with
  | zero => rw [if_neg (by omega)]; rfl
  | succ n ih =>
    rw [List.range'_succ, List.filterMap_cons]
    cases hp : p a with
    | true =>
      simp only [if_true, ih]
      refine if_congr ⟨fun ⟨h1, h2, h3⟩ => ⟨by omega, by omega, h3⟩, fun ⟨h1, h2, h3⟩ => ⟨?_, by omega, h3⟩⟩ rfl rfl
      have : m ≠ a := fun e => by rw [e, hp] at h3; cases h3
      omega
    | false =>
      simp only [Bool.false_eq_true, if_false, Sparse.get, ih]
      by_cases hlt : m < a
      · rw [if_pos hlt, if_neg (by omega)]
      · by_cases he : m = a
        · subst he
          rw [if_neg hlt, if_pos rfl, if_pos ⟨Nat.le_refl _, by omega, hp⟩]
        · rw [if_neg hlt, if_neg he]
          exact if_congr ⟨fun ⟨h1, h2, h3⟩ => ⟨by omega, by omega, h3⟩, fun ⟨h1, h2, h3⟩ => ⟨by omega, by omega, h3⟩⟩ rfl rfl

section
variable (r : LRec) (gid lin i clock base : Nat)

theorem entrySkein_raw (q l : Nat) (hl : l < 32) :
    (entrySkein r gid lin i clock base).raw q l = if q = 0 then BitVec.ofNat 32 (32 * i + l) else 0 := by
  have vregs : (entrySkein r gid lin i clock base).vregs = (List.range' 0 32).filterMap fun l =>
      if 32 * i + l == 0 then none else some (l, BitVec.ofNat 32 (32 * i + l)) := by
    rw [← List.range_eq_range']
    simp [entrySkein, Skein.reseed]
  rw [Skein.raw, vregs, Sparse.get_filterMap_range']
  by_cases hq : q = 0
  · subst hq
    rw [if_pos rfl, Nat.mul_zero, Nat.zero_add]
    by_cases h0 : 32 * i + l = 0
    · rw [if_neg (by simp [h0]), h0]
      rfl
    · rw [if_pos ⟨Nat.zero_le _, by omega, beq_eq_false_iff_ne.2 h0⟩]
  · rw [if_neg (by omega), if_neg hq]

theorem entrySkein_s (n : Nat) : (entrySkein r gid lin i clock base).s n =
    if n = 4 then BitVec.ofNat 64 (base + areaOf r i) else if n = 3 then BitVec.ofNat 64 i else if n = 2 then BitVec.ofNat 64 lin
    else if n = 1 then r.args else 0 := by
  have reseed (k : Skein) (x : W32) : (k.reseed x).s n = k.s n := rfl
  have zero : ∀ k : Skein, k.sregs = [] → k.s n = 0 := fun k hk => by rw [Skein.s, hk]; split <;> rfl
  simp only [entrySkein, reseed, Skein.s_setS, ne_eq, OfNat.ofNat_ne_zero, one_ne_zero, not_false_eq_true, and_true]
  rw [zero _ rfl]

theorem entrySkein_privBase : (entrySkein r gid lin i clock base).privBase = BitVec.ofNat 64 (base + areaOf r i) := by
  simp [entrySkein, Skein.reseed]
theorem entrySkein_group : (entrySkein r gid lin i clock base).group = gid := by simp [entrySkein, Skein.reseed]
theorem entrySkein_index : (entrySkein r gid lin i clock base).index = i := by simp [entrySkein, Skein.reseed]
theorem entrySkein_s_lin : (entrySkein r gid lin i clock base).s 2 = BitVec.ofNat 64 lin := by
  rw [entrySkein_s, if_neg (by decide), if_neg (by decide), if_pos rfl]

theorem entrySkein_live : ∃ x, (entrySkein r gid lin i clock base).live = [(0, x)] ∧ x.pc = r.entry ∧ x.mask = 0xFFFFFFFF ∧ x.nest = []
    ∧ x.blk = none := by
  have strands (k : Skein) (x : Strand) (h : k.strands = [some x, none, none, none]) : k.live = [(0, x)] := by
    simp only [Skein.live, Skein.strand?, h]
    rfl
  exact ⟨_, strands _ _ (by simp only [entrySkein, Skein.reseed, Skein.setS_strands]; rfl), rfl, rfl, rfl, rfl⟩
end

/-! ### The least element (R47) -/

section
variable (f : Nat → Nat) {l : List Nat} {x : Nat}
theorem leastBy_spec (h : leastBy f l = some x) : x ∈ l ∧ ∀ y ∈ l, f x ≤ f y := by
  induction l generalizing x with
  | nil => cases h
  | cons a l ih =>
    rw [leastBy] at h
    split at h
    · next y hy =>
      obtain ⟨mem, least⟩ := ih hy
      split at h
      · next hlt =>
        obtain rfl := Option.some.inj h
        exact ⟨List.mem_cons_of_mem _ mem, List.forall_mem_cons.2 ⟨hlt.le, least⟩⟩
      · next hle =>
        obtain rfl := Option.some.inj h
        exact ⟨List.mem_cons_self, List.forall_mem_cons.2 ⟨Nat.le_refl _, fun z hz => (Nat.not_lt.1 hle).trans (least z hz)⟩⟩
    · next hnone =>
      obtain rfl := Option.some.inj h
      cases l with
      | nil => exact ⟨List.mem_cons_self, by simp⟩
      | cons b l =>
        rw [leastBy] at hnone
        split at hnone
        · split at hnone <;> cases hnone
        · cases hnone

theorem leastBy_isSome (h : ∃ y, y ∈ l) : ∃ x, leastBy f l = some x := by
  obtain ⟨y, hy⟩ := h
  cases l with
  | nil => cases hy
  | cons a l =>
    rw [leastBy]
    split
    · split <;> exact ⟨_, rfl⟩
    · exact ⟨_, rfl⟩
end

/-! ### Reservations (R48) -/

theorem State.freeSum_le (s : State) (r : LRec) (c : Nat) : s.freeSum r c ≤ 832 := by
  unfold State.freeSum
  dsimp only
  split <;> omega

/-- The launch at the head of the order, without a reservation, has fitted nowhere on the die for 2^22 cycles. -/
structure State.Reserves (s : State) (die : Nat) (l : Launch) : Prop where
  first : ∃ ls, s.candidates die = l :: ls
  holdsNone : ∀ x ∈ (s.die die).reserve, x.1 ≠ l.lid
  waited : ∃ t0, Tab.get? l.noFit die = some t0 ∧ t0 + 2 ^ 22 ≤ s.clock

theorem exec_placementReservation {s : State} {die : Nat} {l : Launch} (h : s.Reserves die l)
    (free : ∃ c ∈ placesOf l.lrec die, s.reservable l c = true) :
    ∃ t c, exec (.placementReservation die) s = .next t ∧ (t.die die).reserve = (s.die die).reserve ++ [(l.lid, c, s.clock)]
      ∧ c ∈ placesOf l.lrec die ∧ s.reservable l c = true
      ∧ ∀ c' ∈ placesOf l.lrec die, s.reservable l c' = true → s.freeSum l.lrec c' ≤ s.freeSum l.lrec c := by
  obtain ⟨⟨ls, hls⟩, holdsNone, t0, hfit, hlong⟩ := h
  obtain ⟨c0, hc0, hfree⟩ := free
  obtain ⟨c, hc⟩ := leastBy_isSome (fun c => 2000 - s.freeSum l.lrec c) ⟨c0, List.mem_filter.2 ⟨hc0, hfree⟩⟩
  obtain ⟨mem, least⟩ := leastBy_spec _ hc
  obtain ⟨hplace, hres⟩ := List.mem_filter.1 mem
  have noWait : (s.clock < t0 + 2 ^ 22 || (s.die die).reserve.any (·.1 == l.lid)) = false := by
    rw [Bool.or_eq_false_iff, decide_eq_false_iff_not, List.any_eq_false]
    exact ⟨by omega, fun x hx => by rw [beq_iff_eq]; exact holdsNone x hx⟩
  refine ⟨s.modDie die fun d => { d with reserve := d.reserve ++ [(l.lid, c, s.clock)] }, c, ?_, ?_, hplace, hres, fun c' hp hr => ?_⟩
  · show execPlacementReservation die s = _
    simp only [execPlacementReservation, hls, hfit, noWait, hc]
    rfl
  · rw [State.die_modDie, if_pos rfl]
  · have := least c' (List.mem_filter.2 ⟨hp, hr⟩)
    have := s.freeSum_le l.lrec c
    have := s.freeSum_le l.lrec c'
    omega

/-! ### Held submissions (R43) -/

theorem exec_heldSubmissionAccept {s : State} {q : Nat} {r : LRec} {tag : W64} {svc : Option (Nat × Nat)}
    (h : (s.work.held.find? fun x => s.queued x.1 < 512) = some (q, r, tag, svc)) : exec .heldSubmissionAccept s =
      .next ((s.modWork fun w => { w with held := w.held.erase (q, r, tag, svc) }).acceptLaunch r tag svc) := by
  show execHeldSubmissionAccept s = _
  rw [execHeldSubmissionAccept, h]

/-! ### The read of a copy schedule (R38) -/

theorem State.schedBytes_within (s : State) (j : Job) (slice va n : Nat) : State.Within (.faults :: homeParts) s (s.schedBytes j slice va n).1 := by
  unfold State.schedBytes
  have fated : State.Within (.faults :: homeParts) s (s.engFate j (slice / 8) .read va n).1 := (s.engFate_within ..).mono
  split
  · next h => exact (fated.of_eq h).trans (State.reportFault_within ..).mono
  · next h => exact fated.of_eq h
  · next h => exact (fated.of_eq h).trans (State.engRead_within ..).mono

/-- Where every value of a range is there, they are a list. -/
theorem exists_of_forall_some {α : Type} {f : Nat → Option α} {n : Nat} (h : ∀ i, i < n → f i ≠ none) :
    ∃ xs : List α, (List.range n).map f = xs.map some ∧ xs.length = n ∧ ∀ i, i < n → xs[i]? = f i := by
  induction n with
  | zero => exact ⟨[], rfl, rfl, by simp⟩
  | succ n ih =>
    obtain ⟨xs, hmap, hlen, hget⟩ := ih fun i hi => h i (hi.trans n.lt_succ_self)
    obtain ⟨x, hx⟩ := Option.ne_none_iff_exists'.1 (h n n.lt_succ_self)
    refine ⟨xs ++ [x], by simp [List.range_succ, hmap, hx], by simp [hlen], fun i hi => ?_⟩
    rcases Nat.lt_succ_iff_lt_or_eq.1 hi with hlt | rfl
    · rw [List.getElem?_append_left (hlen ▸ hlt), hget i hlt]
    · rw [← hlen, List.getElem?_concat_length, hlen, hx]

theorem State.failLaunch_launch? {s : State} {lid : LaunchId} {l : Launch} (h : s.Running lid l) (cause : Nat) (pc fva : W64)
    (group skein core : Nat) : ∃ l', (s.failLaunch lid cause pc fva group skein core).launch? lid = some l' ∧ l'.lrec = l.lrec
      ∧ l'.ending = some 2 ∧ l'.cause = cause ∧ l'.failVa = fva := by
  obtain ⟨hl, hst, hend⟩ := h
  simp only [State.failLaunch, hl, hst, hend, Option.isSome_none, Bool.or_false, Bool.false_eq_true, if_false]
  exact State.stopLaunch_launch? _ ⟨State.launch?_modLaunch_of hl fun x =>
    { x with cause := cause, failPc := pc, failVa := fva, failGroup := group, failSkein := skein, failCore := core }, hst, hend⟩ stFailed

/-- A launch whose copy schedule is to be read: it is eligible, has not ended and its schedule has not been read. -/
structure State.ReadsSched (s : State) (lid : LaunchId) (l : Launch) : Prop where
  run : s.Running lid l
  sched : l.sched = none
  eligible : l.eligible ≠ none

section
variable {s s1 : State} {lid : LaunchId} {l : Launch} {j : Job} (h : s.ReadsSched lid l)
include h

theorem execCopyScheduleRead_of_reads : execCopyScheduleRead lid s =
    if l.lrec.entries == 0 then .next (s.modLaunch lid fun l => { l with sched := some [] })
    else match s.job? lid.job with
      | none => .next s
      | some j =>
        match s.schedBytes j (l.queue / 2) l.lrec.sched.toNat (144 * l.lrec.entries) with
        | (s, none) => .next s
        | (s, some (.error (cause, a))) => .next (s.failLaunch lid cause 0 (BitVec.ofNat 64 a) 0 0 0)
        | (s, some (.ok bs)) =>
          let es := (List.range l.lrec.entries).map fun i => s.schedEntry j 0 l.lrec ((bs.drop (144 * i)).take 144)
          if es.all (·.isSome) then .next (s.modLaunch lid fun l => { l with sched := some (es.filterMap id) })
          else .next (s.failLaunch lid 0 0 0 0 0 0) := by
  obtain ⟨⟨hl, hst, hend⟩, hsched, hel⟩ := h
  have open_ : (l.sched.isSome || l.eligible.isNone || l.status.isSome || l.ending.isSome) = false := by
    simp [hst, hend, hsched, Option.isNone_eq_false_iff, Option.isSome_iff_ne_none, hel]
  rw [execCopyScheduleRead, hl]
  exact (if_neg (by rw [open_]; exact Bool.false_ne_true)).trans rfl

theorem exec_copyScheduleRead_empty (h0 : l.lrec.entries = 0) : ∃ t l', exec (.copyScheduleRead lid) s = .next t
    ∧ t.launch? lid = some l' ∧ l'.sched = some [] := by
  refine ⟨_, _, ?_, State.launch?_modLaunch_of h.run.launch fun l => { l with sched := some [] }, rfl⟩
  show execCopyScheduleRead lid s = _
  rw [execCopyScheduleRead_of_reads h, h0, if_pos (beq_self_eq_true 0)]

variable (h0 : l.lrec.entries ≠ 0) (hj : s.job? lid.job = some j)
include h0 hj

omit h0 hj in
/-- The bytes of a schedule are read and the launch is as it was. -/
theorem State.ReadsSched.running_after {x : Option (Except (Nat × Nat) (List Byte))}
    (hb : s.schedBytes j (l.queue / 2) l.lrec.sched.toNat (144 * l.lrec.entries) = (s1, x)) : s1.Running lid l := by
  have read := (s.schedBytes_within j (l.queue / 2) l.lrec.sched.toNat (144 * l.lrec.entries)).of_eq hb
  exact ⟨(read.launch?_eq lid).trans h.run.launch, h.run.status, h.run.ending⟩

theorem exec_copyScheduleRead_fails {cause a : Nat}
    (hb : s.schedBytes j (l.queue / 2) l.lrec.sched.toNat (144 * l.lrec.entries) = (s1, some (.error (cause, a)))) :
    ∃ t l', exec (.copyScheduleRead lid) s = .next t ∧ t.launch? lid = some l' ∧ l'.ending = some 2 ∧ l'.cause = cause
      ∧ l'.failVa = BitVec.ofNat 64 a := by
  obtain ⟨l', hl', -, hend, hcause, hva⟩ := State.failLaunch_launch? (h.running_after hb) cause 0 (BitVec.ofNat 64 a) 0 0 0
  refine ⟨_, l', ?_, hl', hend, hcause, hva⟩
  show execCopyScheduleRead lid s = _
  rw [execCopyScheduleRead_of_reads h, if_neg (by simpa using h0), hj]
  simp only [hb]

variable {bs : List Byte} (hb : s.schedBytes j (l.queue / 2) l.lrec.sched.toNat (144 * l.lrec.entries) = (s1, some (.ok bs)))
include hb

theorem exec_copyScheduleRead_ok (valid : ∀ i, i < l.lrec.entries → s1.schedEntry j 0 l.lrec ((bs.drop (144 * i)).take 144) ≠ none) :
    ∃ t l' es, exec (.copyScheduleRead lid) s = .next t ∧ t.launch? lid = some l' ∧ l'.sched = some es ∧ es.length = l.lrec.entries
      ∧ ∀ i, i < l.lrec.entries → es[i]? = s1.schedEntry j 0 l.lrec ((bs.drop (144 * i)).take 144) := by
  obtain ⟨es, hes, len, get⟩ := exists_of_forall_some valid
  refine ⟨_, _, es, ?_, State.launch?_modLaunch_of (h.running_after hb).launch fun l => { l with sched := some es }, rfl, len, get⟩
  show execCopyScheduleRead lid s = _
  rw [execCopyScheduleRead_of_reads h, if_neg (by simpa using h0), hj]
  have all : (es.map some).all (·.isSome) = true := by
    rw [List.all_map]
    exact List.all_eq_true.2 fun _ _ => rfl
  have back : (es.map some).filterMap id = es := by
    rw [List.filterMap_map]
    exact List.filterMap_some
  simp only [hb, hes, all, back, if_true]

theorem exec_copyScheduleRead_invalid (bad : ∃ i, i < l.lrec.entries ∧ s1.schedEntry j 0 l.lrec ((bs.drop (144 * i)).take 144) = none) :
    ∃ t l', exec (.copyScheduleRead lid) s = .next t ∧ t.launch? lid = some l' ∧ l'.ending = some 2 ∧ l'.cause = 0 := by
  obtain ⟨i, hi, hnone⟩ := bad
  obtain ⟨l', hl', -, hend, hcause, -⟩ := State.failLaunch_launch? (h.running_after hb) 0 0 0 0 0 0
  have notAll : ((List.range l.lrec.entries).map fun i => s1.schedEntry j 0 l.lrec ((bs.drop (144 * i)).take 144)).all (·.isSome) = false := by
    rw [List.all_eq_false]
    exact ⟨_, List.mem_map.2 ⟨i, List.mem_range.2 hi, hnone⟩, by simp⟩
  refine ⟨_, l', ?_, hl', hend, hcause⟩
  show execCopyScheduleRead lid s = _
  rw [execCopyScheduleRead_of_reads h, if_neg (by simpa using h0), hj]
  simp only [hb]
  rw [if_neg (by rw [notAll]; exact Bool.false_ne_true)]
end

end Sys2Proof.Machine
end

section
/-! PROOFS. The placement of a launch's next group (R34, R35, R45 to R51). -/

-- one proof at a time: proofs elaborated side by side wait for each other's case splits, each on a stack of its own
set_option Elab.async false

namespace Sys2Proof.Machine

/-! ### Slots (R51) -/

theorem pickSlots_length (n : Nat) (free : List Nat) : (pickSlots n free).length = n := by
  induction n generalizing free with
  | zero => rfl
  | succ n ih => rw [pickSlots, List.length_cons, ih]

/-- The slot that is picked first is a free one. -/
theorem pickSlots_first_mem {free : List Nat} (h : free ≠ []) :
    (if (free.filter (16 ≤ ·)).length > (free.filter (· < 16)).length then (free.filter (16 ≤ ·)).headD 0 else (free.filter (· < 16)).headD 0)
      ∈ free := by
  have head : ∀ p : Nat → Bool, (free.filter p) ≠ [] → (free.filter p).headD 0 ∈ free := fun p hp => by
    rw [List.headD_eq_head?_getD, List.head?_eq_some_head hp]
    exact List.mem_of_mem_filter (List.head_mem hp)
  split
  · next hgt => exact head _ (List.ne_nil_of_length_pos (by omega))
  · next hle =>
    refine head _ fun h0 => h ?_
    rw [h0, List.length_nil, Nat.not_lt, Nat.le_zero, List.length_eq_zero_iff] at hle
    refine List.eq_nil_iff_forall_not_mem.2 fun x hx => ?_
    rcases Nat.lt_or_ge x 16 with hlt | hge
    · exact List.eq_nil_iff_forall_not_mem.1 h0 x (List.mem_filter.2 ⟨hx, decide_eq_true hlt⟩)
    · exact List.eq_nil_iff_forall_not_mem.1 hle x (List.mem_filter.2 ⟨hx, decide_eq_true hge⟩)

/-- As many slots as are free are distinct ones of them. -/
theorem pickSlots_nodup {n : Nat} {free : List Nat} (hfree : free.Nodup) (hn : n ≤ free.length) :
    (pickSlots n free).Nodup ∧ ∀ x ∈ pickSlots n free, x ∈ free := by
  induction n generalizing free with
  | zero => exact ⟨List.nodup_nil, by simp [pickSlots]⟩
  | succ n ih =>
    obtain ⟨x, first, picked⟩ : ∃ x ∈ free, pickSlots (n + 1) free = x :: pickSlots n (free.filter (· != x)) :=
      ⟨_, pickSlots_first_mem (List.ne_nil_of_length_pos (Nat.lt_of_lt_of_le n.succ_pos hn)), rfl⟩
    rw [picked]
    have rest : free.filter (· != x) = free.erase x := (hfree.erase_eq_filter x).symm
    obtain ⟨nodup, sub⟩ := ih (free := free.filter (· != x)) (hfree.filter _) (by
      rw [rest, List.length_erase_of_mem first]
      omega)
    refine ⟨List.nodup_cons.2 ⟨fun hx => ?_, nodup⟩, List.forall_mem_cons.2 ⟨first, fun y hy => List.mem_of_mem_filter (sub y hy)⟩⟩
    simpa using (List.mem_filter.1 (sub x hx)).2

theorem State.freeSlots_nodup (s : State) (c : Nat) : (s.freeSlots c).Nodup := List.nodup_range.filter _

section
variable {P : List Part} {s t : State} (h : State.Within P s t)
include h
theorem State.Within.lrecOfGroup_eq (g : Group) (hw : Part.work ∉ P := by decide) : t.lrecOfGroup g = s.lrecOfGroup g := by
  rw [State.lrecOfGroup, State.lrecOfGroup, h.launch?_eq _ hw]
theorem State.Within.freeSlots_eq (c : Nat) (hw : Part.work ∉ P := by decide) (hg : Part.groups ∉ P := by decide) :
    t.freeSlots c = s.freeSlots c := by
  have groups : t.groups = s.groups := h.same .groups hg
  simp only [State.freeSlots, State.slotsTaken, groups, h.lrecOfGroup_eq _ hw]
end

/-! ### A group's place (R46, R50, R51) -/

/-- Every skein of a group has a slot of its own. -/
def Group.Seats (g : Group) (r : LRec) : Prop := ∀ i j, i < j → j < r.skeins → g.skId r j ≠ g.skId r i

theorem Group.seats_of_single {g : Group} {r : LRec} (hlen : g.slots.length = r.skeins) (hnodup : g.slots.Nodup) :
    g.Seats r := fun i j hij hj heq => by
  have hslot := congrArg SkId.slot heq
  simp only [Group.skId] at hslot
  rw [List.getD_eq_getElem _ _ (hlen ▸ hj), List.getD_eq_getElem _ _ (hlen ▸ hij.trans hj)] at hslot
  exact hij.ne' ((List.Nodup.getElem_inj_iff hnodup).1 hslot)

theorem Group.seats_of_twin {g : Group} {r : LRec} {a b : List Nat} (htwin : g.twin = true) (hslots : g.slots = a ++ b)
    (ha : a.length = share r) (hb : b.length = r.skeins - share r) (hna : a.Nodup) (hnb : b.Nodup) : g.Seats r := fun i j hij hj heq => by
  have hcore := congrArg SkId.core heq
  have hslot := congrArg SkId.slot heq
  simp only [Group.skId, Group.coreOf, htwin, Bool.true_and, decide_eq_true_eq, hslots] at hcore hslot
  by_cases hi : i < share r
  · have hjs : j < share r := by
      by_contra hjs
      rw [if_pos (Nat.not_lt.1 hjs), if_neg (by omega)] at hcore
      omega
    rw [List.getD_append _ _ _ _ (ha ▸ hjs), List.getD_append _ _ _ _ (ha ▸ hi), List.getD_eq_getElem _ _ (ha ▸ hjs),
      List.getD_eq_getElem _ _ (ha ▸ hi)] at hslot
    exact hij.ne' ((List.Nodup.getElem_inj_iff hna).1 hslot)
  · have hi' : i - share r < b.length := by omega
    have hj' : j - share r < b.length := by omega
    rw [List.getD_append_right _ _ _ _ (by omega), List.getD_append_right _ _ _ _ (by omega), ha, List.getD_eq_getElem _ _ hj',
      List.getD_eq_getElem _ _ hi'] at hslot
    have := (List.Nodup.getElem_inj_iff hnb).1 hslot
    omega

section
variable (s : State)

/-- What a claim changes (R35, R50). -/
def claimParts : List Part := [.cores, .scratch, .tiles, .soft]

theorem State.clearCore_within (core : Nat) (gm tm : List Nat) : State.Within claimParts s (s.clearCore core gm tm) :=
  State.Within.mono (P := [.scratch, .tiles, .soft]) (.of_update rfl)
theorem State.claim_within (core : Nat) (r : LRec) (n : Nat) : State.Within claimParts s (s.claim core r n).1 :=
  (s.modCore_within ..).mono.trans (State.clearCore_within ..)

theorem State.claimFor_within (g : Group) (r : LRec) (core : Nat) : State.Within claimParts s (s.claimFor g r core).1 := by
  unfold State.claimFor
  split
  · exact (s.claim_within ..).trans (State.claim_within ..)
  · exact s.claim_within ..

/-- A claim gives a group its place and what it has there, and no more. -/
theorem State.claimFor_group (g : Group) (r : LRec) (core : Nat) : ∃ gm gm2 tm tm2 sl, (s.claimFor g r core).2 =
    { g with core := core, gmap := gm, tmap := tm, gmap2 := gm2, tmap2 := tm2, slots := sl } := by
  unfold State.claimFor
  split
  · exact ⟨_, _, _, _, _, rfl⟩
  · exact ⟨_, g.gmap2, _, g.tmap2, _, rfl⟩

theorem State.claimFor_slots_single {g : Group} {r : LRec} (htwin : r.twin = false) (core : Nat) :
    (s.claimFor g r core).2.slots = pickSlots r.skeins (s.freeSlots core) := by
  rw [State.claimFor, if_neg (by simp [htwin])]
  rfl
theorem State.claimFor_slots_twin {g : Group} {r : LRec} (htwin : r.twin = true) (core : Nat) :
    (s.claimFor g r core).2.slots = pickSlots (share r) (s.freeSlots core) ++ pickSlots (r.skeins - share r) (s.freeSlots (core + 1)) := by
  rw [State.claimFor, if_pos htwin]
  show _ ++ pickSlots _ (State.freeSlots (s.claim core r (share r)).1 (core + 1)) = _
  rw [(s.claim_within core r (share r)).freeSlots_eq]
  rfl

theorem State.fitsCore_slots {s : State} {lid : LaunchId} {r : LRec} {core n : Nat} (h : s.fitsCore lid r core n = true) :
    n ≤ (s.freeSlots core).length := by
  simp only [State.fitsCore, Bool.and_eq_true, decide_eq_true_eq] at h
  exact h.1.1.1.2

theorem State.claimFor_seats {lid : LaunchId} {r : LRec} {core : Nat} (hfits : s.fits lid r core = true) {g : Group} (htwin : g.twin = r.twin)
    {t : State} (h : ∀ c, t.freeSlots c = s.freeSlots c) : (t.claimFor g r core).2.Seats r := by
  have twin : (t.claimFor g r core).2.twin = r.twin := by
    obtain ⟨gm, gm2, tm, tm2, sl, hg⟩ := t.claimFor_group g r core
    rw [hg]
    exact htwin
  unfold State.fits at hfits
  by_cases hr : r.twin = true
  · rw [if_pos hr, Bool.and_eq_true] at hfits
    obtain ⟨even, odd⟩ := hfits
    have slots := t.claimFor_slots_twin (g := g) hr core
    rw [h, h] at slots
    exact Group.seats_of_twin (twin.trans hr) slots (pickSlots_length ..) (pickSlots_length ..)
      (pickSlots_nodup (s.freeSlots_nodup _) (State.fitsCore_slots even)).1 (pickSlots_nodup (s.freeSlots_nodup _) (State.fitsCore_slots odd)).1
  · rw [if_neg hr] at hfits
    have hr : r.twin = false := by simpa using hr
    have slots := t.claimFor_slots_single (g := g) hr core
    rw [h] at slots
    exact Group.seats_of_single (by rw [slots, pickSlots_length])
      (slots ▸ (pickSlots_nodup (s.freeSlots_nodup _) (State.fitsCore_slots hfits)).1)

/-! ### A group that is placed (R34, R35, R45) -/

theorem State.installPrivate_within (j : Job) (die base bytes : Nat) : State.Within placeParts s (s.installPrivate j die base bytes) :=
  .foldl (fun s _ => s.installPage_within ..) _ s

/-- The skeins of a group at entry. -/
def State.enterSkeins (s : State) (g : Group) (r : LRec) (gid base : Nat) : State :=
  (List.range r.skeins).foldl (fun s i => s.setSkein (g.skId r i) (entrySkein r gid g.lin i s.clock base)) s

theorem State.enterSkeins_eq (g : Group) (r : LRec) (gid base : Nat) : s.enterSkeins g r gid base = { s with
    skeins := List.foldl (fun m i => Tab.set m (g.skId r i) (entrySkein r gid g.lin i s.clock base)) s.skeins (List.range r.skeins) } := by
  unfold State.enterSkeins
  induction List.range r.skeins generalizing s with
  | nil => rfl
  | cons i is ih =>
    rw [List.foldl_cons, ih]
    rfl

theorem State.enterSkeins_skein? {g : Group} {r : LRec} (h : g.Seats r) (gid base : Nat) {i : Nat} (hi : i < r.skeins) :
    (s.enterSkeins g r gid base).skein? (g.skId r i) = some (entrySkein r gid g.lin i s.clock base) := by
  rw [State.enterSkeins_eq]
  exact Tab.get?_foldl_set_range s.skeins (g.skId r) (fun i => entrySkein r gid g.lin i s.clock base) r.skeins i hi fun j hij hj => h i j hij hj

/-- The new group before it has its place. -/
def State.newGroup (s : State) (l : Launch) (core : Nat) : Group :=
  let bytes := privBytesOf l.lrec
  { launch := l.lid, lin := l.next, core := core, twin := l.lrec.twin, st := .running, stage := 0, schedPos := 0, released := [], raises := []
    gmap := [], gmap2 := [], tmap := [], tmap2 := [], slots := [], exited := [], patterns := [], openPleat := []
    privBase := BitVec.ofNat 64 (window63 + 65536 * s.nextPriv), privBytes := bytes, entryHdr := none, entryBad := false, cancelled := false
    placedAt := s.clock, restoredAt := none, sSeen := [], saved := [], savedScratch := [], savedScratch2 := [], savedTiles := []
    savedTiles2 := [], savedTypes := [], savedEntries := [], preOrder := 0, prev := none, sealOp := 0, heldArr := [], saveArea := [], savedSoft := [] }

/-- The state in which a new group has its name and the addresses of the memory that is its own. -/
def State.namedGroup (s : State) (r : LRec) : State :=
  { s with nextName := s.nextName + 1, nextPriv := s.nextPriv + (privBytesOf r + 65535) / 65536 }

theorem State.placeNew_eq {j : Job} {l : Launch} (hj : s.job? l.lid.job = some j) (core : Nat) : s.placeNew l core =
    let p := (s.namedGroup l.lrec).claimFor (s.newGroup l core) l.lrec core
    let a : State := { p.1 with groups := p.1.groups ++ [(s.nextName, p.2)] }
    let b := a.installPrivate j (dieOf core) (window63 + 65536 * s.nextPriv) (privBytesOf l.lrec)
    let t := b.enterSkeins p.2 l.lrec s.nextName (window63 + 65536 * s.nextPriv)
    let u := t.modLaunch l.lid fun x => { x with next := x.next + 1, lastPlaced := t.clock, placedAll := x.placedAll || x.next + 1 == l.lrec.groups }
    (u.acquireCores p.2).release_ s.nextName := by
  rw [State.placeNew, hj]
  rfl

theorem State.namedGroup_within (r : LRec) : State.Within [.nextName, .nextPriv] s (s.namedGroup r) := .of_update rfl
theorem State.enterSkeins_within (g : Group) (r : LRec) (gid base : Nat) : State.Within [.skeins] s (s.enterSkeins g r gid base) :=
  .foldl (fun s _ => s.setSkein_within ..) _ s
end

theorem Tab.get?_append_of_none {κ ν : Type} [DecidableEq κ] {m : List (κ × ν)} {a : κ} (h : Tab.get? m a = none) (v : ν) :
    Tab.get? (m ++ [(a, v)]) a = some v := by
  induction m with
  | nil => simp [Tab.get?]
  | cons p m ih =>
    obtain ⟨k, w⟩ := p
    rw [Tab.get?] at h
    split at h
    · cases h
    · next hk => rw [List.cons_append, Tab.get?, if_neg hk, ih h]

/-- A group of a launch runs at a place, its skeins at entry. -/
structure State.Placed (t : State) (l : Launch) (core gid : Nat) (x : Group) : Prop where
  group : t.group? gid = some x
  launch : x.launch = l.lid
  lin : x.lin = l.next
  core : x.core = core
  st : x.st = .running
  skeins : ∀ i, i < l.lrec.skeins → ∃ k, t.skein? (x.skId l.lrec i) = some k ∧ k.group = gid ∧ k.index = i ∧ k.s 2 = BitVec.ofNat 64 l.next
  next : ∃ l', t.launch? l.lid = some l' ∧ l'.next = l.next + 1

theorem State.placeNew_placed {s : State} {j : Job} {l : Launch} {core : Nat} (hl : s.launch? l.lid = some l) (hj : s.job? l.lid.job = some j)
    (hfits : s.fits l.lid l.lrec core = true) (hnew : s.group? s.nextName = none) :
    ∃ x, (s.placeNew l core).Placed l core s.nextName x := by
  obtain ⟨gm, gm2, tm, tm2, sl, placed⟩ := (s.namedGroup l.lrec).claimFor_group (s.newGroup l core) l.lrec core
  rw [State.placeNew_eq s hj]
  extract_lets p _ a b t u
  have named : State.Within [.nextName, .nextPriv] s (s.namedGroup l.lrec) := s.namedGroup_within l.lrec
  have claimed : State.Within (.nextName :: .nextPriv :: claimParts) s p.1 := named.mono.trans (State.claimFor_within ..).mono
  have seats : p.2.Seats l.lrec := s.claimFor_seats hfits rfl fun c => named.freeSlots_eq c
  have hg : p.2 = _ := placed
  have joined : a.group? s.nextName = some p.2 := Tab.get?_append_of_none ((claimed.group?_eq _).trans hnew) _
  have grouped : State.Within [.groups] p.1 a := .of_update rfl
  have installed : State.Within placeParts a b := a.installPrivate_within ..
  have skeined : State.Within [.skeins] b t := b.enterSkeins_within ..
  have entered : State.Within (.skeins :: placeParts) a t := installed.mono.trans skeined.mono
  have here (i : Nat) (hi : i < l.lrec.skeins) := b.enterSkeins_skein? seats s.nextName (window63 + 65536 * s.nextPriv) hi
  have counted : State.Within [.work] t u := t.modWork_within _
  have rest := (State.release_queues (u.acquireCores p.2) s.nextName)
  have invalidated : State.Within [.caches, .memops] u (u.acquireCores p.2) := u.acquireCores_within p.2
  have standing : (u.acquireCores p.2).group? s.nextName = some p.2 :=
    ((invalidated.group?_eq _).trans ((counted.group?_eq _).trans (entered.group?_eq _))).trans joined
  have before : t.launch? l.lid = some l := (entered.launch?_eq _).trans ((grouped.launch?_eq _).trans ((claimed.launch?_eq _).trans hl))
  have launch := State.launch?_modLaunch_of before fun x =>
    { x with next := x.next + 1, lastPlaced := t.clock, placedAll := x.placedAll || x.next + 1 == l.lrec.groups }
  obtain ⟨pos, rel, after⟩ : ∃ pos rel, ((u.acquireCores p.2).release_ s.nextName).group? s.nextName =
      some { p.2 with schedPos := pos, released := rel } := rest.groups _ _ standing
  exact ⟨_, after, by rw [hg]; rfl, by rw [hg]; rfl, by rw [hg], by rw [hg]; rfl, fun i hi => ⟨_,
    (rest.within.skein?_eq _).trans ((invalidated.skein?_eq _).trans ((counted.skein?_eq _).trans (here i hi))), entrySkein_group .., entrySkein_index ..,
    (entrySkein_s_lin ..).trans (by rw [hg]; rfl)⟩, _, (rest.within.launch?_eq _).trans ((invalidated.launch?_eq _).trans launch), rfl⟩

/-! ### The placement step (R45 to R50) -/

section
variable {s : State} {l : Launch} {die c : Nat}

theorem State.pickPlace_spec (h : s.pickPlace l.lid l.lrec [die] = some c) : s.fits l.lid l.lrec c = true ∧ c ∈ placesOf l.lrec die
    ∧ ∀ c' ∈ placesOf l.lrec die, s.fits l.lid l.lrec c' = true → s.occupied l.lrec c ≤ s.occupied l.lrec c' := by
  rw [State.pickPlace, List.flatMap_singleton] at h
  obtain ⟨mem, least⟩ := leastBy_spec _ h
  obtain ⟨place, fits⟩ := List.mem_filter.1 mem
  exact ⟨fits, place, fun c' hp hf => least c' (List.mem_filter.2 ⟨hp, hf⟩)⟩

theorem State.placeOne_new (hcoop : l.lrec.coop = false) (hsaved : s.savedGroups l.lid = []) (hfree : s.blocked die l = false)
    (hplace : s.pickPlace l.lid l.lrec [die] = some c) : s.placeOne die l = some (s.placeNew l c) := by
  rw [State.placeOne, if_neg (by simp [hcoop]), hplace, hsaved]
  simp only [hfree, Bool.false_eq_true, if_false]

theorem State.noteFits_within (s : State) (die : Nat) (ls : List Launch) : State.Within [.work] s (s.noteFits die ls) :=
  .foldl (fun s _ => s.modWork_within _) _ s

/-- After a step of a distributor its launch waits anew, and its reservations are over (R45, R48). -/
theorem State.Placed.settled {t : State} {core gid : Nat} {x : Group} (h : t.Placed l core gid x) :
    ((t.modLaunch l.lid fun l => { l with noFit := [] }).endReserve l.lid).Placed l core gid x := by
  have noted : State.Within [.work] t (t.modLaunch l.lid fun l => { l with noFit := [] }) := t.modWork_within _
  have ended : State.Within [.dies] (t.modLaunch l.lid fun l => { l with noFit := [] })
      ((t.modLaunch l.lid fun l => { l with noFit := [] }).endReserve l.lid) := .of_update rfl
  obtain ⟨hg, hlaunch, hlin, hcore, hst, hk, l', hl', hnext⟩ := h
  refine ⟨(ended.group?_eq _).trans ((noted.group?_eq _).trans hg), hlaunch, hlin, hcore, hst, fun i hi => ?_, { l' with noFit := [] }, ?_, hnext⟩
  · obtain ⟨k, hk, rest⟩ := hk i hi
    exact ⟨k, (ended.skein?_eq _).trans ((noted.skein?_eq _).trans hk), rest⟩
  · exact (ended.launch?_eq _).trans (State.launch?_modLaunch_of hl' _)

/-- The state of a step of a distributor, once the launches of which its die has no room are noted. -/
def State.stepping (s : State) (die : Nat) : State := (s.modDie die fun x => { x with lastStep := s.clock }).markEligible

theorem exec_placementStep_early (h0 : (s.die die).lastStep ≠ 0) (hlt : s.clock < (s.die die).lastStep + 8) :
    exec (.placementStep die) s = .next s := by
  show execPlacementStep die s = _
  rw [execPlacementStep, if_pos (by simp [h0, hlt])]

theorem exec_placementStep {ls : List Launch} (ht : (s.die die).lastStep = 0 ∨ (s.die die).lastStep + 8 ≤ s.clock)
    (hshut : (s.stepping die).dieShut die = false)
    (hfirst : ((s.stepping die).noteFits die ((s.stepping die).candidates die)).candidates die = l :: ls) {t : State}
    (hplace : ((s.stepping die).noteFits die ((s.stepping die).candidates die)).placeOne die l = some t) :
    exec (.placementStep die) s = .next ((t.modLaunch l.lid fun l => { l with noFit := [] }).endReserve l.lid) := by
  have due : ((s.die die).lastStep != 0 && s.clock < (s.die die).lastStep + 8) = false := by
    rw [Bool.and_eq_false_iff, decide_eq_false_iff_not, bne_eq_false_iff_eq]
    omega
  show execPlacementStep die s = _
  unfold State.stepping at hshut hfirst hplace
  unfold execPlacementStep
  dsimp only
  rw [if_neg (by rw [due]; exact Bool.false_ne_true), if_neg (by rw [hshut]; exact Bool.false_ne_true), hfirst, State.placeFirst, hplace]
end

end Sys2Proof.Machine
end

section
/-! PROOFS. Pre-emption and the save of a group (R60 to R64). -/

-- one proof at a time: proofs elaborated side by side wait for each other's case splits, each on a stack of its own
set_option Elab.async false

namespace Sys2Proof.Machine

theorem State.group?_modGroup_of {s : State} {gid : Nat} {g : Group} (hg : s.group? gid = some g) (f : Group → Group) :
    (s.modGroup gid f).group? gid = some (f g) := by
  rw [State.group?_modGroup, if_pos rfl, hg, Option.map_some]

theorem Tab.mem_of_get? {κ ν : Type} [DecidableEq κ] {m : List (κ × ν)} {a : κ} {v : ν} (h : Tab.get? m a = some v) : (a, v) ∈ m := by
  induction m with
  | nil => cases h
  | cons p m ih =>
    obtain ⟨k, w⟩ := p
    rw [Tab.get?] at h
    split at h
    · next hk =>
      obtain rfl := Option.some.inj h
      exact hk ▸ List.mem_cons_self
    · exact List.mem_cons_of_mem _ (ih h)

/-! ### Pre-emption for a reservation (R60, R61) -/

theorem State.allocPieces_length {s s' : State} {slice n : Nat} {ps : List Nat} (h : s.allocPieces slice n = some (s', ps)) : ps.length = n := by
  simp only [State.allocPieces] at h
  split at h
  · cases h
  · obtain rfl := (Prod.mk.inj (Option.some.inj h)).2
    simp only [List.length_append, List.length_take, List.length_map, List.length_range]
    omega

/-- A reservation of a core waits for one group that it may take, and that is all there is on the core. -/
structure State.Takes1 (s : State) (die gid : Nat) (g : Group) (lid : LaunchId) (core : Nat) (l : Launch) : Prop where
  reserve : ∃ t0, (s.die die).reserve = [(lid, core, t0)] ∧ t0 + 2 ^ 18 ≤ s.clock
  waits : (s.candidates die).find? (·.lid == lid) = some l
  alone : (s.groups.filter fun x => x.2.st != .saved && (x.2.cores.contains core || (l.lrec.twin && x.2.cores.contains (core + 1)))) = [(gid, g)]
  preemptable : s.preemptable g = true
  priority : (s.lrecOfGroup g).priority + 2 ≤ s.effective l
  noRoom : s.fits lid l.lrec core = false
  room : s.fitsWithout lid l.lrec core [gid] = true

theorem State.preemptable_runs {s : State} {g : Group} (h : s.preemptable g = true) : g.st = .running ∧ g.cancelled = false := by
  simp only [State.preemptable, Bool.and_eq_true, beq_iff_eq, Bool.not_eq_true'] at h
  exact h.1

section
variable {s : State} {die gid : Nat} {g : Group} {lid : LaunchId} {core : Nat} {l : Launch}

theorem State.Takes1.reserveTakes (h : s.Takes1 die gid g lid core l) {t0 : Nat} (ht : t0 + 2 ^ 18 ≤ s.clock) :
    s.reserveTakes die (lid, core, t0) = some [gid] := by
  have noneStops : ([(gid, g)].any fun x => x.2.st != .running) = false := by
    simp [(State.preemptable_runs h.preemptable).1]
  have late : (s.clock < t0 + 2 ^ 18 || s.fits lid l.lrec core || [(gid, g)].any fun x => x.2.st != .running) = false := by
    rw [h.noRoom, noneStops, Bool.or_false, Bool.or_false, decide_eq_false_iff_not]
    omega
  simp only [State.reserveTakes, h.waits, h.alone]
  rw [if_neg (by rw [late]; exact Bool.false_ne_true)]
  have one : Machine.choose (0 + 1) [gid] = [[gid]] := rfl
  simp only [List.filter_cons, h.preemptable, h.priority, decide_true, Bool.and_self, if_true, List.filter_nil, List.foldl_cons, List.foldl_nil,
    List.takeWhile_nil, List.dropWhile_nil, List.nil_append, List.append_nil, List.map_cons, List.map_nil, List.length_cons, List.length_nil,
    Nat.zero_add, List.range_one, List.findSome?_cons]
  rw [one, List.find?_cons_of_pos h.room]

theorem exec_reservationPreempt (h : s.Takes1 die gid g lid core l) : exec (.reservationPreempt die) s = .next (s.startPreempt gid) := by
  obtain ⟨t0, hres, ht⟩ := h.reserve
  show execReservationPreempt die s = _
  rw [execReservationPreempt, hres, List.findSome?_cons, h.reserveTakes ht]
  rfl

theorem State.startPreempt_frozen (hg : s.group? gid = some g) (hf : (s.slice (s.queueSlice g)).frozenService = true) : s.startPreempt gid = s := by
  rw [State.startPreempt, hg]
  simp only [hf, if_true]

/-- A group that runs, not cancelled, begins to stop, its save area allocated (R61). -/
theorem State.startPreempt_stops (hg : s.group? gid = some g) (hst : g.st = .running) (hc : g.cancelled = false)
    (hex : g.exited.length < (s.lrecOfGroup g).skeins) (can : s.CanStop g) : ∃ g', (s.startPreempt gid).group? gid = some g' ∧ g'.st = .stopping
      ∧ g'.saveArea.length = (saveBytes (s.lrecOfGroup g) + 4095) / 4096 := by
  obtain ⟨hcoop, hsvc, halloc⟩ := can
  obtain ⟨⟨s1, ps⟩, hps⟩ := Option.isSome_iff_exists.1 halloc
  have goes : (g.st != .running || g.cancelled || decide (g.exited.length ≥ (s.lrecOfGroup g).skeins)) = false := by
    rw [hst, hc]
    simp only [bne_self_eq_false, Bool.or_self, Bool.false_or, decide_eq_false_iff_not]
    omega
  simp only [State.startPreempt, hg, hcoop, hsvc, Bool.false_eq_true, if_false, List.foldl_cons, List.foldl_nil, State.stopGroup, goes, hps,
    Option.getD_some]
  have woken : State.Within settleParts s1 (s1.skeins.foldl (fun (s : State) (x : SkId × Skein) =>
      if x.2.group == gid && x.2.endDelays != x.2 then (s.setSkein x.1 x.2.endDelays).settle x.1 else s) s1) := by
    refine .foldl (fun s x => ?_) _ s1
    split
    · exact State.Within.trans (P := settleParts) (s.setSkein_within ..).mono (State.settle_within ..)
    · exact .refl ..
  exact ⟨_, State.group?_modGroup_of ((woken.group?_eq gid).trans (((State.allocPieces_within hps).group?_eq gid).trans hg)) _, rfl,
    State.allocPieces_length hps⟩
end

/-! ### The save (R61 to R64) -/

section
variable {s : State} {gid : Nat} {g : Group}

theorem State.sealGroup_group? (hg : s.group? gid = some g) : (s.sealGroup gid g).group? gid = some { g with sealOp := s.nextName } :=
  State.group?_modGroup_of (((s.sealCores_within g.cores).group?_eq gid).trans hg) _

section
variable (hg : s.group? gid = some g) (hex : g.exited.length < (s.lrecOfGroup g).skeins)
include hg hex

theorem execPreemptionSaveComplete_of : execPreemptionSaveComplete gid s =
    if !s.saveReady gid g then .next s
    else if g.st == .stopping then .next ((s.sealGroup gid g).modGroup gid fun g => { g with st := .saving })
    else if (s.peers gid g).all fun i => (s.group? i).any fun x => x.st == .saving && s.saveReady i x then
      .next ((s.peers gid g).foldl (fun (s : State) i => match s.group? i with
        | some x => s.saveGroup i { x with sealOp := 0 }
        | none => s) s).settleDrains
    else .next s := by
  rw [execPreemptionSaveComplete, hg]
  exact (if_neg (Nat.not_le.2 hex)).trans rfl

theorem exec_preemptionSaveComplete_seals (hst : g.st = .stopping) (hsav : s.savable gid g = true) :
    ∃ t g', exec (.preemptionSaveComplete gid) s = .next t ∧ t.group? gid = some g' ∧ g'.st = .saving ∧ g'.sealOp = s.nextName := by
  have ready : s.saveReady gid g = true := by simp [State.saveReady, hst, hsav]
  refine ⟨_, _, ?_, State.group?_modGroup_of (State.sealGroup_group? hg) fun g => { g with st := .saving }, rfl, rfl⟩
  show execPreemptionSaveComplete gid s = _
  rw [execPreemptionSaveComplete_of hg hex, ready, hst]
  rfl

theorem exec_preemptionSaveComplete_waits (hst : g.st = .saving) (hpeer : ∃ i ∈ s.peers gid g, ∃ x, s.group? i = some x ∧ x.st ≠ .saving) :
    exec (.preemptionSaveComplete gid) s = .next s := by
  have notAll : ((s.peers gid g).all fun i => (s.group? i).any fun x => x.st == .saving && s.saveReady i x) = false := by
    obtain ⟨i, hi, x, hx, hne⟩ := hpeer
    rw [List.all_eq_false]
    exact ⟨i, hi, by simp [hx, hne]⟩
  show execPreemptionSaveComplete gid s = _
  rw [execPreemptionSaveComplete_of hg hex, notAll, hst]
  cases s.saveReady gid g <;> rfl
end

theorem State.takeEntries_within (s : State) (gid : Nat) (g : Group) : State.Within [.cores] s (s.takeEntries gid g).1 :=
  .foldl_fst (fun r _ => r.1.modCore_within ..) g.cores (s, [])

theorem State.settleDrains_within (s : State) : State.Within [.host] s s.settleDrains :=
  (s.modHost_within _).trans (.foldl (fun s _ => s.send_within _) _ _)

theorem State.dropSkeins_within (s : State) (ks : List (SkId × Skein)) : State.Within [.skeins] s (ks.foldl (fun s x => s.dropSkein x.1) s) :=
  .foldl (fun _ _ => .of_update rfl) ks s

theorem State.dropSkeins_skein? (s : State) (ks : List (SkId × Skein)) (id : SkId) :
    (ks.foldl (fun s x => s.dropSkein x.1) s).skein? id = if id ∈ ks.map (·.1) then none else s.skein? id := by
  induction ks generalizing s with
  | nil => rfl
  | cons x ks ih =>
    rw [List.foldl_cons, ih, State.skein?_dropSkein]
    by_cases hx : id = x.1
    · rw [if_pos hx, ite_self, if_pos (hx ▸ List.mem_map_of_mem List.mem_cons_self)]
    · rw [if_neg hx]
      exact if_congr (by rw [List.map_cons, List.mem_cons, or_iff_right hx]) rfl rfl

/-- What a save leaves: the group is saved with its skeins, none of which runs, and its operations are pre-empted (R62, R63). -/
structure State.Saves (s t : State) (gid : Nat) (g' : Group) : Prop where
  group : t.group? gid = some g'
  st : g'.st = .saved
  gone : ∀ id k, t.skein? id = some k → k.group ≠ gid
  kept : ∀ id k, s.skein? id = some k → k.group = gid → (k.index, s.savedSkein id k) ∈ g'.saved
  ops : ∀ o ∈ t.ops, o.group = gid → ∃ ring, o.stat = .preempted ring

theorem State.saveGroup_saves (hg : s.group? gid = some g) (x : Group) : ∃ g', s.Saves (s.saveGroup gid x) gid g' := by
  obtain ⟨t, ht⟩ : ∃ t, s.saveGroup gid x = t := ⟨_, rfl⟩
  rw [ht]
  unfold State.saveGroup at ht
  extract_lets mine kept types order at ht
  split at ht
  next s1 es took =>
  extract_lets g' s2 s3 s4 at ht
  have taken : State.Within [.cores] s s1 := (s.takeEntries_within gid x).of_eq took
  have dropped : State.Within [.skeins] s1 s2 := s1.dropSkeins_within mine
  have ordered : State.Within [.work] s2 s3 := s2.modWork_within _
  have stopped : State.Within [.ops, .soft] s3 s4 := .of_update rfl
  have freed := (s4.modGroup gid fun _ => g').freeClaims_within x
  have grouped := s4.modGroup_within gid fun _ => g'
  rw [ht] at freed
  have skein (id : SkId) : t.skein? id =
      if id ∈ mine.map (·.1) then none else s.skein? id :=
    (freed.skein?_eq id).trans ((grouped.skein?_eq id).trans ((stopped.skein?_eq id).trans ((ordered.skein?_eq id).trans
      ((s1.dropSkeins_skein? mine id).trans (by rw [taken.skein?_eq])))))
  have before : s4.group? gid = some g :=
    (stopped.group?_eq gid).trans ((ordered.group?_eq gid).trans ((dropped.group?_eq gid).trans ((taken.group?_eq gid).trans hg)))
  have member {id : SkId} {k : Skein} (hk : s.skein? id = some k) (hgid : k.group = gid) : (id, k) ∈ mine :=
    List.mem_filter.2 ⟨Tab.mem_of_get? hk, beq_iff_eq.2 hgid⟩
  refine ⟨g', (freed.group?_eq gid).trans (State.group?_modGroup_of before _), rfl, fun id k hk hgid => ?_, fun id k hk hgid => ?_, fun o ho hgid => ?_⟩
  · rw [skein] at hk
    split at hk
    · cases hk
    · next hnot => exact hnot (List.mem_map.2 ⟨_, member hk hgid, rfl⟩)
  · exact List.mem_map.2 ⟨_, member hk hgid, rfl⟩
  · have ops : t.ops = s4.ops := Eq.trans (freed.same .ops (by decide)) (grouped.same .ops (by decide))
    rw [ops] at ho
    obtain ⟨o', -, rfl⟩ := List.mem_map.1 ho
    split at hgid
    · next h => exact ⟨_, by rw [if_pos h]⟩
    · next h => exact absurd (beq_iff_eq.2 hgid) h

theorem State.Saves.settled {t : State} {g' : Group} (h : s.Saves t gid g') : s.Saves t.settleDrains gid g' := by
  have drained := t.settleDrains_within
  refine ⟨(drained.group?_eq gid).trans h.group, h.st, fun id k hk => h.gone id k ((drained.skein?_eq id).symm.trans hk), h.kept, fun o ho => ?_⟩
  rw [drained.same .ops (by decide)] at ho
  exact h.ops o ho

theorem exec_preemptionSaveComplete_saves (hg : s.group? gid = some g) (hex : g.exited.length < (s.lrecOfGroup g).skeins) (hst : g.st = .saving)
    (hcoop : (s.lrecOfGroup g).coop = false) (hseal : s.sealed g = true) :
    ∃ t g', exec (.preemptionSaveComplete gid) s = .next t ∧ s.Saves t gid g' := by
  have ready : s.saveReady gid g = true := by simp [State.saveReady, hst, hseal]
  have peers : s.peers gid g = [gid] := by simp [State.peers, hcoop]
  obtain ⟨g', saved⟩ := State.saveGroup_saves hg { g with sealOp := 0 }
  refine ⟨_, g', ?_, saved.settled⟩
  show execPreemptionSaveComplete gid s = _
  have all : ([gid].all fun i => (s.group? i).any fun x => x.st == .saving && s.saveReady i x) = true := by
    rw [List.all_cons, hg, Option.any_some, ready, hst]
    rfl
  rw [execPreemptionSaveComplete_of hg hex, peers, ready, all, hst, List.foldl_cons, List.foldl_nil, hg]
  rfl
end

end Sys2Proof.Machine
end

section
/-! PROOFS. The restore of a group, and its end (R28, R65, R160). -/

-- one proof at a time: proofs elaborated side by side wait for each other's case splits, each on a stack of its own
set_option Elab.async false

namespace Sys2Proof.Machine

/-! ### Frames of a restore -/

/-- What of the package a restore changes around its group and its skeins (R65, R160). -/
def restoreParts : List Part :=
  [.slices, .host, .mem, .cores, .scratch, .tiles, .soft, .ops, .past, .rendezvous, .jointSets, .work]

section
variable (s : State)

theorem State.shiftPiece_within (a p b q : Nat) : State.Within [.slices, .mem] s (s.shiftPiece a p b q) := by
  unfold State.shiftPiece
  extract_lets src dst bad s1
  have copied : State.Within [.slices, .mem] s s1 := (s.mem_within _).mono
  exact copied.trans ((s1.modSlice_within ..).mono.trans (State.modSlice_within ..).mono)

theorem State.moveEntry_within {s t : State} {a b pk : Nat} (h : s.moveEntry a b pk = some t) : State.Within [.slices, .mem] s t := by
  have two (s : State) (f g : Slice → Slice) : State.Within [.slices, .mem] s ((s.modSlice a f).modSlice b g) :=
    State.Within.trans (P := [.slices, .mem]) (s.modSlice_within ..).mono (State.modSlice_within ..).mono
  have one (s : State) (f : Slice → Slice) : State.Within [.slices, .mem] s (s.modSlice a f) := (s.modSlice_within ..).mono
  unfold State.moveEntry at h
  extract_lets e gone at h
  split at h
  · split at h
    · obtain rfl := Option.some.inj h
      exact two ..
    · obtain rfl := Option.some.inj h
      exact (one ..).trans (two ..)
  · split at h
    · cases h
    · next s1 q hq =>
      obtain rfl := Option.some.inj h
      have found : State.Within [.slices, .mem] s s1 := (s.allocPiece_within b).of_eq hq
      exact found.trans ((s1.shiftPiece_within ..).trans ((one ..).trans (two ..)))
  · split at h
    · obtain rfl := Option.some.inj h
      exact two ..
    · next blk _ =>
      extract_lets there at h
      split at h
      · cases h
      · next s1 qs hs1 =>
        extract_lets s2 s3 shared s4 at h
        have found : State.Within [.slices, .mem] s s1 := by
          split at hs1
          · obtain ⟨rfl, -⟩ := Prod.mk.inj (Option.some.inj hs1)
            exact .refl ..
          · exact State.allocPieces_within hs1
        have shifted : State.Within [.slices, .mem] s1 s2 := by
          unfold s2
          split
          · exact .refl ..
          · exact .foldl (fun s x => s.shiftPiece_within ..) _ s1
        have left : State.Within [.slices, .mem] s2 s3 := one ..
        have freed : State.Within [.slices, .mem] s3 s4 := by
          unfold s4
          split
          · exact .refl ..
          · exact one ..
        obtain rfl := Option.some.inj h
        exact found.trans (shifted.trans (left.trans (freed.trans (s4.modSlice_within ..).mono)))
  · obtain rfl := Option.some.inj h
    exact two ..

theorem State.migratePrivate_within (j : Job) (g : Group) (old new : Nat) :
    State.Within [.slices, .mem, .host] s (s.migratePrivate j g old new) := by
  unfold State.migratePrivate
  split
  · exact .refl ..
  · refine .foldl (fun s i => ?_) _ s
    extract_lets va
    split
    · extract_lets pk
      refine State.Within.trans (P := [.slices, .mem, .host]) (t := (s.moveEntry _ _ pk).getD s) ?_ (State.modHost_within ..).mono
      cases hm : s.moveEntry _ _ pk with
      | none => exact .refl ..
      | some t => exact (State.moveEntry_within hm).mono
    · exact .refl ..

theorem State.allocEntry_within (core op : Nat) (pleat : Bool) : State.Within [.cores] s (s.allocEntry core op pleat).1 := by
  unfold State.allocEntry
  split
  · exact .refl ..
  · exact s.modCore_within ..

theorem State.giveEntries_within (g : Group) : State.Within [.cores] s (s.giveEntries g).1 := by
  refine .foldl_fst (fun r x => ?_) g.savedEntries (s, [])
  obtain ⟨s, acc⟩ := r
  dsimp only
  split
  · next h => exact ((s.allocEntry_within ..).of_eq h).trans (State.modCore_within ..)
  · next h => exact (s.allocEntry_within ..).of_eq h

theorem State.readArea_within (g : Group) : State.Within [.slices, .host] s (s.readArea g).1 :=
  .foldl (fun s _ => s.checkSector_within ..) _ s

theorem State.putWindow_within (core : Nat) (gm : List Nat) (bs : List (Nat × Byte)) : State.Within [.scratch] s (s.putWindow core gm bs) :=
  s.scratch_within _
theorem State.tiles_within (x : List (Nat × W32)) : State.Within [.tiles] s { s with tiles := x } := .of_update rfl
theorem State.putTiles_within (core : Nat) (tm : List Nat) (ws : List (Nat × W32)) : State.Within [.tiles] s (s.putTiles core tm ws) :=
  s.tiles_within _
theorem State.putBoth_within (core : Nat) (gm tm : List Nat) (bs : List (Nat × Byte)) (ws : List (Nat × W32)) :
    State.Within [.scratch, .tiles] s ((s.putWindow core gm bs).putTiles core tm ws) :=
  State.Within.trans (P := [.scratch, .tiles]) (s.putWindow_within ..).mono (State.putTiles_within ..).mono

/-! ### The skeins of a restore -/

theorem State.foldl_setSkein_skein? {α : Type} {P : α → Skein → Prop} {f : State → α → State} {key : α → SkId}
    (hf : ∀ s x, ∃ k, f s x = s.setSkein (key x) k ∧ P x k) {xs : List α} (hnodup : (xs.map key).Nodup) {x : α} (hx : x ∈ xs) :
    ∃ k, (xs.foldl f s).skein? (key x) = some k ∧ P x k := by
  have keeps (ys : List α) (t : State) (h : key x ∉ ys.map key) : (ys.foldl f t).skein? (key x) = t.skein? (key x) := by
    induction ys generalizing t with
    | nil => rfl
    | cons y ys ih =>
      rw [List.map_cons, List.mem_cons, not_or] at h
      obtain ⟨k, hk, -⟩ := hf t y
      rw [List.foldl_cons, ih _ h.2, hk, State.skein?_setSkein, if_neg h.1]
  induction xs generalizing s with
  | nil => cases hx
  | cons y ys ih =>
    rw [List.map_cons, List.nodup_cons] at hnodup
    rcases List.mem_cons.1 hx with rfl | hx
    · obtain ⟨k, hk, hP⟩ := hf s x
      exact ⟨k, by rw [List.foldl_cons, keeps ys _ hnodup.1, hk, State.skein?_setSkein_same], hP⟩
    · exact ih _ hnodup.2 hx

theorem State.foldl_setSkein {α : Type} {P : α → Skein → Prop} {f : State → α → State} {key : α → SkId}
    (hf : ∀ s x, ∃ k, f s x = s.setSkein (key x) k ∧ P x k) {xs : List α} (hnodup : (xs.map key).Nodup) :
    State.Within [.skeins] s (xs.foldl f s) ∧ ∀ x ∈ xs, ∃ k, (xs.foldl f s).skein? (key x) = some k ∧ P x k := by
  refine ⟨.foldl (fun s x => ?_) xs s, fun x hx => s.foldl_setSkein_skein? hf hnodup hx⟩
  obtain ⟨k, hk, -⟩ := hf s x
  exact hk ▸ s.setSkein_within ..
end

/-- A group runs again at its place, its skeins with the registers that the save kept (R65). -/
structure State.Restored (t : State) (gid : Nat) (g : Group) (r : LRec) (g' : Group) : Prop where
  group : t.group? gid = some g'
  st : g'.st = .running
  prev : g'.prev = none
  saved : g'.saved = []
  core : g'.core = g.core
  skeins : ∀ x ∈ g.saved, ∃ k', t.skein? (g.skId r x.1) = some k' ∧ k'.vregs = x.2.vregs ∧ k'.sregs = x.2.sregs ∧ k'.preds = x.2.preds

theorem State.freeArea_group? {s : State} {gid : Nat} {g : Group} (hg : s.group? gid = some g) :
    ∃ ps, (s.freeArea gid).group? gid = some { g with saveArea := ps } := by
  rw [State.freeArea, hg]
  dsimp only
  split
  · exact ⟨g.saveArea, hg⟩
  · exact ⟨[], State.group?_modGroup_of ((State.modSlice_within ..).group?_eq gid |>.trans hg) _⟩

theorem State.restoreGroup_restored {s : State} {gid : Nat} {g : Group} (old : Group) (hg : s.group? gid = some g)
    (hnodup : (g.saved.map fun x => g.skId (s.lrecOfGroup g) x.1).Nodup) :
    ∃ g', (s.restoreGroup gid old g).Restored gid g (s.lrecOfGroup g) g' := by
  obtain ⟨t, ht⟩ : ∃ t, s.restoreGroup gid old g = t := ⟨_, rfl⟩
  rw [ht]
  unfold State.restoreGroup at ht
  extract_lets r idOf own at ht
  split at ht
  next s1 lost hread =>
  split at ht
  next s2 es hgive =>
  extract_lets entryOf mapE s3 moved s4 s5 s6 s7 s8 s9 s10 s11 s12 s13 at ht
  have read : State.Within restoreParts s s1 := ((s.readArea_within g).of_eq hread).mono
  have given : State.Within restoreParts s1 s2 := ((s1.giveEntries_within g).of_eq hgive).mono
  have before : State.Within restoreParts s s2 := read.trans given
  have skeins : State.Within [.skeins] s2 s3 ∧ ∀ x ∈ g.saved, ∃ k', s3.skein? (g.skId r x.1) = some k'
      ∧ (k'.vregs = x.2.vregs ∧ k'.sregs = x.2.sregs ∧ k'.preds = x.2.preds) := by
    refine State.foldl_setSkein s2 (key := fun x : Nat × Skein => g.skId r x.1) (P := fun x k' =>
      k'.vregs = x.2.vregs ∧ k'.sregs = x.2.sregs ∧ k'.preds = x.2.preds) (fun s x => ⟨_, rfl, ?_⟩) hnodup
    dsimp only
    split <;> exact ⟨rfl, rfl, rfl⟩
  have renamed : State.Within restoreParts s3 s4 := State.Within.mono (P := [.ops, .past, .rendezvous, .jointSets]) (.of_update rfl)
  have ordered : State.Within restoreParts s4 s5 := (s4.ops_within _).mono
  have answered : State.Within restoreParts s5 s6 := (s5.modWork_within _).mono
  have debugged : State.Within restoreParts s6 s7 := (s6.modHost_within _).mono
  have filled : State.Within restoreParts s7 s8 := (s7.putBoth_within ..).mono
  have twin : State.Within restoreParts s8 s9 := by
    unfold s9
    split
    · exact (s8.putBoth_within ..).mono
    · exact .refl ..
  have typed : State.Within restoreParts s9 s10 := by
    refine .foldl (fun s x => ?_) _ s9
    dsimp only
    split
    · exact (s.modCore_within ..).mono
    · exact .refl ..
  have soft : State.Within restoreParts s10 s11 := (s10.soft_within _).mono
  have migrated : State.Within restoreParts s11 s12 := by
    unfold s12
    split
    · exact (s11.migratePrivate_within ..).mono
    · exact .refl ..
  have around : State.Within restoreParts s3 s12 :=
    renamed.trans (ordered.trans (answered.trans (debugged.trans (filled.trans (twin.trans (typed.trans (soft.trans migrated)))))))
  obtain ⟨entered, regs⟩ := skeins
  have standing : s12.group? gid = some g :=
    (around.group?_eq gid).trans ((entered.group?_eq gid).trans ((before.group?_eq gid).trans hg))
  have grouped : State.Within [.groups] s12 s13 := s12.modGroup_within ..
  have freed := s13.freeArea_within gid
  have acquired := (s13.freeArea gid).acquireCores_within g
  obtain ⟨ps, area⟩ := State.freeArea_group? (s := s13) (State.group?_modGroup_of standing _)
  have rest := State.release_queues ((s13.freeArea gid).acquireCores g) gid
  obtain ⟨pos, rel, after⟩ := rest.groups _ _ ((acquired.group?_eq gid).trans area)
  rw [ht] at rest after
  refine ⟨_, after, rfl, rfl, rfl, rfl, fun x hx => ?_⟩
  obtain ⟨k', hk, kept⟩ := regs x hx
  exact ⟨k', (rest.within.skein?_eq _).trans ((acquired.skein?_eq _).trans ((freed.skein?_eq _).trans ((grouped.skein?_eq _).trans
    ((around.skein?_eq _).trans hk)))), kept⟩

section
variable {s : State} {gid : Nat} {g : Group} (hg : s.group? gid = some g) (hst : g.st = .restoring) (hcoop : (s.lrecOfGroup g).coop = false)
include hg hst hcoop

theorem execGroupRestoreComplete_single : execGroupRestoreComplete gid s = .next ((match s.canRestore gid g, g.prev with
    | true, some p => some (s.restoreGroup gid (g.at_ p) g)
    | _, _ => none).getD s) := by
  have peers : s.peers gid g = [gid] := by simp [State.peers, hcoop]
  rw [execGroupRestoreComplete, hg]
  dsimp only
  rw [hst, peers, List.foldl_cons, List.foldl_nil, Option.bind_some, hg]
  rfl

theorem exec_groupRestoreComplete_waits (hcan : s.canRestore gid g = false) : exec (.groupRestoreComplete gid) s = .next s := by
  show execGroupRestoreComplete gid s = _
  rw [execGroupRestoreComplete_single hg hst hcoop, hcan]
  rfl

theorem exec_groupRestoreComplete {p : Place} (hprev : g.prev = some p) (hcan : s.canRestore gid g = true)
    (hnodup : (g.saved.map fun x => g.skId (s.lrecOfGroup g) x.1).Nodup) :
    ∃ t g', exec (.groupRestoreComplete gid) s = .next t ∧ t.Restored gid g (s.lrecOfGroup g) g' := by
  obtain ⟨g', restored⟩ := State.restoreGroup_restored (g.at_ p) hg hnodup
  refine ⟨_, g', ?_, restored⟩
  show execGroupRestoreComplete gid s = _
  rw [execGroupRestoreComplete_single hg hst hcoop, hcan, hprev]
  rfl
end

end Sys2Proof.Machine
end

section
/-! PROOFS. The end of a group and what its launch counts (R27, R28); placement as a whole. -/

-- one proof at a time: proofs elaborated side by side wait for each other's case splits, each on a stack of its own
set_option Elab.async false

namespace Sys2Proof.Machine

/-! ### The launches of an ID through the ends of others -/

section
variable {s t u : State} {lid : LaunchId}

/-- The launches of an ID are the same. -/
def State.SameLaunches (lid : LaunchId) (s t : State) : Prop :=
  t.work.launches.filter (·.lid == lid) = s.work.launches.filter (·.lid == lid)
/-- Every launch of an ID has its status. -/
def State.HasEnded (s : State) (lid : LaunchId) : Prop := ∀ l ∈ s.work.launches, l.lid = lid → l.status ≠ none

theorem State.SameLaunches.trans (h : State.SameLaunches lid s t) (h' : State.SameLaunches lid t u) : State.SameLaunches lid s u := Eq.trans h' h
theorem State.SameLaunches.of_eq (h : t.work.launches = s.work.launches) : State.SameLaunches lid s t := by rw [State.SameLaunches, h]
theorem State.SameLaunches.foldl {α : Type} {f : State → α → State} (h : ∀ s a, State.SameLaunches lid s (f s a)) (as : List α) (s : State) :
    State.SameLaunches lid s (as.foldl f s) := by
  induction as generalizing s with
  | nil => rfl
  | cons a as ih => exact (h s a).trans (ih _)
theorem State.SameLaunches.launch?_eq (h : State.SameLaunches lid s t) : t.launch? lid = s.launch? lid := by
  unfold State.launch?
  rw [← List.head?_filter, ← List.head?_filter, h]
theorem State.SameLaunches.hasEnded (h : State.SameLaunches lid s t) (hs : s.HasEnded lid) : t.HasEnded lid := fun l hl hlid =>
  hs l (List.mem_filter.1 (h ▸ List.mem_filter.2 ⟨hl, beq_iff_eq.2 hlid⟩ : l ∈ s.work.launches.filter (·.lid == lid))).1 hlid

theorem State.modLaunch_sameLaunches (s : State) {i : LaunchId} (hne : i ≠ lid) (f : Launch → Launch) (hf : ∀ x, (f x).lid = x.lid) :
    State.SameLaunches lid s (s.modLaunch i f) := by
  unfold State.SameLaunches State.modLaunch
  show (s.work.launches.map _).filter _ = _
  induction s.work.launches with
  | nil => rfl
  | cons x xs ih =>
    rw [List.map_cons, List.filter_cons, List.filter_cons, ih]
    by_cases hx : (x.lid == i) = true
    · have other : (x.lid == lid) = false := beq_eq_false_iff_ne.2 fun e => hne (by rw [← e]; exact (beq_iff_eq.1 hx).symm)
      rw [if_pos hx, hf, other]
      rfl
    · rw [if_neg hx]

/-! ### The ends of graphs, phases and jobs leave the launches -/

variable (s)
theorem State.tellWaiters_launches (unit : Nat × Nat × Nat × Nat) (status : Nat) :
    (s.tellWaiters unit status).work.launches = s.work.launches := by
  unfold State.tellWaiters
  extract_lets mine s1
  have kept (ws : List ((Nat × Nat × Nat × Nat) × Waiter)) (t : State) : (ws.foldl (fun (s : State) x => match x.2 with
      | .host tag job => s.send ⟨0x08, 1, 32, tag, job, status, 0, []⟩
      | .skein g i => s.svcReply g i (BitVec.ofNat 64 status)) t).work.launches = t.work.launches := by
    induction ws generalizing t with
    | nil => rfl
    | cons w ws ih =>
      rw [List.foldl_cons, ih]
      split <;> rfl
  exact kept mine s1

theorem State.endJob_launches (j : Nat) : (s.endJob j).work.launches = s.work.launches := by
  unfold State.endJob
  split
  · rfl
  · next job _ =>
    split
    · extract_lets st s1 s2 s3
      have dropped : (s.dropSpace job).work = s.work := (s.dropSpace_within job).same .work (by decide)
      rw [State.tellWaiters_launches]
      exact (congrArg Work.launches dropped : (s.dropSpace job).work.launches = _)
    · rfl

theorem State.endPhase_launches (j p : Nat) : (s.endPhase j p).work.launches = s.work.launches := by
  unfold State.endPhase
  split
  · rfl
  · split
    · extract_lets st s1 s2
      rw [State.endJob_launches]
      exact State.tellWaiters_launches ..
    · rfl

theorem State.endGraph_launches (j g : Nat) : (s.endGraph j g).work.launches = s.work.launches := by
  unfold State.endGraph
  split
  · rfl
  · split
    · extract_lets st s1 s2
      rw [State.endPhase_launches]
      exact State.tellWaiters_launches ..
    · rfl

theorem State.launchStatus_launches (l : Launch) (st : Nat) : (s.launchStatus l st).work.launches =
    (s.modLaunch l.lid fun x => { x with status := some st }).work.launches := State.tellWaiters_launches ..

/-! ### The end of a launch (R27, R30, R31) -/

/-- Launches that depend on one that ended are cancelled in turn. -/
def State.cancelAll (n : Nat) (s : State) (ds : List Launch) : State := ds.foldl (fun (s : State) (d : Launch) =>
  State.settleLaunch n (s.modLaunch d.lid fun x => { x with ending := some stCancelled, counter := 0 }) d.lid) s

variable {s}
theorem State.cancelAll_same {n : Nat} (ih : ∀ (s : State) i, s.HasEnded lid → State.SameLaunches lid s (State.settleLaunch n s i)) {ds : List Launch}
    (hds : ∀ d ∈ ds, d.lid ≠ lid) (h : s.HasEnded lid) : State.SameLaunches lid s (s.cancelAll n ds) := by
  unfold State.cancelAll
  induction ds generalizing s with
  | nil => rfl
  | cons d ds ihd =>
    obtain ⟨hd, rest⟩ := List.forall_mem_cons.1 hds
    have marked := s.modLaunch_sameLaunches hd (fun x => { x with ending := some stCancelled, counter := 0 }) fun _ => rfl
    have settled := marked.trans (ih _ d.lid (marked.hasEnded h))
    exact settled.trans (ihd rest (settled.hasEnded h))

/-- The part of a launch's end that is not its own status: its graph's counter, and the launches that depend on it. -/
def State.afterLaunch (n : Nat) (s : State) (lid : LaunchId) (st : Nat) : State :=
  let s : State := { s with dies := s.dies.map fun ((d, x) : Nat × Die) => (d, { x with reserve := x.reserve.filter (·.1 != lid) }) }
  let s := s.modGraph lid.job lid.graph fun x => { x with counter := x.counter - 1 }
  let s := if st == stCompleted then s
    else s.cancelAll n (s.work.launches.filter fun (x : Launch) =>
      x.lid.job == lid.job && x.lid.graph == lid.graph && x.status.isNone && x.ending.isNone && s.dependsOn x.lrec lid.index)
  s.endGraph lid.job lid.graph

theorem State.settleLaunch_succ (n : Nat) (s : State) (lid : LaunchId) : State.settleLaunch (n + 1) s lid =
    match s.launch? lid with
    | none => s
    | some l => if l.counter != 0 || l.status.isSome then s
      else State.afterLaunch n (s.launchStatus l (l.ending.getD stCompleted)) lid (l.ending.getD stCompleted) := rfl

theorem State.afterLaunch_same {n : Nat} (ih : ∀ (s : State) i, s.HasEnded lid → State.SameLaunches lid s (State.settleLaunch n s i))
    (i : LaunchId) (st : Nat) (h : s.HasEnded lid) : State.SameLaunches lid s (State.afterLaunch n s i st) := by
  unfold State.afterLaunch
  extract_lets s1 s2 s3
  have counted : State.SameLaunches lid s s2 := .of_eq rfl
  have cancelled : State.SameLaunches lid s2 s3 := by
    unfold s3
    split
    · rfl
    · refine State.cancelAll_same ih (fun d hd hlid => ?_) (counted.hasEnded h)
      obtain ⟨hmem, hopen⟩ := List.mem_filter.1 hd
      simp only [Bool.and_eq_true, Option.isNone_iff_eq_none] at hopen
      exact counted.hasEnded h d hmem hlid hopen.1.1.2
  exact counted.trans (cancelled.trans (.of_eq (s3.endGraph_launches ..)))

/-- Where the launches of an ID have ended, the end of a launch leaves them. -/
theorem State.settleLaunch_same (n : Nat) (s : State) (i : LaunchId) (h : s.HasEnded lid) :
    State.SameLaunches lid s (State.settleLaunch n s i) := by
  induction n generalizing s i with
  | zero => rfl
  | succ n ih =>
    rw [State.settleLaunch_succ]
    split
    · rfl
    · next l hl =>
      split
      · rfl
      · next hopen =>
        have hst : l.status = none := by
          simp only [Bool.or_eq_true, not_or, Bool.not_eq_true, Option.isSome_eq_false_iff, Option.isNone_iff_eq_none] at hopen
          exact hopen.2
        have other : l.lid ≠ lid := fun e => h l (List.mem_of_find?_eq_some hl) e hst
        have told : State.SameLaunches lid s (s.launchStatus l (l.ending.getD stCompleted)) :=
          (s.modLaunch_sameLaunches other (fun x => { x with status := some (l.ending.getD stCompleted) }) fun _ => rfl).trans
            (.of_eq (s.launchStatus_launches ..))
        exact told.trans (State.afterLaunch_same ih i _ (told.hasEnded h))

/-- A launch whose counter is zero ends as it was told to, or completed. -/
theorem State.settleLaunch_launch? {l : Launch} (n : Nat) (hl : s.launch? lid = some l) : ∃ l', (State.settleLaunch (n + 1) s lid).launch? lid = some l'
    ∧ l'.counter = l.counter ∧ (l.counter = 0 → l.status = none → l'.status = some (l.ending.getD 0)) := by
  rw [State.settleLaunch_succ, hl]
  dsimp only
  split
  · next hdone =>
    refine ⟨l, hl, rfl, fun hc hs => ?_⟩
    rw [hc, hs] at hdone
    cases hdone
  · set st := l.ending.getD stCompleted
    have launches := s.launchStatus_launches l st
    obtain rfl : l.lid = lid := State.lid_of_launch? hl
    have told : (s.launchStatus l st).launch? l.lid = some { l with status := some st } := by
      rw [State.launch?, launches]
      exact State.launch?_modLaunch_of hl fun x => { x with status := some st }
    have ended : (s.launchStatus l st).HasEnded l.lid := fun x hx hxl => by
      rw [launches] at hx
      obtain ⟨y, -, rfl⟩ := List.mem_map.1 hx
      by_cases hy : (y.lid == l.lid) = true
      · rw [if_pos hy]
        exact Option.some_ne_none _
      · rw [if_neg hy] at hxl
        exact absurd (beq_iff_eq.2 hxl) hy
    exact ⟨_, (State.afterLaunch_same (fun s i => State.settleLaunch_same n s i) l.lid st ended).launch?_eq.trans told, rfl, fun _ _ => rfl⟩
end

/-! ### The end of a group (R28) -/

section
variable {s : State} {gid : Nat} {g : Group} (hg : s.group? gid = some g)
include hg

theorem State.dropGroup_ends : (s.dropGroup gid).group? gid = none ∧ ∀ l, s.launch? g.launch = some l →
    ∃ l', (s.dropGroup gid).launch? g.launch = some l' ∧ l'.counter = l.counter - 1
      ∧ (l.counter = 1 → l.status = none → l'.status = some (l.ending.getD 0)) := by
  obtain ⟨t, ht⟩ : ∃ t, s.dropGroup gid = t := ⟨_, rfl⟩
  rw [ht]
  simp -zeta only [State.dropGroup, hg] at ht
  extract_lets s1 s2 s3 s4 at ht
  have freed : State.Within [.slices, .groups, .cores] s s1 := s.freedGroup_within gid g
  have dropped : State.Within (.soft :: placeParts) s1 s2 := s1.dropPrivate_within g
  have gone : State.Within [.groups, .ops, .rendezvous, .jointSets] s2 s3 := .of_update rfl
  have counted : State.Within [.work] s3 s4 := s3.modWork_within _
  have settled := (State.settleLaunch_unwinds s4 256 g.launch).within
  rw [ht] at settled
  refine ⟨(settled.group?_eq gid).trans ((counted.group?_eq gid).trans ?_), fun l hl => ?_⟩
  · exact (Tab.get?_erase s2.groups gid gid).trans (if_pos rfl)
  · have before : s3.launch? g.launch = some l := (gone.launch?_eq _).trans ((dropped.launch?_eq _).trans ((freed.launch?_eq _).trans hl))
    obtain ⟨l', hl', hc, hst⟩ := State.settleLaunch_launch? 255 (State.launch?_modLaunch_of before fun l => { l with counter := l.counter - 1 })
    exact ⟨l', ht ▸ hl', hc, fun h1 h2 => hst (by dsimp only; omega) h2⟩

variable (hready : s.endReady gid g = true)
include hready

theorem exec_groupEnd_seals (h0 : g.sealOp = 0) : ∃ t g', exec (.groupEnd gid) s = .next t ∧ t.group? gid = some g' ∧ g'.sealOp = s.nextName := by
  refine ⟨_, _, ?_, State.sealGroup_group? hg, rfl⟩
  show execGroupEnd gid s = _
  rw [execGroupEnd, hg]
  dsimp only
  rw [hready, h0]
  rfl

theorem exec_groupEnd_drops (h0 : g.sealOp ≠ 0) : exec (.groupEnd gid) s = .next (s.dropGroup gid) := by
  have sealed : (g.sealOp == 0) = false := beq_eq_false_iff_ne.2 h0
  show execGroupEnd gid s = _
  rw [execGroupEnd, hg]
  dsimp only
  rw [hready, sealed]
  rfl
end

theorem exec_placementStep_places {s : State} {die c : Nat} {l : Launch} {ls : List Launch} {j : Job}
    (ht : (s.die die).lastStep = 0 ∨ (s.die die).lastStep + 8 ≤ s.clock) (hshut : (s.stepping die).dieShut die = false)
    (hfirst : ((s.stepping die).noteFits die ((s.stepping die).candidates die)).candidates die = l :: ls)
    (hl : ((s.stepping die).noteFits die ((s.stepping die).candidates die)).launch? l.lid = some l)
    (hj : ((s.stepping die).noteFits die ((s.stepping die).candidates die)).job? l.lid.job = some j) (hcoop : l.lrec.coop = false)
    (hsaved : ((s.stepping die).noteFits die ((s.stepping die).candidates die)).savedGroups l.lid = [])
    (hfree : ((s.stepping die).noteFits die ((s.stepping die).candidates die)).blocked die l = false)
    (hpick : ((s.stepping die).noteFits die ((s.stepping die).candidates die)).pickPlace l.lid l.lrec [die] = some c)
    (hnew : s.group? s.nextName = none) : ∃ t x, exec (.placementStep die) s = .next t ∧ t.Placed l c s.nextName x := by
  have stepped : State.Within [.dies, .work] s (s.stepping die) := .of_update rfl
  have noted : State.Within [.dies, .work] s ((s.stepping die).noteFits die ((s.stepping die).candidates die)) :=
    stepped.trans (State.noteFits_within ..).mono
  have name : ((s.stepping die).noteFits die ((s.stepping die).candidates die)).nextName = s.nextName := noted.same .nextName (by decide)
  obtain ⟨x, placed⟩ := State.placeNew_placed hl hj (State.pickPlace_spec hpick).1 (by
    rw [name]
    exact (noted.group?_eq _).trans hnew)
  rw [name] at placed
  exact ⟨_, x, exec_placementStep ht hshut hfirst (State.placeOne_new hcoop hsaved hfree hpick), placed.settled⟩

/-- Settles O48: each event by the group, the launch or the die it acts on; what else it does lies in a frame that leaves them. -/
theorem placementEvents : Obligations.PlacementEvents := by
  intro s die gid g
  refine ⟨⟨exec_placementStep_early, fun l ls c j ht hshut hfirst hl hj hcoop hsaved hblocked hpick hnew => ?_⟩, fun r lin i clock base => ?_,
    fun l ls t0 hls hnone hfit hlong hfree => exec_placementReservation ⟨⟨ls, hls⟩, hnone, t0, hfit, hlong⟩ hfree,
    fun lid core t0 l hres hl ht hg halone hpre hprio hfits hroom hex => ?_, fun hg hex => ⟨exec_preemptionSaveComplete_seals hg hex,
      exec_preemptionSaveComplete_waits hg hex, fun hst hcoop hseal => ?_⟩, fun p hg hst hprev hcoop =>
      ⟨exec_groupRestoreComplete_waits hg hst hcoop, fun hcan hnodup => ?_⟩, fun hg hready => ⟨exec_groupEnd_seals hg hready, fun h0 => ?_⟩,
    fun q r tag svc hheld => ?_, fun lid l hl hsched hel hst hend => ?_, fun core gated => ?_⟩
  · obtain ⟨fits, place, least⟩ := State.pickPlace_spec hpick
    obtain ⟨t, x, hexec, hx, hlaunch, hlin, hcore, hstx, hk, l', hl', hnext⟩ :=
      exec_placementStep_places ht hshut hfirst hl hj hcoop hsaved hblocked hpick hnew
    exact ⟨fits, place, least, t, x, l', hexec, hx, hlaunch, hlin, hcore, hstx, hl', hnext, hk⟩
  · have values := entrySkein_s r gid lin i clock base
    refine ⟨(values 1).trans (by simp), (values 2).trans (by simp), (values 3).trans (by simp),
      ((values 4).trans (by simp)).trans (entrySkein_privBase ..).symm, ?_, fun n hn => ?_, fun q l hl => entrySkein_raw _ _ _ _ _ _ q l hl,
      entrySkein_live .., ?_⟩
    · simp [entrySkein, Skein.reseed]
    · rw [values, if_neg (by omega), if_neg (by omega), if_neg (by omega), if_neg (by omega)]
    · simp [entrySkein, Skein.reseed]
  · have takes : s.Takes1 die gid g lid core l := ⟨⟨t0, hres, ht⟩, hl, halone, hpre, hprio, hfits, hroom⟩
    obtain ⟨hst, hc⟩ := State.preemptable_runs hpre
    refine ⟨fun can => ?_, fun frozen => ?_⟩
    · obtain ⟨g', stops⟩ := State.startPreempt_stops hg hst hc hex can
      exact ⟨_, g', exec_reservationPreempt takes, stops⟩
    · rw [exec_reservationPreempt takes, State.startPreempt_frozen hg frozen]
  · obtain ⟨t, g', hexec, hg', hst', hgone, hkept, hops⟩ := exec_preemptionSaveComplete_saves hg hex hst hcoop hseal
    exact ⟨t, g', hexec, hg', hst', hgone, hkept, hops⟩
  · obtain ⟨t, g', hexec, hg', hst', hprev', hsaved, hcore, hregs⟩ := exec_groupRestoreComplete hg hst hcoop hprev hcan hnodup
    exact ⟨t, g', hexec, hg', hst', hprev', hsaved, hcore, hregs⟩
  · exact ⟨_, exec_groupEnd_drops hg hready h0, State.dropGroup_ends hg⟩
  · refine fun hnew => ⟨fun hp hgr => ?_, fun hp => ?_⟩
    · obtain ⟨x, hx, hrec, hc, hst, -, -, hheld', -⟩ := State.acceptLaunch_enters (tag := tag) (svc := svc) hnew hp hgr
      exact ⟨_, x, exec_heldSubmissionAccept hheld, hx, hrec, hc, hst, hheld'⟩
    · obtain ⟨x, hx, hrec, hend, -⟩ := State.acceptLaunch_cancels (tag := tag) (svc := svc) hnew hp
      exact ⟨_, x, exec_heldSubmissionAccept hheld, hx, hrec, hend⟩
  · have reads : s.ReadsSched lid l := ⟨⟨hl, hst, hend⟩, hsched, hel⟩
    exact ⟨exec_copyScheduleRead_empty reads, fun j s1 bs h0 hj hb => ⟨exec_copyScheduleRead_ok reads h0 hj hb,
      exec_copyScheduleRead_invalid reads h0 hj hb⟩, fun j s1 cause a h0 hj hb => exec_copyScheduleRead_fails reads h0 hj hb⟩
  · obtain ⟨t, hexec, hk, hlim⟩ := exec_governorWindow s core gated
    exact ⟨t, hexec, hk, hlim.trans (s.kLimit_eq core)⟩

end Sys2Proof.Machine
end

section
/-! PROOFS. The end of an engine operation: its place in the queue, and what its handle says (R148, R167, R176, R178, R190). -/

-- one proof at a time: proofs elaborated side by side wait for each other's case splits, each on a stack of its own
set_option Elab.async false

namespace Sys2Proof.Machine

/-! ### The queue of operations -/

section
variable {s t u : State} {P : List Part}

/-- Every operation was there before, or has a new name. -/
structure State.OpsFrom (s t : State) : Prop where
  names : s.nextName ≤ t.nextName
  ops : ∀ x ∈ t.ops, x.id ∈ s.ops.map (·.id) ∨ s.nextName ≤ x.id

theorem State.OpsFrom.trans (h : s.OpsFrom t) (h' : t.OpsFrom u) : s.OpsFrom u := ⟨h.names.trans h'.names, fun x hx => by
  rcases h'.ops x hx with hx | hx
  · obtain ⟨y, hy, hyx⟩ := List.mem_map.1 hx
    rw [← hyx]
    exact h.ops y hy
  · exact .inr (h.names.trans hx)⟩
theorem State.OpsFrom.of_subset (hn : t.nextName = s.nextName) (ho : t.ops.map (·.id) ⊆ s.ops.map (·.id)) : s.OpsFrom t :=
  ⟨hn.ge, fun x hx => .inl (ho (List.mem_map.2 ⟨x, hx, rfl⟩))⟩
theorem State.Within.opsFrom (h : State.Within P s t) (ho : Part.ops ∉ P := by decide) (hn : Part.nextName ∉ P := by decide) : s.OpsFrom t := by
  refine .of_subset (h.same .nextName hn) ?_
  rw [h.same .ops ho]
  exact List.Subset.refl _
theorem State.Unwinds.opsFrom (h : State.Unwinds P s t) (hn : Part.nextName ∉ P := by decide) : s.OpsFrom t :=
  .of_subset (h.within.same .nextName hn) h.ops
theorem State.Queues.opsFrom (h : s.Queues t) : s.OpsFrom t := by
  obtain ⟨os, hos, hnew⟩ := h.ops
  refine ⟨h.names, fun x hx => ?_⟩
  rw [hos] at hx
  rcases List.mem_append.1 hx with hx | hx
  · exact .inl (List.mem_map.2 ⟨x, hx, rfl⟩)
  · exact .inr (hnew x hx)
theorem State.OpsFrom.refl (s : State) : s.OpsFrom s := .of_subset rfl (List.Subset.refl _)
theorem State.OpsFrom.foldl {α : Type} {f : State → α → State} (h : ∀ (s : State) (a : α), s.OpsFrom (f s a)) (as : List α) (s : State) :
    s.OpsFrom (as.foldl f s) := by
  induction as generalizing s with
  | nil => exact .refl s
  | cons a as ih => exact (h s a).trans (ih _)

theorem State.op?_eq_none_iff {i : Nat} : s.op? i = none ↔ i ∉ s.ops.map (·.id) := by
  rw [State.op?, List.find?_eq_none, List.mem_map]
  exact ⟨fun h ⟨x, hx, he⟩ => h x hx (beq_iff_eq.2 he), fun h x hx he => h ⟨x, hx, beq_iff_eq.1 he⟩⟩

/-- An operation that has gone does not come back. -/
theorem State.OpsFrom.gone (h : s.OpsFrom t) {i : Nat} (hi : s.op? i = none) (hlt : i < s.nextName) : t.op? i = none := by
  rw [State.op?_eq_none_iff] at hi ⊢
  intro hmem
  obtain ⟨x, hx, rfl⟩ := List.mem_map.1 hmem
  rcases h.ops x hx with hx | hx
  · exact hi hx
  · omega

variable (s)
theorem State.modOp_opsFrom (i : Nat) (f : EngOp → EngOp) (hf : ∀ x, (f x).id = x.id) : s.OpsFrom (s.modOp i f) := by
  refine .of_subset rfl fun i hi => ?_
  simp only [State.modOp, List.map_map, List.mem_map] at hi ⊢
  obtain ⟨o, ho, rfl⟩ := hi
  exact ⟨o, ho, by dsimp only [Function.comp]; split <;> simp only [hf]⟩
theorem State.dropOp_opsFrom (i : Nat) : s.OpsFrom (s.dropOp i) :=
  .of_subset rfl (List.Sublist.subset (List.Sublist.map _ List.filter_sublist))
theorem State.op?_dropOp (i : Nat) : (s.dropOp i).op? i = none := by
  rw [State.op?_eq_none_iff]
  intro h
  obtain ⟨x, hx, rfl⟩ := List.mem_map.1 h
  simpa using (List.mem_filter.1 hx).2
theorem State.op?_modOp (i : Nat) (f : EngOp → EngOp) (hf : ∀ x, (f x).id = x.id) : (s.modOp i f).op? i = (s.op? i).map f :=
  find?_map_update (fun x : EngOp => x.id == i) f (fun x hx => by rwa [hf]) s.ops
theorem State.op?_modOp_of {s : State} {i : Nat} {o : EngOp} (ho : s.op? i = some o) (f : EngOp → EngOp)
    (hf : ∀ x, (f x).id = x.id := by exact fun _ => rfl) : (s.modOp i f).op? i = some (f o) := by
  rw [State.op?_modOp s i f hf, ho, Option.map_some]
theorem State.id_of_op? {s : State} {i : Nat} {o : EngOp} (h : s.op? i = some o) : o.id = i := by
  simpa using List.find?_some h

/-! ### A place of the Shuttle's queue (R190) -/

theorem State.ringTake_within (o : EngOp) : State.Within (.ops :: placeParts) s (s.ringTake o) := by
  unfold State.ringTake
  split
  · extract_lets va j die s1
    have checked : State.Within (.ops :: placeParts) s s1 := (s.privCheck_within ..).mono
    split
    · split
      · exact checked.trans (s1.modOp_within ..).mono
      · exact checked.trans (s1.modOp_within ..).mono
    · exact checked.trans (s1.modOp_within ..).mono
    · exact checked.trans (s1.modOp_within ..).mono
  · exact .refl ..

theorem State.ringTake_opsFrom (o : EngOp) : s.OpsFrom (s.ringTake o) := by
  unfold State.ringTake
  split
  · extract_lets va j die s1
    have checked : s.OpsFrom s1 := (s.privCheck_within ..).opsFrom
    split
    · split
      · exact checked.trans (s1.modOp_opsFrom _ _ fun _ => rfl)
      · exact checked.trans (s1.modOp_opsFrom _ _ fun _ => rfl)
    · exact checked.trans (s1.modOp_opsFrom _ _ fun _ => rfl)
    · exact checked.trans (s1.modOp_opsFrom _ _ fun _ => rfl)
  · exact .refl ..

/-- The first operation in the rings of a core's queue comes on chip where a place is free. -/
def State.takeNext (s : State) (core : Nat) : State :=
  if s.shuttleOnChip core ≥ 64 then s
  else match s.ops.find? fun o => o.core == core && o.kind.isShuttle && o.stat.slot?.isSome with
    | some o => s.ringTake o
    | none => s

theorem State.shuttleFreed_eq (core : Nat) : s.shuttleFreed core = ((s.takeNext core).groups.filter fun x => x.2.cores.contains core).foldl
    (fun s x => s.release_ x.1) (s.takeNext core) := rfl

theorem State.takeNext_frame (core : Nat) : State.Within releaseParts s (s.takeNext core) ∧ s.OpsFrom (s.takeNext core) := by
  unfold State.takeNext
  split
  · exact ⟨.refl .., .refl _⟩
  · split
    · exact ⟨(s.ringTake_within _).mono, s.ringTake_opsFrom _⟩
    · exact ⟨.refl .., .refl _⟩

theorem State.shuttleFreed_within (core : Nat) : State.Within releaseParts s (s.shuttleFreed core) := by
  rw [State.shuttleFreed_eq]
  exact (s.takeNext_frame core).1.trans (.foldl (fun s (x : Nat × Group) => (s.release_queues x.1).within) _ _)
theorem State.shuttleFreed_opsFrom (core : Nat) : s.OpsFrom (s.shuttleFreed core) := by
  rw [State.shuttleFreed_eq]
  exact (s.takeNext_frame core).2.trans (.foldl (fun s (x : Nat × Group) => (s.release_queues x.1).opsFrom) _ _)
end

/-! ### What the entries of operations say (R178) -/

/-- An entry that says something, its status and whether its operation was cancelled, says so still. -/
structure State.EntriesKeep (Q : Nat → Bool → Prop) (s t : State) : Prop where
  kept : ∀ c e x, Tab.get? (s.core c).entries e = some x → Q x.st x.canc → ∃ y, Tab.get? (t.core c).entries e = some y ∧ Q y.st y.canc

section
variable {Q : Nat → Bool → Prop} {s t u : State} {P : List Part}

theorem State.EntriesKeep.refl (s : State) : State.EntriesKeep Q s s := ⟨fun _ _ x h hq => ⟨x, h, hq⟩⟩
theorem State.EntriesKeep.trans (h : State.EntriesKeep Q s t) (h' : State.EntriesKeep Q t u) : State.EntriesKeep Q s u := ⟨fun c e x hx hq => by
  obtain ⟨y, hy, hqy⟩ := h.kept c e x hx hq
  exact h'.kept c e y hy hqy⟩
theorem State.EntriesKeep.foldl {α : Type} {f : State → α → State} (h : ∀ s a, State.EntriesKeep Q s (f s a)) (as : List α) (s : State) :
    State.EntriesKeep Q s (as.foldl f s) := by
  induction as generalizing s with
  | nil => exact .refl s
  | cons a as ih => exact (h s a).trans (ih _)
theorem State.EntriesKeep.of_cores (h : t.cores = s.cores) : State.EntriesKeep Q s t :=
  ⟨fun c e x hx hq => ⟨x, by rwa [State.core, h], hq⟩⟩
theorem State.Within.entriesKeep (h : State.Within P s t) (hc : Part.cores ∉ P := by decide) : State.EntriesKeep Q s t :=
  .of_cores (h.same .cores hc)
variable (s)
theorem State.modCore_entriesKeep (c : Nat) (f : Core → Core)
    (hf : ∀ k e x, Tab.get? k.entries e = some x → Q x.st x.canc → ∃ y, Tab.get? (f k).entries e = some y ∧ Q y.st y.canc) :
    State.EntriesKeep Q s (s.modCore c f) := ⟨fun i e x hx hq => by
  rw [State.core_modCore]
  split
  · next h => exact hf _ e x (h ▸ hx) hq
  · exact ⟨x, hx, hq⟩⟩

theorem Tab.get?_map_snd {κ ν : Type} [DecidableEq κ] (m : List (κ × ν)) (f : κ → ν → ν) (a : κ) :
    Tab.get? (m.map fun x => (x.1, f x.1 x.2)) a = (Tab.get? m a).map (f a) := by
  induction m with
  | nil => rfl
  | cons p m ih =>
    obtain ⟨k, w⟩ := p
    rw [List.map_cons, Tab.get?, Tab.get?]
    split
    · next h => rw [h, Option.map_some]
    · exact ih

/-- What the entries say once those that no handle names are free (R178). -/
theorem State.freeEntries_entry? (core e : Nat) : Tab.get? ((s.freeEntries core).core core).entries e =
    (Tab.get? (s.core core).entries e).map fun x => if x.live && x.st != 1 && !s.entryNamed core e x.gen then { x with live := false } else x := by
  unfold State.freeEntries
  rw [State.core_modCore, if_pos rfl, ← Tab.get?_map_snd (s.core core).entries fun i x =>
    if x.live && x.st != 1 && !s.entryNamed core i x.gen then { x with live := false } else x]
  refine congrArg (Tab.get? · e) (List.map_congr_left fun y _ => ?_)
  exact (apply_ite (Prod.mk y.1) _ _ _).symm

/-- An entry that no handle names is free, whatever it says. -/
theorem State.freeEntries_entriesKeep (core : Nat) : State.EntriesKeep Q s (s.freeEntries core) := ⟨fun c e x hx hq => by
  by_cases h : c = core
  · subst h
    rw [State.freeEntries_entry?, hx]
    refine ⟨_, rfl, ?_⟩
    dsimp only
    split <;> exact hq
  · unfold State.freeEntries
    rw [State.core_modCore, if_neg h]
    exact ⟨x, hx, hq⟩⟩

/-- What an entry says of an operation that ends. -/
def endSt (err : Option (Nat × W64)) : Nat := if err.isSome then 3 else 2
def endCanc (err : Option (Nat × W64)) (canc was : Bool) : Bool := if err.isSome then was else canc
/-- An entry when its operation ends. -/
def EngEntry.ended (x : EngEntry) (err : Option (Nat × W64)) (canc : Bool) : EngEntry :=
  match err with
  | some (cause, fva) => { x with st := 3, cause := cause, fva := fva }
  | none => { x with st := 2, canc := canc }
theorem EngEntry.ended_st (x : EngEntry) (err : Option (Nat × W64)) (canc : Bool) :
    (x.ended err canc).st = endSt err ∧ (x.ended err canc).canc = endCanc err canc x.canc := by
  cases err <;> exact ⟨rfl, rfl⟩

variable (core : Nat) (sk : Option SkId) (entry : Option Nat) (cls : Cls) (op lane : Nat) (err : Option (Nat × W64)) (canc : Bool)

/-- The entry of an operation, told. -/
def State.tellEntry (s : State) (core e : Nat) (err : Option (Nat × W64)) (canc : Bool) : State :=
  s.modCore core fun c => { c with entries := Tab.modify c.entries e fun x => x.ended err canc }

/-- A report tells the entry where there is one, and then does more that leaves what entries say. -/
theorem State.reportEnd_rest : State.EntriesKeep Q (match entry with | some e => s.tellEntry core e err canc | none => s)
    (s.reportEnd core sk entry cls op lane err canc) := by
  unfold State.reportEnd
  extract_lets s1 s2
  have left : State.EntriesKeep Q s1 s2 := by
    unfold s2
    split
    · exact (s1.modSkein_within ..).entriesKeep
    · exact .refl _
  refine State.EntriesKeep.trans ?_ (left.trans (s2.freeEntries_entriesKeep core))
  unfold s1
  cases entry with
  | some e =>
    dsimp only
    split
    · split
      · exact (State.modSkein_within ..).entriesKeep
      · exact (State.modSkein_within ..).entriesKeep
    · exact .refl _
  | none =>
    dsimp only
    split
    · split
      · exact (State.modSkein_within ..).entriesKeep.trans (State.modSkein_within ..).entriesKeep
      · exact (State.modSkein_within ..).entriesKeep
    · exact .refl _

theorem State.tellEntry_entriesKeep (e : Nat) (hQ : ∀ st c, Q st c → Q (endSt err) (endCanc err canc c)) :
    State.EntriesKeep Q s (s.tellEntry core e err canc) :=
  s.modCore_entriesKeep _ _ fun k i x hx hq => by
    dsimp only
    rw [Tab.get?_modify]
    split
    · next h =>
      rw [← h, hx]
      obtain ⟨hst, hc⟩ := x.ended_st err canc
      exact ⟨_, rfl, by rw [hst, hc]; exact hQ _ _ hq⟩
    · exact ⟨x, hx, hq⟩

/-- A report keeps what it tells itself. -/
theorem State.reportEnd_entriesKeep (hQ : ∀ st c, Q st c → Q (endSt err) (endCanc err canc c)) :
    State.EntriesKeep Q s (s.reportEnd core sk entry cls op lane err canc) := by
  refine State.EntriesKeep.trans ?_ (s.reportEnd_rest core sk entry cls op lane err canc)
  cases entry with
  | some e => exact s.tellEntry_entriesKeep core err canc e hQ
  | none => exact .refl _

theorem State.reportEnd_tells {e : Nat} {x : EngEntry} (hx : Tab.get? (s.core core).entries e = some x) :
    ∃ y, Tab.get? ((s.reportEnd core sk (some e) cls op lane err canc).core core).entries e = some y ∧ y.st = endSt err
      ∧ y.canc = endCanc err canc x.canc := by
  obtain ⟨hst, hc⟩ := x.ended_st err canc
  refine (s.reportEnd_rest (Q := fun st c => st = endSt err ∧ c = endCanc err canc x.canc) core sk (some e) cls op lane err canc).kept core e
    (x.ended err canc) ?_ ⟨hst, hc⟩
  dsimp only
  rw [State.tellEntry, State.core_modCore, if_pos rfl]
  dsimp only
  rw [Tab.get?_modify, if_pos rfl, hx, Option.map_some]
end

end Sys2Proof.Machine
end

section
/-! PROOFS. Operations that end, with what has to go with them (R30, R41, R148, R167, R178, R181). -/

-- one proof at a time: proofs elaborated side by side wait for each other's case splits, each on a stack of its own
set_option Elab.async false

namespace Sys2Proof.Machine

/-! ### An error once told stays told while units end -/

/-- An entry in error. -/
def inError (st : Nat) (_ : Bool) : Prop := st = 3

section
variable (s : State)

theorem State.reportError_keeps (core : Nat) (sk : Option SkId) (entry : Option Nat) (cls : Cls) (op lane : Nat) (err : Nat × W64) (canc : Bool) :
    State.EntriesKeep inError s (s.reportEnd core sk entry cls op lane (some err) canc) := s.reportEnd_entriesKeep _ _ _ _ _ _ _ _ fun _ _ _ => rfl

theorem State.removeSkein_keeps (id : SkId) : State.EntriesKeep inError s (s.removeSkein id) := by
  unfold State.removeSkein
  split
  · exact .refl _
  · extract_lets s1 s2 s3 s4
    have left : State.EntriesKeep inError s s4 := .of_cores rfl
    exact left.trans (s4.freeEntries_entriesKeep id.core)

theorem State.settleExits_keeps (gid : Nat) : State.EntriesKeep inError s (s.settleExits gid) := by
  unfold State.settleExits
  split
  · exact .refl _
  · next g _ =>
    extract_lets s1
    have joint : State.EntriesKeep inError s s1 := by
      refine .foldl (fun s js => ?_) _ s
      split
      · exact .refl _
      split
      · exact (s.jointSets_within _).entriesKeep.trans (.foldl (fun s m => s.reportError_keeps ..) _ _)
      · exact .refl _
    split
    · exact joint
    · refine joint.trans (.foldl (fun s v => ?_) _ s1)
      split
      · exact .refl _
      split
      · extract_lets s2
        have marked : State.EntriesKeep inError s s2 := (s.rendezvous_within _).entriesKeep
        split
        · exact marked.trans (s2.reportError_keeps ..)
        · exact marked
      · exact .refl _

theorem State.discardSkein_keeps (id : SkId) : State.EntriesKeep inError s (s.discardSkein id) := by
  unfold State.discardSkein
  split
  · exact .refl _
  · exact (s.removeSkein_keeps id).trans (State.settleExits_keeps ..)

theorem State.freeClaims_keeps (g : Group) : State.EntriesKeep inError s (s.freeClaims g) := by
  have one (s : State) (c : Nat) (f : Core → Core) (hf : ∀ k, (f k).entries = k.entries) : State.EntriesKeep inError s (s.modCore c f) :=
    s.modCore_entriesKeep c f fun k e x hx hq => ⟨x, by rwa [hf], hq⟩
  unfold State.freeClaims
  extract_lets r claim
  split
  · refine State.EntriesKeep.trans (one _ _ _ ?_) (one _ _ _ ?_) <;> exact fun _ => rfl
  · exact one s _ _ fun _ => rfl

theorem State.cancelGroup_keeps (gid : Nat) : State.EntriesKeep inError s (s.cancelGroup gid) := by
  unfold State.cancelGroup
  split
  · exact .refl _
  · extract_lets s1 s2 s3 r held s4 s5 mine
    have freed : State.EntriesKeep inError s s1 := (s.freeArea_within gid).entriesKeep
    have marked : State.EntriesKeep inError s1 s5 := .of_cores rfl
    refine freed.trans (marked.trans (.foldl (fun s x => ?_) mine s5))
    dsimp only
    split
    · exact s.discardSkein_keeps _
    · exact (s.modSkein_within ..).entriesKeep

theorem State.dropGroup_keeps (gid : Nat) : State.EntriesKeep inError s (s.dropGroup gid) := by
  unfold State.dropGroup
  split
  · exact .refl _
  · next g _ =>
    extract_lets s1 s2 s3 s4
    have freed : State.EntriesKeep inError s s1 := by
      unfold s1
      split
      · exact (s.freeArea_within gid).entriesKeep
      · exact (s.freeArea_within gid).entriesKeep.trans (State.freeClaims_keeps ..)
    have dropped : State.EntriesKeep inError s1 s2 := (s1.dropPrivate_within g).entriesKeep
    have gone : State.EntriesKeep inError s2 s4 := .of_cores rfl
    exact freed.trans (dropped.trans (gone.trans (s4.settleLaunch_unwinds 256 g.launch).within.entriesKeep))

theorem State.stopLaunch_keeps (lid : LaunchId) (st : Nat) : State.EntriesKeep inError s (s.stopLaunch lid st) := by
  unfold State.stopLaunch
  split
  · exact .refl _
  · split
    · exact .refl _
    · extract_lets gs s1 s2 s3
      have marked : State.EntriesKeep inError s s1 := .of_cores rfl
      have cancelled : State.EntriesKeep inError s1 s2 := .foldl (fun s g => s.cancelGroup_keeps g) gs s1
      have dropped : State.EntriesKeep inError s2 s3 := .foldl (fun s g => s.dropGroup_keeps g) _ s2
      exact marked.trans (cancelled.trans (dropped.trans (s3.settleLaunch_unwinds 256 lid).within.entriesKeep))

theorem State.failLaunch_keeps (lid : LaunchId) (cause : Nat) (pc fva : W64) (group skein core : Nat) :
    State.EntriesKeep inError s (s.failLaunch lid cause pc fva group skein core) := by
  unfold State.failLaunch
  split
  · exact .refl _
  · split
    · exact .refl _
    · extract_lets s1
      have noted : State.EntriesKeep inError s s1 := .of_cores rfl
      exact noted.trans (s1.stopLaunch_keeps ..)

/-! ### The error of a copy schedule entry (R41) -/

theorem State.scheduleError_opsFrom (gid cause : Nat) (fva : W64) : s.OpsFrom (s.scheduleError gid cause fva) := by
  unfold State.scheduleError
  split
  · exact .refl _
  · extract_lets live held
    split
    · exact (s.failLaunch_unwinds ..).opsFrom
    · split
      · exact (s.modSkein_within ..).opsFrom
      · exact (s.modWork_within _).opsFrom

theorem State.scheduleError_keeps (gid cause : Nat) (fva : W64) : State.EntriesKeep inError s (s.scheduleError gid cause fva) := by
  unfold State.scheduleError
  split
  · exact .refl _
  · extract_lets live held
    split
    · exact s.failLaunch_keeps ..
    · split
      · exact (s.modSkein_within ..).entriesKeep
      · exact (s.modWork_within _).entriesKeep
end

/-! ### An operation ends -/

/-- What leaves queues, names and entries as they are: the last credits of an operation. -/
def Credits (credit : State → State) : Prop := ∀ s, State.Within barrierParts s (credit s)
theorem credits_creditTb (o : EngOp) (n : Nat) : Credits fun s => s.creditTb o n := fun s => s.creditTb_within o n
theorem credits_id : Credits id := fun s => .refl _ s

section
variable (s : State) (o : EngOp) (err : Option (Nat × W64)) (canc : Bool)

/-- An operation that ends has left its queue. -/
def State.quits (s : State) (o : EngOp) (err : Option (Nat × W64)) (canc : Bool) (credit : State → State) : State :=
  let s := (credit (s.publish o (s.agentOf o))).dropOp o.id
  if err.isNone && !canc && (o.sk.isSome || !o.members.isEmpty) then { s with past := s.past ++ [o] } else s
/-- The end of an operation is told: to its skein and the members of its set, or to the schedule that it is of. -/
def State.tells (s : State) (o : EngOp) (err : Option (Nat × W64)) (canc : Bool) : State :=
  if o.sk.isSome || !o.members.isEmpty then
    let s := if o.sk.isSome then s.reportEnd o.core o.sk o.entry o.cls o.id o.lane err canc else s
    o.members.foldl (fun s m => s.reportEnd o.core (some m.sk) m.entry o.cls m.op m.lane err canc) s
  else
    let s := s.modGroup o.group fun g => { g with released := g.released.filter (· != o.id) }
    match err with
    | some (cause, fva) => s.scheduleError o.group cause fva
    | none => s

theorem State.endOp_eq (credit : State → State) : s.endOp o err canc credit =
    let t := (s.quits o err canc credit).tells o err canc
    if o.kind.isShuttle then t.shuttleFreed o.core else t := rfl

variable {s o}
theorem State.quits_frame {credit : State → State} (hc : Credits credit) : s.OpsFrom (s.quits o err canc credit)
    ∧ (s.quits o err canc credit).op? o.id = none ∧ (s.quits o err canc credit).cores = s.cores := by
  have published := s.publish_within o (s.agentOf o)
  have credited := hc (s.publish o (s.agentOf o))
  have from_ : s.OpsFrom ((credit (s.publish o (s.agentOf o))).dropOp o.id) :=
    published.opsFrom.trans (credited.opsFrom.trans (State.dropOp_opsFrom ..))
  have cores : ((credit (s.publish o (s.agentOf o))).dropOp o.id).cores = s.cores :=
    Eq.trans (credited.same .cores (by decide)) (published.same .cores (by decide))
  unfold State.quits
  extract_lets t
  split
  · exact ⟨from_.trans (State.Within.opsFrom (P := [.past]) (.of_update rfl)), State.op?_dropOp .., cores⟩
  · exact ⟨from_, State.op?_dropOp .., cores⟩

theorem State.tells_opsFrom : s.OpsFrom (s.tells o err canc) := by
  unfold State.tells
  split
  · extract_lets t
    have told : s.OpsFrom t := by
      unfold t
      split
      · exact (s.reportEnd_within ..).opsFrom
      · exact .refl _
    exact told.trans (.foldl (fun s m => (s.reportEnd_within ..).opsFrom) _ _)
  · extract_lets t
    have released : s.OpsFrom t := (s.modGroup_within ..).opsFrom
    split
    · exact released.trans (State.scheduleError_opsFrom ..)
    · exact released

theorem State.after_frame (core : Nat) (sh : Bool) :
    s.OpsFrom (if sh then s.shuttleFreed core else s) ∧ (if sh then s.shuttleFreed core else s).cores = s.cores := by
  split
  · exact ⟨s.shuttleFreed_opsFrom core, (s.shuttleFreed_within core).same .cores (by decide)⟩
  · exact ⟨.refl _, rfl⟩

theorem State.endOp_opsFrom {credit : State → State} (hc : Credits credit) : s.OpsFrom (s.endOp o err canc credit) := by
  rw [State.endOp_eq]
  exact (State.quits_frame err canc hc).1.trans ((State.tells_opsFrom err canc).trans (State.after_frame ..).1)

/-- An operation that has ended is in no queue. -/
theorem State.endOp_gone {credit : State → State} (hc : Credits credit) (hlt : o.id < s.nextName) : (s.endOp o err canc credit).op? o.id = none := by
  obtain ⟨from_, gone, -⟩ := State.quits_frame (s := s) (o := o) err canc hc
  rw [State.endOp_eq]
  exact ((State.tells_opsFrom err canc).trans (State.after_frame ..).1).gone gone (hlt.trans_le from_.names)

/-- The end of another operation with an error leaves an entry in error. -/
theorem State.endError_keeps (e : Nat × W64) : State.EntriesKeep inError s (s.endOp o (some e) canc id) := by
  obtain ⟨-, -, cores⟩ := State.quits_frame (s := s) (o := o) (some e) canc credits_id
  rw [State.endOp_eq]
  refine State.EntriesKeep.trans (.of_cores cores) (State.EntriesKeep.trans ?_ (.of_cores (State.after_frame ..).2))
  unfold State.tells
  split
  · extract_lets t
    refine State.EntriesKeep.trans (t := t) ?_ (.foldl (fun s m => s.reportError_keeps ..) _ _)
    unfold t
    split
    · exact State.reportError_keeps ..
    · exact .refl _
  · extract_lets t
    have released : State.EntriesKeep inError (s.quits o (some e) canc id) t := .of_cores rfl
    exact released.trans (t.scheduleError_keeps ..)

/-- The entry of an operation that has ended says how. -/
theorem State.endOp_tells {credit : State → State} (hc : Credits credit) (hsk : o.sk ≠ none) {e : Nat} (he : o.entry = some e) {x : EngEntry}
    (hx : Tab.get? (s.core o.core).entries e = some x) : ∃ y, Tab.get? ((s.endOp o err canc credit).core o.core).entries e = some y
      ∧ y.st = endSt err ∧ (err = none → y.canc = canc) := by
  obtain ⟨-, -, cores⟩ := State.quits_frame (s := s) (o := o) err canc hc
  have sk : o.sk.isSome = true := Option.isSome_iff_ne_none.2 hsk
  have there : Tab.get? ((s.quits o err canc credit).core o.core).entries e = some x := by rwa [State.core, cores]
  obtain ⟨y, hy, hst, hcanc⟩ := (s.quits o err canc credit).reportEnd_tells o.core o.sk o.cls o.id o.lane err canc there
  have kept : State.EntriesKeep (fun st c => st = endSt err ∧ (err = none → c = canc))
      ((s.quits o err canc credit).reportEnd o.core o.sk o.entry o.cls o.id o.lane err canc) (s.endOp o err canc credit) := by
    rw [State.endOp_eq]
    refine State.EntriesKeep.trans ?_ (.of_cores (State.after_frame ..).2)
    rw [State.tells, sk, Bool.true_or, if_pos rfl]
    refine .foldl (fun s m => s.reportEnd_entriesKeep _ _ _ _ _ _ _ _ fun st c _ => ⟨rfl, fun hn => ?_⟩) _ _
    rw [hn]
    rfl
  rw [he] at kept
  exact kept.kept o.core e y hy ⟨hst, fun hn => by rw [hcanc, hn]; rfl⟩

theorem Core.entry_of_get? {c : Core} {e : Nat} {x : EngEntry} (h : Tab.get? c.entries e = some x) : c.entry e = x := by
  rw [Core.entry, Tab.getD, h, Option.getD_some]
end

/-! ### The ends -/

section
variable {s : State} {op : Nat} {o : EngOp} (ho : s.op? op = some o) (hlt : op < s.nextName)
include ho hlt

theorem State.endOp_gone_of_op? {err : Option (Nat × W64)} {canc : Bool} {credit : State → State} (hc : Credits credit) :
    (s.endOp o err canc credit).op? op = none := by
  obtain rfl := State.id_of_op? ho
  exact State.endOp_gone err canc hc hlt

/-- An operation with an error of its own ends with it, and its twin half too (R167, R206). -/
theorem State.endBad_ends {cause : Nat} {va : W64} (hst : o.stat = .bad cause va) {sched : Bool} (hs : (o.sk.isNone && o.members.isEmpty) = sched) :
    (s.endBad op sched).op? op = none ∧ ∀ e x, o.sk ≠ none → o.entry = some e → Tab.get? (s.core o.core).entries e = some x →
      (((s.endBad op sched).core o.core).entry e).st = 3 := by
  have gone := State.endOp_gone_of_op? ho hlt (err := some (cause, va)) (canc := false) credits_id
  have names := (State.endOp_opsFrom (s := s) (o := o) (some (cause, va)) false credits_id).names
  simp only [State.endBad, ho, hst, hs, bne_self_eq_false, Bool.false_eq_true, if_false]
  cases s.twinMate o with
  | none =>
    refine ⟨gone, fun e x hsk he hx => ?_⟩
    obtain ⟨y, hy, hy3, -⟩ := State.endOp_tells (some (cause, va)) false credits_id hsk he hx
    exact (congrArg EngEntry.st (Core.entry_of_get? hy)).trans hy3
  | some p =>
    refine ⟨(State.endOp_opsFrom _ _ credits_id).gone gone (hlt.trans_le names), fun e x hsk he hx => ?_⟩
    obtain ⟨y, hy, hy3, -⟩ := State.endOp_tells (some (cause, va)) false credits_id hsk he hx
    obtain ⟨z, hz, hz3⟩ := (State.endError_keeps (o := p) false (cause, va)).kept o.core e y hy hy3
    exact (congrArg EngEntry.st (Core.entry_of_get? hz)).trans hz3

theorem exec_engineUnresolvableFault {cause : Nat} {va : W64} (hst : o.stat = .bad cause va) (hs : o.sk ≠ none ∨ o.members ≠ []) :
    ∃ t, exec (.engineUnresolvableFault op) s = .next t ∧ t.op? op = none ∧ ∀ e x, o.sk ≠ none → o.entry = some e →
      Tab.get? (s.core o.core).entries e = some x → ((t.core o.core).entry e).st = 3 := by
  refine ⟨s.endBad op false, rfl, State.endBad_ends ho hlt hst ?_⟩
  rw [Bool.and_eq_false_iff, Option.isNone_eq_false_iff, Option.isSome_iff_ne_none, List.isEmpty_eq_false_iff]
  exact hs

theorem exec_copyEntryUnresolvableFault {cause : Nat} {va : W64} (hst : o.stat = .bad cause va) (hsk : o.sk = none) (hm : o.members = []) :
    ∃ t, exec (.copyEntryUnresolvableFault op) s = .next t ∧ t.op? op = none :=
  ⟨s.endBad op true, rfl, (State.endBad_ends ho hlt hst (by rw [hsk, hm]; rfl)).1⟩

/-- The end of an operation without an error. -/
theorem State.endOp_ends (canc : Bool) {credit : State → State} (hc : Credits credit) : (s.endOp o none canc credit).op? op = none
    ∧ (∀ e x, o.sk ≠ none → o.entry = some e → Tab.get? (s.core o.core).entries e = some x →
      (((s.endOp o none canc credit).core o.core).entry e).st = 2)
    ∧ ∀ e x, o.sk ≠ none → o.entry = some e → Tab.get? (s.core o.core).entries e = some x →
      (((s.endOp o none canc credit).core o.core).entry e).canc = canc := by
  refine ⟨State.endOp_gone_of_op? ho hlt hc, fun e x hsk he hx => ?_, fun e x hsk he hx => ?_⟩
  all_goals obtain ⟨y, hy, hy2, hyc⟩ := State.endOp_tells none canc hc hsk he hx
  · exact (congrArg EngEntry.st (Core.entry_of_get? hy)).trans hy2
  · exact (congrArg EngEntry.canc (Core.entry_of_get? hy)).trans (hyc rfl)

omit hlt in
theorem execShuttleComplete_of (hdone : s.shuttleDone o = true) : execShuttleComplete op s =
    .next (s.endOp o none false fun s => s.creditTb o (o.kind.landing - o.credited)) := by
  rw [execShuttleComplete, ho]
  dsimp only
  rw [if_pos hdone]

theorem exec_shuttleComplete (hdone : s.shuttleDone o = true) : ∃ t, exec (.shuttleComplete op) s = .next t ∧ t.op? op = none
    ∧ ∀ e x, o.sk ≠ none → o.entry = some e → Tab.get? (s.core o.core).entries e = some x → ((t.core o.core).entry e).st = 2 := by
  obtain ⟨gone, told, -⟩ := State.endOp_ends ho hlt false (credits_creditTb o (o.kind.landing - o.credited))
  exact ⟨_, execShuttleComplete_of ho hdone, gone, told⟩
end

end Sys2Proof.Machine
end

section
/-! PROOFS. The Shuttle's sectors, its pauses, its prefetches and cancels (R30, R39, R148, R166, R174, R185 to R189). -/

-- one proof at a time: proofs elaborated side by side wait for each other's case splits, each on a stack of its own
set_option Elab.async false

namespace Sys2Proof.Machine

section
variable {s t u : State} {op : Nat} {o : EngOp} {g : Group}

/-! ### A sector has moved (R189) -/

/-- An operation stands at a boundary, running. -/
def State.At (t : State) (op p : Nat) : Prop := ∃ o', t.op? op = some o' ∧ o'.progress = p ∧ o'.stat = .running

theorem State.shuttleRuns_stat (h : s.shuttleRuns o = true) : o.stat = .running ∨ o.stat = .queued := by
  unfold State.shuttleRuns at h
  split at h
  · next hst => exact .inl hst
  · next hst => exact .inr hst
  · cases h

theorem State.landed_op? (ho : u.op? op = some o) (hst : o.stat = .running ∨ o.stat = .queued) (p : Nat) (ws : List (Nat × Nat)) :
    (u.landed o p ws).At op p := by
  obtain rfl := State.id_of_op? ho
  unfold State.landed
  extract_lets last v
  have moved : v.At o.id p := by
    refine ⟨_, State.op?_modOp_of ho _, rfl, ?_⟩
    rcases hst with h | h <;> simp only [h]
  split
  · exact moved
  · obtain ⟨o', ho', rest⟩ := moved
    exact ⟨o', ((v.creditTb_within o 1).op?_eq _).trans ho', rest⟩

/-- A unit without a barrier changes no more than its operation where it lands. -/
theorem State.landed_store (htb : o.kind.tb = none) (p : Nat) (ws : List (Nat × Nat)) : (u.landed o p ws).scratch = u.scratch
    ∧ (u.landed o p ws).mem = u.mem ∧ (u.landed o p ws).caches = u.caches := by
  have none_ (v : State) : v.creditTb o 1 = v := by rw [State.creditTb, htb]
  unfold State.landed
  extract_lets last v
  rw [none_, ite_self]
  exact ⟨rfl, rfl, rfl⟩

theorem execShuttleSectorLanded_of (ho : s.op? op = some o) (hrun : s.shuttleRuns o = true) (hleft : o.unitsDone = false) :
    execShuttleSectorLanded op s = match o.kind with
      | .cpy d => .next (s.cpyUnit o d)
      | .cpyt d => .next (s.cpytUnit o d)
      | .cpyr d => .next (s.cpyrUnit o d)
      | _ => .next s := by
  rw [execShuttleSectorLanded, ho]
  dsimp only
  rw [hrun, hleft]
  rfl

/-! ### The sectors of a CPY (R185) -/

/-- The bytes that a unit of a CPY is from, and those of scratch that it reads. -/
def EngOp.cpySrc (o : EngOp) (d : CpyDesc) : Nat := d.src + ((d.unit o.progress).1 - d.dst)
def EngOp.cpyScratch (o : EngOp) (d : CpyDesc) : List (Nat × Nat) := (if d.ss then [(o.cpySrc d, (d.unit o.progress).2)] else []) ++ o.tbRange
/-- What translation says of a unit's source, and of its destination. -/
def State.cpyFrom (s : State) (o : EngOp) (d : CpyDesc) : State × EngFate :=
  if d.ss then (s, EngFate.good) else s.engFate (s.jobOfGroup o.group) (dieOf o.core) .read (o.cpySrc d) (d.unit o.progress).2
def State.cpyTo (s : State) (j : Job) (o : EngOp) (d : CpyDesc) : State × EngFate :=
  if d.ds then (s, EngFate.good) else s.engFate j (dieOf o.core) .write (d.unit o.progress).1 (d.unit o.progress).2
/-- The bytes of a unit. -/
def State.cpyRead (s : State) (j : Job) (o : EngOp) (g : Group) (d : CpyDesc) : State × List Byte :=
  if d.ss then s.scrTake o g o.core (o.cpySrc d) (d.unit o.progress).2
  else s.engRead j.asid (s.shuttle o.core) (o.cpySrc d) (d.unit o.progress).2 o.report

theorem State.cpyFrom_within (s : State) (o : EngOp) (d : CpyDesc) : State.Within placeParts s (s.cpyFrom o d).1 := by
  unfold State.cpyFrom
  split
  · exact .refl ..
  · exact s.engFate_within ..
theorem State.cpyTo_within (s : State) (j : Job) (o : EngOp) (d : CpyDesc) : State.Within placeParts s (s.cpyTo j o d).1 := by
  unfold State.cpyTo
  split
  · exact .refl ..
  · exact s.engFate_within ..
theorem State.cpyRead_within (s : State) (j : Job) (o : EngOp) (g : Group) (d : CpyDesc) : State.Within homeParts s (s.cpyRead j o g d).1 := by
  unfold State.cpyRead
  split
  · exact (s.scrTake_within ..).mono
  · exact s.engRead_within ..

section
variable {d : CpyDesc} {s1 s2 s3 : State} {bs : List Byte} (hg : s.group? o.group = some g)
  (hscr : s.scrFate g o.core (o.cpyScratch d) = .good)
include hg hscr

theorem State.cpyUnit_local (hhomes : s.cpyHomes o d = (none, none)) (hfrom : s.cpyFrom o d = (s1, .good))
    (hto : s1.cpyTo (s.jobOfGroup o.group) o d = (s2, .good)) (hread : s2.cpyRead (s.jobOfGroup o.group) o g d = (s3, bs)) :
    s.cpyUnit o d = (s3.cpyStore o g d (d.unit o.progress).1 bs).landed o (o.progress + 1)
      (if d.ds then [] else wordKeys (s.jobOfGroup o.group).asid (d.unit o.progress).1 (d.unit o.progress).2) := by
  unfold EngOp.cpyScratch EngOp.cpySrc at hscr
  unfold State.cpyFrom EngOp.cpySrc at hfrom
  unfold State.cpyTo at hto
  unfold State.cpyRead EngOp.cpySrc at hread
  rcases hu : d.unit o.progress with ⟨va, n⟩
  rw [hu] at hscr hfrom hto hread
  simp only [State.cpyUnit, hg, hu, hscr, State.engGo, hhomes, hfrom, hto, hread]

theorem State.cpyUnit_parks (hhomes : s.cpyHomes o d = (none, none)) {va : Nat} (hfrom : s.cpyFrom o d = (s1, .park va)) :
    s.cpyUnit o d = s1.engPark o va := by
  unfold EngOp.cpyScratch EngOp.cpySrc at hscr
  unfold State.cpyFrom EngOp.cpySrc at hfrom
  rcases hu : d.unit o.progress with ⟨va, n⟩
  rw [hu] at hscr hfrom
  simp only [State.cpyUnit, hg, hu, hscr, State.engGo, hhomes, hfrom]

/-- A unit whose packets have been sent. -/
def State.cpyNext (s : State) (o : EngOp) : State := s.modOp o.id fun o => { o with progress := o.progress + 1, stat := .running }

theorem State.cpyUnit_sends {p : Nat} (hhome : (s.cpyHomes o d).1 = some p) (hr : s.reachable p = true) (hfrom : s.cpyFrom o d = (s1, .good)) :
    ∃ (u : State) (x : Packet), State.Within homeParts s1 u ∧ s.cpyUnit o d = (u.sendFor o p o.progress x).cpyNext o := by
  unfold EngOp.cpyScratch EngOp.cpySrc at hscr
  unfold State.cpyFrom EngOp.cpySrc at hfrom
  obtain ⟨⟨u, bs⟩, hread⟩ : ∃ r, s1.cpyRead (s.jobOfGroup o.group) o g d = r := ⟨_, rfl⟩
  have read := (s1.cpyRead_within (s.jobOfGroup o.group) o g d).of_eq hread
  unfold State.cpyRead EngOp.cpySrc at hread
  rcases hu : d.unit o.progress with ⟨va, n⟩
  rcases hh : s.cpyHomes o d with ⟨a, b⟩
  rw [hh] at hhome
  obtain rfl : a = some p := hhome
  rw [hu] at hscr hfrom hread
  refine ⟨u, bulkPacket p u.pkg.id (u.shuttle o.core) (s.jobOfGroup o.group).asid va o.id (o.progress + 1 == d.units) bs, read, ?_⟩
  simp only [State.cpyUnit, hg, hu, hscr, State.engGo, hh, hr, hfrom, hread, Bool.not_true, Bool.false_eq_true, if_false, State.cpyNext]
end

theorem State.scrFate_bad {rs : List (Nat × Nat)} {core cause off : Nat} (h : s.scrFate g core rs = .bad cause off) : cause = 0x07 := by
  unfold State.scrFate at h
  split at h
  · cases h
  · split at h
    · cases h
      rfl
    · cases h

/-- A unit that is to read scratch with an on-chip error ends its operation (R174). -/
theorem State.cpyUnit_bad (hg : s.group? o.group = some g) {d : CpyDesc} {cause off : Nat}
    (hscr : s.scrFate g o.core (o.cpyScratch d) = .bad cause off) : s.cpyUnit o d = s.engBad o 0x07 off := by
  obtain rfl := State.scrFate_bad hscr
  unfold EngOp.cpyScratch EngOp.cpySrc at hscr
  rcases hu : d.unit o.progress with ⟨va, n⟩
  rw [hu] at hscr
  simp only [State.cpyUnit, hg, hu, hscr, State.engGo]

/-- A unit whose packets are sent leaves the operation at the next boundary. -/
theorem State.cpyNext_at (ho : o.id = op) {y : EngOp} (hy : u.op? op = some y) (hp : y.progress = o.progress) :
    (u.cpyNext o).At op (o.progress + 1) := by
  subst ho
  exact ⟨{ y with progress := y.progress + 1, stat := .running }, State.op?_modOp_of hy _, congrArg (· + 1) hp, rfl⟩

theorem State.sendFor_op? (ho : o.id = op) {y : EngOp} (hy : u.op? op = some y) (pkg tag : Nat) (x : Packet) :
    ∃ y', (u.sendFor o pkg tag x).op? op = some y' ∧ y'.progress = y.progress := by
  subst ho
  exact ⟨_, State.op?_modOp_of (((u.sendPacket_within pkg x).op?_eq o.id).trans hy) _, rfl⟩

theorem State.foldl_sendFor_op? (ho : o.id = op) {α : Type} (pkg : Nat) (tag : α → Nat) (x : State → α → Packet) (as : List α) {y : EngOp}
    (hy : u.op? op = some y) : ∃ y', (as.foldl (fun s a => s.sendFor o pkg (tag a) (x s a)) u).op? op = some y' ∧ y'.progress = y.progress := by
  induction as generalizing u y with
  | nil => exact ⟨y, hy, rfl⟩
  | cons a as ih =>
    obtain ⟨z, hz, hzp⟩ := State.sendFor_op? ho hy pkg (tag a) (x u a)
    obtain ⟨y', hy', hp⟩ := ih hz
    exact ⟨y', hy', hp.trans hzp⟩

theorem State.foldl_sendFor_at (ho : o.id = op) {α : Type} (pkg : Nat) (tag : α → Nat) (x : State → α → Packet) (as : List α) {y : EngOp}
    (hy : u.op? op = some y) (hp : y.progress = o.progress) :
    ((as.foldl (fun s a => s.sendFor o pkg (tag a) (x s a)) u).cpyNext o).At op (o.progress + 1) := by
  obtain ⟨z, hz, hzp⟩ := State.foldl_sendFor_op? ho pkg tag x as hy
  exact State.cpyNext_at ho hz (hzp.trans hp)

/-- A unit of another package is asked for. -/
theorem State.cpyUnit_pulls {d : CpyDesc} {s1 : State} (ho : s.op? op = some o) (hg : s.group? o.group = some g)
    (hscr : s.scrFate g o.core (o.cpyScratch d) = .good) {p : Nat} (hhome : s.cpyHomes o d = (none, some p)) (hr : s.reachable p = true)
    (hto : s.cpyTo (s.jobOfGroup o.group) o d = (s1, .good)) : (s.cpyUnit o d).At op (o.progress + 1) := by
  have there : s1.op? op = some o := (((s.cpyTo_within ..).of_eq hto).op?_eq op).trans ho
  unfold EngOp.cpyScratch EngOp.cpySrc at hscr
  unfold State.cpyTo at hto
  rcases hu : d.unit o.progress with ⟨va, n⟩
  rw [hu] at hscr hto
  simp only [State.cpyUnit, hg, hu, hscr, State.engGo, hhome, hr, hto, Bool.not_true, Bool.false_eq_true, if_false]
  exact State.foldl_sendFor_at (State.id_of_op? ho) p _ _ _ there rfl

/-! ### A pause (R166) -/

theorem State.mem_reportFault (s : State) (asid va : Nat) : (asid, va / 4096 * 4096) ∈ (s.reportFault asid va).faults := by
  unfold State.reportFault
  split
  · next h => exact List.contains_iff_mem.1 h
  · exact List.mem_append_right _ (List.mem_singleton.2 rfl)

theorem State.engPark_op? (ho : s.op? op = some o) (va : Nat) :
    (s.engPark o va).op? op = some { o with stat := .paused (BitVec.ofNat 64 va) } := by
  obtain rfl := State.id_of_op? ho
  unfold State.engPark
  exact ((State.reportFault_within ..).op?_eq _).trans (State.op?_modOp_of ho _)

/-! ### The sectors of tiles (R187, R188) -/

/-- The elements of an operation's next sector, and the global bytes that they name. -/
def EngOp.tileElems (o : EngOp) (d : TileDesc) : List (Nat × Option Nat) := d.elems (o.progress / 2 ^ 14) (o.progress % 2 ^ 14)
def EngOp.tileRanges (o : EngOp) (d : TileDesc) : List (Nat × Nat) := (o.tileElems d).filterMap fun e => e.2.map fun a => (a, 2 ^ d.lesz)

section
variable {d : TileDesc} {s1 : State} (hg : s.group? o.group = some g)
include hg

theorem State.cpytUnit_moves
    (hscr : s.scrFate g o.core ((if d.dir then (o.tileElems d).map fun e => (e.1, 2 ^ d.lesz) else []) ++ o.tbRange) = .good)
    (hf : s.engFates (s.jobOfGroup o.group) (dieOf o.core) (if d.dir then .write else .read) (o.tileRanges d) = (s1, .good)) :
    ∃ u ws, State.Within storeParts s1 u ∧ s.cpytUnit o d = u.landed o (d.advance o.progress) ws := by
  unfold EngOp.tileRanges EngOp.tileElems at *
  obtain ⟨t, ht⟩ : ∃ t, s.cpytUnit o d = t := ⟨_, rfl⟩
  rw [ht]
  simp only [State.cpytUnit, hg, hscr, State.engGo, hf] at ht
  refine ⟨_, _, .foldl (fun s e => ?_) _ s1, ht.symm⟩
  split
  · split
    · exact State.Within.trans (P := storeParts) (s.scrTake_within ..).mono (State.engWrite_within ..).mono
    · exact State.Within.trans (P := storeParts) (s.engRead_within ..).mono (State.scrWrite_within ..).mono
  · split
    · exact .refl ..
    · exact (s.scrWrite_within ..).mono

theorem State.cpyrUnit_moves (hscr : s.scrFate g o.core ((o.tileElems d).map (fun e => (e.1, 2 ^ d.lesz)) ++ o.tbRange) = .good)
    (hf : s.engUpdates (s.jobOfGroup o.group) (dieOf o.core) (o.tileRanges d) = (s1, .good)) :
    ∃ u ws, State.Within storeParts s1 u ∧ s.cpyrUnit o d = u.landed o (d.advance o.progress) ws := by
  unfold EngOp.tileRanges EngOp.tileElems at *
  obtain ⟨t, ht⟩ : ∃ t, s.cpyrUnit o d = t := ⟨_, rfl⟩
  rw [ht]
  simp only [State.cpyrUnit, hg, hscr, State.engGo, hf] at ht
  refine ⟨_, _, .foldl (fun s e => ?_) _ s1, ht.symm⟩
  split
  · exact State.Within.trans (P := storeParts) (s.scrTake_within ..).mono (State.atomicUpdate_within ..).mono
  · exact .refl ..
end
end

/-! ### Prefetches and cancels (R30, R39) -/

section
variable {s : State} {op : Nat} {o : EngOp}

theorem State.engBad_within (s : State) (o : EngOp) (cause va : Nat) : State.Within [.ops] s (s.engBad o cause va) := s.modOp_within ..
theorem State.engPark_within (s : State) (o : EngOp) (va : Nat) : State.Within [.ops, .faults] s (s.engPark o va) :=
  State.Within.trans (P := [.ops, .faults]) (s.modOp_within ..).mono (State.reportFault_within ..).mono

theorem State.prefetchRow_within (s : State) (j : Job) (die : Nat) (pieces : List Nat) :
    State.Within placeParts s (s.prefetchRow j die pieces).1 := by
  refine .foldl_fst (fun r p => ?_) pieces (s, EngFate.good)
  obtain ⟨s, x⟩ := r
  dsimp only
  have fated : State.Within placeParts s (s.engFate1 j die .read (4096 * p)).1 := s.engFate1_within ..
  split
  · exact .refl ..
  · split
    · next h => exact fated.of_eq h
    · next h => exact fated.of_eq h
    · exact fated

theorem State.prefetchRows_within (s : State) (o : EngOp) (d : TileDesc) (n : Nat) :
    State.Within (.ops :: .faults :: placeParts) s (s.prefetchRows o d n).1 := by
  induction n generalizing s with
  | zero => exact .refl ..
  | succ n ih =>
    unfold State.prefetchRows
    extract_lets r
    have row : State.Within (.ops :: .faults :: placeParts) s (s.prefetchRow (s.jobOfGroup o.group) (dieOf o.core) (d.rowPages r)).1 :=
      (s.prefetchRow_within ..).mono
    split
    · next h => exact (row.of_eq h).trans (ih _)
    · next h => exact (row.of_eq h).trans ((State.modOp_within ..).mono.trans (State.engPark_within ..).mono)
    · next h => exact (row.of_eq h).trans (State.engBad_within ..).mono

/-- A prefetch arrives at its barrier, where it has one (R39). -/
def EngOp.arrives (o : EngOp) (tb : Option Nat) (s : State) : State :=
  match tb with
  | some t => s.tbArrive o.group o.core t
  | none => s
theorem credits_arrives (o : EngOp) (tb : Option Nat) : Credits (o.arrives tb) := fun s => by
  unfold EngOp.arrives
  split
  · exact s.tbArrive_within ..
  · exact .refl ..

variable (ho : s.op? op = some o) (hlt : op < s.nextName)
include ho hlt

theorem exec_prefetchComplete {d : TileDesc} {tb : Option Nat} {s1 : State} (hk : o.kind = .prefetch d tb) (hrun : s.shuttleRuns o = true)
    (hrows : s.prefetchRows o d (d.rows - o.progress) = (s1, true)) : ∃ t, exec (.prefetchComplete op) s = .next t ∧ t.op? op = none := by
  have read := (s.prefetchRows_within o d (d.rows - o.progress)).of_eq hrows
  have names : s1.nextName = s.nextName := read.same .nextName (by decide)
  obtain rfl := State.id_of_op? ho
  refine ⟨_, ?_, State.endOp_gone (s := s1) none false (credits_arrives o tb) (names ▸ hlt)⟩
  show execPrefetchComplete o.id s = _
  unfold execPrefetchComplete
  simp only [ho, hk, hrun, hrows, Bool.not_true, Bool.false_eq_true, if_false]
  rfl

/-- An operation that is asked to stop and has not completed. -/
def State.Stops (s : State) (o : EngOp) : Prop :=
  (∃ d, (o.kind = .cpy d ∨ ∃ d', o.kind = .cpyt d' ∨ o.kind = .cpyr d') ∧ s.shuttleDone o = false) ∨ (∃ d tb, o.kind = .prefetch d tb)
    ∨ (∃ d, o.kind = .mat d ∧ o.progress < d.steps ∧ s.twinMate o = none) ∨ (∃ a n, o.kind = .mzero a n ∧ o.progress < n ∧ s.twinMate o = none)
    ∨ (∃ d, o.kind = .gey d ∧ 32 * o.progress < d.rows)

omit hlt in
theorem execEngineCancelStop_of (hreq : o.cancelReq = true) (hstop : s.Stops o) :
    ∃ credit, Credits credit ∧ execEngineCancelStop op s = .next (s.endOp o none true credit) := by
  have noMate (h : s.twinMate o = none) : s.endMatrix o none true = s.endOp o none true id := by rw [State.endMatrix, h]
  rcases hstop with ⟨d, hk, hleft⟩ | ⟨d, tb, hk⟩ | ⟨d, hk, hlt, hm⟩ | ⟨a, n, hk, hlt, hm⟩ | ⟨d, hk, hlt⟩
  · refine ⟨_, credits_creditTb o (o.kind.landing - o.credited), ?_⟩
    rcases hk with hk | ⟨d', hk | hk⟩ <;>
      simp only [execEngineCancelStop, ho, hreq, hk, hleft, Bool.not_true, Bool.false_eq_true, if_false]
  · refine ⟨id, credits_id, ?_⟩
    simp only [execEngineCancelStop, ho, hreq, hk, Bool.not_true, Bool.false_eq_true, if_false]
  · refine ⟨id, credits_id, ?_⟩
    have left : (s.matRunnable o && decide (o.progress ≥ d.steps)) = false := by
      rw [Bool.and_eq_false_iff, decide_eq_false_iff_not]
      omega
    simp only [execEngineCancelStop, ho, hreq, hk, left, noMate hm, Bool.not_true, Bool.false_eq_true, if_false]
  · refine ⟨id, credits_id, ?_⟩
    have left : (s.matRunnable o && decide (o.progress ≥ n)) = false := by
      rw [Bool.and_eq_false_iff, decide_eq_false_iff_not]
      omega
    simp only [execEngineCancelStop, ho, hreq, hk, left, noMate hm, Bool.not_true, Bool.false_eq_true, if_false]
  · refine ⟨id, credits_id, ?_⟩
    have left : ¬ (32 * o.progress ≥ d.rows) := by omega
    simp only [execEngineCancelStop, ho, hreq, hk, left, Bool.not_true, Bool.false_eq_true, if_false]

theorem exec_engineCancelStop (hreq : o.cancelReq = true) (hstop : s.Stops o) :
    ∃ t, exec (.engineCancelStop op) s = .next t ∧ t.op? op = none
      ∧ (∀ e x, o.sk ≠ none → o.entry = some e → Tab.get? (s.core o.core).entries e = some x → ((t.core o.core).entry e).st = 2)
      ∧ ∀ e x, o.sk ≠ none → o.entry = some e → Tab.get? (s.core o.core).entries e = some x → ((t.core o.core).entry e).canc = true := by
  obtain ⟨credit, hc, hexec⟩ := execEngineCancelStop_of ho hreq hstop
  exact ⟨_, hexec, State.endOp_ends ho hlt true hc⟩
end

end Sys2Proof.Machine
end

section
/-! PROOFS. What the Shuttle does, event by event (R39, R41, R148, R166, R167, R174, R181, R185, R187 to R189). -/

-- one proof at a time: proofs elaborated side by side wait for each other's case splits, each on a stack of its own
set_option Elab.async false

namespace Sys2Proof.Machine

section
variable {s : State} {op : Nat} {o : EngOp}

theorem exec_engineFaultResume (ho : s.op? op = some o) {va : W64} (hst : o.stat = .paused va)
    (hfault : s.faults.contains ((s.jobOfGroup o.group).asid, va.toNat / 4096 * 4096) = false) :
    exec (.engineFaultResume op) s = .next (s.modOp op fun y => { y with stat := .running }) := by
  show execEngineFaultResume op s = _
  unfold execEngineFaultResume
  simp only [ho, hst, hfault, Bool.false_eq_true, if_false]

/-- An operation whose next sector is due, with its group. -/
structure State.Moves (s : State) (op : Nat) (o : EngOp) (g : Group) : Prop where
  op : s.op? op = some o
  runs : s.shuttleRuns o = true
  left : o.unitsDone = false
  group : s.group? o.group = some g

variable {g : Group} (h : s.Moves op o g)
include h

theorem State.Moves.exec_cpy {d : CpyDesc} (hk : o.kind = .cpy d) : exec (.shuttleSectorLanded op) s = .next (s.cpyUnit o d) := by
  show execShuttleSectorLanded op s = _
  rw [execShuttleSectorLanded_of h.op h.runs h.left, hk]
theorem State.Moves.exec_cpyt {d : TileDesc} (hk : o.kind = .cpyt d) : exec (.shuttleSectorLanded op) s = .next (s.cpytUnit o d) := by
  show execShuttleSectorLanded op s = _
  rw [execShuttleSectorLanded_of h.op h.runs h.left, hk]
theorem State.Moves.exec_cpyr {d : TileDesc} (hk : o.kind = .cpyr d) : exec (.shuttleSectorLanded op) s = .next (s.cpyrUnit o d) := by
  show execShuttleSectorLanded op s = _
  rw [execShuttleSectorLanded_of h.op h.runs h.left, hk]

/-- Where a state comes from one of the operation's by a frame that keeps operations, a unit that lands leaves it at the next boundary. -/
theorem State.Moves.lands {P : List Part} {u : State} (hw : State.Within P s u) (hP : Part.ops ∉ P) (p : Nat) (ws : List (Nat × Nat)) :
    (u.landed o p ws).At op p :=
  State.landed_op? ((hw.op?_eq op hP).trans h.op) (State.shuttleRuns_stat h.runs) p ws

section
variable {d : CpyDesc} {s1 s2 s3 : State} {bs : List Byte} (hk : o.kind = .cpy d)
include hk

theorem State.Moves.local_ (hhomes : s.cpyHomes o d = (none, none)) (hscr : s.scrFate g o.core (o.cpyScratch d) = .good)
    (hfrom : s.cpyFrom o d = (s1, .good)) (hto : s1.cpyTo (s.jobOfGroup o.group) o d = (s2, .good))
    (hread : s2.cpyRead (s.jobOfGroup o.group) o g d = (s3, bs)) :
    ∃ t, exec (.shuttleSectorLanded op) s = .next t ∧ t.At op (o.progress + 1)
      ∧ (d.tb = none → t.scratch = (s3.cpyStore o g d (d.unit o.progress).1 bs).scratch ∧ t.mem = (s3.cpyStore o g d (d.unit o.progress).1 bs).mem
          ∧ t.caches = (s3.cpyStore o g d (d.unit o.progress).1 bs).caches) := by
  have placed : State.Within storeParts s s1 := ((s.cpyFrom_within o d).of_eq hfrom).mono
  have placed2 : State.Within storeParts s1 s2 := ((s1.cpyTo_within _ o d).of_eq hto).mono
  have read : State.Within storeParts s2 s3 := ((s2.cpyRead_within _ o g d).of_eq hread).mono
  have stored := placed.trans (placed2.trans (read.trans (s3.cpyStore_within o g d (d.unit o.progress).1 bs)))
  refine ⟨_, h.exec_cpy hk, ?_⟩
  rw [State.cpyUnit_local h.group hscr hhomes hfrom hto hread]
  exact ⟨h.lands stored (by decide) _ _, fun htb => State.landed_store (by rw [hk]; exact htb) _ _⟩

theorem State.Moves.remote {p : Nat} (hr : s.reachable p = true) (hscr : s.scrFate g o.core (o.cpyScratch d) = .good)
    (hend : (s.cpyHomes o d).1 = some p ∧ s.cpyFrom o d = (s1, .good)
      ∨ s.cpyHomes o d = (none, some p) ∧ s.cpyTo (s.jobOfGroup o.group) o d = (s1, .good)) :
    ∃ t, exec (.shuttleSectorLanded op) s = .next t ∧ t.At op (o.progress + 1) := by
  refine ⟨_, h.exec_cpy hk, ?_⟩
  rcases hend with ⟨hhome, hfrom⟩ | ⟨hhome, hto⟩
  · obtain ⟨u, x, read, hu⟩ := State.cpyUnit_sends h.group hscr hhome hr hfrom
    have there : u.op? op = some o := (read.op?_eq op).trans ((((s.cpyFrom_within o d).of_eq hfrom).op?_eq op).trans h.op)
    obtain ⟨y, hy, hp⟩ := State.sendFor_op? (State.id_of_op? h.op) there p o.progress x
    rw [hu]
    exact State.cpyNext_at (State.id_of_op? h.op) hy hp
  · exact State.cpyUnit_pulls h.op h.group hscr hhome hr hto

theorem State.Moves.parks (hhomes : s.cpyHomes o d = (none, none)) (hscr : s.scrFate g o.core (o.cpyScratch d) = .good) {va : Nat}
    (hfrom : s.cpyFrom o d = (s1, .park va)) : ∃ t o', exec (.shuttleSectorLanded op) s = .next t ∧ t.op? op = some o'
      ∧ o'.stat = .paused (BitVec.ofNat 64 va) ∧ ((s.jobOfGroup o.group).asid, va / 4096 * 4096) ∈ t.faults := by
  have placed := (s.cpyFrom_within o d).of_eq hfrom
  have there : s1.op? op = some o := (placed.op?_eq op).trans h.op
  have job : s1.jobOfGroup o.group = s.jobOfGroup o.group := by
    simp only [State.jobOfGroup, placed.group?_eq, placed.job?_eq]
  refine ⟨s.cpyUnit o d, { o with stat := .paused (BitVec.ofNat 64 va) }, h.exec_cpy hk, ?_⟩
  rw [State.cpyUnit_parks h.group hscr hhomes hfrom]
  refine ⟨State.engPark_op? there va, rfl, ?_⟩
  rw [← job]
  exact State.mem_reportFault ..

theorem State.Moves.fails {cause off : Nat} (hscr : s.scrFate g o.core (o.cpyScratch d) = .bad cause off) :
    exec (.shuttleSectorLanded op) s = .next (s.modOp op fun y => { y with stat := .bad 0x07 (BitVec.ofNat 64 off) }) := by
  rw [h.exec_cpy hk, State.cpyUnit_bad h.group hscr, State.engBad, State.id_of_op? h.op]
end

section
variable {d : TileDesc} {s1 : State}
theorem State.Moves.tile (hk : o.kind = .cpyt d)
    (hscr : s.scrFate g o.core ((if d.dir then (o.tileElems d).map fun e => (e.1, 2 ^ d.lesz) else []) ++ o.tbRange) = .good)
    (hf : s.engFates (s.jobOfGroup o.group) (dieOf o.core) (if d.dir then .write else .read) (o.tileRanges d) = (s1, .good)) :
    ∃ t, exec (.shuttleSectorLanded op) s = .next t ∧ t.At op (d.advance o.progress) := by
  obtain ⟨u, ws, moved, hu⟩ := State.cpytUnit_moves h.group hscr hf
  have placed : State.Within storeParts s s1 := ((s.engFates_within ..).of_eq hf).mono
  exact ⟨_, h.exec_cpyt hk, hu ▸ h.lands (placed.trans moved) (by decide) _ _⟩
theorem State.Moves.reduction (hk : o.kind = .cpyr d)
    (hscr : s.scrFate g o.core ((o.tileElems d).map (fun e => (e.1, 2 ^ d.lesz)) ++ o.tbRange) = .good)
    (hf : s.engUpdates (s.jobOfGroup o.group) (dieOf o.core) (o.tileRanges d) = (s1, .good)) :
    ∃ t, exec (.shuttleSectorLanded op) s = .next t ∧ t.At op (d.advance o.progress) := by
  obtain ⟨u, ws, moved, hu⟩ := State.cpyrUnit_moves h.group hscr hf
  have placed : State.Within storeParts s s1 := ((s.engUpdates_within ..).of_eq hf).mono
  exact ⟨_, h.exec_cpyr hk, hu ▸ h.lands (placed.trans moved) (by decide) _ _⟩
end
end

/-- Settles O43: a sector's move by the frame of what it reads and writes, which keeps the operations; an end by the names of operations
(`State.OpsFrom`) and by what entries go on saying (`State.EntriesKeep`). -/
theorem shuttleEvents : Obligations.ShuttleEvents := by
  intro s op o ho
  refine ⟨fun va hst hfault => exec_engineFaultResume ho hst hfault, fun hlt cause va hst => ⟨exec_engineUnresolvableFault ho hlt hst,
    exec_copyEntryUnresolvableFault ho hlt hst⟩, fun hrun hleft g hg => ?_, fun hlt hdone => exec_shuttleComplete ho hlt hdone,
    fun d tb s1 hk hrun hrows hlt => exec_prefetchComplete ho hlt hk hrun hrows,
    fun hlt hreq hstop => exec_engineCancelStop ho hlt hreq hstop⟩
  have moves : s.Moves op o g := ⟨ho, hrun, hleft, hg⟩
  refine ⟨fun d s1 s2 s3 bs hk hhomes => ?_, fun d p s1 hk hr hscr hend => moves.remote hk hr hscr hend, fun d s1 va hk hhomes hss hscr hfrom => ?_,
    fun d cause off hk hss hscr => moves.fails hk (cause := cause) ?_, fun d s1 hk hscr hf => moves.tile hk hscr hf,
    fun d s1 hk hscr hf => moves.reduction hk hscr hf⟩
  · exact fun hscr hfrom hto hread => moves.local_ hk hhomes hscr hfrom hto hread
  · exact moves.parks hk hhomes (by rw [EngOp.cpyScratch, hss]; exact hscr) (by rw [State.cpyFrom, hss]; exact hfrom)
  · rw [EngOp.cpyScratch, hss]
    exact hscr

end Sys2Proof.Machine
end

section
/-! PROOFS. An address is translated the same whatever name comes next (R151 to R173; log 4). -/

-- one proof at a time: proofs elaborated side by side wait for each other's case splits, each on a stack of its own
set_option Elab.async false

namespace Sys2Proof.Machine

/-- The state whose next name is another. -/
def State.renamed (n : Nat) (s : State) : State := { s with nextName := n }

section
variable (n : Nat) (s : State)

theorem State.renamed_modSlice (sl : Nat) (f : Slice → Slice) : (s.renamed n).modSlice sl f = (s.modSlice sl f).renamed n := rfl
theorem State.renamed_slice (sl : Nat) : (s.renamed n).slice sl = s.slice sl := rfl

theorem State.renamed_sectorFailed (sl : Nat) : (s.renamed n).sectorFailed sl = s.sectorFailed sl := rfl
theorem State.renamed_pteKey? (dfn i : Nat) : (s.renamed n).pteKey? dfn i = s.pteKey? dfn i := rfl
theorem State.renamed_pte (dfn i : Nat) : (s.renamed n).pte dfn i = s.pte dfn i := rfl
theorem State.renamed_home (j : Job) (die va : Nat) : (s.renamed n).home j die va = s.home j die va := rfl
theorem State.renamed_blockFails (sl rec : Nat) : (s.renamed n).blockFails sl rec = s.blockFails sl rec := rfl
theorem State.renamed_blockBytes (sl : Nat) (b : CBlock) : (s.renamed n).blockBytes sl b = s.blockBytes sl b := rfl

theorem State.renamed_checkSector (sl key : Nat) : (s.renamed n).checkSector sl key = (s.checkSector sl key).renamed n := by
  unfold State.checkSector
  simp only [State.renamed_slice, apply_ite (State.renamed n)]
  rfl

theorem State.renamed_checkSectors (sl : Nat) (ks : List Nat) :
    ks.foldl (fun s k => s.checkSector sl k) (s.renamed n) = (ks.foldl (fun s k => s.checkSector sl k) s).renamed n := by
  induction ks generalizing s with
  | nil => rfl
  | cons k ks ih => simp only [List.foldl_cons, State.renamed_checkSector, ih]

theorem State.renamed_allocPieces (sl m : Nat) :
    (s.renamed n).allocPieces sl m = (s.allocPieces sl m).map fun r => (r.1.renamed n, r.2) := by
  unfold State.allocPieces
  simp only [State.renamed_slice, apply_ite (Option.map _)]
  rfl

theorem State.renamed_allocPiece (sl : Nat) : (s.renamed n).allocPiece sl = ((s.allocPiece sl).1.renamed n, (s.allocPiece sl).2) := by
  unfold State.allocPiece
  rw [State.renamed_allocPieces]
  rcases s.allocPieces sl 1 with _ | ⟨t, _ | ⟨p, ps⟩⟩ <;> rfl

/-- One piece of a frame run is installed (R161, R162). -/
def State.installPiece (s : State) (sl pk : Nat) (bs : List Byte) (p : Nat) : State :=
  ({ s with mem := Sparse.putList 0 s.mem (physKey sl p 0) (bs.take 4096) } : State).modSlice sl fun x =>
    (if (x.entry pk).kind == 0 then x.release (x.entry pk) else x).setEntry pk ⟨1, false, 0, ((x.entry pk).ver + 1) % 256, p⟩

theorem State.renamed_installPieces (sl m pk : Nat) (bs : List Byte) :
    (s.renamed n).installPieces sl m pk bs = (s.installPieces sl m pk bs).map (State.renamed n) := by
  induction m generalizing s pk bs with
  | zero => rfl
  | succ m ih =>
    unfold State.installPieces
    rw [State.renamed_allocPiece]
    rcases s.allocPiece sl with ⟨t, _ | p⟩
    · rfl
    · exact ih (t.installPiece sl pk bs p) ..

theorem State.renamed_walkFrom (va m lv dfn : Nat) :
    State.walkFrom va m lv dfn (s.renamed n) = ((State.walkFrom va m lv dfn s).1.renamed n, (State.walkFrom va m lv dfn s).2) := by
  induction m generalizing s lv dfn with
  | zero => rfl
  | succ m ih =>
    unfold State.walkFrom
    simp only [State.renamed_pteKey?, State.renamed_pte, State.renamed_sectorFailed, State.renamed_checkSector]
    show _ = Prod.map (State.renamed n) id _
    cases s.pteKey? dfn (levelIndex lv va) <;> simp only [apply_ite (Prod.map (State.renamed n) id), ih] <;> rfl

theorem State.renamed_leaf (sl asid va : Nat) : (s.renamed n).leaf sl asid va = ((s.leaf sl asid va).1.renamed n, (s.leaf sl asid va).2) := by
  unfold State.leaf
  simp only [State.renamed_slice]
  split
  · rfl
  · next root _ _ =>
    split
    · rfl
    · rfl
    · rw [State.walk, State.renamed_walkFrom, ← State.walk]
      rcases s.walk root va with ⟨t, _ | _ | _ | _⟩ <;> rfl

theorem State.renamed_expand (sl pk rec : Nat) : (s.renamed n).expand sl pk rec = (s.expand sl pk rec).renamed n := by
  unfold State.expand
  rw [State.renamed_slice]
  split
  · rfl
  · next b _ =>
    rw [State.renamed_checkSectors, State.renamed_blockFails]
    generalize (b.sectors sl).foldl (fun s k => s.checkSector sl k) s = t
    split
    · rfl
    split
    · rfl
    · simp only [State.renamed_blockBytes, State.renamed_installPieces]
      generalize (if b.fits then lz4Expand (4096 * b.pieces) (t.blockBytes sl b) else none) = found
      cases found with
      | none => rfl
      | some out =>
        dsimp only
        cases t.installPieces sl b.pieces b.first out <;> rfl

theorem State.renamed_putPte (dfn i : Nat) (p : W64) : (s.renamed n).putPte dfn i p = (s.putPte dfn i p).renamed n := by
  show (match s.pteKey? dfn i with | some k => _ | none => _) = _
  unfold State.putPte
  cases s.pteKey? dfn i <;> rfl

theorem State.renamed_newTable (root : Option Nat) : (s.renamed n).newTable root = (s.newTable root).map fun r => (r.1.renamed n, r.2) := by
  unfold State.newTable
  dsimp only
  rw [State.renamed_allocPieces]
  show Option.map _ (Option.map _ (s.allocPieces (tableSlice s.nextDfn) 16)) = _
  cases s.allocPieces (tableSlice s.nextDfn) 16 <;> rfl

theorem State.renamed_tableUnder (root dfn i : Nat) :
    (s.renamed n).tableUnder root dfn i = (s.tableUnder root dfn i).map fun r => (r.1.renamed n, r.2) := by
  unfold State.tableUnder
  simp only [State.renamed_pte, State.renamed_newTable]
  split
  · rfl
  · rcases s.newTable (some root) with _ | ⟨t, d⟩
    · rfl
    · exact congrArg (fun x => some (x, d)) (State.renamed_putPte n t ..)

theorem State.renamed_leafTable (root va : Nat) :
    (s.renamed n).leafTable root va = (s.leafTable root va).map fun r => (r.1.renamed n, r.2) := by
  unfold State.leafTable
  rw [State.renamed_tableUnder]
  rcases s.tableUnder root root (levelIndex 0 va) with _ | ⟨t, d⟩
  · rfl
  show (match (t.renamed n).tableUnder root d (levelIndex 1 va) with | none => none | some (s, d2) => s.tableUnder root d2 (levelIndex 2 va)) = _
  rw [State.renamed_tableUnder]
  rcases h : t.tableUnder root d (levelIndex 1 va) with _ | ⟨u, e⟩
  · simp only [h]; rfl
  · simp only [h]
    exact u.renamed_tableUnder ..

theorem State.renamed_writeLeaf (asid va : Nat) (p : W64) : (s.renamed n).writeLeaf asid va p = (s.writeLeaf asid va p).renamed n := by
  unfold State.writeLeaf
  rw [State.renamed_slice]
  split
  · rfl
  · next root _ _ =>
    rw [State.renamed_leafTable]
    rcases s.leafTable root va with _ | ⟨t, d⟩
    · rfl
    · show State.tlbDrop { (t.renamed n).putPte _ _ _ with verified := _, badPages := _ } _ _ = _
      rw [State.renamed_putPte]
      rfl

theorem State.renamed_zeroPieces (j : Job) (die va dfn : Nat) (skip : Option Nat) (m : Nat) :
    (s.renamed n).zeroPieces j die va dfn skip m = (s.zeroPieces j die va dfn skip m).renamed n := by
  induction m with
  | zero => rfl
  | succ m ih =>
    unfold State.zeroPieces
    simp only [ih, State.renamed_home]
    split
    · split <;> rfl
    · rfl

theorem State.renamed_place (j : Job) (die asid va : Nat) (acc : Acc) :
    (s.renamed n).place j die asid va acc = ((s.place j die asid va acc).1.renamed n, (s.place j die asid va acc).2) := by
  unfold State.place
  rw [State.renamed_home]
  split
  · rfl
  · rfl
  · next sl _ =>
    rw [State.renamed_leaf]
    rcases s.leaf sl asid va with ⟨t, (⟨p, large⟩ | _ | _ | _)⟩
    · show _ = Prod.map (State.renamed n) id _
      simp only [State.renamed_slice, State.renamed_allocPiece, State.renamed_expand, State.renamed_blockFails]
      split
      · rfl
      split
      · rfl
      split
      · rfl
      split
      · split
        · rfl
        · rcases t.allocPiece sl with ⟨u, _ | q⟩
          · rfl
          · simp only [State.renamed_modSlice, State.renamed_zeroPieces, State.renamed_writeLeaf]
            split <;> rfl
      · split
        · rfl
        all_goals
          rw [apply_ite (Prod.map (State.renamed n) id)]
          rfl
    all_goals rfl

/-- What the write of a slot of the ring meets does not hang on the next name. -/
theorem State.renamed_slotFate (j : Job) (die va : Nat) :
    (s.renamed n).slotFate j die va = ((s.slotFate j die va).1.renamed n, (s.slotFate j die va).2) := by
  unfold State.slotFate
  simp only [State.renamed_place]
  rcases s.place j die j.asid va .write with ⟨t, _ | _ | _ | _ | _⟩
  · dsimp only
    simp only [State.renamed_place]
    rcases t.place j die j.asid (va + 255) .write with ⟨u, _ | _ | _ | _ | _⟩ <;> rfl
  all_goals rfl

end

end Sys2Proof.Machine
end

section
/-! PROOFS. A copy's descriptor is checked field by field, in the order of the rules (R107, R108, R183 to R188). -/

-- one proof at a time: proofs elaborated side by side wait for each other's case splits, each on a stack of its own
set_option Elab.async false

namespace Sys2Proof.Machine

theorem Checked.mono {trap trap' : Nat → W64 → Prop} {go go' : Prop} {cs : List (Prop × Nat × W64)} (h : Checked trap go cs)
    (ht : ∀ n a, trap n a → trap' n a) (hg : go → go') : Checked trap' go' cs := by
  induction cs with
  | nil => exact hg h
  | cons x cs ih => exact ⟨fun hx => ht _ _ (h.1 hx), fun hx => ih (h.2 hx)⟩

/-- The list of checks says what a reading of a descriptor gives: the first that holds, or what is read. -/
def Reads {α : Type} (e : Except Bad α) (d : α) (cs : List (Prop × Nat × W64)) : Prop :=
  Checked (fun n a => e = .error (n, a)) (e = .ok d) cs

theorem Reads.nil {α : Type} {d : α} : Reads (.ok d) d [] := rfl

theorem Reads.ok {α β : Type} {k : β → Except Bad α} {v : β} {d : α} {cs : List (Prop × Nat × W64)} (h : Reads (k v) d cs) :
    Reads (.ok v >>= k) d cs := h

/-- One check of the list is one step of the reading. -/
theorem Reads.step {α β : Type} {x : Except Bad β} {k : β → Except Bad α} {d : α} {p : Prop} {n : Nat} {a : W64} {cs : List (Prop × Nat × W64)}
    (fail : p → x = .error (n, a)) (rest : ¬ p → Reads (x >>= k) d cs) : Reads (x >>= k) d ((p, n, a) :: cs) :=
  ⟨fun hp => by rw [fail hp]; rfl, rest⟩

theorem ofBytesLE_lt (bs : List Byte) : ofBytesLE bs < 256 ^ bs.length := by
  induction bs with
  | nil => exact Nat.one_pos
  | cons b bs ih =>
    rw [ofBytesLE, List.length_cons, Nat.pow_succ]
    have := b.isLt
    omega
theorem fieldAt_lt (bs : List Byte) (off n : Nat) : fieldAt bs off n < 256 ^ n :=
  (ofBytesLE_lt _).trans_le (Nat.pow_le_pow_right (by decide) (List.length_take_le ..))

theorem tbField_of (x : Nat) (h : TbField x) : tbField x = some (tbOf x) := by
  unfold tbField tbOf
  rcases h with rfl | h
  · rfl
  · by_cases hx : x = 0xFFFFFFFF
    · subst hx; rfl
    · simp [hx, h]
theorem tbField_none (x : Nat) (h : ¬ TbField x) : tbField x = none := by
  unfold TbField at h
  push Not at h
  simp [tbField, h]

theorem scrOk_iff (r : LRec) {off : Nat} (n : Nat) (h : off < 2 ^ 32) : scrOk r off n = true ↔ ¬ Leaves r off 0 n := by
  unfold scrOk Leaves
  have hbit : off / 2 ^ 31 % 2 = 0 ↔ ¬ 2 ^ 31 ≤ off := by omega
  cases r.twin <;> simp only [Bool.and_eq_true, Bool.or_eq_true, beq_iff_eq, decide_eq_true_eq, hbit] <;> norm_num <;> omega

theorem scrRange_ok (r : LRec) {off n : Nat} (h : off < 2 ^ 32) (hl : ¬ Leaves r off 0 n) : scrRange r off n = .ok () :=
  if_pos ((scrOk_iff r n h).2 hl)
theorem scrRange_error (r : LRec) {off n : Nat} (h : off < 2 ^ 32) (hl : Leaves r off 0 n) : scrRange r off n = .error (0x05, va64 off) :=
  if_neg fun hs => (scrOk_iff r n h).1 hs hl

/-! ### The parts of a reading -/

theorem Reads.of_iff {α : Type} {e : Except Bad α} {d : α} {p q : Prop} {n : Nat} {a : W64} {cs : List (Prop × Nat × W64)} (h : p ↔ q)
    (hr : Reads e d ((p, n, a) :: cs)) : Reads e d ((q, n, a) :: cs) := propext h ▸ hr

/-- A limit is the first part of a table's fields (R183). -/
theorem Reads.field {α : Type} {k : Unit → Except Bad α} {d : α} {b : Bool} {p q : Prop} {va : W64} {cs : List (Prop × Nat × W64)}
    (h : b = true ↔ p) (rest : p → Reads (k ()) d ((¬ q, 0x12, va) :: cs)) : Reads (limit va b >>= k) d ((¬ (p ∧ q), 0x12, va) :: cs) := by
  by_cases hp : p
  · rw [show limit va b = .ok () from if_pos (h.2 hp)]
    exact Reads.of_iff (by simp [hp]) (Reads.ok (rest hp))
  · rw [show limit va b = .error (0x12, va) from if_neg fun hb => hp (h.1 hb)]
    exact ⟨fun _ => rfl, fun hn => absurd (not_not.1 hn).1 hp⟩
/-- A scratch range lies in the window (R108). -/
theorem Reads.window {α : Type} {k : Unit → Except Bad α} {d : α} {cs : List (Prop × Nat × W64)} (r : LRec) {off n : Nat}
    (h : off < 2 ^ 32) (rest : Reads (k ()) d cs) : Reads (scrRange r off n >>= k) d ((Leaves r off 0 n, 0x05, va64 off) :: cs) :=
  Reads.step (scrRange_error r h) fun hl => by rw [scrRange_ok r h hl]; exact rest
/-- A tb field is the last of them. -/
theorem Reads.barrier {α : Type} {k : Option Nat → Except Bad α} {d : α} {x : Nat} {va : W64} {cs : List (Prop × Nat × W64)}
    (rest : Reads (k (tbOf x)) d cs) :
    Reads (match tbField x with | some t => k t | none => .error (0x12, va)) d ((¬ TbField x, 0x12, va) :: cs) := by
  by_cases hx : TbField x
  · rw [tbField_of x hx]
    exact ⟨fun h => absurd hx h, fun _ => rest⟩
  · rw [tbField_none x hx]
    exact ⟨fun _ => rfl, fun h => absurd hx h⟩

/-- A scratch range that is read only where a flag is set. -/
theorem Reads.window_if {α : Type} {k : Unit → Except Bad α} {d : α} {cs : List (Prop × Nat × W64)} (b : Bool) (r : LRec) (off n : Nat)
    (h : b = true → off < 2 ^ 32) (rest : Reads (k ()) d cs) :
    Reads (if b = true then scrRange r off n >>= k else k ()) d ((b = true ∧ Leaves r off 0 n, 0x05, va64 off) :: cs) := by
  cases b with
  | false => exact ⟨fun hb => absurd hb.1 (by simp), fun _ => rest⟩
  | true =>
    exact Reads.of_iff (p := Leaves r off 0 n) (by simp) (Reads.window r (h rfl) rest)

/-- The barrier's bytes lie in the window (R183). -/
theorem Reads.barrier_window {α : Type} {k : Unit → Except Bad α} {d : α} {cs : List (Prop × Nat × W64)} (r : LRec) {tb : Nat} (h : tb < 2 ^ 32)
    (rest : Reads (k ()) d cs) : Reads (tbRange r (tbOf tb) >>= k) d ((TbLeaves r tb, 0x05, va64 tb) :: cs) := by
  unfold tbOf
  by_cases hn : tb = 0xFFFFFFFF
  · rw [if_pos hn]
    exact ⟨fun hl => absurd hn hl.1, fun _ => rest⟩
  · rw [if_neg hn]
    exact Reads.of_iff (p := Leaves r tb 0 16) (by simp [TbLeaves, hn]) (Reads.window r h rest)

/-! ### CPY -/

/-- An end of a CPY in no place that a copy reaches (R103, R107). -/
def State.EndLost (s : State) (j : Job) (die : Nat) (scratch : Bool) (a n : Nat) : Prop :=
  scratch = false ∧ (privateIn a n ≠ none ∨ s.home j die a = .nowhere)
/-- An end over two homes (R185). -/
def State.EndSplit (s : State) (j : Job) (die : Nat) (scratch : Bool) (a n : Nat) : Prop := scratch = false ∧ s.rangeHome j die a n = .error ()
/-- An end that another package homes. -/
def State.EndAway (s : State) (j : Job) (die : Nat) (scratch : Bool) (a n : Nat) : Prop :=
  scratch = false ∧ ∃ p, s.rangeHome j die a n = .ok (some p)

section
variable {s : State} {j : Job} {die a n : Nat} {dva : W64} {scratch : Bool}

theorem State.cpyEnd_lost (h : s.EndLost j die scratch a n) :
    s.cpyEnd j die dva scratch a n = .error (0x06, va64 ((privateIn a n).getD a)) := by
  obtain ⟨rfl, h⟩ := h
  unfold State.cpyEnd
  rw [if_neg Bool.false_ne_true, if_pos]
  · rfl
  · simpa [Option.isSome_iff_ne_none] using h
theorem State.cpyEnd_range (h : ¬ s.EndLost j die scratch a n) (hs : scratch = false) :
    s.cpyEnd j die dva scratch a n = match s.rangeHome j die a n with | .ok p => .ok p | .error () => .error (0x12, dva) := by
  subst hs
  have found : ¬ ((privateIn a n).isSome || s.home j die a == .nowhere) = true := by
    simpa [State.EndLost, Option.isSome_iff_ne_none] using h
  exact (if_neg Bool.false_ne_true).trans (if_neg found)
theorem State.cpyEnd_split (h : ¬ s.EndLost j die scratch a n) (hs : s.EndSplit j die scratch a n) :
    s.cpyEnd j die dva scratch a n = .error (0x12, dva) := by
  rw [State.cpyEnd_range h hs.1, hs.2]
theorem State.cpyEnd_ok (h : ¬ s.EndLost j die scratch a n) (hs : ¬ s.EndSplit j die scratch a n) :
    ∃ p, s.cpyEnd j die dva scratch a n = .ok p ∧ (p.isSome = true ↔ s.EndAway j die scratch a n) := by
  cases scratch with
  | true => exact ⟨none, rfl, by simp [State.EndAway]⟩
  | false =>
    rw [State.cpyEnd_range h rfl]
    rcases hr : s.rangeHome j die a n with ⟨⟨⟩⟩ | p
    · exact absurd ⟨rfl, hr⟩ hs
    · exact ⟨p, rfl, by simp [State.EndAway, hr, Option.isSome_iff_exists]⟩

/-- An end is read, or refused for its place or for its two homes. -/
theorem Reads.fromEnd {α : Type} {k : Option Nat → Except Bad α} {d : α} {cs : List (Prop × Nat × W64)}
    (rest : ∀ p, (p.isSome = true ↔ s.EndAway j die scratch a n) → Reads (k p) d cs) :
    Reads (s.cpyEnd j die dva scratch a n >>= k) d
      ((s.EndLost j die scratch a n, 0x06, va64 ((privateIn a n).getD a)) :: (s.EndSplit j die scratch a n, 0x12, dva) :: cs) :=
  Reads.step State.cpyEnd_lost fun hl => Reads.step (State.cpyEnd_split hl) fun hs => by
    obtain ⟨p, hp, haway⟩ := State.cpyEnd_ok (dva := dva) hl hs
    rw [hp]
    exact rest p haway

end

/-- Two ranges of one length share a byte. -/
theorem overlap_iff (a b n : Nat) : (n ≠ 0 ∧ overlap a b n = true) ↔ ∃ x, a ≤ x ∧ x < a + n ∧ b ≤ x ∧ x < b + n := by
  unfold overlap
  rw [Bool.and_eq_true, decide_eq_true_iff, decide_eq_true_iff]
  exact ⟨fun h => ⟨max a b, by omega⟩, fun ⟨x, hx⟩ => by omega⟩

/-- Two ends in one scratch, or in memory both, that share a byte (R185). -/
theorem shares_iff (ds ss : Bool) (dst src len : Nat) :
    (ds == ss && len != 0 && (!ds || dst / 2 ^ 31 == src / 2 ^ 31) && overlap dst src len) = true ↔
      ds = ss ∧ (ds = true → dst / 2 ^ 31 = src / 2 ^ 31) ∧ ∃ x, dst ≤ x ∧ x < dst + len ∧ src ≤ x ∧ x < src + len := by
  rw [← overlap_iff]
  cases ds <;> simp [and_assoc, and_left_comm]
theorem State.localL1_iff (s : State) (a : Nat) : s.localL1 a = true ↔ a / 2 ^ 22 = s.pkg.id ∧ a % 2 ^ 20 < 128 := by
  simp only [State.localL1, Bool.and_eq_true, beq_iff_eq, decide_eq_true_iff]
/-- The rest of R185, with what the two ends are. -/
theorem ends_iff {sh rf ds hd hs lo : Bool} {shared away away' loc : Prop} (h1 : sh = true ↔ shared) (h2 : hd = true ↔ away)
    (h3 : hs = true ↔ away') (h4 : lo = true ↔ loc) : (!sh && !(rf && (ds || hd || !lo)) && !(hd && hs)) = true ↔
      ¬ (shared ∨ (rf = true ∧ (ds = true ∨ away ∨ ¬ loc)) ∨ (away ∧ away')) := by
  simp only [Bool.and_eq_true, Bool.or_eq_true, Bool.not_eq_true', ← Bool.not_eq_true, h1, h2, h3, h4]
  tauto

theorem div_mod_beq_testBit (x i : Nat) : (x / 2 ^ i % 2 == 1) = x.testBit i := Nat.testBit_eq_decide_div_mod_eq.symm

/-- What a CPY's descriptor gives is what its checks, in their order, say. -/
theorem State.cpyDesc_reads (s : State) (j : Job) (die : Nat) (r : LRec) (va : W64) (bs : List Byte) :
    Reads (s.cpyDesc j die r va bs none) (cpyOf bs) (cpyChecks s j die r va bs) := by
  unfold State.cpyDesc cpyChecks
  extract_lets dst src len flags ds ss rf agent jp u d lost split away shared
  have hds : ds = d.ds := (Nat.testBit_zero flags).symm
  have hss : ss = d.ss := div_mod_beq_testBit flags 1
  have hrf : rf = flags.testBit 2 := div_mod_beq_testBit flags 2
  dsimp only
  have htb : u 0x7C 4 < 2 ^ 32 := fieldAt_lt ..
  rw [hds, hss, hrf]
  have limits : (decide (len ≤ 2 ^ 36) && decide (flags < 8) && zeroAt bs 0x1A 2 && zeroAt bs 0x20 92 && (flags.testBit 2 || agent == 0)
      && (!d.ds || decide (dst < 2 ^ 32)) && (!d.ss || decide (src < 2 ^ 32))) = true ↔ d.len ≤ 2 ^ 36 ∧ u 0x18 2 < 8 ∧ u 0x1A 2 = 0
        ∧ u 0x20 92 = 0 ∧ ((u 0x18 2).testBit 2 = true ∨ u 0x1C 4 = 0) ∧ (d.ds = true → d.dst < 2 ^ 32) ∧ (d.ss = true → d.src < 2 ^ 32) := by
    simp only [Bool.and_eq_true, Bool.or_eq_true, Bool.not_eq_true', decide_eq_true_iff, beq_iff_eq, zeroAt, and_assoc, Bool.eq_false_iff,
      imp_iff_not_or]
    rfl
  refine Reads.of_iff (not_congr ?_) (Reads.field (q := TbField (u 0x7C 4)) limits fun hf => ?_)
  · simp only [and_assoc]
  obtain ⟨-, -, -, -, -, hdst, hsrc⟩ := hf
  refine Reads.barrier (k := jp) ?_
  simp only [jp]
  rw [hds, hss, hrf]
  refine Reads.fromEnd fun hd haway => Reads.fromEnd fun hs haway' => ?_
  have ends := ends_iff (rf := flags.testBit 2) (ds := d.ds) (shares_iff d.ds d.ss dst src len) haway haway' (s.localL1_iff agent)
  refine Reads.step (fun hp => if_neg fun h => ends.1 h hp) fun hp => ?_
  rw [show limit va _ = .ok () from if_pos (ends.2 hp)]
  refine Reads.ok ?_
  refine Reads.window_if d.ds r _ _ hdst ?_
  refine Reads.window_if d.ss r _ _ hsrc ?_
  exact Reads.barrier_window r htb rfl

/-! ### CPYT and CPYR -/

section
variable {rank es : Nat} {f : Nat → Nat}

theorem all_range_pred_iff {xs : List Nat} (hx : ∀ i, i < 4 → xs.getD i 0 = f (i + 1)) (hr : rank ≤ 5) :
    ((List.range (rank - 1)).all fun i => xs.getD i 0 % es == 0) = true ↔ ∀ i, 1 ≤ i → i < rank → f i % es = 0 := by
  simp only [List.all_eq_true, List.mem_range, beq_iff_eq]
  constructor
  · intro h i h1 hi
    have := h (i - 1) (by omega)
    rwa [hx _ (by omega), Nat.sub_add_cancel h1] at this
  · intro h i hi
    rw [hx _ (by omega)]
    exact h (i + 1) (by omega) (by omega)
theorem all_dims_iff (hr : rank ≤ 5) :
    (((List.range 5).map fun i => if i < rank then f i else 1).all fun x => decide (x ≥ 1)) = true ↔ ∀ i, i < rank → 1 ≤ f i := by
  simp only [List.all_map, List.all_eq_true, List.mem_range, Function.comp, decide_eq_true_iff]
  constructor
  · intro h i hi
    simpa [hi] using h i (by omega)
  · intro h i _
    split
    · next hi => exact h i hi
    · exact Nat.le_refl 1
theorem any_dims_iff (hr : rank ≤ 5) :
    (((List.range 5).map fun i => if i < rank then f i else 1).any fun x => x == 0) = true ↔ ∃ i, i < rank ∧ f i = 0 := by
  simp only [List.any_map, List.any_eq_true, List.mem_range, Function.comp, beq_iff_eq]
  constructor
  · rintro ⟨i, _, hi⟩
    split at hi
    · next h => exact ⟨i, h, hi⟩
    · cases hi
  · rintro ⟨i, hi, h0⟩
    exact ⟨i, by omega, by rw [if_pos hi]; exact h0⟩
end

theorem cpyrOk_iff (op es : Nat) : cpyrOk op es = true ↔ Arith.tBits (op / 16) = 8 * es
    ∧ ((op % 16 ≤ 2 ∧ (op / 16 ≤ 10 ∨ op / 16 = 14)) ∨ (3 ≤ op % 16 ∧ op % 16 ≤ 5 ∧ op / 16 ≤ 7)) := by
  unfold cpyrOk
  dsimp only
  rw [Bool.and_eq_true, beq_iff_eq]
  refine and_congr_right fun _ => ?_
  split
  on_goal -1 =>
    next h0 h1 h2 h3 h4 h5 =>
      change ¬ _ at h0 h1 h2 h3 h4 h5
      exact iff_of_false Bool.false_ne_true (by omega)
  all_goals simp only [*, Bool.or_eq_true, decide_eq_true_iff, beq_iff_eq]; omega

theorem sextInt_toNat (x : W64) : sextInt 32 x.toNat = (x.truncate 32 : W32).toInt := by
  unfold sextInt
  rw [BitVec.toInt_eq_toNat_cond]
  simp only [BitVec.truncate_eq_setWidth, BitVec.toNat_setWidth]
  split <;> split <;> omega
theorem sextInt_high (x : W64) : sextInt 32 (x.toNat / 2 ^ 32) = ((x >>> 32).truncate 32 : W32).toInt := by
  rw [← sextInt_toNat, BitVec.toNat_ushiftRight, Nat.shiftRight_eq_div_pow]

theorem TileDesc.footprint_eq (d : TileDesc) {b0 b1 b2 b3 b4 p1 p2 p3 p4 : Nat} (hb : d.boxes = [b0, b1, b2, b3, b4]) (hp : d.pitches = [p1, p2, p3, p4]) :
    d.footprint = (b0 - 1) * 2 ^ d.lesz + (b1 - 1) * p1 + (b2 - 1) * p2 + (b3 - 1) * p3 + (b4 - 1) * p4 + 2 ^ d.lesz := by
  unfold TileDesc.footprint
  rw [hb, hp]
  simp [List.foldl, Nat.add_assoc]

/-- The adjusted coordinates (R182). -/
theorem adjusted_eq (rank : Nat) (f : Nat → Int) (a b : Int) :
    (let c := (List.range 5).map fun i => if i < rank then f i else 0
     let c := if rank ≥ 1 then setAt 0 c 0 (c.headD 0 + a) else c
     if rank ≥ 2 then setAt 0 c 1 (c.getD 1 0 + b) else c)
      = [0, 1, 2, 3, 4].map fun i => if i < rank then f i + (if i = 0 then a else if i = 1 then b else 0) else 0 := by
  rcases rank with _ | _ | rank <;> simp [List.range_succ, setAt]


/-- What a tile descriptor gives is what its checks, in their order, say. -/
theorem tileDesc_reads (r : LRec) {use : TileUse} (hu : use ≠ .prefetch) (va : W64) (bs : List Byte) (sx sy : W64) :
    Reads (tileDesc r use va bs sx sy none) (tileOf bs sx sy) (tileChecks r use va bs sx sy) := by
  unfold tileDesc tileChecks
  extract_lets rank lesz es dims strides pitches ext box c c1 c2 soff edge dir op body tail u d es' box' pitch'
  rw [if_pos (bne_iff_ne.2 hu)]
  dsimp only
  have shape : (decide (1 ≤ rank) && decide (rank ≤ 5) && decide (lesz ≤ 4) && fieldAt bs 0 8 % es == 0
      && ((List.range (rank - 1)).all fun i => strides.getD i 0 % es == 0) && box.all fun x => decide (x ≥ 1)) = true
      ↔ 1 ≤ rank ∧ rank ≤ 5 ∧ lesz ≤ 4 ∧ fieldAt bs 0 8 % es = 0 ∧ (∀ i, 1 ≤ i → i < rank → u (8 * i) 8 % es = 0)
        ∧ ∀ i, i < rank → 1 ≤ u (0x54 + 2 * i) 2 := by
    simp only [Bool.and_eq_true, decide_eq_true_iff, beq_iff_eq, and_assoc]
    refine and_congr_right fun _ => and_congr_right fun hr => and_congr_right fun _ => and_congr_right fun _ => and_congr ?_ (all_dims_iff hr)
    exact all_range_pred_iff (f := fun i => u (8 * i) 8) (fun i hi => by interval_cases i <;> rfl) hr
  have flags (hr : rank ≤ 5) : (decide (edge ≤ 1) && decide (dir ≤ 1) && zeroAt bs 0x3D 3 && zeroAt bs 0x5E 2 && soff % es == 0
      && ((List.range (rank - 1)).all fun i => pitches.getD i 0 % es == 0)
      && !(edge == 1 && (dir == 1 || use == .cpyr || ext.any fun x => x == 0))) = true
      ↔ edge ≤ 1 ∧ dir ≤ 1 ∧ u 0x3D 3 = 0 ∧ u 0x5E 2 = 0 ∧ soff % es = 0 ∧ (∀ i, 1 ≤ i → i < rank → u (0x60 + 4 * i) 4 % es = 0)
        ∧ (edge = 1 → dir = 0 ∧ use = .cpyt ∧ ∀ i, i < rank → u (0x28 + 4 * i) 4 ≠ 0) := by
    have pitched : ((List.range (rank - 1)).all fun i => pitches.getD i 0 % es == 0) = true ↔ ∀ i, 1 ≤ i → i < rank → u (0x60 + 4 * i) 4 % es = 0 :=
      all_range_pred_iff (f := fun i => u (0x60 + 4 * i) 4) (fun i hi => by interval_cases i <;> rfl) hr
    have empty : (ext.any fun x => x == 0) = true ↔ ∃ i, i < rank ∧ u (0x28 + 4 * i) 4 = 0 := any_dims_iff hr
    have hcpyt : use = .cpyt ↔ ¬ use = .cpyr := by cases use <;> simp at hu ⊢
    simp only [Bool.and_eq_true, Bool.or_eq_true, Bool.not_eq_true', ← Bool.not_eq_true, decide_eq_true_iff, beq_iff_eq, and_assoc, pitched,
      empty, hcpyt, zeroAt]
    refine and_congr_right fun _ => and_congr_right fun hd => and_congr_right fun _ => and_congr_right fun _ => and_congr_right fun _ =>
      and_congr_right fun _ => ?_
    rw [not_and, not_or, not_or, not_exists, and_assoc]
    refine imp_congr_right fun _ => and_congr (by omega) (and_congr_right fun _ => forall_congr' fun i => not_and)
  have reduce : (if (use == .cpyr) = true then dir == 1 && cpyrOk op es else op == 0) = true
      ↔ if use = .cpyr then dir = 1 ∧ Arith.tBits (op / 16) = 8 * es
          ∧ ((op % 16 ≤ 2 ∧ (op / 16 ≤ 10 ∨ op / 16 = 14)) ∨ (3 ≤ op % 16 ∧ op % 16 ≤ 5 ∧ op / 16 ≤ 7)) else op = 0 := by
    by_cases h : use = .cpyr
    · rw [if_pos h, if_pos (beq_iff_eq.2 h), Bool.and_eq_true, cpyrOk_iff, beq_iff_eq]
    · rw [if_neg h, if_neg (mt beq_iff_eq.1 h), beq_iff_eq]
  have barrier : tail () = match tbField (u 0x7C 4) with | some t => body t | none => .error (0x12, va) := by
    have noPrefetch : ¬ (use == .prefetch) = true := mt beq_iff_eq.1 hu
    show (match tbField (u 0x7C 4) with | some t => _ | none => _) = _
    cases tbField (u 0x7C 4)
    · exact if_neg noPrefetch
    · rfl
  refine Reads.of_iff (p := ¬ (_ ∧ (_ ∧ (_ ∧ TbField (u 0x7C 4))))) ?_
    (Reads.field shape fun hs => Reads.field (flags hs.2.1) fun _ => Reads.field reduce fun _ => ?_)
  · refine not_congr ⟨fun h => ?_, fun h => ?_⟩
    · obtain ⟨⟨h1, h2, h3, h4, h5, h6⟩, ⟨h7, h8, h9, h10, h11, h12, h13⟩, h14, h15⟩ := h
      exact ⟨h1, h2, h3, h4, fun i hi hr => ⟨h5 i hi hr, h12 i hi hr⟩, h6, h7, h8, h9, h10, h11, h13, h14, h15⟩
    · obtain ⟨h1, h2, h3, h4, h5, h6, h7, h8, h9, h10, h11, h13, h14, h15⟩ := h
      exact ⟨⟨h1, h2, h3, h4, fun i hi hr => (h5 i hi hr).1, h6⟩,
        ⟨h7, h8, h9, h10, h11, fun i hi hr => (h5 i hi hr).2, h13⟩, h14, h15⟩
  · have coords : c2 = d.coords := by
      simp only [c2, c1, c, dims, sextInt_toNat, sextInt_high]
      exact adjusted_eq rank ..
    have built : body (tbOf (u 0x7C 4)) = scrRange r d.soff d.footprint >>= fun _ => tbRange r (tbOf (u 0x7C 4)) >>= fun _ => .ok d := by
      simp only [body]
      rw [if_pos (bne_iff_ne.2 hu), coords]
      rfl
    rw [barrier]
    refine Reads.barrier ?_
    rw [built, TileDesc.footprint_eq d rfl rfl]
    have hsoff : d.soff < 2 ^ 32 := Nat.mod_lt _ (by decide)
    exact Reads.window r hsoff (Reads.barrier_window r (fieldAt_lt ..) rfl)

end Sys2Proof.Machine
end

section
/-! PROOFS. The copy words and ADVST (R40, R107, R108, R183 to R190, R317 to R319). -/

-- one proof at a time: proofs elaborated side by side wait for each other's case splits, each on a stack of its own
set_option Elab.async false

namespace Sys2Proof.Machine

/-! ### Releases that wait for nothing -/

section
variable {s : State} {c : Ctx}

/-- A core that holds no unpublished word seals none. -/
theorem State.sealSet_of_none (agent op : Nat) (h : ∀ p ∈ s.caches, p.1.agent = agent → p.2.st ≠ .owned) : s.sealSet agent op = (s, []) := by
  have owned (p : CKey × CWord) (hp : p ∈ s.caches) : (p.1.agent == agent && p.2.st == CSt.owned) = false := by
    by_cases ha : p.1.agent = agent
    · have := h p hp ha
      simp [this]
    · simp [ha]
  have none : (s.caches.filter fun (k, w) => k.agent == agent && w.st == CSt.owned) = [] := by
    rw [List.filter_eq_nil_iff]
    intro p hp
    simp [owned p hp]
  have same : (s.caches.map fun (k, w) => if k.agent == agent && w.st == CSt.owned then (k, { w with st := .ownedSealed }) else (k, w)) = s.caches := by
    conv_rhs => rw [← List.map_id s.caches]
    exact List.map_congr_left fun p hp => if_neg (by simp [owned p hp])
  unfold State.sealSet
  rw [none, same]
  rfl

theorem Ctx.releaseAfter_of {sc : Nat} (hw : c.x.wait = .none) (hb : s.beyondGroup c.k sc = true →
      (∀ p ∈ s.caches, p.1.agent = s.l1 c.id.core → p.2.st ≠ .owned) ∧ ∀ o ∈ s.memops, o.sk.core = c.id.core → o.isSeal = false)
    (after : State → Out) : c.releaseAfter s sc [] after = after (c.afterRelease s sc) := by
  unfold Ctx.releaseAfter Ctx.afterRelease
  rw [hw]
  by_cases h : s.beyondGroup c.k sc = true
  · obtain ⟨noWord, noSeal⟩ := hb h
    have others : (s.memops.filter fun o => o.sk.core == c.id.core && o.isSeal) = [] := by
      rw [List.filter_eq_nil_iff]
      intro o ho
      simp only [Bool.and_eq_true, beq_iff_eq, not_and, Bool.not_eq_true]
      exact noSeal o ho
    have sealed : ({ s with nextName := s.nextName + 1 } : State).sealSet (({ s with nextName := s.nextName + 1 } : State).l1 c.id.core) s.nextName
        = ({ s with nextName := s.nextName + 1 }, []) := State.sealSet_of_none _ _ noWord
    simp only [h, others, State.fresh, sealed]
    rfl
  · rw [if_pos (by simp [h]), if_neg h]

theorem Ctx.release_of {sc : Nat} (h : c.Released s sc) (after : State → Out) : c.release s sc after = after (c.afterRelease s sc) := by
  obtain ⟨hw, hu, hb⟩ := h
  rw [Ctx.release, hu]
  exact Ctx.releaseAfter_of hw hb after

theorem Ctx.afterAll_of (h : s.unperformed c.id c.st = []) (go : State → Out) : c.afterAll s go = go s := by
  rw [Ctx.afterAll, h]

end

/-! ### Reading a descriptor -/

section
variable {s s1 : State} {c : Ctx} {va : W64} {align n : Nat} {bs : List Byte}

theorem State.loadPlace_within (s : State) (c : Ctx) (n : Nat) (acq : Bool) (a : LaneAcc) : State.Within placeParts s (s.loadPlace c n acq a).1 := by
  unfold State.loadPlace
  extract_lets j die va agent missing
  have placed : State.Within placeParts s (s.place j die j.asid va .read).1 := s.place_within ..
  have checked (u : State) (sl key : Nat) : State.Within placeParts u (u.checkSector sl key) := (u.checkSector_within ..).mono
  split
  · split
    · exact .refl ..
    · rcases hp : s.place j die j.asid va .read with ⟨u, x⟩
      rw [hp] at placed
      cases x
      · exact placed.trans (checked u ..)
      all_goals exact placed
  · split
    · exact .refl ..
    · rcases hp : s.place j die j.asid va .read with ⟨u, x⟩
      rw [hp] at placed
      cases x
      · exact placed.trans (checked u ..)
      all_goals exact placed
theorem State.loadFate_within (s : State) (c : Ctx) (n : Nat) (acq : Bool) (a : LaneAcc) : State.Within placeParts s (s.loadFate c n acq a).1 := by
  have placed := s.loadPlace_within c n acq a
  unfold State.loadFate
  split
  · next h => exact placed.of_eq h
  · exact placed
theorem State.descFate_within (s : State) (c : Ctx) (n : Nat) (va : W64) (i : Nat) : State.Within placeParts s (s.descFate c n va i).1 := by
  induction i generalizing s va with
  | zero => exact .refl ..
  | succ i ih =>
    have loaded := s.loadFate_within c 16 false ⟨c.low, va, 0⟩
    unfold State.descFate
    split
    · exact .refl ..
    split
    · next u h => exact (loaded.of_eq h).trans (ih u _)
    · next h => exact loaded.of_eq h
    · next h => exact loaded.of_eq h

/-- Reading a descriptor changes no more than a load of its bytes does. -/
theorem Ctx.Described.within (h : c.Described s va align n s1 bs) : State.Within homeParts s s1 := by
  obtain ⟨-, s0, a, raced, hf, -, hr, -⟩ := h
  exact ((s.descFate_within c n va (n / 16)).of_eq hf).mono.trans ((s0.coreRead_within c.id c.k va.toNat n).of_eq hr)

theorem Ctx.descriptor_of (h : c.Described s va align n s1 bs) (act : Mask) (go : State → List Byte → Out) :
    c.descriptor s va align n act go = go s1 bs := by
  obtain ⟨ha, s0, a, raced, hf, hw, hr, ht⟩ := h
  unfold Ctx.descriptor
  rw [if_neg (by simp [ha]), hf]
  dsimp only
  rw [hw, hr]
  simp only [ht]
  rfl

theorem Ctx.descriptor_misaligned (h : va.toNat % align ≠ 0) (hm : s.unperformed c.id c.st = []) (act : Mask) (go : State → List Byte → Out) :
    c.descriptor s va align n act go = .next (c.trapped s 0x04 act va 0) := by
  unfold Ctx.descriptor
  rw [if_pos (by simpa using h)]
  exact c.trap_eq hm ..

end

/-! ### A word that completes -/

section
variable (s : State) (id : SkId)
theorem State.retire_holds (st : Nat) : s.HoldsAll (s.retire id st) :=
  State.HoldsAll.trans (t := { s with cur := none }) (s.cur_within none).holdsAll
    ((State.modStrand_settles _ id st _).holds.trans (State.settle_settles _ id).holds)
theorem State.retire_within (st : Nat) : State.Within (.cur :: settleParts) s (s.retire id st) :=
  (s.cur_within none).mono.trans ((State.modStrand_settles _ id st _).within.trans (State.settle_within _ id)).mono
end

/-! ### An operation is allocated and stands in its queue -/

section
variable {s t v : State} {c : Ctx} {f : EFmt} {id : Nat} {cls : Cls}

theorem Skein.handle_setHandle (k : Skein) (i : Nat) (h : HReg) : (k.setHandle i h).handle i = h := by
  show (setAt HReg.none k.handles i h).getD i .none = h
  rw [getD_setAt, if_pos rfl]
theorem Skein.mem_fifo_count (k : Skein) (cls : Cls) (op : Nat) : (op, false) ∈ (k.count cls op).fifo cls := by
  unfold Skein.count
  cases cls <;> exact List.mem_append_right _ (List.mem_singleton.2 rfl)

/-- An operation stays counted while the skeins hold what they held and the core its entries. -/
theorem Ctx.Counted.mono (h : c.Counted v f cls id) (hold : v.HoldsAll t) (hc : t.cores = v.cores) : c.Counted t f cls id := by
  obtain ⟨k, hk, hid, hent, hcnt⟩ := h
  obtain ⟨k', hk', held⟩ := hold.each c.id k hk
  have core : t.core c.id.core = v.core c.id.core := congrArg (Tab.getD · c.id.core Core.empty) hc
  refine ⟨k', hk', held.ops ▸ hid, fun h => ?_, fun h => (held.fifo cls) ▸ hcnt h⟩
  obtain ⟨e, gen, x, hh, hx⟩ := hent h
  exact ⟨e, gen, x, by rw [Skein.handle, held.handles]; exact hh, by rw [core]; exact hx⟩

/-- The state in which a copy has its place in the queue. -/
def Ctx.placed (c : Ctx) (v : State) (g : Group) (kind : OpKind) (stat : OpStat) (id : Nat) (entry : Option Nat) : State :=
  ({ v.ringPut g stat kind with ops := v.ops ++ [c.newOp id kind .copy entry stat] } : State).retire c.id c.st
/-- A copy that is counted takes its place in the queue (R190). -/
theorem Ctx.Counted.queued (h : c.Counted v f .copy id) (g : Group) (kind : OpKind) (stat : OpStat) (entry : Option Nat) :
    c.Queued (c.placed v g kind stat id entry) f .copy kind stat := by
  have put : State.Within (.ops :: placeParts) v { v.ringPut g stat kind with ops := v.ops ++ [c.newOp id kind .copy entry stat] } :=
    (State.ringPut_within ..).mono.trans (State.ops_within _ _).mono
  have done := State.retire_within ({ v.ringPut g stat kind with ops := v.ops ++ [c.newOp id kind .copy entry stat] } : State) c.id c.st
  refine ⟨c.newOp id kind .copy entry stat, ?_, rfl, rfl, rfl, rfl, rfl, rfl, h.mono ?_ ?_⟩
  · rw [Ctx.placed, done.same .ops (by decide)]
    exact List.mem_append_right _ (List.mem_singleton.2 rfl)
  · exact put.holdsAll.trans (State.retire_holds ..)
  · exact Part.Same.trans (put.same .cores (by decide)) (done.same .cores (by decide))

/-- The skein of a word that has got an operation. -/
def Skein.owns (k : Skein) (id : Nat) : Skein := { k with ops := k.ops ++ [id] }
theorem Skein.mem_owns (k : Skein) (id : Nat) : id ∈ (k.owns id).ops := List.mem_append_right _ (List.mem_singleton.2 rfl)
theorem Skein.owns_fifo (k : Skein) (id : Nat) (cls : Cls) : (k.owns id).fifo cls = k.fifo cls := by cases cls <;> rfl

/-- The state in which a word's entry is pending and its handle register names it. -/
def Ctx.entered (c : Ctx) (s : State) (f : EFmt) (id e gen : Nat) : State :=
  (s.modSkein c.id fun k => (k.setHandle f.hd.toNat (.entry e gen)).owns id).freeEntries c.id.core
theorem Ctx.entered_counted {k : Skein} (hk : s.skein? c.id = some k) (hv : f.hv = true) {e gen : Nat} {x : EngEntry}
    (hx : Tab.get? (s.core c.id.core).entries e = some x) (hgen : x.gen = gen) (hlive : x.live = true) (hst : x.st = 1) (hop : x.op = id) :
    c.Counted (c.entered s f id e gen) f cls id := by
  refine ⟨(k.setHandle f.hd.toNat (.entry e gen)).owns id, State.skein?_modSkein_of hk _, Skein.mem_owns .., fun _ => ?_, fun h => ?_⟩
  · refine ⟨e, gen, x, Skein.handle_setHandle .., ?_, hgen, hlive, hst, hop⟩
    rw [Ctx.entered, State.freeEntries_entry?]
    show Option.map _ (Tab.get? (s.core c.id.core).entries e) = _
    rw [hx, Option.map_some, if_neg (by simp [hst])]
  · rw [hv] at h
    cases h

/-- An entry that is allocated is pending for its operation. -/
theorem State.allocEntry_of {core op : Nat} {e : Nat} (he : (s.core core).freeEntry = some e) (pleat : Bool) : ∃ gen x,
    (s.allocEntry core op pleat).2 = some (e, gen) ∧ Tab.get? ((s.allocEntry core op pleat).1.core core).entries e = some x ∧ x.gen = gen
      ∧ x.live = true ∧ x.st = 1 ∧ x.op = op := by
  unfold State.allocEntry
  rw [he]
  refine ⟨_, ⟨_, true, 1, false, 0, 0, op, pleat⟩, rfl, ?_, rfl, rfl, rfl, rfl⟩
  rw [State.core_modCore, if_pos rfl]
  exact Tab.get?_set_same ..

/-- Where a word finds what it has to allocate, the operation is counted (R175, R178). -/
theorem Ctx.allocate_of {k : Skein} (hk : s.skein? c.id = some k) (hroom : c.Room s f cls) (pleat : Bool)
    (go : State → Nat → Option Nat → Out) : ∃ v id entry, c.allocate s f cls pleat go = go v id entry ∧ c.Counted v f cls id := by
  unfold Ctx.Room at hroom
  by_cases hv : f.hv = true
  · rw [if_pos hv] at hroom
    obtain ⟨e, he⟩ := hroom
    obtain ⟨gen, x, hg, hx⟩ := State.allocEntry_of (s := { s with nextName := s.nextName + 1 }) (op := s.nextName) he pleat
    have alloc := State.allocEntry_within ({ s with nextName := s.nextName + 1 } : State) c.id.core s.nextName pleat
    rcases ha : State.allocEntry ({ s with nextName := s.nextName + 1 } : State) c.id.core s.nextName pleat with ⟨u, r⟩
    rw [ha] at hg hx alloc
    subst hg
    refine ⟨c.entered u f s.nextName e gen, s.nextName, some e, ?_, ?_⟩
    · unfold Ctx.allocate
      simp only [State.fresh, hv, if_true, ha]
      rfl
    · obtain ⟨hx, hgen, hlive, hst, hop⟩ := hx
      exact Ctx.entered_counted ((alloc.skein?_eq _).trans hk) hv hx hgen hlive hst hop
  · rw [if_neg hv] at hroom
    refine ⟨({ s with nextName := s.nextName + 1 } : State).modSkein c.id fun k => (k.count cls s.nextName).owns s.nextName, s.nextName, none, ?_, ?_⟩
    · have room : ¬ c.k.cnt cls ≥ 63 := by omega
      unfold Ctx.allocate
      simp only [State.fresh, hv, if_false, room]
      rfl
    · exact ⟨(k.count cls s.nextName).owns s.nextName, State.skein?_modSkein_of (s := { s with nextName := s.nextName + 1 }) hk _, Skein.mem_owns ..,
        fun h => absurd h hv, fun _ => by rw [Skein.owns_fifo]; exact k.mem_fifo_count ..⟩
end

/-! ### The words -/

section
variable {s s1 : State} {c : Ctx} {f : EFmt} {g : Group} {kind : OpKind} {glob : Bool} {stat : OpStat}

/-- The copy goes to its place in the queue. -/
def Ctx.put (c : Ctx) (f : EFmt) (g : Group) (kind : OpKind) (stat : OpStat) (s : State) : Out :=
  c.allocate s f .copy false fun s id entry => c.skip { s.ringPut g stat kind with ops := s.ops ++ [c.newOp id kind .copy entry stat] }

theorem Ctx.put_queued {k : Skein} (hk : s.skein? c.id = some k) (hroom : c.Room s f .copy) :
    ∃ t, c.put f g kind stat s = .next t ∧ c.Queued t f .copy kind stat := by
  obtain ⟨v, id, entry, hgo, hcount⟩ := Ctx.allocate_of hk hroom false
    fun s id entry => c.skip { s.ringPut g stat kind with ops := s.ops ++ [c.newOp id kind .copy entry stat] }
  exact ⟨c.placed v g kind stat id entry, hgo, hcount.queued g kind stat entry⟩

/-- The place in the queue that a copy goes to can be written where it is a slot of the ring (R190). -/
def Ctx.SlotReady (c : Ctx) (s : State) (g : Group) (stat : OpStat) : Prop :=
  ∀ n, stat = .spilled n → ∃ sl, (s.slotFate (s.jobOf c.k) (dieOf c.id.core) (s.slotVa g n)).2.1 = .zero sl
    ∨ ∃ key, (s.slotFate (s.jobOf c.k) (dieOf c.id.core) (s.slotVa g n)).2.1 = .at sl key

theorem OpStat.slot?_eq_some {n : Nat} (h : stat.slot? = some n) : stat = .spilled n := by
  cases stat <;> simp [OpStat.slot?] at h ⊢
  exact h

theorem State.slotFate_within (s : State) (j : Job) (die va : Nat) : State.Within placeParts s (s.slotFate j die va).1 := by
  unfold State.slotFate
  split
  · next u sl key h =>
    have first := (s.place_within j die j.asid va .write).of_eq h
    split
    · next h' => exact first.trans ((u.place_within ..).of_eq h')
    · next h' => exact first.trans ((u.place_within ..).of_eq h')
  · next h => exact (s.place_within ..).of_eq h

/-- A copy whose strand's accesses are done, and whose core can take it, goes to the queue. -/
theorem Ctx.shuttleStart_of (hrel : c.Released s (if glob then 1 else 0)) (hdue : s.dueEntry g = none)
    (hplace : s.shuttlePlace c.id.core c.k.group = some stat) (hslot : c.SlotReady s g stat) :
    ∃ u, State.Within (.nextName :: placeParts) s u ∧ c.shuttleStart s f g kind glob = c.put f g kind stat u := by
  unfold Ctx.shuttleStart
  extract_lets act go
  have goes (n : Nat) : ∃ u, State.Within (.nextName :: placeParts) s u ∧ go (s.renamed n) = c.put f g kind stat u := by
    have named : State.Within (.nextName :: placeParts) s (s.renamed n) := (s.nextName_within n).mono
    have hplace' : (s.renamed n).shuttlePlace c.id.core c.k.group = some stat := hplace
    have hdue' : (s.renamed n).dueEntry g = none := hdue
    simp only [go, hplace', hdue']
    rcases hs : stat.slot? with _ | m
    · exact ⟨s.renamed n, named, rfl⟩
    · obtain ⟨sl, hfate⟩ := hslot m (OpStat.slot?_eq_some hs)
      have written := (s.renamed n).slotFate_within ((s.renamed n).jobOf c.k) (dieOf c.id.core) ((s.renamed n).slotVa g m)
      have same : ((s.renamed n).slotFate ((s.renamed n).jobOf c.k) (dieOf c.id.core) ((s.renamed n).slotVa g m)).2
          = (s.slotFate (s.jobOf c.k) (dieOf c.id.core) (s.slotVa g m)).2 :=
        (Prod.ext_iff.1 (State.renamed_slotFate n s (s.jobOf c.k) (dieOf c.id.core) (s.slotVa g m))).2
      rw [← same] at hfate
      rcases hf : (s.renamed n).slotFate ((s.renamed n).jobOf c.k) (dieOf c.id.core) ((s.renamed n).slotVa g m) with ⟨u, x, va⟩
      rw [hf] at hfate written
      refine ⟨u, named.trans written.mono, ?_⟩
      rcases hfate with rfl | ⟨key, rfl⟩
      · simp only [hf]
        rfl
      · simp only [hf]
        rfl
  cases glob with
  | true =>
    obtain ⟨u, hu, hgo⟩ := goes (s.nextName + 1)
    refine ⟨u, hu, ?_⟩
    rw [if_pos rfl, Ctx.release_of (sc := 1) hrel]
    exact hgo
  | false =>
    obtain ⟨u, hu, hgo⟩ := goes s.nextName
    refine ⟨u, hu, ?_⟩
    rw [if_neg Bool.false_ne_true, Ctx.afterAll_of hrel.2.1]
    exact hgo

/-- A copy word whose descriptor is read. -/
theorem Ctx.shuttleIssue_of {va : W64} {bs : List Byte} (hacts : c.acts f.g f.gn = true) (hva : va = c.k.s f.sd.toNat)
    (hd : c.Described s va 16 128 s1 bs) (check : State → List Byte → Except Bad (OpKind × Bool)) : c.shuttleIssue s f check =
      match check s1 bs, s1.group? c.k.group with
      | .error (cause, va), _ => c.trap s1 cause (c.active f.g f.gn) va
      | .ok (kind, glob), some g => c.shuttleStart s1 f g kind glob
      | .ok _, none => c.skip s1 := by
  subst hva
  unfold Ctx.shuttleIssue
  rw [if_neg (by simp [hacts])]
  exact Ctx.descriptor_of hd ..

/-- What the statement's `starts` says of a copy word. -/
def Ctx.Starts (c : Ctx) (out : Out) (s1 : State) (f : EFmt) (g : Group) (kind : OpKind) (glob : Bool) : Prop :=
  c.Released s1 (if glob then 1 else 0) → s1.dueEntry g = none → c.Room s1 f .copy → ∀ stat, s1.shuttlePlace c.id.core c.k.group = some stat →
    c.SlotReady s1 g stat → ∃ (t : State), out = .next t ∧ c.Queued t f .copy kind stat

theorem State.Within.lrecOf_eq {P : List Part} {u : State} (h : State.Within P s u) (k : Skein) (hw : Part.work ∉ P := by decide)
    (hg : Part.groups ∉ P := by decide) : u.lrecOf k = s.lrecOf k := by
  simp only [State.lrecOf, h.group?_eq _ hg, h.launch?_eq _ hw]
theorem Ctx.Room.of_within {P : List Part} {u : State} {cls : Cls} (h : c.Room s f cls) (hu : State.Within P s u) (hc : Part.cores ∉ P := by decide) :
    c.Room u f cls := by
  unfold Ctx.Room State.core at h ⊢
  rwa [show u.cores = s.cores from hu.same .cores hc]

/-- A copy word does what the reading of its descriptor says: the trap of the first check that holds, or the copy. -/
theorem Ctx.shuttleIssue_checked {α : Type} {bs : List Byte} {e : Except Bad α} {d : α} {cs : List (Prop × Nat × W64)}
    {check : State → List Byte → Except Bad (OpKind × Bool)} (hi : Issuing s c) (hg : s.group? c.k.group = some g) (hacts : c.acts f.g f.gn = true)
    (hd : c.Described s (c.k.s f.sd.toNat) 16 128 s1 bs) (op : α → OpKind × Bool) (hcheck : check s1 bs = e.map op) (hr : Reads e d cs) :
    Checked (fun cause a => s.unperformed c.id c.st = [] → c.shuttleIssue s f check = .next (c.trapped s1 cause (c.active f.g f.gn) a 0))
      (c.Starts (c.shuttleIssue s f check) s1 f g (op d).1 (op d).2) cs := by
  have issued := Ctx.shuttleIssue_of hacts rfl hd check
  have read := hd.within
  refine hr.mono (fun n a he hm => ?_) fun he hrel hdue hroom stat hplace hslot => ?_
  · rw [issued, hcheck, he]
    have hm1 : s1.unperformed c.id c.st = [] := by
      rw [State.unperformed, show s1.memops = s.memops from read.same .memops (by decide)]
      exact hm
    exact c.trap_eq hm1 ..
  · obtain ⟨u, hu, hstart⟩ := Ctx.shuttleStart_of (f := f) (kind := (op d).1) hrel hdue hplace hslot
    have hk : u.skein? c.id = some c.k := (hu.skein?_eq c.id).trans ((read.skein?_eq c.id).trans hi.2.1)
    obtain ⟨t, ht, hq⟩ := Ctx.put_queued (f := f) (g := g) (kind := (op d).1) (stat := stat) hk (hroom.of_within hu)
    refine ⟨t, ?_, hq⟩
    rw [issued, hcheck, he, read.group?_eq, hg]
    exact hstart.trans ht

/-- A word that reads a descriptor at a misaligned VA (R183). -/
theorem Ctx.shuttleIssue_misaligned (hacts : c.acts f.g f.gn = true) (ha : (c.k.s f.sd.toNat).toNat % 16 ≠ 0) (hm : s.unperformed c.id c.st = [])
    (check : State → List Byte → Except Bad (OpKind × Bool)) :
    c.shuttleIssue s f check = .next (c.trapped s 0x04 (c.active f.g f.gn) (c.k.s f.sd.toNat) 0) := by
  unfold Ctx.shuttleIssue
  rw [if_neg (by simp [hacts])]
  exact Ctx.descriptor_misaligned ha hm ..
theorem Ctx.shuttleIssue_skips (hi : Issuing s c) (hacts : ¬ c.acts f.g f.gn = true) (check : State → List Byte → Except Bad (OpKind × Bool)) :
    c.shuttleIssue s f check = .next (c.completed s c.k) := by
  unfold Ctx.shuttleIssue
  rw [if_pos (by simpa using hacts)]
  exact Ctx.skip_eq hi

/-- The check of each copy word. -/
def Ctx.cpyCheck (c : Ctx) (f : EFmt) (s : State) (bs : List Byte) : Except Bad (OpKind × Bool) :=
  (s.cpyDesc (s.jobOf c.k) (dieOf c.id.core) (s.lrecOf c.k) (c.k.s f.sd.toNat) bs none).map fun d => (.cpy d, !d.ss)
def Ctx.cpytCheck (c : Ctx) (f : EFmt) (s : State) (bs : List Byte) : Except Bad (OpKind × Bool) :=
  (tileDesc (s.lrecOf c.k) .cpyt (c.k.s f.sd.toNat) bs (c.k.s f.sx.toNat) (c.k.s f.sy.toNat) none).map fun d => (.cpyt d, !d.dir)
def Ctx.cpyrCheck (c : Ctx) (f : EFmt) (s : State) (bs : List Byte) : Except Bad (OpKind × Bool) :=
  (tileDesc (s.lrecOf c.k) .cpyr (c.k.s f.sd.toNat) bs (c.k.s f.sx.toNat) (c.k.s f.sy.toNat) none).map fun d => (.cpyr d, false)

theorem exec_cpy (hi : Issuing s c) : exec (.cpy f) s = c.shuttleIssue s f (c.cpyCheck f) := by
  show execCpy f s = _
  unfold execCpy
  exact withStrand_of_issuing hi _
theorem exec_cpyt (hi : Issuing s c) : exec (.cpyt f) s = c.shuttleIssue s f (c.cpytCheck f) := by
  show execCpyt f s = _
  unfold execCpyt
  exact withStrand_of_issuing hi _
theorem exec_cpyr (hi : Issuing s c) : exec (.cpyr f) s = c.shuttleIssue s f (c.cpyrCheck f) := by
  show execCpyr f s = _
  unfold execCpyr
  exact withStrand_of_issuing hi _

/-! ### ADVST -/

theorem execAdvst_of (hi : Issuing s c) (hg : s.group? c.k.group = some g) (hacts : c.acts f.g f.gn = true) {target : Nat}
    (ht : target = min 0xFFFF ((c.k.s f.sx.toNat).toNat + f.imm.toNat)) : exec (.advst f) s =
      if target ≤ g.stage then c.skip s
      else c.releaseAfter s 1 (s.unperformedAll c.id) fun s => c.skip ((s.modGroup c.k.group fun g =>
        { g with stage := max g.stage target, raises := g.raises ++ [(target, c.k.raceReport)] }).release_ c.k.group) := by
  subst ht
  show execAdvst f s = _
  unfold execAdvst
  rw [withStrand_of_issuing hi, if_neg (by simp [hacts]), hg]

theorem exec_advst_skips (hi : Issuing s c) (hacts : ¬ c.acts f.g f.gn = true) : exec (.advst f) s = .next (c.completed s c.k) := by
  show execAdvst f s = _
  unfold execAdvst
  rw [withStrand_of_issuing hi, if_pos (by simpa using hacts)]
  exact Ctx.skip_eq hi

theorem Ctx.afterRelease_within (c : Ctx) (s : State) (sc : Nat) : State.Within [.nextName] s (c.afterRelease s sc) := by
  unfold Ctx.afterRelease
  split
  · exact s.nextName_within _
  · exact .refl ..

/-- A raised stage keeps every operation; the entries that it releases stand behind them (R39, R40). -/
theorem exec_advst_raises (hi : Issuing s c) (hg : s.group? c.k.group = some g) (hacts : c.acts f.g f.gn = true) {target : Nat}
    (ht : target = min 0xFFFF ((c.k.s f.sx.toNat).toNat + f.imm.toNat)) (hlt : g.stage < target) (hw : c.x.wait = .none)
    (hu : s.unperformedAll c.id = []) (hb : s.beyondGroup c.k 1 = true →
      (∀ p ∈ s.caches, p.1.agent = s.l1 c.id.core → p.2.st ≠ .owned) ∧ ∀ o ∈ s.memops, o.sk.core = c.id.core → o.isSeal = false) :
    ∃ (t : State) (g' : Group), exec (.advst f) s = .next t ∧ t.group? c.k.group = some g' ∧ g'.stage = target ∧ ∀ o ∈ s.ops, o ∈ t.ops := by
  have released := c.afterRelease_within s 1
  obtain ⟨m, hm⟩ : ∃ m, (c.afterRelease s 1).modGroup c.k.group (fun g =>
    { g with stage := max g.stage target, raises := g.raises ++ [(target, c.k.raceReport)] }) = m := ⟨_, rfl⟩
  have raised : State.Within [.nextName, .groups] s m := hm ▸ released.mono.trans (State.modGroup_within ..).mono
  have hmg : m.group? c.k.group = some { g with stage := max g.stage target, raises := g.raises ++ [(target, c.k.raceReport)] } := by
    rw [← hm]
    exact State.group?_modGroup_of ((released.group?_eq _).trans hg) _
  have queued := m.release_queues c.k.group
  have done := (m.release_ c.k.group).retire_within c.id c.st
  obtain ⟨p, r, hq⟩ := queued.groups _ _ hmg
  obtain ⟨os, hos, -⟩ := queued.ops
  refine ⟨(m.release_ c.k.group).retire c.id c.st, _, ?_, (done.group?_eq _).trans hq, max_eq_right hlt.le, fun o ho => ?_⟩
  · rw [execAdvst_of hi hg hacts ht, if_neg (by omega), hu, Ctx.releaseAfter_of hw hb, hm]
    rfl
  · rw [show ((m.release_ c.k.group).retire c.id c.st).ops = (m.release_ c.k.group).ops from done.same .ops (by decide), hos,
      show m.ops = s.ops from raised.same .ops (by decide)]
    exact List.mem_append_left _ ho
end

/-- Settles O38: the readings of the descriptors step by step as their checks say, the copy that a word starts, and the stage that ADVST
raises. -/
theorem shuttleWords : Obligations.ShuttleWords := by
  unfold Obligations.ShuttleWords
  intro f s c g hi hg act acts va r target fails starts
  refine ⟨fun hacts i h => ?_, fun hacts ha hm i h => ?_, fun hacts s1 bs hd => ?_, fun hacts hle => ?_, fun hacts hlt hw hu hb =>
    exec_advst_raises hi hg hacts rfl hlt hw hu hb⟩
  · simp only [List.mem_cons, List.not_mem_nil, or_false] at h
    rcases h with rfl | rfl | rfl | rfl
    · exact (exec_cpy hi).trans (Ctx.shuttleIssue_skips hi hacts _)
    · exact (exec_cpyt hi).trans (Ctx.shuttleIssue_skips hi hacts _)
    · exact (exec_cpyr hi).trans (Ctx.shuttleIssue_skips hi hacts _)
    · exact exec_advst_skips hi hacts
  · simp only [List.mem_cons, List.not_mem_nil, or_false] at h
    rcases h with rfl | rfl | rfl
    · exact (exec_cpy hi).trans (Ctx.shuttleIssue_misaligned hacts ha hm _)
    · exact (exec_cpyt hi).trans (Ctx.shuttleIssue_misaligned hacts ha hm _)
    · exact (exec_cpyr hi).trans (Ctx.shuttleIssue_misaligned hacts ha hm _)
  · have hr : s1.lrecOf c.k = r := hd.within.lrecOf_eq c.k
    refine ⟨?_, ?_, ?_⟩
    · have := Ctx.shuttleIssue_checked hi hg hacts hd (fun d => (.cpy d, !d.ss)) (check := c.cpyCheck f) rfl (s1.cpyDesc_reads ..)
      rw [hr, ← exec_cpy hi] at this
      exact this
    · have := Ctx.shuttleIssue_checked hi hg hacts hd (fun d => (.cpyt d, !d.dir)) (check := c.cpytCheck f) rfl (tileDesc_reads _ (by decide) ..)
      rw [hr, ← exec_cpyt hi] at this
      exact this
    · have := Ctx.shuttleIssue_checked hi hg hacts hd (fun d => (.cpyr d, false)) (check := c.cpyrCheck f) rfl (tileDesc_reads _ (by decide) ..)
      rw [hr, ← exec_cpyr hi] at this
      exact this
  · rw [execAdvst_of hi hg hacts rfl, if_pos hle]
    exact Ctx.skip_eq hi

end Sys2Proof.Machine
end

section
/-! PROOFS. A step runs the instruction that it fetches: the way from the agenda to `exec` (R52, R58, R68, R130, R174, R235, R247, R294). -/

namespace Sys2Proof.Machine

/-! ### What a word leaves of loads in flight and of errors in registers (R52, R174) -/

/-- `u` is `t` once the loads issued before, `older`, no longer write some registers, and some registers hold good check bits. -/
structure State.Overwrites (older : List Nat) (t u : State) : Prop where
  rest : u = { t with memops := u.memops, skeins := u.skeins }
  skeins : ∀ id, (u.skein? id).map (fun k => { k with soft := [] }) = (t.skein? id).map fun k => { k with soft := [] }
  memops : u.memops.map (fun o => { o with dead := [] }) = t.memops.map fun o => { o with dead := [] }
  newer : ∀ n ∈ u.memops, n.id ∉ older → n ∈ t.memops

section
variable {older : List Nat} {s t u v : State}

theorem State.Overwrites.refl (older : List Nat) (t : State) : State.Overwrites older t t := ⟨rfl, fun _ => rfl, rfl, fun _ h _ => h⟩
theorem State.Overwrites.trans (h : State.Overwrites older t u) (h' : State.Overwrites older u v) : State.Overwrites older t v :=
  ⟨h'.rest.trans (by rw [h.rest]), fun id => (h'.skeins id).trans (h.skeins id), h'.memops.trans h.memops,
    fun n hn ho => h.newer n (h'.newer n hn ho) ho⟩

theorem State.overwrite_overwrites (t : State) (sk : SkId) (st : Nat) (older : List Nat) (r : RegUse) (lanes : Mask) :
    State.Overwrites older t (t.overwrite sk st older r lanes) := by
  unfold State.overwrite
  split
  · exact .refl older t
  · refine ⟨rfl, fun _ => rfl, ?_, fun n hn hnew => ?_⟩
    · rw [List.map_map]
      exact List.map_congr_left fun o _ => by dsimp only [Function.comp]; split <;> rfl
    · obtain ⟨o, ho, rfl⟩ := List.mem_map.1 hn
      split at hnew
      · next h => simp_all
      · next h => rw [if_neg h]; exact ho

theorem State.cleanRegs_overwrites (t : State) (older : List Nat) (id : SkId) (r : RegUse) (act : Mask) :
    State.Overwrites older t (t.modSkein id (·.cleanRegs r act)) := by
  refine ⟨rfl, fun i => ?_, rfl, fun _ h _ => h⟩
  rw [State.skein?_modSkein]
  split
  · next h => subst h; cases t.skein? i <;> rfl
  · rfl

theorem Ctx.wrote_overwrites (c : Ctx) (s t : State) (i : Instr) : State.Overwrites (s.memops.map (·.id)) t (c.wrote s i t) := by
  unfold Ctx.wrote
  split
  · exact .refl _ t
  split
  · exact .refl _ t
  extract_lets r act t1
  have written : State.Overwrites (s.memops.map (·.id)) t t1 := t.overwrite_overwrites ..
  split
  · exact written
  · exact written.trans (t1.cleanRegs_overwrites ..)

/-- Where no load is in flight and no register holds an error, a word leaves all as its meaning has it. -/
theorem Ctx.wrote_of_clear {c : Ctx} (hm : s.memops = []) (hs : c.k.soft = []) (i : Instr) : c.wrote s i t = t := by
  unfold Ctx.wrote
  split
  · rfl
  · simp [hm, hs, State.overwrite]

end

/-! ### From the agenda to the word (R52, R294) -/

section
variable {s : State} {id : SkId} {st : Nat} {rest : List Choice}

theorem State.perform_choose_of_issue (h : s.agenda = .issue id st :: rest) (hd : s.tick.down = false) :
    s.tick.perform s.choose = s.tick.issue id st := by
  simp only [State.choose, h, State.perform, hd, Bool.false_eq_true, if_false]

theorem State.perform_choose_of_event {i : Instr} (h : s.agenda = .event i :: rest) (hw : isWord i = false)
    (hf : s.tick.opFrozen i = false) (hd : s.tick.down = false) : s.tick.perform s.choose = exec i s.tick := by
  simp only [State.choose, h, State.perform, hw, hf, hd, Bool.false_and, Bool.or_self, Bool.false_eq_true, if_false]

end

section
variable {s s2 : State} {id : SkId} {st : Nat} {k : Skein} {x : Strand} {w : W64}

/-- A strand that may issue, with no trap of its skein to be entered first, goes on to its next word. -/
theorem State.issue_of_ready (hk : s.skein? id = some k) (hx : k.strand? st = some x) (hs : s.skeinIssues id k st = true)
    (hp : k.trap.isSome = true ∨ k.svcWait.isSome = true ∨ k.pendTraps = []) (hi : s.strandIssues id k st x = true) :
    s.issue id st = s.issueReady id st k x := by
  simp only [State.issue, hk, hx, hs, hi, Bool.not_true, Bool.false_eq_true, if_false]
  split
  · next ht hv hb => simp [ht, hv, hb] at hp
  · rfl

/-- Where nothing goes before the word of a strand, what it fetches issues. -/
theorem State.issueReady_of_word (he : k.errFor st x = none) (hstep : k.stepsTo st = false)
    (hv : (k.trap.any fun tr => tr.strand == st && s.atDefaultVector k x tr) = false)
    (hf : s.fetchWord (s.jobOf k) (dieOf id.core) x.pc = (s2, .word w)) : s.issueReady id st k x = s2.issueWord id st k x w := by
  simp only [State.issueReady, he, hv, hstep, State.fetchIssue, hf, Bool.false_eq_true, if_false]

/-- A strand that issues a word at `now`: one more of its count unless the word issues again (log 68). -/
def Strand.issuedAt (now : Nat) (x : Strand) : Strand :=
  { x with lastIssue := now, count := if x.again then x.count else x.count + 1 }
/-- The state in which a strand is issuing the word `w` that it has fetched. -/
def State.issuing (s : State) (id : SkId) (st : Nat) (x : Strand) (w : W64) : State :=
  { s.modStrand id st (Strand.issuedAt s.clock) with cur := some ⟨id, st, w, x.again⟩ }

/-- A word that no check before its own meaning stops is run. -/
theorem State.issueWord_runs
    (hsafe : ¬ (isSHeader (decode w) = true ∧ x.atHeader = true ∧ x.again = false ∧ k.stopsHere st = true ∧ s.stopsAtSafe k = true))
    (hheld : s.wordHeld id k st x (decode w) = false) (hcount : x.again = true ∨ x.count < 4096 ∨ isSHeader (decode w) = true)
    (hhdr : x.atHeader = true → isHeader w = true) :
    s.issueWord id st k x w = (⟨id, st, k, x, w⟩ : Ctx).run (s.issuing id st x w) (decode w) := by
  have safe : ¬ (isSHeader (decode w) && x.atHeader && !x.again && k.stopsHere st && s.stopsAtSafe k) = true := by
    simpa [and_assoc] using hsafe
  have counted : ¬ (!x.again && decide (x.count ≥ 4096) && !isSHeader (decode w)) = true := by
    rcases hcount with h | h | h
    · simp [h]
    · simp [Nat.not_le.2 h]
    · simp [h]
  have headed : ¬ (x.atHeader && !isHeader w) = true := by simpa using hhdr
  dsimp only [State.issueWord]
  rw [if_neg safe, if_neg (by simp [hheld]), if_neg counted, if_neg headed]
  rfl

theorem State.issuing_issues (hk : s.skein? id = some k) (hx : k.strand? st = some x) :
    ∃ c : Ctx, Issuing (s.issuing id st x w) c ∧ c.id = id ∧ c.st = st ∧ c.iw = w ∧ c.x.pc = x.pc ∧ c.x.mask = x.mask := by
  refine ⟨⟨id, st, k.modStrand st (Strand.issuedAt s.clock), x.issuedAt s.clock, w⟩,
    ⟨⟨x.again, rfl⟩, State.skein?_modSkein_of hk _, ?_⟩, rfl, rfl, rfl, rfl, rfl⟩
  simp only [Skein.strand?_modStrand, if_true, hx, Option.map_some]

end

/-- A word runs its own meaning where no register that it reads holds an error, or where a check that comes first refuses it (R174, R298). -/
theorem Ctx.run_of_sound {c : Ctx} {s : State} {i : Instr} (h : c.readsSoft s i = false ∨ c.refused s i = true) :
    c.run s i = match exec i s with
      | .next t => .next (c.wrote s i t)
      | r => r := by
  unfold Ctx.run
  refine (if_neg (by rcases h with h | h <;> simp [h])).trans ?_
  cases exec i s <;> rfl

theorem Ctx.run_of_soft {c : Ctx} {s : State} {i : Instr} (hs : c.readsSoft s i = true) (hr : c.refused s i = false)
    (hm : s.unperformed c.id c.st = []) :
    c.run s i = .next (c.trapped s 0x07 (c.active (fld c.iw 51 3) (flag c.iw 50)) 0 0) := by
  have soft : c.k.soft.isEmpty = false := by
    cases hsoft : c.k.soft with
    | nil => simp [Ctx.readsSoft, hsoft] at hs
    | cons r rs => rfl
  unfold Ctx.run
  rw [if_pos (by simp [soft, hs, hr])]
  exact Ctx.trap_eq hm ..

/-- The word fetched is the eight bytes at its place (R247). -/
theorem State.fetchWord_of_verified {s s1 : State} {j : Job} {die sl key : Nat} {va : W64}
    (hp : s.place j die j.asid va.toNat .fetch = (s1, .at sl key)) (hb : (j.asid, va.toNat / 65536) ∉ s1.badPages)
    (hf : s1.sectorFailed sl key = false) (hs : s1.softIn j.asid va.toNat 8 = none) (hv : (j.asid, va.toNat / 65536) ∈ s1.verified) :
    s.fetchWord j die va = (s1.checkSector sl key, .word (BitVec.ofNat 64 (ofBytesLE (Sparse.getList 0 s1.mem key 8)))) := by
  simp [State.fetchWord, hp, hb, hf, hs, hv]

/-- Settles O58: the agenda's strand issues, fetches and runs its word, by the lemma of each stage. -/
theorem stepRunsInstruction : Obligations.StepRunsInstruction := by
  refine ⟨?_, fun c s t i => ?_, fun s s1 j die va sl key => State.fetchWord_of_verified, fun s i rest hag hw hf hd => ?_⟩
  · intro s id st rest k x s2 w hag hdown hk hx hissues hpend hready herr hstep hvec hfetch hsafe hheld hcount hhdr s3 c0
    have fetched : s2.skein? id = some k := by
      have within := s.tick.fetchWord_within (s.tick.jobOf k) (dieOf id.core) x.pc
      rw [hfetch] at within
      rw [within.skein?_eq id]
      exact hk
    have ran : s.tick.perform s.choose = c0.run s3 (decode w) := by
      rw [State.perform_choose_of_issue hag hdown, State.issue_of_ready (s := s.tick) hk hx hissues hpend hready,
        State.issueReady_of_word herr hstep hvec hfetch, State.issueWord_runs hsafe hheld hcount hhdr]
      rfl
    refine ⟨State.issuing_issues fetched hx, fun h => ?_, fun hs hr hm => ?_⟩
    · rw [step, ran, Ctx.run_of_sound h]
      cases exec (decode w) s3 <;> rfl
    · show step s = .next (c0.trapped s3 0x07 (c0.active (fld c0.iw 51 3) (flag c0.iw 50)) 0 0).tidy
      simp only [step, ran, Ctx.run_of_soft hs hr hm]
  · obtain ⟨rest, skeins, memops, newer⟩ := c.wrote_overwrites s t i
    refine ⟨rest, skeins, memops, fun n hn hnew => newer n hn fun hold => ?_, fun hm hs => Ctx.wrote_of_clear hm hs i⟩
    obtain ⟨o, ho, hid⟩ := List.mem_map.1 hold
    exact hnew o ho hid
  · have ran := State.perform_choose_of_event hag hw hf hd
    cases he : exec i s.tick <;> simp only [step, ran, he]

end Sys2Proof.Machine
end

section
/-! PROOFS. Heat, current, power, freezing and reset (R56, R60, R260, R261, R263): what a reading past its limit changes, and what a reset
leaves. -/

namespace Sys2Proof.Machine

variable (s : State) (die sensor : Nat) (m : Int)

/-! ### Dies -/

theorem State.die_modDie_same (d : Nat) (f : Die → Die) : (s.modDie d f).die d = f (s.die d) := by
  rw [State.die_modDie, if_pos rfl]

@[simp] theorem State.health_die (event die slice source addr value job : Nat) (tail : List Byte) (d : Nat) :
    (s.health event die slice source addr value job tail).die d = s.die d := rfl
@[simp] theorem State.health_slice (event die slice source addr value job : Nat) (tail : List Byte) (n : Nat) :
    (s.health event die slice source addr value job tail).slice n = s.slice n := rfl
@[simp] theorem State.health_pkg (event die slice source addr value job : Nat) (tail : List Byte) :
    (s.health event die slice source addr value job tail).pkg = s.pkg := rfl
/-- A HEALTH record goes to the host (R254). -/
theorem State.health_sends (event die slice source addr value job : Nat) (tail : List Byte) : ∃ x : HostRec,
    (s.health event die slice source addr value job tail).host.out = s.host.out ++ [x] ∧ x.typ = 0x0D := ⟨_, rfl, rfl⟩
@[simp] theorem State.crossed_die (slice source : Nat) (x : Int) (d : Nat) : (s.crossed die slice source x).die d = s.die d := rfl
@[simp] theorem State.crossed_slice (slice source : Nat) (x : Int) (n : Nat) : (s.crossed die slice source x).slice n = s.slice n := rfl
@[simp] theorem State.crossed_pkg (slice source : Nat) (x : Int) : (s.crossed die slice source x).pkg = s.pkg := rfl

/-- What a reading of a sensor leaves of its die. -/
def Die.reads (x : Die) (kind i : Nat) (m : Int) : Die := { x with readings := Tab.set x.readings (kind, i) m }

theorem State.reading_die (kind i d : Nat) :
    (s.reading die kind i m).die d = if d = die then (s.die die).reads kind i m else s.die d := s.die_modDie ..

/-- A field of each die, after every die of a list has had its turn: `F` where it had one. -/
theorem State.die_foldl {β : Type} {g : State → Nat → State} {field : Die → β} {F : Nat → β → β}
    (own : ∀ s d, field ((g s d).die d) = F d (field (s.die d))) (other : ∀ s d i, i ≠ d → (g s d).die i = s.die i) {ds : List Nat}
    (once : ds.Nodup) (d : Nat) (s : State) :
    field ((ds.foldl g s).die d) = if d ∈ ds then F d (field (s.die d)) else field (s.die d) := by
  induction ds generalizing s with
  | nil => simp
  | cons a ds ih =>
    obtain ⟨hnew, honce⟩ := List.nodup_cons.1 once
    rw [List.foldl_cons, ih honce]
    by_cases hd : d = a
    · subst hd; simp [hnew, own]
    · simp [hd, other _ _ _ hd]

theorem mem_dies {d : Nat} (h : d < 4) : d ∈ [0, 1, 2, 3] := by
  simp only [List.mem_cons, List.not_mem_nil, or_false]
  omega

/-! ### Heat and current (R56, R263) -/

theorem execDieTemperatureThrottle_reads : ∃ t : State, execDieTemperatureThrottle die sensor m s = .next t
    ∧ Tab.get? (t.die die).readings (0, sensor) = some m
    ∧ (t.die die).throttled = ((s.die die).throttled || decide ((s.die die).threshold ≤ m)) := by
  have read : (s.reading die 0 sensor m).die die = (s.die die).reads 0 sensor m := by rw [State.reading_die, if_pos rfl]
  have limit : ((s.reading die 0 sensor m).die die).threshold = (s.die die).threshold := by rw [read]; rfl
  dsimp only [execDieTemperatureThrottle]
  by_cases h : m < (s.die die).threshold
  · refine ⟨_, if_pos (by rw [limit]; exact h), ?_, ?_⟩
    · rw [read]; exact Tab.get?_set_same ..
    · rw [read, decide_eq_false (not_le.2 h), Bool.or_false]; rfl
  · refine ⟨_, if_neg (by rw [limit]; exact h), ?_, ?_⟩
    · rw [State.crossed_die, State.die_modDie_same, read]; exact Tab.get?_set_same ..
    · rw [State.crossed_die, State.die_modDie_same, decide_eq_true (not_lt.1 h), Bool.or_true]

theorem execDieTemperatureShutdown_stops : ∃ t : State, execDieTemperatureShutdown die sensor m s = .next t
    ∧ ∀ d, d < 4 → (t.die d).shutdown = ((s.die d).shutdown || decide (105000 ≤ m)) := by
  have kept (d : Nat) : ((s.reading die 0 sensor m).die d).shutdown = (s.die d).shutdown := by
    rw [State.reading_die]
    split
    · next h => rw [h]; rfl
    · rfl
  dsimp only [execDieTemperatureShutdown]
  by_cases h : m < 105000
  · refine ⟨_, if_pos h, fun d _ => ?_⟩
    rw [kept, decide_eq_false (not_le.2 h), Bool.or_false]
  · refine ⟨_, if_neg h, fun d hd => ?_⟩
    rw [State.die_foldl (field := Die.shutdown) (F := fun _ _ => true) (fun s d => by rw [State.die_modDie_same])
      (fun s d i hi => by rw [State.die_modDie, if_neg hi]) (by decide), if_pos (mem_dies hd), decide_eq_true (not_lt.1 h), Bool.or_true]

theorem execDramStackTemperature_refreshes : ∃ t : State, execDramStackTemperature sensor m s = .next t
    ∧ Tab.get? t.pkg.dramTemps sensor = some m
    ∧ (t.slice sensor).refresh2 = decide (Tab.getD s.pkg.dramLimit (sensor / 8) 85000 ≤ m) := by
  dsimp only [execDramStackTemperature]
  refine ⟨_, rfl, ?_⟩
  split
  · rw [State.crossed_pkg, State.crossed_slice, State.slice_modSlice, if_pos rfl]
    exact ⟨Tab.get?_set_same .., rfl⟩
  · rw [State.slice_modSlice, if_pos rfl]
    exact ⟨Tab.get?_set_same .., rfl⟩

/-- The last droop of a die after a report of a monitor: now, but where its threshold has been kept (log 11). -/
def Die.droopAfter (x : Die) (now monitor : Nat) (m : Int) : Option Nat :=
  match Tab.get? x.droops monitor with
  | some limit => if limit ≤ m then x.droopAt else some now
  | none => some now

theorem execDroopEvent_droops : ∃ t : State, execDroopEvent die sensor m s = .next t
    ∧ (t.die die).droopAt = (s.die die).droopAfter s.clock sensor m := by
  have read : (s.reading die 1 sensor m).die die = (s.die die).reads 1 sensor m := by rw [State.reading_die, if_pos rfl]
  have droops : ((s.reading die 1 sensor m).die die).droops = (s.die die).droops := by rw [read]; rfl
  dsimp only [execDroopEvent]
  rw [droops]
  cases hlimit : Tab.get? (s.die die).droops sensor with
  | none =>
    refine ⟨_, rfl, ?_⟩
    simp only [State.die_modDie_same, Die.droopAfter, hlimit]
    rfl
  | some limit =>
    by_cases h : limit ≤ m
    · refine ⟨_, if_pos h, ?_⟩
      simp only [read, Die.droopAfter, hlimit, if_pos h]
      rfl
    · refine ⟨_, if_neg h, ?_⟩
      simp only [State.crossed_die, State.die_modDie_same, Die.droopAfter, hlimit, if_neg h]
      rfl

theorem execPackagePowerThreshold_throttles : ∃ (t : State) (x : HostRec), execPackagePowerThreshold s = .next t
    ∧ (∀ d, d < 4 → (t.die d).powerThrottled = true) ∧ t.host.out = s.host.out ++ [x] ∧ x.typ = 0x0D := by
  have throttled (t : State) {d : Nat} (hd : d < 4) : (([0, 1, 2, 3].foldl (fun (s : State) d =>
      s.modDie d fun x => { x with powerThrottled := true, slowAt := s.slowFrom x }) t).die d).powerThrottled = true := by
    rw [State.die_foldl (field := Die.powerThrottled) (F := fun _ _ => true) (fun s d => by rw [State.die_modDie_same])
      (fun s d i hi => by rw [State.die_modDie, if_neg hi]) (by decide), if_pos (mem_dies hd)]
  obtain ⟨x, hout, htyp⟩ := State.health_sends (([0, 1, 2, 3].foldl (fun (s : State) d =>
    s.modDie d fun x => { x with powerThrottled := true, slowAt := s.slowFrom x }) s.free.1)) 1 0 0xFF 0 0
    (wrapNat 64 (max (s.pkg.powerLimit + 1) (s.free.2.toNat % 2 ^ 32) : Nat)) 0 []
  exact ⟨_, x, rfl, fun d hd => throttled s.free.1 hd, hout, htyp⟩

theorem execThrottleClockStep_slows : ∃ t : State, execThrottleClockStep s = .next t ∧ ∀ d, d < 4 → (t.die d).clockKHz =
    if ((s.die d).throttled = true ∨ (s.die d).powerThrottled = true) ∧ (s.die d).slowAt ≤ s.clock then max 625000 ((s.die d).clockKHz - 62500)
    else (s.die d).clockKHz := by
  refine ⟨_, rfl, fun d hd => ?_⟩
  refine (State.die_foldl (field := Die.clockKHz) (F := fun d c =>
    if ((s.die d).throttled = true ∨ (s.die d).powerThrottled = true) ∧ (s.die d).slowAt ≤ s.clock then max 625000 (c - 62500) else c)
    (fun s d => ?_) (fun s d i hi => ?_) (by decide) d s).trans (if_pos (mem_dies hd))
  · simp only [Bool.and_eq_true, Bool.or_eq_true, decide_eq_true_eq]
    split
    · rw [State.die_modDie_same]
    · rfl
  · split
    · rw [State.die_modDie, if_neg hi]
    · rfl

theorem execThrottleRecovery_recovers (watts : Nat) : ∃ t : State, execThrottleRecovery die m watts s = .next t
    ∧ (m < (s.die die).threshold → watts < s.pkg.powerLimit →
        (t.die die).throttled = false ∧ (t.die die).powerThrottled = false ∧ (t.die die).clockKHz = 1250000)
    ∧ ((s.die die).throttled = true → (s.die die).threshold ≤ m →
        (t.die die).throttled = true ∧ (t.die die).clockKHz = (s.die die).clockKHz) := by
  refine ⟨_, rfl, fun hm hw => ?_, fun ht hm => ?_⟩
  · simp [State.die_modDie_same, not_le.2 hm, not_le.2 hw]
  · simp [State.die_modDie_same, ht, hm]

/-! ### Freezing (R260) -/

theorem State.setFrozen_core (c : Nat) (on : Bool) (i : Nat) :
    (s.setFrozen (.core c) on).core i = if i = c then { s.core c with frozen := on } else s.core i :=
  State.core_modCore (s.modSlice (freezeBit (.core c)).1 _) c i fun x => { x with frozen := on }

/-- A service core's freeze is bit 63 of jxfrz (log 58). -/
theorem State.setFrozen_service (n : Nat) (on : Bool) : (s.setFrozen (.service n) on).slice n = { s.slice n with
    frz := if on then (s.slice n).frz ||| (1#64 <<< 63) else (s.slice n).frz &&& ~~~(1#64 <<< 63), frozenService := on } := by
  have both (t : State) (h : t.slices = ((s.modSlice n fun x => { x with
      frz := if on then x.frz ||| (1#64 <<< 63) else x.frz &&& ~~~(1#64 <<< 63) }).modSlice n fun x => { x with frozenService := on }).slices) :
      t.slice n = { s.slice n with
        frz := if on then (s.slice n).frz ||| (1#64 <<< 63) else (s.slice n).frz &&& ~~~(1#64 <<< 63), frozenService := on } := by
    rw [State.slice, h]
    show ((s.modSlice n _).modSlice n _).slice n = _
    rw [State.slice_modSlice, if_pos rfl, State.slice_modSlice, if_pos rfl]
  cases on
  · exact both _ rfl
  · exact both _ rfl

theorem execMasterFreeze_core (va c : Nat) : ∃ t : State, execMasterFreeze (.core c) va s = .next t ∧ (t.core c).frozen = true ∧ t.mem = s.mem :=
  ⟨_, rfl, congrArg Core.frozen ((s.setFrozen_core c true c).trans (if_pos rfl)), rfl⟩

theorem execMasterFreeze_engine (va a : Nat) : ∃ t : State, execMasterFreeze (.engine a) va s = .next t ∧ a ∈ t.pkg.frozenEngines :=
  ⟨_, rfl, List.mem_append_right _ (List.mem_singleton.2 rfl)⟩

theorem execMasterFreeze_service (va n : Nat) : ∃ t : State, execMasterFreeze (.service n) va s = .next t ∧ (t.slice n).frozenService = true
    ∧ n + 34 ∈ t.host.needsReset ∧ (t.slice n).frz.getLsbD 63 = true := by
  refine ⟨_, rfl, ?_, ?_, ?_⟩
  · rw [State.health_slice, State.setFrozen_service]
  · show n + 34 ∈ (if s.host.needsReset.contains (n + 34) then s.host.needsReset else s.host.needsReset ++ [n + 34])
    split
    · next h => exact List.contains_iff_mem.1 h
    · exact List.mem_append_right _ (List.mem_singleton.2 rfl)
  · rw [State.health_slice, State.setFrozen_service]
    simp

/-! ### Reset (R261, R263) -/

theorem State.perform_event_of_down (h : s.down = true) {i : Instr} (hi : i ≠ .powerOnReset) : s.perform (some (.event i)) = .next s := by
  have stands : (s.down && i != .powerOnReset) = true := by simp [h, hi]
  simp only [State.perform, stands, Bool.or_true, if_true]

/-- Settles O51: each event by the lemma that says what it changes; a reset by the state it leaves. -/
theorem healthEvents : Obligations.HealthEvents := fun s die sensor m =>
  ⟨execDieTemperatureThrottle_reads s die sensor m, execDieTemperatureShutdown_stops s die sensor m,
    execDramStackTemperature_refreshes s sensor m, execDroopEvent_droops s die sensor m, execPackagePowerThreshold_throttles s,
    execThrottleClockStep_slows s, execThrottleRecovery_recovers s die m,
    fun va => ⟨execMasterFreeze_core s va, execMasterFreeze_engine s va, execMasterFreeze_service s va⟩,
    ⟨s.powerOn, rfl, rfl, rfl, rfl, rfl, rfl, rfl, rfl⟩, fun h _ hi => s.perform_event_of_down h hi⟩

end Sys2Proof.Machine
end

section
/-! PROOFS. A yield delay that never ends (R54, R69): the statement about YIELD_DELAY_END speaks of every entry of a skein's list of
strands, and the event of the split table's four entries. -/

namespace Sys2Proof.Machine

/-- A strand whose yield delay ended at cycle 0. -/
def delayedStrand : Strand := { (default : Strand) with wait := .delay 0 }

/-- A skein with an empty split table; the delayed strand stands behind the table's four entries. -/
def delayedBehindTable : Skein := { (default : Skein) with strands := [none, none, none, none, some delayedStrand] }

/-- The reset state with that skein on core 0. -/
def delayBehindTable : State := { State.reset with skeins := [(⟨0, 0⟩, delayedBehindTable)] }

theorem delayedBehindTable_live : delayedBehindTable.live = [] := by decide

theorem delayBehindTable_yieldDelayEnd : exec .yieldDelayEnd delayBehindTable = .next delayBehindTable := by
  show execYieldDelayEnd delayBehindTable = _
  simp [execYieldDelayEnd, delayBehindTable, delayedBehindTable_live]

/-- Refutes O50: in `delayBehindTable` the delay of strand 4 has ended and YIELD_DELAY_END leaves it, as it looks at strands 0 to 3 only. -/
theorem not_skeinAndPagingEvents : ¬ Obligations.SkeinAndPagingEvents := by
  intro h
  obtain ⟨ends, -⟩ := h delayBehindTable
  obtain ⟨-, -, ⟨t, run, waits⟩, -⟩ := ends ⟨0, 0⟩ 4 delayedBehindTable delayedStrand rfl rfl
  obtain rfl : delayBehindTable = t := by injection delayBehindTable_yieldDelayEnd.symm.trans run
  have later : delayBehindTable.clock < 0 := waits delayedBehindTable rfl rfl 4 delayedStrand 0 rfl rfl
  exact absurd later (Nat.not_lt_zero _)

end Sys2Proof.Machine
end

section
/-! PROOFS. What placing, settling and stopping leave to the host and to the debugger: the host's own notes, but for the records sent to it,
and whether a skein is stopped (R54, R60, R80). -/

-- one proof at a time: proofs elaborated side by side wait for each other's case splits, each on a stack of its own
set_option Elab.async false

namespace Sys2Proof.Machine

/-- What the package keeps for the host, without the records it has sent. -/
def State.desk (s : State) : HostIf := { s.host with out := [] }

/-- The host is sent records and nothing else of it changes; the skeins that the debugger has stopped are the same. -/
structure State.Undisturbed (s t : State) : Prop where
  desk : t.desk = s.desk
  stopped : ∀ i, (t.skein? i).map (·.stopped) = (s.skein? i).map (·.stopped)

section
variable {s t u : State} {P : List Part}

theorem State.Undisturbed.refl (s : State) : s.Undisturbed s := ⟨rfl, fun _ => rfl⟩
theorem State.Undisturbed.trans (h : s.Undisturbed t) (h' : t.Undisturbed u) : s.Undisturbed u :=
  ⟨h'.desk.trans h.desk, fun i => (h'.stopped i).trans (h.stopped i)⟩
theorem State.Undisturbed.foldl {α : Type} {f : State → α → State} (h : ∀ s a, State.Undisturbed s (f s a)) (as : List α) (s : State) :
    s.Undisturbed (as.foldl f s) := by
  induction as generalizing s with
  | nil => exact .refl s
  | cons a as ih => exact (h s a).trans (ih _)
theorem State.Undisturbed.of_eq {α : Type} {r : State × α} {x : α} (h : State.Undisturbed s r.1) (hr : r = (t, x)) : s.Undisturbed t := by
  rwa [hr] at h
theorem State.Within.undisturbed (h : State.Within P s t) (hh : Part.host ∉ P := by decide) (hk : Part.skeins ∉ P := by decide) :
    s.Undisturbed t :=
  ⟨congrArg (fun x : HostIf => { x with out := [] }) (h.same .host hh), fun i => congrArg (fun x => (Tab.get? x i).map (·.stopped)) (h.same .skeins hk)⟩

variable (s)
theorem State.send_undisturbed (r : HostRec) : s.Undisturbed (s.send r) := ⟨rfl, fun _ => rfl⟩
theorem State.health_undisturbed (event die slice source addr value job : Nat) (tail : List Byte) :
    s.Undisturbed (s.health event die slice source addr value job tail) := s.send_undisturbed _
theorem State.modSkein_undisturbed (id : SkId) {f : Skein → Skein} (hf : ∀ k, (f k).stopped = k.stopped) : s.Undisturbed (s.modSkein id f) where
  desk := rfl
  stopped := fun i => by
    rw [State.skein?_modSkein]
    split
    · next h => rw [h, Option.map_map]; exact congrArg (Option.map · _) (funext hf)
    · rfl
end

/-! ### Placing -/

section
variable (s : State)

theorem State.checkSector_undisturbed (slice key : Nat) : s.Undisturbed (s.checkSector slice key) := by
  have told (f : Slice → Slice) (e d l c a v j : Nat) (bs : List Byte) : s.Undisturbed ((s.modSlice slice f).health e d l c a v j bs) :=
    (s.modSlice_within slice f).undisturbed.trans (State.health_undisturbed ..)
  simp only [State.checkSector]
  split
  · exact .refl s
  · split
    · exact told ..
    · split
      · exact .refl s
      · exact told ..

theorem State.walkFrom_undisturbed (va n lv dfn : Nat) : s.Undisturbed (State.walkFrom va n lv dfn s).1 := by
  induction n generalizing s lv dfn with
  | zero => exact .refl s
  | succ n ih =>
    have checked (k : Option Nat) : s.Undisturbed (match k with | some k => s.checkSector (tableSlice dfn) k | none => s) := by
      cases k
      · exact .refl s
      · exact s.checkSector_undisturbed ..
    unfold State.walkFrom
    extract_lets i p k s1
    have hs1 : s.Undisturbed s1 := checked k
    split_ifs
    on_goal -1 => exact hs1.trans (ih ..)
    all_goals exact hs1

theorem State.leaf_undisturbed (slice asid va : Nat) : s.Undisturbed (s.leaf slice asid va).1 := by
  simp only [State.leaf]
  split
  · exact .refl s
  · next root _ _ =>
    have walked : s.Undisturbed (s.walk root va).1 := s.walkFrom_undisturbed ..
    split
    · exact .refl s
    · exact .refl s
    · split
      · next s1 p l hs1 => exact (walked.of_eq hs1).trans (s1.modSlice_within slice _).undisturbed
      · exact walked

theorem State.expand_undisturbed (slice pk rec : Nat) : s.Undisturbed (s.expand slice pk rec) := by
  have checked (ks : List Nat) : s.Undisturbed (ks.foldl (fun s k => s.checkSector slice k) s) :=
    .foldl (fun s k => s.checkSector_undisturbed slice k) ks s
  simp only [State.expand]
  split
  · exact .refl s
  · next b _ =>
    split_ifs
    · exact .refl s
    · exact checked _
    all_goals
      split
      · split
        · next s' hs' => exact (checked _).trans ((State.installPieces_within hs').undisturbed.trans (s'.modSlice_within slice _).undisturbed)
        · exact checked _
      · exact (checked _).trans ((State.modSlice_within _ slice _).undisturbed.trans (State.health_undisturbed ..))

theorem State.writeLeaf_undisturbed (asid va : Nat) (p : W64) : s.Undisturbed (s.writeLeaf asid va p) := by
  unfold State.writeLeaf
  split
  · exact .refl s
  · split
    · exact .refl s
    · next s1 d h1 =>
      have dropped (t : State) (v b : List (Nat × Nat)) (n m : Nat) :
          t.Undisturbed (({ t with verified := v, badPages := b } : State).tlbDrop n m) :=
        State.Within.undisturbed (P := [.verified, .badPages, .slices]) (.of_update rfl)
      exact (State.leafTable_within h1).undisturbed.trans ((s1.putPte_within ..).undisturbed.trans (dropped ..))

theorem State.undiscard_undisturbed (j : Job) (die asid va dfn pk : Nat) (p : W64) (disc : Bool) : s.Undisturbed
    (if disc then (s.zeroPieces j die (va / 65536 * 65536) dfn (some pk) 16).writeLeaf asid va p else s) := by
  split
  · exact (s.zeroPieces_within ..).undisturbed.trans (State.writeLeaf_undisturbed ..)
  · exact .refl s

theorem State.place_undisturbed (j : Job) (die asid va : Nat) (acc : Acc) : s.Undisturbed (s.place j die asid va acc).1 := by
  unfold State.place
  split
  · exact .refl s
  · exact .refl s
  · next sl _ =>
    have looked : s.Undisturbed (s.leaf sl asid va).1 := s.leaf_undisturbed sl asid va
    split
    · next hs1 => exact looked.of_eq hs1
    · next hs1 => exact looked.of_eq hs1
    · next hs1 => exact looked.of_eq hs1
    · next s1 p large hs1 =>
      refine (looked.of_eq hs1).trans ?_
      have alloc : s1.Undisturbed (s1.allocPiece sl).1 := (s1.allocPiece_within sl).undisturbed
      extract_lets kind dfn pk e zeroLike s2 e2
      have grown : s1.Undisturbed s2 := s1.expand_undisturbed ..
      split
      · exact .refl s1
      split
      · exact .refl s1
      split
      · exact .refl s1
      split
      · split
        · exact .refl s1
        · split
          · next hs3 => exact alloc.of_eq hs3
          · next s3 q hs3 => exact (alloc.of_eq hs3).trans ((s3.modSlice_within sl _).undisturbed.trans (State.undiscard_undisturbed ..))
      · split
        · exact .refl s1
        · split <;> exact grown
        · split <;> exact .refl s1

theorem State.privCheck_undisturbed (j : Job) (die va n : Nat) : s.Undisturbed (s.privCheck j die va n) := by
  refine .foldl (fun s i => ?_) _ s
  have placed := s.place_undisturbed j die j.asid (va / 128 * 128 + 128 * i) .read
  split
  · next s1 sl k hs1 => exact (placed.of_eq hs1).trans (s1.checkSector_undisturbed ..)
  · next hs1 => exact placed.of_eq hs1

theorem State.renewPriv_undisturbed (j : Job) (die : Nat) (bytes : List Nat) : s.Undisturbed (s.renewPriv j die bytes) := by
  unfold State.renewPriv
  split
  · exact .refl s
  · refine .foldl (fun s n => ?_) _ s
    have placed := s.place_undisturbed j die j.asid (128 * n) .write
    split
    · next s1 sl k hs1 => exact (placed.of_eq hs1).trans (s1.modSlice_within ..).undisturbed
    · exact .refl s

theorem State.privBytes_undisturbed {s t : State} {j : Job} {die va : Nat} {bs : List Byte} (h : s.privBytes j die va bs = .ok t) :
    s.Undisturbed t := by
  induction bs generalizing s va with
  | nil => cases h; exact .refl _
  | cons b bs ih =>
    have placed := s.place_undisturbed j die j.asid va .write
    rw [State.privBytes] at h
    split at h
    · next s1 sl k hs1 =>
      refine (placed.of_eq hs1).trans (State.Undisturbed.trans ?_ (ih h))
      split
      · split
        · exact s1.health_undisturbed ..
        · exact .refl s1
      · exact (s1.putWord_within ..).undisturbed
    · cases h

theorem State.skWrite_undisturbed (id : SkId) (k : Skein) (va : Nat) (bs : List Byte) : s.Undisturbed (s.skWrite id k va bs) := by
  unfold State.skWrite
  split
  · next s1 hs1 =>
    have written : s.Undisturbed s1 := (s.renewPriv_undisturbed ..).trans (State.privBytes_undisturbed hs1)
    exact written.trans (State.Within.undisturbed (P := [.soft, .caches]) (.of_update rfl))
  · exact .refl s
end

/-! ### Settling -/

section
variable (k : Skein)

@[simp] theorem Skein.dropRecord_stopped (rid : Nat) : (k.dropRecord rid).stopped = k.stopped := rfl
@[simp] theorem Skein.addErr_stopped (cause : Nat) (fva : W64) (lane : Nat) : (k.addErr cause fva lane).stopped = k.stopped := rfl
theorem Skein.foldl_stopped {α : Type} {f : Skein → α → Skein} (h : ∀ k a, (f k a).stopped = k.stopped) (as : List α) :
    (as.foldl f k).stopped = k.stopped := by
  induction as generalizing k with
  | nil => rfl
  | cons a as ih => exact (ih _).trans (h k a)
@[simp] theorem Skein.merge_stopped (ids : List Nat) (keep : Strand) : (k.merge ids keep).stopped = k.stopped :=
  k.foldl_stopped (f := fun k i => k.setStrand i none) (fun _ _ => rfl) ids
end

section
variable (s : State) (id : SkId)

theorem State.modStrand_undisturbed (st : Nat) (f : Strand → Strand) : s.Undisturbed (s.modStrand id st f) :=
  s.modSkein_undisturbed id fun k => k.modStrand_stopped st f

theorem State.readSpill_undisturbed (k : Skein) (st : Nat) (n : List NestItem) (lane : Nat) : s.Undisturbed (s.readSpill id k st n lane) := by
  unfold State.readSpill
  split
  · extract_lets va j s1 told
    have checked : s.Undisturbed s1 := s.privCheck_undisturbed ..
    split
    · exact checked
    · exact checked.trans (s1.modSkein_undisturbed id fun _ => rfl)
  · exact .refl s

theorem State.putTop_undisturbed (st : Nat) (e : StackEnt) : s.Undisturbed (s.putTop id st e) := by
  unfold State.putTop
  split
  · exact .refl s
  split
  · exact .refl s
  split
  · exact s.modStrand_undisturbed ..
  · exact s.skWrite_undisturbed ..
  · exact .refl s

theorem State.afterExit_undisturbed (st : Nat) : s.Undisturbed (s.afterExit id st) := by
  unfold State.afterExit
  split
  · exact .refl s
  split
  · exact .refl s
  split
  · exact .refl s
  split
  · exact (s.memops_within _).undisturbed.trans (State.modSkein_undisturbed _ id fun _ => rfl)
  · extract_lets inner s1
    have read : s.Undisturbed s1 := s.readSpill_undisturbed ..
    split
    · exact read
    · dsimp only
      split
      · exact read.trans ((s1.modStrand_undisturbed ..).trans ((State.putTop_undisturbed ..).trans (State.modStrand_undisturbed ..)))
      · exact read.trans (s1.modStrand_undisturbed ..)

theorem State.atNamed_undisturbed (st : Nat) : s.Undisturbed (s.atNamed id st) := by
  unfold State.atNamed
  split
  · exact .refl s
  split
  · exact .refl s
  split
  · exact .refl s
  split
  · split
    · exact s.modStrand_undisturbed ..
    · exact .refl s
  · extract_lets s1
    have read : s.Undisturbed s1 := s.readSpill_undisturbed ..
    split
    · exact read
    split
    · exact read
    · dsimp only
      split
      · exact read.trans ((State.putTop_undisturbed ..).trans (State.modStrand_undisturbed ..))
      · exact read.trans (s1.modStrand_undisturbed ..)

theorem State.moveSpill_undisturbed (k : Skein) (src dst depth : Nat) : s.Undisturbed (s.moveSpill id k src dst depth) := by
  unfold State.moveSpill
  split
  · exact .refl s
  · exact s.skWrite_undisturbed ..

theorem State.completeRecord_undisturbed (r : JoinRec) : s.Undisturbed (s.completeRecord id r) := by
  unfold State.completeRecord
  split
  · exact .refl s
  extract_lets need waiting lanes withStack ids
  clear_value withStack
  split
  · exact s.modSkein_undisturbed id fun _ => rfl
  split
  · exact .refl s
  split
  · exact .refl s
  · dsimp only
    exact (s.moveSpill_undisturbed ..).trans ((State.memops_within ..).undisturbed.trans
      (State.modSkein_undisturbed _ id fun k => by simp))

theorem State.completeRejoin_undisturbed (n : Nat) : s.Undisturbed (s.completeRejoin id n) := by
  unfold State.completeRejoin
  split
  · exact .refl s
  extract_lets waiting lanes
  split
  · exact .refl s
  split
  · exact .refl s
  · exact (State.memops_within ..).undisturbed.trans (State.modSkein_undisturbed _ id fun k => by simp)

theorem State.completions_undisturbed : s.Undisturbed (s.completions id) := by
  unfold State.completions
  extract_lets s1 s2 s3
  have exited : s.Undisturbed s1 := .foldl (fun s i => s.afterExit_undisturbed id i) _ s
  have named : s1.Undisturbed s2 := .foldl (fun s i => s.atNamed_undisturbed id i) _ s1
  have joined : s2.Undisturbed s3 := .foldl (fun s r => s.completeRecord_undisturbed id r) _ s2
  exact exited.trans (named.trans (joined.trans (.foldl (fun s n => s.completeRejoin_undisturbed id n) _ s3)))

theorem State.untilStill_undisturbed (n : Nat) : s.Undisturbed (State.untilStill (·.completions id) id n s) := by
  induction n generalizing s with
  | zero => exact .refl s
  | succ n ih =>
    unfold State.untilStill
    dsimp only
    split
    · exact s.completions_undisturbed id
    · exact (s.completions_undisturbed id).trans (ih _)

theorem State.reportLost_undisturbed (lane : Nat) : s.Undisturbed (s.reportLost id lane) :=
  s.modSkein_undisturbed id fun k => by
    dsimp only
    split <;> rfl

theorem State.release_undisturbed : s.Undisturbed (s.release id) := by
  unfold State.release
  split
  · exact .refl s
  extract_lets waits s1 s2
  split
  · exact .refl s
  · have freed : s.Undisturbed s1 := s.modSkein_undisturbed id fun k => k.foldl_stopped (fun k p => by
      dsimp only
      split
      · split <;> simp
      · simp) _
    have joined : s1.Undisturbed s2 := (s1.memops_within _).undisturbed
    split
    · exact freed.trans (joined.trans (s2.reportLost_undisturbed ..))
    · exact freed.trans joined

theorem State.settle_undisturbed : s.Undisturbed (s.settle id) := by
  unfold State.settle
  split
  · exact .refl s
  extract_lets s1 s2
  have completed : s.Undisturbed s1 := s.untilStill_undisturbed id 40
  have released : s1.Undisturbed s2 := s1.release_undisturbed id
  split
  · exact completed.trans released
  · exact completed.trans (released.trans (s2.untilStill_undisturbed id 40))
end

/-! ### Pre-emption -/

section
variable {s t : State}

/-- A group that stops, its delays over, leaves what the package keeps for the host (R61). -/
theorem State.stopGroup_desk {gid : Nat} (h : s.stopGroup gid = some t) : t.desk = s.desk := by
  simp only [State.stopGroup] at h
  split at h
  · cases h; rfl
  split at h
  · cases h; rfl
  split at h
  · next s1 ps hs1 =>
    cases h
    have woken := foldl_keeps (p := State.desk) (f := fun (s : State) (x : SkId × Skein) =>
      if x.2.group == gid && x.2.endDelays != x.2 then (s.setSkein x.1 x.2.endDelays).settle x.1 else s) (fun s x => by
        split
        · exact ((s.setSkein x.1 x.2.endDelays).settle_undisturbed x.1).desk
        · rfl) s1.skeins s1
    exact woken.trans (State.allocPieces_within hs1).undisturbed.desk
  · cases h

theorem State.stopGroups_desk {ids : List Nat} {acc : Option State} (hacc : ∀ t, acc = some t → t.desk = s.desk)
    (h : ids.foldl (fun (acc : Option State) i => match acc with | some s => s.stopGroup i | none => none) acc = some t) : t.desk = s.desk := by
  induction ids generalizing acc with
  | nil => exact hacc t h
  | cons i ids ih =>
    refine ih (fun u hu => ?_) h
    dsimp only at hu
    split at hu
    · next s1 => exact (State.stopGroup_desk hu).trans (hacc s1 rfl)
    · cases hu

theorem State.startPreempt_desk (s : State) (gid : Nat) : (s.startPreempt gid).desk = s.desk := by
  unfold State.startPreempt
  split
  · rfl
  · extract_lets ids
    split
    · rfl
    · cases hstop : ids.foldl (fun (acc : Option State) i => match acc with | some s => s.stopGroup i | none => none) (some s) with
      | none => rfl
      | some t => exact State.stopGroups_desk (fun u hu => by cases hu; rfl) hstop
end

/-! ### Frozen cores -/

/-- The cores that are frozen (R260). -/
def State.frozenCores (s : State) (c : Nat) : Bool := (s.core c).frozen

section
variable {s t : State}

theorem State.Within.frozenCores {P : List Part} (h : State.Within P s t) (hc : Part.cores ∉ P := by decide) : t.frozenCores = s.frozenCores :=
  funext fun c => congrArg (fun x => (Tab.getD x c Core.empty).frozen) (h.same .cores hc)

variable (s)
theorem State.modCore_frozenCores (c : Nat) {f : Core → Core} (hf : ∀ k, (f k).frozen = k.frozen) : (s.modCore c f).frozenCores = s.frozenCores := by
  funext i
  rw [State.frozenCores, State.core_modCore]
  split
  · next h => rw [hf, h]; rfl
  · rfl

theorem State.freeEntries_frozenCores (core : Nat) : (s.freeEntries core).frozenCores = s.frozenCores :=
  s.modCore_frozenCores core fun _ => rfl

theorem State.reportEnd_frozenCores (core : Nat) (sk : Option SkId) (entry : Option Nat) (cls : Cls) (op lane : Nat) (err : Option (Nat × W64))
    (canc : Bool) : (s.reportEnd core sk entry cls op lane err canc).frozenCores = s.frozenCores := by
  unfold State.reportEnd
  extract_lets s1 s2
  have reported : s1.frozenCores = s.frozenCores := by
    unfold s1
    split
    · extract_lets gen named u
      have ended : u.frozenCores = s.frozenCores := s.modCore_frozenCores core fun _ => rfl
      split
      · split
        · exact (u.modSkein_within ..).frozenCores.trans ended
        · exact (u.modSkein_within ..).frozenCores.trans ended
      · exact ended
    · split
      · extract_lets u
        have finished : u.frozenCores = s.frozenCores := (s.modSkein_within ..).frozenCores
        split
        · exact (u.modSkein_within ..).frozenCores.trans finished
        · exact finished
      · rfl
  have left : s2.frozenCores = s1.frozenCores := by
    unfold s2
    split
    · exact (s1.modSkein_within ..).frozenCores
    · rfl
  exact (s2.freeEntries_frozenCores core).trans (left.trans reported)

theorem State.removeSkein_frozenCores (id : SkId) : (s.removeSkein id).frozenCores = s.frozenCores := by
  unfold State.removeSkein
  split
  · rfl
  · extract_lets s1 s2 s3 s4
    exact s4.freeEntries_frozenCores id.core

theorem State.settleExits_frozenCores (gid : Nat) : (s.settleExits gid).frozenCores = s.frozenCores := by
  unfold State.settleExits
  split
  · rfl
  · next g _ =>
    extract_lets s1
    have joint : s1.frozenCores = s.frozenCores := by
      refine foldl_keeps (p := State.frozenCores) (fun s js => ?_) _ s
      split
      · rfl
      split
      · exact foldl_keeps (p := State.frozenCores) (fun s m => s.reportEnd_frozenCores ..) _ _
      · rfl
    split
    · exact joint
    · refine (foldl_keeps (p := State.frozenCores) (fun s v => ?_) _ s1).trans joint
      split
      · rfl
      split
      · extract_lets s2
        split
        · exact s2.reportEnd_frozenCores ..
        · rfl
      · rfl

theorem State.discardSkein_frozenCores (id : SkId) : (s.discardSkein id).frozenCores = s.frozenCores := by
  unfold State.discardSkein
  split
  · rfl
  · exact (State.settleExits_frozenCores ..).trans (s.removeSkein_frozenCores id)

theorem State.freeClaims_frozenCores (g : Group) : (s.freeClaims g).frozenCores = s.frozenCores := by
  unfold State.freeClaims
  extract_lets r claim
  have given (s : State) (c : Nat) (gm tm : List Nat) (n : Nat) : (claim s c gm tm n).frozenCores = s.frozenCores :=
    s.modCore_frozenCores c fun _ => rfl
  split
  · exact (given _ ..).trans (given s ..)
  · exact given s ..

theorem State.cancelGroup_frozenCores (gid : Nat) : (s.cancelGroup gid).frozenCores = s.frozenCores := by
  unfold State.cancelGroup
  split
  · rfl
  · extract_lets s1 s2 s3 r held s4 s5 mine
    have freed : s5.frozenCores = s.frozenCores := (s.freeArea_within gid).frozenCores
    refine (foldl_keeps (p := State.frozenCores) (fun s x => ?_) mine s5).trans freed
    dsimp only
    split
    · exact s.discardSkein_frozenCores _
    · rfl

theorem State.dropGroup_frozenCores (gid : Nat) : (s.dropGroup gid).frozenCores = s.frozenCores := by
  unfold State.dropGroup
  split
  · rfl
  · next g _ =>
    extract_lets s1 s2 s3 s4
    have freed : s1.frozenCores = s.frozenCores := by
      unfold s1
      split
      · exact (s.freeArea_within gid).frozenCores
      · exact (State.freeClaims_frozenCores ..).trans (s.freeArea_within gid).frozenCores
    have dropped : s4.frozenCores = s1.frozenCores := (s1.dropPrivate_within g).frozenCores
    exact (s4.settleLaunch_unwinds 256 g.launch).within.frozenCores.trans (dropped.trans freed)

theorem State.stopLaunch_frozenCores (lid : LaunchId) (st : Nat) : (s.stopLaunch lid st).frozenCores = s.frozenCores := by
  unfold State.stopLaunch
  split
  · rfl
  · split
    · rfl
    · extract_lets gs s1 s2 s3
      have cancelled : s2.frozenCores = s.frozenCores := foldl_keeps (p := State.frozenCores) (fun s g => s.cancelGroup_frozenCores g) gs s1
      have dropped : s3.frozenCores = s2.frozenCores := foldl_keeps (p := State.frozenCores) (fun s g => s.dropGroup_frozenCores g) _ s2
      exact (s3.settleLaunch_unwinds 256 lid).within.frozenCores.trans (dropped.trans cancelled)

theorem State.failLaunch_frozenCores (lid : LaunchId) (cause : Nat) (pc fva : W64) (group skein core : Nat) :
    (s.failLaunch lid cause pc fva group skein core).frozenCores = s.frozenCores := by
  unfold State.failLaunch
  split
  · rfl
  · split
    · rfl
    · exact State.stopLaunch_frozenCores ..
end

end Sys2Proof.Machine
end

section
/-! PROOFS. The host's MGMT records: sensors, thresholds, the drain of a die, the debugger, the race log, the release of a master, keys,
volumes, fabric messages (R60, R80, R81, R130, R221, R254, R256, R260, R263, R289). -/

namespace Sys2Proof.Machine

/-- A MGMT record for an operation is taken up. -/
theorem State.onMgmt_of_takes {s : State} {r : HostRec} {op : Nat} {f : State → State} (h : s.TakesMgmt r op) (h0 : op ≠ 0) (h13 : op ≤ 13) :
    s.onMgmt r op f = f s := by
  obtain ⟨takes, hlen, rfl⟩ := h
  rw [State.onMgmt, State.onRecord_of_takes takes (by decide)]
  simp [h0, Nat.not_lt.2 hlen, Nat.not_lt.2 h13]

theorem State.reply_told (s : State) (r : HostRec) (st : Nat) (arg : W64) (body : List Byte) :
    replyTo r r.job st arg body ∈ (s.reply r st arg body).host.out := (State.Within.refl [] _).replied

@[simp] theorem State.reply_die (s : State) (r : HostRec) (st : Nat) (arg : W64) (body : List Byte) (d : Nat) :
    (s.reply r st arg body).die d = s.die d := rfl
@[simp] theorem State.reply_core (s : State) (r : HostRec) (st : Nat) (arg : W64) (body : List Byte) (c : Nat) :
    (s.reply r st arg body).core c = s.core c := rfl
@[simp] theorem State.reply_slice (s : State) (r : HostRec) (st : Nat) (arg : W64) (body : List Byte) (n : Nat) :
    (s.reply r st arg body).slice n = s.slice n := rfl
@[simp] theorem State.reply_pkg (s : State) (r : HostRec) (st : Nat) (arg : W64) (body : List Byte) :
    (s.reply r st arg body).pkg = s.pkg := rfl

/-! ### Sensors and thresholds (R254, R263) -/

section
variable {s : State} {r : HostRec}

theorem execSensorRead_reads (h : s.TakesMgmt r 1) (hd : mgDie r ≤ 3) (hi : mgIndex r < [96, 64, 32].getD (mgKind r) 0) :
    execSensorRead r s = .next (s.reply r 0 (match Tab.get? (s.die (mgDie r)).readings (mgKind r, mgIndex r) with
      | some x => BitVec.ofInt 64 x
      | none => Config.reading (mgDie r) (mgKind r) (mgIndex r) s.clock)) := by
  have there : ¬ (decide (mgDie r > 3) || decide (mgIndex r ≥ [96, 64, 32].getD (mgKind r) 0)) = true := by
    simp only [Bool.or_eq_true, decide_eq_true_eq]
    omega
  rw [execSensorRead, State.onMgmt_of_takes h (by decide) (by decide)]
  exact congrArg Host.Outcome.next (if_neg there)

section
variable (h : s.TakesMgmt r 2) (hd : mgDie r ≤ 3)
include h hd

theorem execThresholdSet_temperature (hk : mgKind r = 0) (lo : 70000 ≤ sextInt 64 (mgValue r)) (hi : sextInt 64 (mgValue r) ≤ 100000) :
    execThresholdSet r s = .next ((s.modDie (mgDie r) fun x => { x with threshold := sextInt 64 (mgValue r) }).reply r 0) := by
  rw [execThresholdSet, State.onMgmt_of_takes h (by decide) (by decide)]
  simp [hk, lo, hi, Nat.not_lt.2 hd]

theorem execThresholdSet_dram (hk : mgKind r = 1) (lo : 70000 ≤ sextInt 64 (mgValue r)) (hi : sextInt 64 (mgValue r) ≤ 90000) :
    execThresholdSet r s = .next (State.reply
      { s with pkg := { s.pkg with dramLimit := Tab.set s.pkg.dramLimit (mgDie r) (sextInt 64 (mgValue r)) } } r 0) := by
  rw [execThresholdSet, State.onMgmt_of_takes h (by decide) (by decide)]
  simp [hk, lo, hi, Nat.not_lt.2 hd]

theorem execThresholdSet_power (hk : mgKind r = 2) (lo : 2000 ≤ sextInt 64 (mgValue r)) (hi : sextInt 64 (mgValue r) ≤ 6000) :
    execThresholdSet r s = .next (State.reply { s with pkg := { s.pkg with powerLimit := (sextInt 64 (mgValue r)).toNat } } r 0) := by
  rw [execThresholdSet, State.onMgmt_of_takes h (by decide) (by decide)]
  simp [hk, lo, hi, Nat.not_lt.2 hd]

theorem execThresholdSet_droop (hk : mgKind r = 3) (hi : mgIndex r < 64) :
    execThresholdSet r s = .next ((s.modDie (mgDie r) fun x =>
      { x with droops := Tab.set x.droops (mgIndex r) (sextInt 64 (mgValue r)) }).reply r 0) := by
  rw [execThresholdSet, State.onMgmt_of_takes h (by decide) (by decide)]
  simp [hk, hi, Nat.not_lt.2 hd]

theorem execThresholdSet_rejects (hk : mgKind r = 0) (out : sextInt 64 (mgValue r) < 70000 ∨ 100000 < sextInt 64 (mgValue r)) :
    execThresholdSet r s = .next (s.reply r 3) := by
  have outside : ¬ (decide (70000 ≤ sextInt 64 (mgValue r)) && decide (sextInt 64 (mgValue r) ≤ 100000)) = true := by
    simp only [Bool.and_eq_true, decide_eq_true_eq]
    omega
  rw [execThresholdSet, State.onMgmt_of_takes h (by decide) (by decide)]
  simp only [hk, outside, gt_iff_lt, Nat.not_lt.2 hd, Bool.false_eq_true, if_false]
  rfl
end

/-! ### The drain of a die (R60) -/

theorem State.foldl_send_out {α : Type} (x : α → HostRec) (as : List α) (s : State) :
    (as.foldl (fun (s : State) a => s.send (x a)) s).host.out = s.host.out ++ as.map x := by
  induction as generalizing s with
  | nil => exact (List.append_nil _).symm
  | cons a as ih => rw [List.foldl_cons, ih, State.send_host, List.map_cons, List.append_assoc, List.singleton_append]

/-- A drain goes on, or is answered. -/
theorem State.settleDrains_keeps {x : Nat × W64} (hx : x ∈ s.host.drains) :
    x ∈ s.settleDrains.host.drains ∨ ⟨0x0C, 1, 32, x.2, 0, 0, 0, []⟩ ∈ s.settleDrains.host.out := by
  unfold State.settleDrains
  extract_lets empty s1
  by_cases he : x ∈ empty
  · refine .inr ?_
    rw [State.foldl_send_out (fun x : Nat × W64 => ⟨0x0C, 1, 32, x.2, 0, 0, 0, []⟩) empty s1]
    exact List.mem_append_right _ (List.mem_map.2 ⟨x, he, rfl⟩)
  · refine .inl ?_
    have kept := foldl_keeps (p := fun s : State => s.host.drains) (f := fun (s : State) (x : Nat × W64) => s.send ⟨0x0C, 1, 32, x.2, 0, 0, 0, []⟩)
      (fun _ _ => rfl) empty s1
    exact (congrArg (x ∈ ·) kept).mpr (List.mem_filter.2 ⟨hx, by simpa using he⟩)

/-- A record of a drain is entered. -/
def State.draining (s : State) (r : HostRec) : State := s.modHost fun h => { h with drains := h.drains ++ [(mgDie r, r.tag)] }

/-- Every group that runs on the die begins to stop. -/
def State.drainDie (s : State) (r : HostRec) : State :=
  ((s.draining r).groups.filter fun (_, g) => dieOf g.core == mgDie r && g.st == .running).foldl (fun s (g, _) => s.startPreempt g) (s.draining r)

theorem execDieDrain_drains (h : s.TakesMgmt r 3) (hd : mgDie r ≤ 3) : execDieDrain r s = .next (s.drainDie r).settleDrains := by
  rw [execDieDrain, State.onMgmt_of_takes h (by decide) (by decide)]
  exact congrArg Host.Outcome.next (if_neg (Nat.not_lt.2 hd))

theorem State.drainDie_drains (s : State) (r : HostRec) : (mgDie r, r.tag) ∈ (s.drainDie r).host.drains := by
  have kept : (s.drainDie r).desk = (s.draining r).desk := foldl_keeps (p := State.desk) (f := fun (s : State) (x : Nat × Group) => s.startPreempt x.1)
    (fun s x => s.startPreempt_desk x.1) _ _
  have drains : (s.drainDie r).host.drains = s.host.drains ++ [(mgDie r, r.tag)] := congrArg HostIf.drains kept
  simp [drains]

theorem State.allocPieces_modHost (s : State) (f : HostIf → HostIf) (sl n : Nat) :
    ((s.modHost f).allocPieces sl n).isSome = (s.allocPieces sl n).isSome := by
  unfold State.allocPieces
  dsimp only
  rw [apply_ite Option.isSome, apply_ite Option.isSome]
  rfl

theorem State.drainDie_stops {gid : Nat} {g : Group}
    (alone : (s.groups.filter fun x => dieOf x.2.core == mgDie r && x.2.st == .running) = [(gid, g)]) (hg : s.group? gid = some g)
    (hc : g.cancelled = false) (hex : g.exited.length < (s.lrecOfGroup g).skeins) (can : s.CanStop g) :
    ∃ g', (s.drainDie r).settleDrains.group? gid = some g' ∧ g'.st = .stopping := by
  have runs : (gid, g) ∈ s.groups.filter fun x => dieOf x.2.core == mgDie r && x.2.st == .running := by
    rw [alone]
    exact List.mem_singleton.2 rfl
  simp only [List.mem_filter, Bool.and_eq_true, beq_iff_eq] at runs
  obtain ⟨hcoop, hsvc, hpieces⟩ := can
  have room : (s.draining r).CanStop g := ⟨hcoop, hsvc, (s.allocPieces_modHost _ _ _).trans hpieces⟩
  obtain ⟨g', hg', hst, -⟩ := State.startPreempt_stops (s := s.draining r) hg runs.2.2 hc hex room
  have one : s.drainDie r = (s.draining r).startPreempt gid := by
    have groups : ((s.draining r).groups.filter fun (x : Nat × Group) => dieOf x.2.core == mgDie r && x.2.st == .running) = [(gid, g)] := alone
    unfold State.drainDie
    rw [groups]
    rfl
  rw [one]
  exact ⟨g', ((State.settleDrains_within _).group?_eq gid).trans hg', hst⟩

/-! ### The debugger (R80, R81, R254) -/

theorem Tab.exists_get?_of_mem {κ ν : Type} [DecidableEq κ] {m : List (κ × ν)} {p : κ × ν} (h : p ∈ m) : ∃ v, Tab.get? m p.1 = some v := by
  induction m with
  | nil => cases h
  | cons q m ih =>
    rw [Tab.get?]
    split
    · exact ⟨_, rfl⟩
    · next hne => exact ih ((List.mem_cons.1 h).resolve_left fun e => hne (congrArg Prod.fst e))

variable {id : SkId}

/-- The skein that a message names is there. -/
theorem State.skein?_of_mgSkein (h : s.mgSkein r = some id) : ∃ k, s.skein? id = some k := by
  simp only [State.mgSkein] at h
  split at h
  · obtain ⟨p, hp, rfl⟩ := Option.map_eq_some_iff.1 h
    exact Tab.exists_get?_of_mem (List.mem_of_find?_eq_some hp)
  · cases h

theorem State.onSkein_of_takes {op : Nat} {f : State → SkId → State} (h : s.TakesMgmt r op) (h0 : op ≠ 0) (h13 : op ≤ 13)
    (hid : s.mgSkein r = some id) : s.onSkein r op f = f s id := by
  rw [State.onSkein, State.onMgmt_of_takes h h0 h13, hid]

/-- A skein of the core that DEBUGGER_STOP stops. -/
def Skein.debugStop (r : HostRec) (id i : SkId) (k : Skein) : Skein :=
  if i == id || (mgKind r % 2 == 1 && i.core == id.core) then { k with stopped := true, stepping := none } else k

theorem execDebuggerStop_stops (h : s.TakesMgmt r 4) (hid : s.mgSkein r = some id) : execDebuggerStop r s =
    .next (State.reply { s.modJob (mgJob r) (fun j => { j with debugger := true }) with
      skeins := s.skeins.map fun x => (x.1, x.2.debugStop r id x.1) } r 0) := by
  rw [execDebuggerStop, State.onSkein_of_takes h (by decide) (by decide) hid]
  have stop : (fun x : SkId × Skein => if x.1 == id || (mgKind r % 2 == 1 && x.1.core == id.core)
      then (x.1, { x.2 with stopped := true, stepping := none }) else x) = fun x => (x.1, x.2.debugStop r id x.1) :=
    funext fun x => (apply_ite (Prod.mk x.1) _ _ _).symm
  dsimp only
  rw [stop]
  rfl

theorem execDebuggerStop_spec (h : s.TakesMgmt r 4) (hid : s.mgSkein r = some id) : ∃ (t : State) (k' : Skein), execDebuggerStop r s = .next t
    ∧ t.host.out = s.host.out ++ [replyTo r r.job 0 0 []] ∧ t.skein? id = some k' ∧ k'.stopped = true ∧ k'.stepping = none
    ∧ ∀ j, s.job? (mgJob r) = some j → t.job? (mgJob r) = some { j with debugger := true } := by
  obtain ⟨k, hk⟩ := State.skein?_of_mgSkein hid
  refine ⟨_, k.debugStop r id id, execDebuggerStop_stops h hid, rfl, ?_, ?_, ?_, fun j hj => ?_⟩
  · show Tab.get? (s.skeins.map fun x => (x.1, x.2.debugStop r id x.1)) id = _
    rw [Tab.get?_map_snd s.skeins (fun i k => k.debugStop r id i) id, show Tab.get? s.skeins id = some k from hk, Option.map_some]
  · simp [Skein.debugStop]
  · simp [Skein.debugStop]
  · exact (s.job?_modJob (mgJob r) (fun j => { j with debugger := true }) fun _ => rfl).trans (by rw [hj, Option.map_some])

theorem execResume_resumes (h : s.TakesMgmt r 6) (hid : s.mgSkein r = some id) : ∃ (t : State) (k' : Skein), execResume r s = .next t
    ∧ replyTo r r.job 0 0 [] ∈ t.host.out ∧ t.skein? id = some k' ∧ k'.stopped = false := by
  obtain ⟨k, hk⟩ := State.skein?_of_mgSkein hid
  have resumed : (((s.modSkein id fun k => { k with stopped := false, stepping := none }).settle id).skein? id).map (·.stopped) = some false := by
    rw [(State.settle_undisturbed _ id).stopped, State.skein?_modSkein_of hk]
    rfl
  obtain ⟨k', hk', hstop⟩ := Option.map_eq_some_iff.1 resumed
  refine ⟨((s.modSkein id fun k => { k with stopped := false, stepping := none }).settle id).reply r 0, k', ?_, State.reply_told .., hk', hstop⟩
  rw [execResume, State.onSkein_of_takes h (by decide) (by decide) hid]

section
variable {k : Skein} {x : Strand} (h : s.TakesMgmt r 5) (hid : s.mgSkein r = some id) (hk : s.skein? id = some k)
  (hx : k.strand? (mgKind r) = some x)
include h hid hk hx

theorem execSingleStep_eq : execSingleStep r s = .next (if k.stopped then
    if !s.waitOver id k x || k.park.isSome then s.reply r 0 1
    else (s.modSkein id fun k => { k with stepping := some (mgKind r, false) }).modHost fun h => { h with dbg := h.dbg ++ [(id, r.tag)] }
    else s.reply r 3) := by
  rw [execSingleStep, State.onSkein_of_takes h (by decide) (by decide) hid]
  simp only [hk]
  cases hs : k.stopped
  · rfl
  · simp only [hx]
    rfl

theorem execSingleStep_spec :
    (k.stopped = true → s.waitOver id k x = true → k.park = none → ∃ (t : State) (k' : Skein), execSingleStep r s = .next t
      ∧ t.skein? id = some k' ∧ k'.stepping = some (mgKind r, false) ∧ (id, r.tag) ∈ t.host.dbg)
    ∧ (k.stopped = true → s.waitOver id k x = false ∨ k.park ≠ none → execSingleStep r s = .next (s.reply r 0 1))
    ∧ (k.stopped = false → execSingleStep r s = .next (s.reply r 3)) := by
  rw [execSingleStep_eq h hid hk hx]
  refine ⟨fun hs hw hp => ?_, fun hs hw => ?_, fun hs => ?_⟩
  · rw [if_pos hs, if_neg (by simp [hw, hp])]
    exact ⟨_, _, rfl, State.skein?_modSkein_of hk _, rfl, List.mem_append_right _ (List.mem_singleton.2 rfl)⟩
  · rw [if_pos hs, if_pos (by simpa [Option.isSome_iff_ne_none] using hw)]
  · rw [if_neg (by simp [hs])]
end

theorem execDebuggerDetach_detaches {j : Job} (h : s.TakesMgmt r 13) (hj : s.job? (mgJob r) = some j) : ∃ t : State,
    execDebuggerDetach r s = .next t ∧ t.host.out = s.host.out ++ [replyTo r r.job 0 0 []]
      ∧ t.job? (mgJob r) = some { j with debugger := false } := by
  refine ⟨(s.modJob (mgJob r) fun j => { j with debugger := false }).reply r 0, ?_, rfl, ?_⟩
  · rw [execDebuggerDetach, State.onMgmt_of_takes h (by decide) (by decide)]
    simp [hj]
  · exact (s.job?_modJob (mgJob r) (fun j => { j with debugger := false }) fun _ => rfl).trans (by rw [hj, Option.map_some])

/-! ### The race log (R130) -/

theorem execRaceLogRead_reads (h : s.TakesMgmt r 7) (hd : mgDie r ≤ 3) (hk : mgKind r ≤ 7) : ∃ t : State, execRaceLogRead r s = .next t
    ∧ Tab.getD (t.slice (8 * mgDie r + mgKind r)).raceLog (mgJob r) []
        = (Tab.getD (s.slice (8 * mgDie r + mgKind r)).raceLog (mgJob r) []).drop (min (mgIndex r) 2046)
    ∧ Tab.get? (t.slice (8 * mgDie r + mgKind r)).raceDrop (mgJob r) = none
    ∧ t.host.out = s.host.out ++ [replyTo r r.job 0 (BitVec.ofNat 64 (Tab.getD (s.slice (8 * mgDie r + mgKind r)).raceDrop (mgJob r) 0))
        ((Tab.getD (s.slice (8 * mgDie r + mgKind r)).raceLog (mgJob r) []).take (min (mgIndex r) 2046)).flatten] := by
  have there : ¬ (decide (mgDie r > 3) || decide (mgKind r > 7)) = true := by
    simp only [Bool.or_eq_true, decide_eq_true_eq]
    omega
  have freed (f : Slice → Slice) (st : Nat) (a : W64) (b : List Byte) :
      ((s.modSlice (8 * mgDie r + mgKind r) f).reply r st a b).slice (8 * mgDie r + mgKind r) = f (s.slice (8 * mgDie r + mgKind r)) := by
    rw [State.reply_slice, State.slice_modSlice, if_pos rfl]
  rw [execRaceLogRead, State.onMgmt_of_takes h (by decide) (by decide)]
  refine ⟨_, congrArg Host.Outcome.next (if_neg there), ?_, ?_, rfl⟩
  · rw [freed]
    exact Tab.getD_set_same ..
  · rw [freed]
    exact (Tab.get?_erase ..).trans (if_pos rfl)

/-! ### Release of a frozen master (R260) -/

theorem State.releaseMaster_core (c : Nat) : ((s.releaseMaster (.core c)).core c).frozen = false := by
  have kept : (s.releaseMaster (.core c)).frozenCores = (s.setFrozen (.core c) false).frozenCores := by
    refine foldl_keeps (p := State.frozenCores) (fun s x => ?_) _ _
    refine (State.failLaunch_frozenCores ..).trans ?_
    exact foldl_keeps (p := State.frozenCores) (f := fun (s : State) (x : SkId × Skein) => s.discardSkein x.1)
      (fun s x => s.discardSkein_frozenCores x.1) _ s
  exact (congrFun kept c).trans (congrArg Core.frozen ((s.setFrozen_core c false c).trans (if_pos rfl)))

theorem State.releaseMaster_service (n : Nat) : ((s.releaseMaster (.service n)).slice n).frozenService = false := by
  refine (congrArg Slice.frozenService ((State.slice_modSlice _ n n _).trans (if_pos rfl))).trans ?_
  exact congrArg Slice.frozenService (s.setFrozen_service n false)

theorem State.releaseMaster_engine (a : Nat) : a ∉ (s.releaseMaster (.engine a)).pkg.frozenEngines := by
  show a ∉ s.pkg.frozenEngines.filter (· != a) ++ []
  simp

variable (h : s.TakesMgmt r 8) (hd : mgDie r ≤ 3)
include h hd

theorem execMasterRelease_core (hk : mgKind r = 0) (hi : mgIndex r < 128) :
    execMasterRelease r s = .next ((s.releaseMaster (.core (128 * mgDie r + mgIndex r))).reply r 0) := by
  rw [execMasterRelease, State.onMgmt_of_takes h (by decide) (by decide)]
  simp [hk, hi, Nat.not_lt.2 hd]

theorem execMasterRelease_engine (hk : mgKind r = 1) :
    execMasterRelease r s = .next ((s.releaseMaster (.engine (s.agent (mgDie r) (mgIndex r)))).reply r 0) := by
  rw [execMasterRelease, State.onMgmt_of_takes h (by decide) (by decide)]
  simp [hk, Nat.not_lt.2 hd]

theorem execMasterRelease_service (hk : mgKind r = 2) (hi : mgIndex r < 8) :
    execMasterRelease r s = .next ((s.releaseMaster (.service (8 * mgDie r + mgIndex r))).reply r 0) := by
  rw [execMasterRelease, State.onMgmt_of_takes h (by decide) (by decide)]
  simp [hk, hi, Nat.not_lt.2 hd]
end

end Sys2Proof.Machine
end

section
/-! PROOFS. Code keys, weight volumes, fabric messages, attestation, the boot image, virtio features, registers that the host writes, and the
bytes of a volume (R6, R173, R215, R250, R254 to R256, R259, R261, R262, R289). -/

namespace Sys2Proof.Machine

/-! ### Keys, volumes and fabric messages (R221, R254, R256, R289) -/

section
variable {s : State} {r : HostRec}

theorem execCodeKeyEnrol_enrols (h : s.TakesMgmt r 9) (hi : mgIndex r < 16) (hlen : 1952 ≤ (mgTail r).length) : execCodeKeyEnrol r s =
    .next ((s.modHost fun h => { h with codeKeys := Tab.set h.codeKeys (mgIndex r) ((mgTail r).take 1952) }).reply r 0) := by
  rw [execCodeKeyEnrol, State.onMgmt_of_takes h (by decide) (by decide)]
  simp [Nat.not_le.2 hi, Nat.not_lt.2 hlen]

theorem execWeightVolumeCreate_creates (h : s.TakesMgmt r 10) (hi : mgIndex r < 32) (hk : mgKind r ≤ 1) (hv : mgValue r ≤ 2 ^ 36)
    (h0 : mgValue r ≠ 0) (hal : mgValue r % 4096 = 0) (ha : mgAux r ≠ 0) (hnew : Tab.get? s.host.volumes (mgIndex r) = none) :
    execWeightVolumeCreate r s = .next ((s.modHost fun h =>
      { h with volumes := Tab.set h.volumes (mgIndex r) ⟨decide (mgKind r = 1), mgValue r, mgAux r, []⟩ }).reply r 0) := by
  rw [execWeightVolumeCreate, State.onMgmt_of_takes h (by decide) (by decide)]
  have fits : ¬ (decide (mgIndex r ≥ 32) || decide (mgKind r > 1) || decide (mgValue r > 2 ^ 36) || mgValue r == 0 || mgValue r % 4096 != 0
      || mgAux r == 0 || (Tab.get? s.host.volumes (mgIndex r)).isSome) = true := by
    simp only [hnew, hal, decide_eq_false (Nat.not_le.2 hi), decide_eq_false (Nat.not_lt.2 hk), decide_eq_false (Nat.not_lt.2 hv),
      beq_eq_false_iff_ne.2 h0, beq_eq_false_iff_ne.2 ha, bne_self_eq_false, Option.isSome_none, Bool.or_false, Bool.false_eq_true,
      not_false_eq_true]
  exact congrArg Host.Outcome.next (if_neg fits)

theorem execWeightVolumeDelete_deletes {x : Volume} (h : s.TakesMgmt r 11) (hx : Tab.get? s.host.volumes (mgIndex r) = some x) : ∃ t : State,
    execWeightVolumeDelete r s = .next t ∧ t.host.out = s.host.out ++ [replyTo r r.job 0 0 []] ∧ Tab.get? t.host.volumes (mgIndex r) = none := by
  have freed : (x.chunks.foldl (fun (s : State) (y : Nat × VChunk) => s.modSlice y.2.slice (·.free y.2.pieces)) s).host = s.host :=
    foldl_keeps (p := State.host) (f := fun (s : State) (y : Nat × VChunk) => s.modSlice y.2.slice (·.free y.2.pieces)) (fun _ _ => rfl) _ s
  have runs : execWeightVolumeDelete r s = .next (((x.chunks.foldl (fun (s : State) (y : Nat × VChunk) =>
      s.modSlice y.2.slice (·.free y.2.pieces)) s).modHost fun h => { h with volumes := Tab.erase h.volumes (mgIndex r) }).reply r 0) := by
    rw [execWeightVolumeDelete, State.onMgmt_of_takes h (by decide) (by decide)]
    simp only [hx]
  refine ⟨_, runs, ?_, ?_⟩
  · rw [State.reply_out, State.modHost_host, freed]
  · exact (Tab.get?_erase ..).trans (if_pos rfl)

theorem padTo_take {bs : List Byte} {n : Nat} (h : n ≤ bs.length) : padTo n (bs.take n) = bs.take n := by
  rw [padTo, List.length_take, Nat.min_eq_left h, Nat.sub_self, List.replicate_zero, List.append_nil]

section
variable (h : s.TakesMgmt r 12) (hlen : 64 ≤ (mgTail r).length)
include h hlen

theorem execFabricSend_sends (hi : mgIndex r < 48) :
    execFabricSend r s = .next ((s.enqueue (mgIndex r) 6 false [(mgTail r).take 56]).reply r 0) := by
  rw [execFabricSend, State.onMgmt_of_takes h (by decide) (by decide), padTo_take (by omega)]
  have port : ¬ (mgIndex r == 0xFFFF) = true := by
    rw [beq_iff_eq]
    omega
  exact congrArg Host.Outcome.next ((if_neg (Nat.not_lt.2 hlen)).trans ((if_neg port).trans (if_neg (Nat.not_le.2 hi))))

theorem execFabricSend_stores (hi : mgIndex r = 0xFFFF) (room : s.fab.store.length < 64) :
    execFabricSend r s = .next ((s.modFab fun f => { f with store := f.store ++ [(0xFFFF, (mgTail r).take 56)] }).reply r 0) := by
  rw [execFabricSend, State.onMgmt_of_takes h (by decide) (by decide), padTo_take (by omega), ← State.storeMgmt_of_room room]
  exact congrArg Host.Outcome.next ((if_neg (Nat.not_lt.2 hlen)).trans (if_pos (beq_iff_eq.2 hi)))
end

/-! ### Attestation (R255, R262) -/

theorem toBytesLE_length (n x : Nat) : (toBytesLE n x).length = n := by
  induction n generalizing x with
  | zero => rfl
  | succ n ih => rw [toBytesLE, List.length_cons, ih]

/-- A nonce stands at its place between what goes before and what follows it. -/
theorem take_drop_between {α : Type} {a b c : List α} {m n : Nat} (ha : a.length = m) (hb : b.length = n) : ((a ++ b ++ c).drop m).take n = b := by
  rw [List.append_assoc, List.drop_left' ha, List.take_left' hb]

theorem execAttest_signs (h : s.Takes r 0x0E) (hlen : 36 ≤ r.body.length)
    (hjob : fieldAt r.body 0x20 4 = 0 ∨ (s.job? (fieldAt r.body 0x20 4)).isSome) : ∃ (t : State) (b : List Byte), execAttest r s = .next t
      ∧ t.host.out = s.host.out ++ [replyTo r r.job 0 0 (b ++ Config.deviceSign b)] ∧ (b.drop 8).take 32 = r.body.take 32 := by
  have known : ¬ (fieldAt r.body 0x20 4 != 0 && (s.job? (fieldAt r.body 0x20 4)).isNone) = true := by
    rw [Bool.and_eq_true, bne_iff_ne, Option.isNone_iff_eq_none, not_and]
    intro h0
    exact Option.isSome_iff_ne_none.1 (hjob.resolve_left h0)
  rw [execAttest, State.onRecord_of_takes h (by decide)]
  refine ⟨_, _, congrArg Host.Outcome.next (if_neg known), rfl, ?_⟩
  rw [List.append_assoc _ (List.flatten _) _]
  exact take_drop_between (by rw [List.length_append, toBytesLE_length, toBytesLE_length]) (by rw [List.length_take]; omega)

/-! ### The boot image (R255, R261) -/

theorem execImage_running (h : s.Takes r 0x0F) : execImage r s = .next (s.reply r 3) := by
  rw [execImage, State.onRecord_of_takes h (by decide)]
  simp only [h.1]
  rfl

/-- The chunk of an image that comes next, whole, while the package waits for one. -/
structure State.NextChunk (s : State) (r : HostRec) : Prop where
  boot : s.pkg.boot = .recovery
  typ : r.typ = 0x0F
  len : r.len = 32 + r.body.length
  aligned : r.len % 8 = 0
  room : r.len ≤ 65536
  next : fieldAt r.body 0 4 = s.host.imgNext
  bytes : fieldAt r.body 4 4 ≤ 65480
  whole : ((r.body.drop 0x18).take (fieldAt r.body 4 4)).length = fieldAt r.body 4 4

/-- The image so far, with the chunk of this record. -/
def State.imageWith (s : State) (r : HostRec) : List Byte := s.host.imgParts ++ (r.body.drop 0x18).take (fieldAt r.body 4 4)

section
variable (h : s.NextChunk r)
include h

theorem execImage_chunk : execImage r s = .next (
    if fieldAt r.body 0x10 4 % 2 == 0 then (s.modHost fun h => { h with imgParts := s.imageWith r, imgNext := h.imgNext + 1 }).reply r 0
    else if (s.imageWith r).length != fieldAt r.body 8 8 || (s.imageWith r).length > 2 ^ 26 || !imageOk (s.imageWith r) then
      (s.modHost fun h => { h with imgParts := [], imgNext := 0 }).reply r 3
    else (s.reply r 0).modHost fun h => { h with flash := [], flashing := some (s.clock, s.imageWith r), imgParts := [], imgNext := 0 }) := by
  obtain ⟨boot, typ, len, aligned, room, next, bytes, whole⟩ := h
  have taken (f : State → State) : s.onRecord r 0x0F f = f s := by
    rw [State.onRecord, boot, typ, ← len]
    simp [aligned, Nat.not_lt.2 room, hostTypes]
  have waits : ¬ (s.pkg.boot != .recovery) = true := by simp [boot]
  have fits : ¬ (fieldAt r.body 0 4 != s.host.imgNext || decide (fieldAt r.body 4 4 > 65480)
      || ((r.body.drop 0x18).take (fieldAt r.body 4 4)).length != fieldAt r.body 4 4) = true := by
    rw [next, whole]
    simp [Nat.not_lt.2 bytes]
  rw [execImage, taken]
  exact congrArg Host.Outcome.next ((if_neg waits).trans (if_neg fits))

theorem execImage_more (hmore : fieldAt r.body 0x10 4 % 2 = 0) : execImage r s =
    .next ((s.modHost fun h => { h with imgParts := s.imageWith r, imgNext := h.imgNext + 1 }).reply r 0) := by
  rw [execImage_chunk h, if_pos (beq_iff_eq.2 hmore)]

theorem execImage_last (hlast : fieldAt r.body 0x10 4 % 2 = 1) (hlen : (s.imageWith r).length = fieldAt r.body 8 8)
    (hmax : (s.imageWith r).length ≤ 2 ^ 26) (hok : imageOk (s.imageWith r) = true) : execImage r s = .next ((s.reply r 0).modHost fun h =>
      { h with flash := [], flashing := some (s.clock, s.imageWith r), imgParts := [], imgNext := 0 }) := by
  rw [execImage_chunk h, if_neg (by rw [hlast]; decide), if_neg (by rw [← hlen, decide_eq_false (Nat.not_lt.2 hmax), hok]; simp)]
end

/-- The write of a good image ends: the package starts from it (R261). -/
theorem State.finishFlash_starts {u : State} {c : Nat} {img : List Byte} (hf : u.host.flashing = some (c, img)) (hc : c < u.clock)
    (hok : imageOk img = true) :
    u.finishFlash.host.flash = img ∧ u.finishFlash.pkg.boot = .running ∧ u.finishFlash.work.jobs = [] := by
  rw [State.finishFlash, hf]
  dsimp only
  rw [if_pos hc]
  exact ⟨rfl, if_pos hok, rfl⟩
end

/-! ### Virtio features and registers (R6, R157, R250, R259) -/

section
variable (s : State)

theorem execFeaturesOk_takes {dev : Nat} {fs : List VirtioFeature} (hdev : s.hasDevice dev = true) (hboot : dev = 0 ∨ s.pkg.boot = .running) :
    ∃ (t : State) (b : Bool), execFeaturesOk dev fs s = .next t ∧ Tab.get? t.host.featuresOk dev = some b
      ∧ (b = true ↔ .version1 ∈ fs ∧ .ringPacked ∈ fs ∧ (dev = 0 → .seqpacket ∈ fs) ∧ ∀ f ∈ fs, f ∈ offered dev) := by
  have answers : ¬ (!s.hasDevice dev || (dev != 0 && s.pkg.boot != .running)) = true := by
    rcases hboot with h0 | hrun
    · rw [hdev, h0]
      simp
    · simp [hdev, hrun]
  refine ⟨_, _, if_neg answers, Tab.get?_set_same .., ?_⟩
  simp only [Bool.and_eq_true, Bool.or_eq_true, bne_iff_ne, List.contains_iff_mem, List.all_eq_true, ne_eq, and_assoc, ← imp_iff_not_or]

theorem execFeaturesOk_absent {dev : Nat} {fs : List VirtioFeature} (h : s.hasDevice dev = false ∨ (dev ≠ 0 ∧ s.pkg.boot ≠ .running)) :
    execFeaturesOk dev fs s = .next s := by
  have silent : (!s.hasDevice dev || (dev != 0 && s.pkg.boot != .running)) = true := by
    rcases h with h | ⟨h0, hrun⟩
    · simp [h]
    · simp [h0, hrun]
  exact if_pos silent

theorem execRegisterWrite_jxfrz (x : W64) (sl : Nat) :
    ∃ t : State, execRegisterWrite (.csr sl 0x7C2) x s = .next t ∧ (t.slice sl).frz = (s.slice sl).frz &&& x :=
  ⟨s.modSlice sl fun y => { y with frz := y.frz &&& x }, rfl, by rw [State.slice_modSlice, if_pos rfl]⟩

theorem execRegisterWrite_csr (x : W64) (sl : Nat) {n : Nat} (hn : n ≠ 0x7C2) : execRegisterWrite (.csr sl n) x s = .next s :=
  congrArg Host.Outcome.next (if_neg (by simpa using hn))

theorem execRegisterWrite_indirection (x : W64) (sl dfn p : Nat) : ∃ t : State, execRegisterWrite (.indirection sl dfn p) x s = .next t
    ∧ (t.slice sl).entry (dfn * 16 + p % 16) = indirOf x :=
  ⟨_, rfl, by rw [State.slice_modSlice, if_pos rfl]; exact Tab.getD_set_same ..⟩
end

/-! ### Volumes over virtio-blk (R256) -/

section
variable {s : State} {vol : Nat} {w : Volume} (hw : Tab.get? s.host.volumes vol = some w)

/-- The chunks that a write touches. -/
def Volume.touched (w : Volume) (off : Nat) (data : List Byte) : List Nat :=
  let span := if w.lz4 then 65536 else data.length
  (List.range ((off + span + 65535) / 65536 - off / 65536)).map (off / 65536 + ·)

/-- A write that a volume takes: whole blocks within it, an LZ4 block at its place, and no chunk of it mapped. -/
structure State.TakesWrite (s : State) (vol : Nat) (w : Volume) (off : Nat) (data : List Byte) : Prop where
  some : data ≠ []
  aligned : off % 512 = 0
  within : off + (if w.lz4 then 65536 else data.length) ≤ w.capacity
  block : w.lz4 = true → off % 65536 = 0
  blocks : w.lz4 = false → data.length % 512 = 0
  free : ∀ c ∈ w.touched off data, s.chunkMapped vol c = false

include hw

theorem execVirtioBlkFlush_done : execVirtioBlkFlush vol s = .next (s.blkDone vol true []) := by
  rw [execVirtioBlkFlush, hw]
  rfl

theorem execVirtioBlkWrite_eq (off : Nat) (data : List Byte) : execVirtioBlkWrite vol off data s =
    if data.isEmpty || off % 512 != 0 || (!w.lz4 && data.length % 512 != 0) || off + (if w.lz4 then 65536 else data.length) > w.capacity
        || (w.lz4 && off % 65536 != 0) || (w.touched off data).any (s.chunkMapped vol) then .next (s.blkDone vol false [])
    else match s.volWrite w off data (w.touched off data) with
      | none => .next (s.blkDone vol false [])
      | some (s, v) => .next ((s.modHost fun h => { h with volumes := Tab.set h.volumes vol v }).blkDone vol true []) := by
  rw [execVirtioBlkWrite, hw]
  rfl

theorem execVirtioBlkWrite_takes {off : Nat} {data : List Byte} (h : s.TakesWrite vol w off data) : execVirtioBlkWrite vol off data s =
    match s.volWrite w off data (w.touched off data) with
    | none => .next (s.blkDone vol false [])
    | some (s, v) => .next ((s.modHost fun h => { h with volumes := Tab.set h.volumes vol v }).blkDone vol true []) := by
  obtain ⟨hsome, aligned, within, block, blocks, free⟩ := h
  have unmapped : (w.touched off data).any (s.chunkMapped vol) = false := by
    rw [List.any_eq_false]
    exact fun c hc => by simp [free c hc]
  rw [execVirtioBlkWrite_eq hw, if_neg]
  rw [unmapped, Bool.or_false]
  cases hz : w.lz4
  · simp only [hz, Bool.false_eq_true, if_false] at within
    simp [hsome, aligned, blocks hz, Nat.not_lt.2 within]
  · simp only [hz, if_true] at within
    simp [hsome, aligned, block hz, Nat.not_lt.2 within]

theorem execVirtioBlkWrite_mapped {off c : Nat} {data : List Byte} (hz : w.lz4 = false) (lo : off / 65536 ≤ c)
    (hi : c ≤ (off + data.length - 1) / 65536) (hm : s.chunkMapped vol c = true) (hsome : data ≠ []) :
    execVirtioBlkWrite vol off data s = .next (s.blkDone vol false []) := by
  have len := List.length_pos_iff.2 hsome
  have touched : c ∈ w.touched off data := by
    simp only [Volume.touched, hz, Bool.false_eq_true, if_false, List.mem_map, List.mem_range]
    exact ⟨c - off / 65536, by omega, by omega⟩
  rw [execVirtioBlkWrite_eq hw, if_pos]
  rw [Bool.or_eq_true]
  exact .inr (List.any_eq_true.2 ⟨c, touched, hm⟩)

theorem execVirtioBlkRead_block {off n : Nat} {s1 : State} {b : Option (List Byte)} (ho : off % 512 = 0) (hn : n % 512 = 0) (h0 : n ≠ 0)
    (one : off % 4096 + n ≤ 4096) (within : off + n ≤ w.capacity) (hb : s.volBlock w (off / 4096) = (s1, b)) :
    execVirtioBlkRead vol off n s = .next (match (generalizing := false) b with
      | some x => s1.blkDone vol true ((x.drop (off % 4096)).take n)
      | none => s1.blkDone vol false []) := by
  have taken : ¬ (off % 512 != 0 || n % 512 != 0 || decide (off + n > w.capacity)) = true := by simp [ho, hn, Nat.not_lt.2 within]
  have blocks : (off + n + 4095) / 4096 - off / 4096 = 1 := by omega
  rw [execVirtioBlkRead, hw]
  dsimp only
  rw [if_neg taken, blocks]
  simp only [List.range_one, List.foldl_cons, List.foldl_nil, Nat.add_zero, hb, List.nil_append]
  cases b with
  | none => rfl
  | some x =>
    simp
end

/-! ### The bytes of a chunk (R172, R173, R256) -/

theorem Sparse.get_append_of_lt {ν : Type} (d : ν) {m m' : List (Nat × ν)} {a : Nat} (h : ∀ p ∈ m, p.1 < a) :
    Sparse.get d (m ++ m') a = Sparse.get d m' a := by
  induction m with
  | nil => rfl
  | cons p m ih =>
    have hp : p.1 < a := h p (List.mem_cons_self ..)
    rw [List.cons_append, Sparse.get, if_neg (by omega), if_neg (by omega), ih fun q hq => h q (List.mem_cons_of_mem _ hq)]

section
variable {ν : Type} [DecidableEq ν] (d : ν)

/-- The entries of a run of values. -/
def Sparse.run (lo : Nat) (vs : List ν) : List (Nat × ν) := (vs.zipIdx lo).filterMap fun (v, k) => if v = d then none else some (k, v)

theorem Sparse.run_ge {lo : Nat} {vs : List ν} {p : Nat × ν} (hp : p ∈ Sparse.run d lo vs) : lo ≤ p.1 := by
  obtain ⟨⟨v, k⟩, hq, he⟩ := List.mem_filterMap.1 hp
  by_cases hv : v = d
  · simp [hv] at he
  · simp only [hv, if_false, Option.some.injEq] at he
    exact he ▸ (List.mem_zipIdx hq).1

theorem Sparse.get_run {lo i : Nat} {vs : List ν} {rest : List (Nat × ν)} (hrest : ∀ p ∈ rest, lo + vs.length ≤ p.1) (hi : i < vs.length) :
    Sparse.get d (Sparse.run d lo vs ++ rest) (lo + i) = vs[i] := by
  induction vs generalizing lo i with
  | nil => cases hi
  | cons v vs ih =>
    have later : ∀ p ∈ rest, lo + 1 + vs.length ≤ p.1 := fun p hp => by
      have := hrest p hp
      rw [List.length_cons] at this
      omega
    have above : ∀ p ∈ Sparse.run d (lo + 1) vs ++ rest, lo < p.1 := fun p hp => by
      rcases List.mem_append.1 hp with hp | hp
      · exact Sparse.run_ge d hp
      · have := later p hp
        omega
    have first : Sparse.run d lo (v :: vs) = (if v = d then [] else [(lo, v)]) ++ Sparse.run d (lo + 1) vs := by
      rw [Sparse.run, List.zipIdx_cons, List.filterMap_cons]
      by_cases hv : v = d
      · simp only [hv, if_true]
        rfl
      · simp only [hv, if_false]
        rfl
    rw [first, List.append_assoc]
    cases i with
    | zero =>
      by_cases hv : v = d
      · rw [if_pos hv, List.nil_append, Nat.add_zero, List.getElem_cons_zero, hv]
        exact Sparse.get_of_lt above
      · rw [if_neg hv, List.singleton_append, Sparse.get, if_neg (by omega), if_pos (by omega), List.getElem_cons_zero]
    | succ i =>
      rw [Sparse.get_append_of_lt, show lo + (i + 1) = lo + 1 + i by omega, ih later (by simpa using hi), List.getElem_cons_succ]
      intro p hp
      split at hp
      · cases hp
      · obtain rfl := List.mem_singleton.1 hp
        dsimp only
        omega

/-- A run reads back as it was written. -/
theorem Sparse.getList_putBlock (m : List (Nat × ν)) (lo : Nat) (vs : List ν) : Sparse.getList d (Sparse.putBlock d m lo vs) lo vs.length = vs := by
  refine List.ext_getElem (by simp [Sparse.getList]) fun i _ hi => ?_
  have block : Sparse.putBlock d m lo vs
      = m.filter (fun p => decide (p.1 < lo)) ++ (Sparse.run d lo vs ++ m.filter fun p => decide (lo + vs.length ≤ p.1)) :=
    List.append_assoc ..
  simp only [Sparse.getList, List.getElem_map, List.getElem_range, block]
  rw [Sparse.get_append_of_lt d fun p hp => ?_, Sparse.get_run d (fun p hp => ?_) hi]
  · simpa using (List.mem_filter.1 hp).2
  · have := (List.mem_filter.1 hp).2
    rw [decide_eq_true_eq] at this
    omega
end

/-- Of a list with its places, the one element that is kept. -/
theorem filterMap_zipIdx_single {α β : Type} {f : α × Nat → Option β} {y : β} {as : List α} {i k : Nat} (hi : i < as.length)
    (one : f (as[i], k + i) = some y) (others : ∀ a j, j ≠ k + i → f (a, j) = none) : (as.zipIdx k).filterMap f = [y] := by
  induction as generalizing i k with
  | nil => cases hi
  | cons a as ih =>
    rw [List.zipIdx_cons]
    cases i with
    | zero =>
      have here : f (a, k) = some y := one
      rw [List.filterMap_cons_some here, List.filterMap_eq_nil_iff.2]
      rintro ⟨b, j⟩ hb
      have := (List.mem_zipIdx hb).1
      exact others b j (by omega)
    | succ i =>
      have shift : k + (i + 1) = k + 1 + i := by omega
      rw [List.filterMap_cons_none (others a k (by omega))]
      rw [shift] at one others
      exact ih (Nat.lt_of_succ_lt_succ hi) one others

/-- Bytes within one piece of a chunk are one part. -/
theorem VChunk.parts_piece {c : VChunk} {i lo n : Nat} (hi : i < c.pieces.length) (hlo : 4096 * i ≤ lo) (hhi : lo + n ≤ 4096 * i + 4096)
    (hlen : lo + n ≤ c.len) (hn : n ≠ 0) : c.parts lo n = [(physKey c.slice c.pieces[i] (lo - 4096 * i), n)] := by
  refine filterMap_zipIdx_single hi ?_ fun p j hj => if_pos ?_
  · dsimp only
    have first : max lo (4096 * (0 + i)) = lo := by omega
    have last : min (lo + n) (min c.len (4096 * (0 + i) + 4096)) = lo + n := by omega
    rw [first, last, if_neg (by omega), Nat.zero_add, Nat.add_sub_cancel_left]
  · omega

theorem Tab.get?_filter_drops {κ ν : Type} [DecidableEq κ] {m : List (κ × ν)} {p : κ → Bool} {a : κ} (h : p a = true) :
    Tab.get? (m.filter fun e => !p e.1) a = none := by
  induction m with
  | nil => rfl
  | cons e m ih =>
    rw [List.filter_cons]
    split
    · next hp =>
      rw [Tab.get?, if_neg, ih]
      rintro rfl
      rw [h] at hp
      cases hp
    · exact ih

/-- What is written to a chunk within one piece is read back. -/
theorem State.chunkRead_chunkWrite (s : State) {c : VChunk} {i lo : Nat} {bs : List Byte} (hi : i < c.pieces.length) (hlo : 4096 * i ≤ lo)
    (hhi : lo + bs.length ≤ 4096 * i + 4096) (hlen : lo + bs.length ≤ c.len) (hbs : bs ≠ []) :
    ((s.chunkWrite c lo bs).chunkRead c lo bs.length).2 = some bs := by
  have len := List.length_pos_iff.2 hbs
  simp only [State.chunkWrite, State.chunkRead, VChunk.parts_piece hi hlo hhi hlen (by omega), List.foldl_cons, List.foldl_nil, List.take_length,
    List.flatMap_cons, List.flatMap_nil, List.append_nil]
  generalize physKey c.slice c.pieces[i] (lo - 4096 * i) = key
  rw [if_neg]
  · exact congrArg some (Sparse.getList_putBlock 0 s.mem key bs)
  · rw [Bool.not_eq_true, List.any_eq_false]
    intro k hk
    obtain ⟨j, hj, rfl⟩ := List.mem_map.1 hk
    rw [List.mem_range] at hj
    have fresh : (decide (key / 128 ≤ sectorOf (key + 128 * j)) && decide (sectorOf (key + 128 * j) ≤ (key + bs.length - 1) / 128)) = true := by
      rw [sectorOf, Bool.and_eq_true, decide_eq_true_eq, decide_eq_true_eq]
      omega
    simp only [State.sectorFailed, State.slice_modSlice, if_true, Slice.clearErrs, Tab.getD]
    rw [Tab.get?_filter_drops (p := fun y => decide (key / 128 ≤ y) && decide (y ≤ (key + bs.length - 1) / 128)) fresh]
    decide

/-! ### The records -/

/-- Settles O47: each record, each register and each volume by the lemma that says what it does. -/
theorem managementRecords : Obligations.ManagementRecords := by
  intro s r
  dsimp only
  refine ⟨fun h hd hi => ?sensor, fun h hd => ⟨?temperature, ?dram, ?power, ?droop, execThresholdSet_rejects h hd⟩, fun h hd => ?drain,
    fun id hid => ⟨(execDebuggerStop_spec · hid), (execResume_resumes · hid), fun k x h hk hx => execSingleStep_spec h hid hk hx⟩,
    execRaceLogRead_reads, fun h hd => ?release, fun h hi hlen => ⟨_, execCodeKeyEnrol_enrols h hi hlen, rfl, Tab.get?_set_same ..⟩,
    fun h hi hk hv h0 hal ha hnew => ⟨_, execWeightVolumeCreate_creates h hi hk hv h0 hal ha hnew, rfl, Tab.get?_set_same ..⟩,
    fun x => execWeightVolumeDelete_deletes, fun h hlen => ⟨execFabricSend_sends h hlen, fun hi room =>
      ⟨_, execFabricSend_stores h hlen hi room, rfl, rfl⟩⟩,
    fun j => execDebuggerDetach_detaches, execAttest_signs, execImage_running, ?image, rfl,
    fun dev fs => ⟨execFeaturesOk_takes s, execFeaturesOk_absent s⟩, fun x => ⟨execRegisterWrite_jxfrz s x, fun sl n => execRegisterWrite_csr s x sl,
      fun _ _ => rfl, execRegisterWrite_indirection s x⟩, fun vol w hw => ⟨execVirtioBlkFlush_done hw, ?write,
      fun off data c => execVirtioBlkWrite_mapped hw, fun off n s1 b => execVirtioBlkRead_block hw⟩,
    fun c i lo bs _ => s.chunkRead_chunkWrite⟩
  case sensor =>
    exact ⟨fun x hx => (execSensorRead_reads h hd hi).trans (by rw [hx]), fun hx => (execSensorRead_reads h hd hi).trans (by rw [hx])⟩
  case temperature =>
    exact fun hk lo hi => ⟨_, execThresholdSet_temperature h hd hk lo hi, rfl, by rw [State.reply_die, State.die_modDie_same]⟩
  case dram => exact fun hk lo hi => ⟨_, execThresholdSet_dram h hd hk lo hi, rfl, Tab.get?_set_same ..⟩
  case power => exact fun hk lo hi => ⟨_, execThresholdSet_power h hd hk lo hi, rfl, Int.toNat_of_nonneg (by omega)⟩
  case droop =>
    exact fun hk hi => ⟨_, execThresholdSet_droop h hd hk hi, rfl,
      by rw [State.reply_die, State.die_modDie_same, Tab.get?_set_same]⟩
  case drain =>
    exact ⟨_, execDieDrain_drains h hd, State.settleDrains_keeps (s.drainDie_drains r), fun gid g => State.drainDie_stops⟩
  case release =>
    exact ⟨fun hk hi => ⟨_, execMasterRelease_core h hd hk hi, State.reply_told .., by rw [State.reply_core, State.releaseMaster_core]⟩,
      fun hk => ⟨_, execMasterRelease_engine h hd hk, rfl, by rw [State.reply_pkg]; exact s.releaseMaster_engine _⟩,
      fun hk hi => ⟨_, execMasterRelease_service h hd hk hi, rfl, by rw [State.reply_slice, State.releaseMaster_service]⟩⟩
  case image =>
    intro boot typ len aligned room next bytes whole
    have chunk : s.NextChunk r := ⟨boot, typ, len, aligned, room, next, bytes, whole⟩
    exact ⟨fun hmore => ⟨_, execImage_more chunk hmore, rfl, rfl, rfl, rfl⟩, fun hlast hlen hmax hok =>
      ⟨_, execImage_last chunk hlast hlen hmax hok, rfl, rfl, rfl, rfl, fun u hf hc => State.finishFlash_starts hf hc hok⟩⟩
  case write =>
    intro off data hsome aligned within block blocks free
    have taken : s.TakesWrite vol w off data := ⟨hsome, aligned, within, block, blocks, free⟩
    refine ⟨fun s1 w1 hw1 => ⟨(s1.modHost fun h => { h with volumes := Tab.set h.volumes vol w1 }).blkDone vol true [], ?_, rfl, rfl,
      Tab.get?_set_same ..⟩, fun hnone => ?_⟩
    · refine (execVirtioBlkWrite_takes hw taken).trans ?_
      rw [Volume.touched, hw1]
    · refine (execVirtioBlkWrite_takes hw taken).trans ?_
      rw [Volume.touched, hnone]

end Sys2Proof.Machine
end

section
/-! PROOFS. Integer arithmetic words (R342 to R347): each meaning as the common form of R-format words, with its result in the terms of the
statements. -/

namespace Sys2Proof.Machine
open Arith

/-! ### Shapes, flags and types of R-format words -/

theorem pairOf_cases (t : BitVec 4) : pairOf t = 1 ∨ pairOf t = 2 := by
  unfold pairOf
  split <;> simp

/-- A flag that an R-format entry does not list is 0 (R267, R294). -/
theorem RSpec.flag_of_ok {sp : RSpec} {f : RFmt} (h : sp.ok f = true) {i : Nat} (hfs : (15 - sp.fs).testBit i = true) :
    f.f.getLsbD i = false := by
  simp only [RSpec.ok, Bool.and_eq_true, beq_iff_eq] at h
  obtain ⟨⟨⟨-, hf⟩, -⟩, -⟩ := h
  have bit := congrArg (Nat.testBit · i) hf
  rw [← BitVec.testBit_toNat]
  simpa [Nat.testBit_and, hfs] using bit

/-- The T code of an R-format word is one that its entry lists. -/
theorem RSpec.t_of_ok {sp : RSpec} {f : RFmt} (h : sp.ok f = true) : f.t.toNat ∈ sp.ts := by
  simp only [RSpec.ok, Bool.and_eq_true, List.contains_iff_mem] at h
  obtain ⟨⟨⟨⟨⟨-, ht⟩, -⟩, -⟩, -⟩, -⟩ := h
  exact ht

/-- A word with no uniform form is no uniform word. -/
theorem RSpec.u_of_ok {sp : RSpec} {f : RFmt} (h : sp.ok f = true) (hu : sp.uni = false) : f.u = false := by
  simp only [RSpec.ok, hu, Bool.false_or, Bool.and_eq_true, Bool.not_eq_true'] at h
  obtain ⟨⟨⟨⟨⟨huni, -⟩, -⟩, -⟩, -⟩, -⟩ := h
  exact huni

/-- A rule that says more of each lane's value gives one that says less. -/
theorem RRule.imp {i : Instr} {f : RFmt} {sh : RShape} {imm : W64} {P Q : Ctx → Nat → Opnds → W64 → Prop} (h : RRule i f sh imm P)
    (hPQ : WellFormed i = true → ∀ c l o x, P c l o x → Q c l o x) : RRule i f sh imm Q := by
  intro hwf s c hi hr
  obtain ⟨val, hv, hvec, huni⟩ := h hwf s c hi hr
  exact ⟨val, fun l => hPQ hwf c l _ _ (hv l), hvec, huni⟩

theorem RRule.of_wellFormed {i : Instr} {f : RFmt} {sh : RShape} {imm : W64} {P : Ctx → Nat → Opnds → W64 → Prop}
    (h : WellFormed i = true → RRule i f sh imm P) : RRule i f sh imm P := fun hwf => h hwf hwf

/-! ### The common forms of integer words -/

theorem intBinary_eq (s : State) (f : RFmt) (r : Int → Int → Int) :
    intBinary s f r = rExec s f ⟨pairOf f.t, pairOf f.t, pairOf f.t, 0⟩ f.immI fun _ _ o =>
      intResult f.t.toNat f.sat (r (operand f.t.toNat f.negA o.a) (operand f.t.toNat f.negB o.b)) := by
  simp only [intBinary, fitInt_eq, iopnd_eq]
theorem intTernary_eq (s : State) (f : RFmt) (r : Int → Int → Int → Int) :
    intTernary s f r = rExec s f ⟨pairOf f.t, pairOf f.t, pairOf f.t, pairOf f.t⟩ f.immI fun _ _ o =>
      intResult f.t.toNat f.sat
        (r (operand f.t.toNat f.negA o.a) (operand f.t.toNat f.negB o.b) (operand f.t.toNat f.flag0 o.c)) := by
  simp only [intTernary, fitInt_eq, iopnd_eq]

section
variable {i : Instr} {f : RFmt}

/-- A two-operand integer word (R342). -/
theorem rRule_intBinary (r : Int → Int → Int) (he : ∀ s, exec i s = intBinary s f r) :
    RRule i f ⟨pairOf f.t, pairOf f.t, pairOf f.t, 0⟩ f.immI fun _ _ o x =>
      x = intResult f.t.toNat f.sat (r (operand f.t.toNat f.negA o.a) (operand f.t.toNat f.negB o.b)) :=
  rRule_of_rExec (pairOf_cases f.t) (fun s => (he s).trans (intBinary_eq s f r)) fun _ _ _ _ => rfl

/-- A two-operand integer word that has no saturate flag. -/
theorem rRule_intBinary_wraps (r : Int → Int → Int) (he : ∀ s, exec i s = intBinary s f r) (hsat : WellFormed i = true → f.sat = false) :
    RRule i f ⟨pairOf f.t, pairOf f.t, pairOf f.t, 0⟩ f.immI fun _ _ o x =>
      x = intResult f.t.toNat false (r (operand f.t.toNat f.negA o.a) (operand f.t.toNat f.negB o.b)) :=
  (rRule_intBinary r he).imp fun hwf _ _ _ _ hx => hsat hwf ▸ hx

/-- A three-operand integer word. -/
theorem rRule_intTernary (r : Int → Int → Int → Int) (he : ∀ s, exec i s = intTernary s f r) :
    RRule i f ⟨pairOf f.t, pairOf f.t, pairOf f.t, pairOf f.t⟩ f.immI fun _ _ o x =>
      x = intResult f.t.toNat f.sat
        (r (operand f.t.toNat f.negA o.a) (operand f.t.toNat f.negB o.b) (operand f.t.toNat f.flag0 o.c)) :=
  rRule_of_rExec (pairOf_cases f.t) (fun s => (he s).trans (intTernary_eq s f r)) fun _ _ _ _ => rfl

end

theorem sat_of_minMax {f : RFmt} (h : RSpec.minMax.ok f = true) : f.sat = false := RSpec.flag_of_ok h (by decide)
theorem sat_of_imulh {f : RFmt} (h : WellFormed (.imulh f) = true) : f.sat = false := RSpec.flag_of_ok h (by decide)

/-- ISAD lists no flag but saturate (R344). -/
theorem isad_flags {f : RFmt} (h : WellFormed (.isad f) = true) : f.negA = false ∧ f.negB = false ∧ f.flag0 = false :=
  ⟨RSpec.flag_of_ok h (by decide), RSpec.flag_of_ok h (by decide), RSpec.flag_of_ok h (by decide)⟩

theorem execIabs_eq (f : RFmt) (s : State) : execIabs f s = rExec s f ⟨pairOf f.t, pairOf f.t, 0, 0⟩ 0 fun _ _ o =>
    intResult f.t.toNat f.sat |operand f.t.toNat false o.a| := by
  simp only [execIabs, fitInt_eq, intOf_eq, Int.natCast_natAbs]
  rfl

theorem execImadw_eq (f : RFmt) (s : State) : execImadw f s = rExec s f ⟨2, 1, 1, 2⟩ f.immI fun _ _ o =>
    intResult (if tSigned f.t.toNat then 7 else 6) f.sat (operand f.t.toNat f.negA o.a * operand f.t.toNat f.negB o.b
      + operand (if tSigned f.t.toNat then 7 else 6) f.flag0 o.c) := by
  simp only [execImadw, fitInt_eq, iopnd_eq]

/-! ### IADDC (R345) -/

/-- IADDC's sum of a lane, on the bits of the operand width. -/
theorem addcSum_eq (f : RFmt) (k : Skein) (l : Nat) (o : Opnds) : addcSum f k l o =
    (lowBits f.t.toNat o.a).toNat + (if f.flag0 then ~~~lowBits f.t.toNat o.b else lowBits f.t.toNat o.b).toNat
      + ((k.p (f.c.toNat % 8)).getLsbD l).toNat := by
  rw [addcSum, toNat_lowBits, apply_ite BitVec.toNat, BitVec.toNat_not, toNat_lowBits, Bool.toNat, Bool.cond_eq_ite]

/-- What IADDC does with its registers in place: the sums to D, then the carries to the predicate. -/
theorem execIaddc_eq {f : RFmt} {s : State} {c : Ctx} (hi : Issuing s c)
    (hr : f.regsOk ⟨pairOf f.t, pairOf f.t, pairOf f.t, 0⟩ (s.vlimit c.k) = true) {sum : Nat → Nat}
    (hsum : ∀ l, addcSum f c.k l (f.opnds ⟨pairOf f.t, pairOf f.t, pairOf f.t, 0⟩ f.immI c.k l) = sum l) :
    execIaddc f s = .next (c.completed s (((Mask.lanes (c.active f.g f.gn)).foldl (fun k l =>
        k.putD false (pairOf f.t) f.d.toNat l (BitVec.ofNat 64 (sum l % 2 ^ tBits f.t.toNat))) c.k).setPIn (f.c.toNat % 8)
      (c.active f.g f.gn) (Mask.ofLanes ((Mask.lanes (c.active f.g f.gn)).filter fun l => decide (2 ^ tBits f.t.toNat ≤ sum l))))) := by
  rw [execIaddc, withStrand_of_issuing hi]
  simp only [hr, Bool.not_true, Bool.false_eq_true, if_false, hsum]
  rfl

/-! ### The statements -/

/-- Settles O1: each word by its common form. -/
theorem integerArithmeticResults : Obligations.IntegerArithmeticResults := by
  refine ⟨fun f => ⟨rRule_intBinary (· + ·) fun _ => rfl, rRule_intBinary (· - ·) fun _ => rfl,
    rRule_intBinary_wraps min (fun _ => rfl) sat_of_minMax, rRule_intBinary_wraps max (fun _ => rfl) sat_of_minMax,
    rRule_of_rExec (pairOf_cases f.t) (execIabs_eq f) fun _ _ _ _ => rfl, ?isad⟩, fun f hwf => ?iaddc⟩
  case isad =>
    refine (rRule_intTernary (fun a b c => (a - b).natAbs + c) fun _ => rfl).imp fun hwf _ _ o x hx => ?_
    obtain ⟨hA, hB, h0⟩ := isad_flags hwf
    rw [hx, hA, hB, h0, Int.natCast_natAbs]
  case iaddc =>
    intro w n sh s c hi hr
    exact ⟨_, _, Skein.lanesWritten_putD c.k n f.d.toNat (pairOf_cases f.t) _ _, Skein.predWritten_setPIn _ _ _ _,
      execIaddc_eq hi hr fun l => addcSum_eq f c.k l _⟩

/-- Settles O2: each word by its common form; the high half is the product without its low bits. -/
theorem integerMultiplyResults : Obligations.IntegerMultiplyResults := by
  refine fun f => ⟨rRule_intBinary (· * ·) fun _ => rfl, ?high, rRule_intTernary (fun a b c => a * b + c) fun _ => rfl, ?wide⟩
  case high =>
    refine (rRule_intBinary_wraps (fun a b => a * b / (2 ^ tBits f.t.toNat : Nat)) (fun _ => rfl) sat_of_imulh).imp fun _ _ _ o x hx => ?_
    rw [hx, Int.shiftRight_eq_div_pow]
  case wide =>
    exact rRule_of_rExec (.inr rfl) (execImadw_eq f) fun _ _ _ _ => rfl

end Sys2Proof.Machine
end

section
/-! PROOFS. Bitwise words and shifts (R301, R335, R357, R365, R378, R394): what the model computes on naturals is the bit vector's own operation. -/

namespace Sys2Proof.Machine
open Arith

/-! ### Results as a register holds them (R84, R266) -/

theorem fitBits_eq (t x : Nat) : fitBits t x = extended t (BitVec.ofNat _ x) := by
  rw [fitBits, fitInt_eq, intResult, if_neg Bool.false_ne_true, BitVec.ofInt_natCast]

theorem fitBits_toNat (t : Nat) (x : W64) : fitBits t x.toNat = extended t (lowBits t x) := by
  rw [fitBits_eq, BitVec.ofNat_toNat, lowBits]

theorem lowBits_and (t : Nat) (x y : W64) : lowBits t (x &&& y) = lowBits t x &&& lowBits t y := BitVec.setWidth_and
theorem lowBits_or (t : Nat) (x y : W64) : lowBits t (x ||| y) = lowBits t x ||| lowBits t y := BitVec.setWidth_or
theorem lowBits_xor (t : Nat) (x y : W64) : lowBits t (x ^^^ y) = lowBits t x ^^^ lowBits t y := BitVec.setWidth_xor
theorem lowBits_not (t : Nat) (x : W64) : lowBits t (~~~x) = ~~~lowBits t x := BitVec.setWidth_not (tBits_le t)

/-! ### Bitwise words -/

theorem bitBinary_eq (s : State) (f : RFmt) (g : W64 → W64 → W64) :
    bitBinary s f g = rExec s f ⟨pairOf f.t, pairOf f.t, pairOf f.t, 0⟩ f.immI fun _ _ o =>
      extended f.t.toNat (lowBits f.t.toNat (g o.a o.b)) := by
  simp only [bitBinary, fitBits_toNat]

/-- A two-operand bitwise word, as an operation on the operand width. -/
theorem rRule_bitBinary {i : Instr} {f : RFmt} (g : W64 → W64 → W64) (h : W64 → W64 → BitVec (tBits f.t.toNat))
    (he : ∀ s, exec i s = bitBinary s f g) (hg : ∀ a b, lowBits f.t.toNat (g a b) = h a b) :
    RRule i f ⟨pairOf f.t, pairOf f.t, pairOf f.t, 0⟩ f.immI fun _ _ o x => x = extended f.t.toNat (h o.a o.b) :=
  rRule_of_rExec (pairOf_cases f.t) (fun s => (he s).trans (bitBinary_eq s f g)) fun _ _ _ o => by rw [hg]

/-! ### LMIX (R357) -/

theorem getLsbD_foldl_or {w : Nat} (p : Nat → Bool) (m : Nat → BitVec w) (j : Nat) (is : List Nat) (acc : BitVec w) :
    (is.foldl (fun acc i => if p i then acc ||| m i else acc) acc).getLsbD j = (acc.getLsbD j || is.any fun i => p i && (m i).getLsbD j) := by
  induction is generalizing acc with
  | nil => simp
  | cons i is ih => cases h : p i <;> simp [ih, h, Bool.or_assoc]

/-- Of the eight combinations of three bits, the one that stands is the one with their index. -/
theorem minterm_iff : ∀ (x y z : Bool), ∀ i < 8,
    ((if i % 2 == 1 then x else !x) && (if i / 2 % 2 == 1 then y else !y) && (if i / 4 == 1 then z else !z))
      = decide (i = x.toNat + 2 * y.toNat + 4 * z.toNat) := by decide

theorem getLsbD_mixBits (tt : Nat) (a b c : W64) {j : Nat} (hj : j < 64) :
    (mixBits tt a b c).getLsbD j = tt.testBit ((a.getLsbD j).toNat + 2 * (b.getLsbD j).toNat + 4 * (c.getLsbD j).toNat) := by
  have term (i : Nat) (hi : i < 8) : ((if i % 2 == 1 then a else ~~~a) &&& (if i / 2 % 2 == 1 then b else ~~~b)
      &&& (if i / 4 == 1 then c else ~~~c)).getLsbD j
        = decide (i = (a.getLsbD j).toNat + 2 * (b.getLsbD j).toNat + 4 * (c.getLsbD j).toNat) := by
    rw [← minterm_iff _ _ _ i hi, BitVec.getLsbD_and, BitVec.getLsbD_and]
    simp only [apply_ite (BitVec.getLsbD · j), BitVec.getLsbD_not, hj, decide_true, Bool.true_and]
  have bound : (a.getLsbD j).toNat + 2 * (b.getLsbD j).toNat + 4 * (c.getLsbD j).toNat < 8 := by
    have := Bool.toNat_lt (a.getLsbD j); have := Bool.toNat_lt (b.getLsbD j); have := Bool.toNat_lt (c.getLsbD j)
    omega
  have zero : (0 : W64).getLsbD j = false := BitVec.getLsbD_zero
  rw [mixBits, getLsbD_foldl_or, zero, Bool.eq_iff_iff]
  simp only [Bool.false_or, List.any_eq_true, List.mem_range, Bool.and_eq_true, Nat.testBit_eq_decide_div_mod_eq]
  constructor
  · rintro ⟨i, hi, hp, hm⟩
    rw [term i hi, decide_eq_true_eq] at hm
    simpa [hm] using hp
  · intro h
    exact ⟨_, bound, by simpa using h, by rw [term _ bound, decide_eq_true_eq]⟩

/-- The table of LMIX and PLOP is the bits of T above those of F. -/
theorem testBit_truthTable (f : RFmt) (i : Nat) : (truthTable f).testBit i = (f.t ++ f.f).getLsbD i := by
  rw [← BitVec.testBit_toNat, BitVec.toNat_append, ← Nat.shiftLeft_add_eq_or_of_lt f.f.isLt, Nat.shiftLeft_eq]
  rfl

/-! ### Shifts (R378) -/

theorem shiftWord_eq (s : State) (f : RFmt) (g : Nat → Int → Nat → Nat → Nat) :
    shiftWord s f g = rExec s f ⟨pairOf f.t, pairOf f.t, 1, 0⟩ f.immI fun _ _ o => extended f.t.toNat (BitVec.ofNat _
      (g (lowBits f.t.toNat o.a).toNat (lowBits f.t.toNat o.a).toInt (o.b.truncate 32).toNat (tBits f.t.toNat))) := by
  simp only [shiftWord, fitBits_eq, ← sextInt_eq _ (tBits_pos _), toNat_lowBits, BitVec.truncate_eq_setWidth, BitVec.toNat_setWidth]

/-- A shift, as an operation on the operand width by a count that is an unsigned 32-bit number. -/
theorem rRule_shiftWord {i : Instr} {f : RFmt} {g : Nat → Int → Nat → Nat → Nat}
    (op : BitVec (tBits f.t.toNat) → Nat → BitVec (tBits f.t.toNat)) (he : ∀ s, exec i s = shiftWord s f g)
    (hg : ∀ (a : BitVec (tBits f.t.toNat)) n, BitVec.ofNat _ (g a.toNat a.toInt n (tBits f.t.toNat)) = op a n) :
    RRule i f ⟨pairOf f.t, pairOf f.t, 1, 0⟩ f.immI fun _ _ o x =>
      x = extended f.t.toNat (op (lowBits f.t.toNat o.a) (o.b.truncate 32).toNat) :=
  rRule_of_rExec (pairOf_cases f.t) (fun s => (he s).trans (shiftWord_eq s f g)) fun _ _ _ o => by rw [hg]

/-! What SHL, SHR, SAR, ROT and FSHL compute on naturals and integers is the bit vector's shift, rotation or funnel. -/

theorem ofNat_shiftLeft {w : Nat} (a : BitVec w) (n : Nat) : BitVec.ofNat w (if n ≥ w then 0 else a.toNat * 2 ^ n) = a <<< n := by
  apply BitVec.eq_of_toNat_eq
  rw [BitVec.toNat_shiftLeft, BitVec.toNat_ofNat, Nat.shiftLeft_eq]
  split
  · next h => rw [Nat.zero_mod, Nat.mod_eq_zero_of_dvd ((Nat.pow_dvd_pow 2 h).mul_left _)]
  · rfl

theorem ofNat_ushiftRight {w : Nat} (a : BitVec w) (n : Nat) : BitVec.ofNat w (if n ≥ w then 0 else a.toNat / 2 ^ n) = a >>> n := by
  have hlt : a.toNat / 2 ^ n < 2 ^ w := (Nat.div_le_self ..).trans_lt a.isLt
  apply BitVec.eq_of_toNat_eq
  rw [BitVec.toNat_ushiftRight, BitVec.toNat_ofNat, Nat.shiftRight_eq_div_pow]
  split
  · next h => rw [Nat.zero_mod, Nat.div_eq_of_lt (a.isLt.trans_le (Nat.pow_le_pow_right two_pos h))]
  · exact Nat.mod_eq_of_lt hlt

/-- Shifted by its width less one or by more, a two's complement number is its sign. -/
theorem toInt_div_two_pow {w n : Nat} (a : BitVec w) (hn : w - 1 ≤ n) : a.toInt / (2 ^ n : Nat) = if a.toInt < 0 then -1 else 0 := by
  have hlo := BitVec.le_toInt a
  have hhi := BitVec.toInt_lt (x := a)
  have hpow : (2 : Int) ^ (w - 1) ≤ (2 ^ n : Nat) := by exact_mod_cast Nat.pow_le_pow_right two_pos hn
  split
  · rw [Int.ediv_eq_iff_of_pos (by positivity)]
    omega
  · exact Int.ediv_eq_zero_of_lt (by omega) (by omega)

theorem ofNat_sshiftRight {w : Nat} (a : BitVec w) (n : Nat) :
    BitVec.ofNat w (wrapNat w (a.toInt / (2 ^ min n (w - 1) : Nat))) = a.sshiftRight n := by
  rw [wrapNat_eq, BitVec.ofNat_toNat, BitVec.setWidth_eq, BitVec.sshiftRight, Int.shiftRight_eq_div_pow]
  congr 1
  by_cases h : n ≤ w - 1
  · rw [min_eq_left h]
  · rw [min_eq_right (by omega), toInt_div_two_pow a le_rfl, toInt_div_two_pow a (by omega)]

theorem ofNat_rotateLeft {w : Nat} (hw : 0 < w) (a : BitVec w) (n : Nat) :
    BitVec.ofNat w (a.toNat * 2 ^ (n % w) + a.toNat / 2 ^ (w - n % w)) = a.rotateLeft n := by
  have hk := Nat.mod_lt n hw
  apply BitVec.eq_of_toNat_eq
  rw [BitVec.toNat_rotateLeft, BitVec.toNat_ofNat]
  generalize n % w = k at *
  have split : 2 ^ w = 2 ^ (w - k) * 2 ^ k := by rw [← pow_add, Nat.sub_add_cancel hk.le]
  have top : a.toNat / 2 ^ (w - k) < 2 ^ k := by rw [Nat.div_lt_iff_lt_mul (by positivity), mul_comm, ← split]; exact a.isLt
  have low : a.toNat * 2 ^ k % 2 ^ w = a.toNat % 2 ^ (w - k) * 2 ^ k := by rw [split, Nat.mul_mod_mul_right]
  rw [Nat.shiftLeft_eq, Nat.shiftRight_eq_div_pow, Nat.add_mod, low, ← Nat.shiftLeft_eq, ← Nat.shiftLeft_add_eq_or_of_lt top, Nat.shiftLeft_eq,
    Nat.mod_eq_of_lt (top.trans (Nat.pow_lt_pow_right one_lt_two hk)), Nat.mod_eq_of_lt]
  calc a.toNat % 2 ^ (w - k) * 2 ^ k + a.toNat / 2 ^ (w - k)
      < (a.toNat % 2 ^ (w - k) + 1) * 2 ^ k := by rw [add_one_mul]; omega
    _ ≤ 2 ^ w := by rw [split]; exact Nat.mul_le_mul_right _ (Nat.mod_lt _ (by positivity))

/-! ### FSHL (R335) -/

theorem ofNat_funnel {w : Nat} (a c : BitVec w) (k : Nat) :
    BitVec.ofNat w ((a.toNat * 2 ^ w + c.toNat) * 2 ^ k / 2 ^ w) = ((a ++ c) <<< k).extractLsb' w w := by
  apply BitVec.eq_of_toNat_eq
  rw [BitVec.extractLsb'_toNat, BitVec.toNat_shiftLeft, BitVec.toNat_append, ← Nat.shiftLeft_add_eq_or_of_lt c.isLt, BitVec.toNat_ofNat,
    Nat.shiftLeft_eq, Nat.shiftLeft_eq, Nat.shiftRight_eq_div_pow, pow_add, Nat.mod_mul_right_div_self, Nat.mod_mod]

theorem execFshl_eq {f : RFmt} (hwf : WellFormed (.fshl f) = true) (s : State) :
    execFshl f s = rExec s f ⟨pairOf f.t, pairOf f.t, 1, pairOf f.t⟩ f.immI fun _ _ o => extended f.t.toNat
      (((lowBits f.t.toNat o.a ++ lowBits f.t.toNat o.c) <<< ((o.b.truncate 32).toNat % tBits f.t.toNat)).extractLsb'
        (tBits f.t.toNat) (tBits f.t.toNat)) := by
  have width : tBits f.t.toNat ∣ 2 ^ 32 := by
    have ht := RSpec.t_of_ok (f := f) (sp := ⟨true, [0, 6], [0], 0, .any, false⟩) hwf
    rcases List.mem_pair.1 ht with h | h <;> rw [h] <;> decide
  simp only [execFshl, fitBits_eq, ← ofNat_funnel, toNat_lowBits, BitVec.truncate_eq_setWidth, BitVec.toNat_setWidth, Nat.mod_mod_of_dvd _ width]

theorem execLmix_eq (f : RFmt) (s : State) : execLmix f s = rExec s f ⟨1, 1, 1, 1⟩ f.immI fun _ _ o => mixBits (truthTable f) o.a o.b o.c := rfl

/-! ### The statement -/

theorem execNot_eq (f : RFmt) (s : State) : execNot f s = rExec s f ⟨pairOf f.t, pairOf f.t, 0, 0⟩ 0 fun _ _ o =>
    extended f.t.toNat (~~~lowBits f.t.toNat o.a) := by
  simp only [execNot, fitBits_toNat, lowBits_not]

/-- Settles O3: each word as the bit vector's own operation on the operand width. -/
theorem bitwiseResults : Obligations.BitwiseResults := by
  refine fun f => ⟨rRule_bitBinary (fun a b => a &&& b) (fun a b => lowBits _ a &&& lowBits _ b) (fun _ => rfl) (lowBits_and _),
    rRule_bitBinary (fun a b => a &&& ~~~b) (fun a b => lowBits _ a &&& ~~~lowBits _ b) (fun _ => rfl) fun a b => by
      rw [lowBits_and, lowBits_not],
    rRule_bitBinary (fun a b => a ||| b) (fun a b => lowBits _ a ||| lowBits _ b) (fun _ => rfl) (lowBits_or _),
    rRule_bitBinary (fun a b => a ^^^ b) (fun a b => lowBits _ a ^^^ lowBits _ b) (fun _ => rfl) (lowBits_xor _),
    rRule_of_rExec (pairOf_cases f.t) (execNot_eq f) fun _ _ _ _ => rfl,
    ?mix,
    rRule_shiftWord (· <<< ·) (fun s => (rfl : exec _ s = execShl f s)) ofNat_shiftLeft,
    rRule_shiftWord (· >>> ·) (fun s => (rfl : exec _ s = execShr f s)) ofNat_ushiftRight,
    rRule_shiftWord BitVec.sshiftRight (fun s => (rfl : exec _ s = execSar f s)) ofNat_sshiftRight,
    rRule_shiftWord BitVec.rotateLeft (fun s => (rfl : exec _ s = execRot f s)) (ofNat_rotateLeft (tBits_pos _)), ?funnel⟩
  case mix =>
    refine rRule_of_rExec (.inl rfl) (execLmix_eq f) fun _ _ _ o => ?_
    intro i hi
    rw [getLsbD_mixBits _ _ _ _ (by split at hi <;> omega), testBit_truthTable]
  case funnel =>
    exact .of_wellFormed fun hwf => rRule_of_rExec (pairOf_cases f.t) (execFshl_eq hwf) fun _ _ _ _ => rfl

end Sys2Proof.Machine
end

section
/-! PROOFS. Bit fields, counts, bit reversal and byte selection (R307, R309, R371, R373), bit by bit. -/

namespace Sys2Proof.Machine
open Arith

theorem getLsbD_extended (t : Nat) (y : BitVec (tBits t)) {i : Nat} (hi : i < tBits t) : (extended t y).getLsbD i = y.getLsbD i := by
  have h64 : i < 64 := hi.trans_le (tBits_le t)
  rw [extended]
  split
  · rw [BitVec.getLsbD_signExtend, if_pos hi, decide_eq_true h64, Bool.true_and]
  · rw [BitVec.getLsbD_setWidth, decide_eq_true h64, Bool.true_and]

theorem getLsbD_fitBits (t x : Nat) {i : Nat} (hi : i < tBits t) : (fitBits t x).getLsbD i = x.testBit i := by
  rw [fitBits_eq, getLsbD_extended t _ hi, BitVec.getLsbD_ofNat, decide_eq_true hi, Bool.true_and]

theorem testBit_lowBits (t : Nat) (x : W64) (i : Nat) : (x.toNat % 2 ^ tBits t).testBit i = (lowBits t x).getLsbD i := by
  rw [← toNat_lowBits, BitVec.testBit_toNat]

/-! ### Bit fields (R307) -/

theorem fieldPos_eq (w : Nat) (b : W64) : fieldPos w b = min (b.truncate 8).toNat w := by
  rw [fieldPos, BitVec.truncate_eq_setWidth, BitVec.toNat_setWidth]
theorem fieldLen_eq (w : Nat) (b : W64) : fieldLen w b = min ((b >>> 8).truncate 8).toNat (w - fieldPos w b) := by
  rw [fieldLen, BitVec.truncate_eq_setWidth, BitVec.toNat_setWidth, BitVec.toNat_ushiftRight, Nat.shiftRight_eq_div_pow]

/-- The bits of a field read as two's complement: its own below its length, then its sign. -/
theorem getLsbD_fitInt_sextInt (t pos len : Nat) (y : BitVec (tBits t)) (hlen : 0 < len) {i : Nat} (hi : i < tBits t) :
    (fitInt t false (sextInt len (y.toNat / 2 ^ pos % 2 ^ len))).getLsbD i = y.getLsbD (if i < len then pos + i else pos + len - 1) := by
  have field : y.toNat / 2 ^ pos % 2 ^ len = (y.extractLsb' pos len).toNat := by
    rw [BitVec.extractLsb'_toNat, Nat.shiftRight_eq_div_pow]
  rw [field, sextInt_eq len hlen, fitInt_eq, intResult, if_neg Bool.false_ne_true, getLsbD_extended t _ hi, ← BitVec.signExtend,
    BitVec.getLsbD_signExtend, decide_eq_true hi, Bool.true_and]
  split
  · next h => rw [BitVec.getLsbD_extractLsb', decide_eq_true h, Bool.true_and]
  · rw [BitVec.msb_eq_getLsbD_last, BitVec.getLsbD_extractLsb', decide_eq_true (by omega), Bool.true_and, Nat.add_sub_assoc hlen]

/-- What BFE gives a lane. -/
def bfeVal (t : Nat) (o : Opnds) : W64 :=
  let x := o.a.toNat % 2 ^ tBits t / 2 ^ fieldPos (tBits t) o.b % 2 ^ fieldLen (tBits t) o.b
  if tSigned t && fieldLen (tBits t) o.b > 0 then fitInt t false (sextInt (fieldLen (tBits t) o.b) x) else fitBits t x

theorem execBfe_eq (f : RFmt) (s : State) :
    execBfe f s = rExec s f ⟨pairOf f.t, pairOf f.t, pairOf f.t, 0⟩ 0 fun _ _ o => bfeVal f.t.toNat o := rfl

/-- A bit of BFE's result: of the field below its length, and of its sign above where T is signed. -/
theorem getLsbD_bfeVal (t : Nat) (o : Opnds) {i : Nat} (hi : i < tBits t) : (bfeVal t o).getLsbD i =
    if i < fieldLen (tBits t) o.b then (lowBits t o.a).getLsbD (fieldPos (tBits t) o.b + i)
    else tSigned t && decide (0 < fieldLen (tBits t) o.b) && (lowBits t o.a).getLsbD (fieldPos (tBits t) o.b + fieldLen (tBits t) o.b - 1) := by
  rw [bfeVal]
  by_cases h : (tSigned t && decide (0 < fieldLen (tBits t) o.b)) = true
  · have hlen : 0 < fieldLen (tBits t) o.b := by simpa using (Bool.and_eq_true_iff.1 h).2
    rw [if_pos h, h, Bool.true_and, ← toNat_lowBits, getLsbD_fitInt_sextInt t _ _ _ hlen hi]
    split <;> rfl
  · rw [if_neg h, Bool.eq_false_iff.2 h, Bool.false_and, getLsbD_fitBits t _ hi, Nat.testBit_mod_two_pow, Nat.testBit_div_two_pow,
      testBit_lowBits, Nat.add_comm]
    split <;> simp [*]

/-- What BFI gives a lane. -/
def bfiVal (t : Nat) (o : Opnds) : W64 :=
  let m := BitVec.ofNat 64 ((2 ^ fieldLen (tBits t) o.b - 1) * 2 ^ fieldPos (tBits t) o.b)
  fitBits t ((o.a &&& ~~~m) ||| ((o.c <<< fieldPos (tBits t) o.b) &&& m)).toNat

theorem execBfi_eq (f : RFmt) (s : State) :
    execBfi f s = rExec s f ⟨pairOf f.t, pairOf f.t, pairOf f.t, pairOf f.t⟩ 0 fun _ _ o => bfiVal f.t.toNat o := rfl

/-- A mask of `len` bits from `pos`. -/
theorem getLsbD_fieldMask {w pos len i : Nat} (hi : i < w) :
    (BitVec.ofNat w ((2 ^ len - 1) * 2 ^ pos)).getLsbD i = decide (pos ≤ i ∧ i < pos + len) := by
  rw [BitVec.getLsbD_ofNat, Nat.testBit_mul_two_pow, Nat.testBit_two_pow_sub_one, decide_eq_true hi, Bool.true_and, Bool.decide_and]
  by_cases h : pos ≤ i
  · rw [decide_eq_decide.2 (show i - pos < len ↔ i < pos + len by omega)]
  · simp [h]

/-- A bit of BFI's result: of C within the field, else of A. -/
theorem getLsbD_bfiVal (t : Nat) (o : Opnds) {i : Nat} (hi : i < tBits t) : (bfiVal t o).getLsbD i =
    if fieldPos (tBits t) o.b ≤ i ∧ i < fieldPos (tBits t) o.b + fieldLen (tBits t) o.b
    then (lowBits t o.c).getLsbD (i - fieldPos (tBits t) o.b) else (lowBits t o.a).getLsbD i := by
  have h64 : i < 64 := hi.trans_le (tBits_le t)
  have low (x : W64) {j : Nat} (hj : j < tBits t) : (lowBits t x).getLsbD j = x.getLsbD j := by
    rw [lowBits, BitVec.getLsbD_setWidth, decide_eq_true hj, Bool.true_and]
  rw [bfiVal, getLsbD_fitBits t _ hi, BitVec.testBit_toNat, BitVec.getLsbD_or, BitVec.getLsbD_and, BitVec.getLsbD_and, BitVec.getLsbD_not,
    getLsbD_fieldMask h64, BitVec.getLsbD_shiftLeft, low o.a hi, low o.c (by omega)]
  by_cases h : fieldPos (tBits t) o.b ≤ i ∧ i < fieldPos (tBits t) o.b + fieldLen (tBits t) o.b
  · simp [h, h64, h.1.not_gt]
  · rw [if_neg h, decide_eq_false h]
    simp [h64]

/-! ### Counts and reversal (R309, R371) -/

theorem popCount_eq (w x : Nat) : popCount w x = ((List.range w).filter x.testBit).length := by
  induction w generalizing x with
  | zero => rfl
  | succ w ih =>
    rw [popCount, ih, List.range_succ_eq_map, List.filter_cons, List.filter_map, Nat.testBit_zero]
    have shift : x.testBit ∘ Nat.succ = (x / 2).testBit := funext fun i => Nat.testBit_succ x i
    rw [shift]
    rcases Nat.mod_two_eq_zero_or_one x with h | h <;> simp [h, Nat.add_comm]

theorem popCount_le (w x : Nat) : popCount w x ≤ w := by
  rw [popCount_eq]
  exact (List.length_filter_le ..).trans_eq List.length_range

theorem reverseBits_lt (w x : Nat) : reverseBits w x < 2 ^ w := by
  induction w generalizing x with
  | zero => exact Nat.one_pos
  | succ w ih =>
    have := ih (x / 2)
    have : x % 2 * 2 ^ w ≤ 2 ^ w := Nat.mul_le_of_le_div _ _ _ (by rw [Nat.div_self (by positivity)]; omega)
    rw [reverseBits, pow_succ]
    omega

theorem testBit_reverseBits (w x : Nat) {i : Nat} (hi : i < w) : (reverseBits w x).testBit i = x.testBit (w - 1 - i) := by
  induction w generalizing x i with
  | zero => omega
  | succ w ih =>
    rw [reverseBits, mul_comm, Nat.testBit_two_pow_mul_add _ (reverseBits_lt ..)]
    split
    · next h => rw [ih (x / 2) h, ← Nat.testBit_succ, show (w - 1 - i).succ = w + 1 - 1 - i by omega]
    · rw [show i - w = 0 by omega, show w + 1 - 1 - i = 0 by omega, Nat.testBit_zero, Nat.testBit_zero, Nat.mod_mod]

theorem ofNat_reverseBits {w : Nat} (x : BitVec w) : BitVec.ofNat w (reverseBits w x.toNat) = x.reverse := by
  apply BitVec.eq_of_getLsbD_eq
  intro i hi
  rw [BitVec.getLsbD_ofNat, testBit_reverseBits _ _ hi, BitVec.getLsbD_reverse, BitVec.getMsbD, BitVec.testBit_toNat]

theorem leadingZeros_le (w x : Nat) : leadingZeros w x ≤ w := by
  rw [leadingZeros]
  split <;> omega

/-- The bits above the count are 0, and where the count is below the width the next one is 1. -/
theorem leadingZeros_spec {w x : Nat} (hx : x < 2 ^ w) :
    (∀ i < leadingZeros w x, x.testBit (w - 1 - i) = false) ∧ (leadingZeros w x < w → x.testBit (w - 1 - leadingZeros w x) = true) := by
  rw [leadingZeros]
  by_cases h : x = 0
  · simp [h]
  · have hlog : x.log2 < w := (Nat.log2_lt h).2 hx
    rw [if_neg (by simpa using h)]
    refine ⟨fun i hi => Nat.testBit_lt_two_pow ((Nat.log2_lt h).1 (by omega)), fun _ => ?_⟩
    rw [show w - 1 - (w - 1 - x.log2) = x.log2 by omega]
    exact Nat.testBit_log2 h

/-! ### RBYTE (R373) -/

/-- Each byte of a list, in the number that the list stands for (R4). -/
theorem ofBytesLE_byte (bs : List Byte) (i : Nat) : ofBytesLE bs / 2 ^ (8 * i) % 256 = (bs.getD i 0).toNat := by
  induction bs generalizing i with
  | nil => simp [ofBytesLE]
  | cons b bs ih =>
    have hb := b.isLt
    cases i with
    | zero => simp [ofBytesLE]; omega
    | succ i =>
      have rest : (b.toNat + 256 * ofBytesLE bs) / 2 ^ (8 * 1) = ofBytesLE bs := by omega
      rw [ofBytesLE, mul_add, add_comm (8 * i), pow_add, ← Nat.div_div_eq_div_mul, rest, ih, List.getD_cons_succ]

/-- One result byte: the byte of the pool that the selector names, 0, its sign, or its complement. -/
theorem ofNat_byteSel (pool : W64) (sel : Byte) : BitVec.ofNat 8 (byteSel pool.toNat sel.toNat) =
    let y : Byte := (pool >>> (8 * (sel.toNat % 8))).truncate 8
    if sel.toNat / 8 % 4 = 0 then y else if sel.toNat / 8 % 4 = 1 then 0
    else if sel.toNat / 8 % 4 = 2 then (if y.msb then 0xFF#8 else 0#8) else ~~~y := by
  have hy : pool.toNat / 2 ^ (8 * (sel.toNat % 8)) % 256 = ((pool >>> (8 * (sel.toNat % 8))).truncate 8 : Byte).toNat := by
    rw [BitVec.truncate_eq_setWidth, BitVec.toNat_setWidth, BitVec.toNat_ushiftRight, Nat.shiftRight_eq_div_pow]
  rw [byteSel, hy]
  generalize ((pool >>> (8 * (sel.toNat % 8))).truncate 8 : Byte) = y
  have hsel := Nat.mod_lt (sel.toNat / 8) (show 0 < 4 by decide)
  generalize sel.toNat / 8 % 4 = n at *
  interval_cases n
  · simp
  · simp
  · simp [BitVec.msb_eq_decide, apply_ite (BitVec.ofNat 8)]
  · apply BitVec.eq_of_toNat_eq
    have := y.isLt
    simp [BitVec.toNat_not]
    omega

/-- What RBYTE gives a lane. -/
def rbyteVal (o : Opnds) : W64 :=
  BitVec.ofNat 64 (ofBytesLE ((List.range 4).map fun i =>
    BitVec.ofNat 8 (byteSel ((o.c.toNat % 2 ^ 32) * 2 ^ 32 + o.a.toNat % 2 ^ 32) (o.b.toNat / 2 ^ (8 * i) % 256))))

theorem execRbyte_eq (f : RFmt) (s : State) : execRbyte f s = rExec s f ⟨1, 1, 1, 1⟩ f.immI fun _ _ o => rbyteVal o := rfl

/-- A byte of RBYTE's result is the one that its own selector picks from C and A. -/
theorem byte_rbyteVal (o : Opnds) {i : Nat} (hi : i < 4) : ((rbyteVal o) >>> (8 * i)).truncate 8 =
    BitVec.ofNat 8 (byteSel ((o.c.truncate 32 : W32) ++ (o.a.truncate 32 : W32)).toNat ((o.b >>> (8 * i)).truncate 8 : Byte).toNat) := by
  have pool : ((o.c.truncate 32 : W32) ++ (o.a.truncate 32 : W32)).toNat = (o.c.toNat % 2 ^ 32) * 2 ^ 32 + o.a.toNat % 2 ^ 32 := by
    rw [BitVec.toNat_append, ← Nat.shiftLeft_add_eq_or_of_lt (BitVec.isLt _), Nat.shiftLeft_eq, BitVec.truncate_eq_setWidth, BitVec.toNat_setWidth,
      BitVec.truncate_eq_setWidth, BitVec.toNat_setWidth]
  have sel : ((o.b >>> (8 * i)).truncate 8 : Byte).toNat = o.b.toNat / 2 ^ (8 * i) % 256 := by
    rw [BitVec.truncate_eq_setWidth, BitVec.toNat_setWidth, BitVec.toNat_ushiftRight, Nat.shiftRight_eq_div_pow]
  rw [pool, sel]
  apply BitVec.eq_of_toNat_eq
  rw [BitVec.truncate_eq_setWidth, BitVec.toNat_setWidth, BitVec.toNat_ushiftRight, Nat.shiftRight_eq_div_pow, rbyteVal, BitVec.toNat_ofNat,
    Nat.mod_eq_of_lt ((ofBytesLE_lt _).trans (by simp)), ofBytesLE_byte, List.getD_eq_getElem _ _ (by simpa using hi), List.getElem_map,
    List.getElem_range]

/-! ### The statement -/

theorem execPopc_eq (f : RFmt) (s : State) : execPopc f s = rExec s f ⟨1, pairOf f.t, 0, 0⟩ 0 fun _ _ o =>
    BitVec.ofNat 64 (popCount (tBits f.t.toNat) (lowBits f.t.toNat o.a).toNat) := by
  simp only [execPopc, toNat_lowBits]
theorem execClz_eq (f : RFmt) (s : State) : execClz f s = rExec s f ⟨1, pairOf f.t, 0, 0⟩ 0 fun _ _ o =>
    BitVec.ofNat 64 (leadingZeros (tBits f.t.toNat) (lowBits f.t.toNat o.a).toNat) := by
  simp only [execClz, toNat_lowBits]
theorem execBrev_eq (f : RFmt) (s : State) : execBrev f s = rExec s f ⟨pairOf f.t, pairOf f.t, 0, 0⟩ 0 fun _ _ o =>
    extended f.t.toNat (lowBits f.t.toNat o.a).reverse := by
  simp only [execBrev, fitBits_eq, ← ofNat_reverseBits, toNat_lowBits]

/-- A count of bits is what its register holds. -/
theorem toNat_ofNat_count (t : Nat) {n : Nat} (h : n ≤ tBits t) : (BitVec.ofNat 64 n).toNat = n := by
  rw [BitVec.toNat_ofNat, Nat.mod_eq_of_lt]
  have := tBits_le t
  omega

/-- Settles O4: each word by what it gives a lane, bit by bit. -/
theorem bitFieldResults : Obligations.BitFieldResults := by
  refine fun f => ⟨rRule_of_rExec (pairOf_cases f.t) (execBfe_eq f) fun _ _ _ o => ?bfe,
    rRule_of_rExec (pairOf_cases f.t) (execBfi_eq f) fun _ _ _ o => ?bfi,
    rRule_of_rExec (.inl rfl) (execPopc_eq f) fun _ _ _ o => ?popc, rRule_of_rExec (.inl rfl) (execClz_eq f) fun _ _ _ o => ?clz,
    rRule_of_rExec (pairOf_cases f.t) (execBrev_eq f) fun _ _ _ _ => rfl, rRule_of_rExec (.inl rfl) (execRbyte_eq f) fun _ _ _ o => ?rbyte⟩
  case bfe =>
    intro y i hi
    rw [getLsbD_bfeVal _ o hi, fieldLen_eq, fieldPos_eq]
  case bfi =>
    intro i hi
    rw [getLsbD_bfiVal _ o hi, fieldLen_eq, fieldPos_eq]
  case popc =>
    rw [toNat_ofNat_count _ (popCount_le ..), popCount_eq]
    rfl
  case clz =>
    rw [toNat_ofNat_count _ (leadingZeros_le ..)]
    exact ⟨leadingZeros_le .., leadingZeros_spec (BitVec.isLt _)⟩
  case rbyte =>
    exact fun i hi => (byte_rbyteVal o hi).trans (ofNat_byteSel _ _)

end Sys2Proof.Machine
end

section
/-! PROOFS. Predicate words (R305, R369, R370, R390). -/

namespace Sys2Proof.Machine
open Arith

/-! ### PLOP and PMOV (R369, R370) -/

theorem execPlop_eq (f : RFmt) (s : State) : execPlop f s = pExec s f ⟨0, 0, 0, 0⟩ 0 (f.d.toNat % 8) fun c l _ =>
    (f.t ++ f.f).getLsbD (((c.k.p f.c.toNat).getLsbD l).toNat + 2 * ((c.k.p f.b.toNat).getLsbD l).toNat
      + 4 * ((c.k.p f.a.toNat).getLsbD l).toNat) := by
  have index (x y z : Nat) : (truthTable f / 2 ^ (4 * x + 2 * y + z) % 2 == 1) = (f.t ++ f.f).getLsbD (z + 2 * y + 4 * x) := by
    rw [← testBit_truthTable, Nat.testBit_eq_decide_div_mod_eq, show 4 * x + 2 * y + z = z + 2 * y + 4 * x by omega]
    rfl
  simp only [execPlop, index, Bool.toNat, Bool.cond_eq_ite]

/-- A sum of the powers of two at which bits stand has those bits. -/
theorem testBit_sum_two_pow (q : Nat → Bool) (n : Nat) :
    (List.range n).foldl (fun x i => if q i then x + 2 ^ i else x) 0 < 2 ^ n
      ∧ ∀ i, ((List.range n).foldl (fun x i => if q i then x + 2 ^ i else x) 0).testBit i = (decide (i < n) && q i) := by
  induction n with
  | zero => simp
  | succ n ih =>
    obtain ⟨lt, bits⟩ := ih
    rw [List.range_succ, List.foldl_append, List.foldl_cons, List.foldl_nil]
    generalize (List.range n).foldl (fun x i => if q i then x + 2 ^ i else x) 0 = x at *
    have add : (if q n = true then x + 2 ^ n else x) = 2 ^ n * (q n).toNat + x := by cases q n <;> simp [Nat.add_comm]
    rw [add]
    refine ⟨?_, fun i => ?_⟩
    · have := Nat.mul_le_mul_left (2 ^ n) (Bool.toNat_le (q n))
      rw [pow_succ]
      omega
    · rw [Nat.testBit_two_pow_mul_add _ lt, bits]
      rcases lt_trichotomy i n with h | rfl | h
      · rw [if_pos h, decide_eq_true h, decide_eq_true (h.trans n.lt_succ_self)]
      · cases q i <;> simp
      · rw [if_neg h.not_gt, decide_eq_false (by omega), Bool.false_and, Nat.testBit_lt_two_pow]
        exact (Bool.toNat_lt _).trans_le (Nat.le_self_pow (by omega) 2)

theorem getLsbD_predBits (k : Skein) (l : Nat) {i : Nat} (hi : i < 64) :
    (BitVec.ofNat 64 (predBits k l)).getLsbD i = (decide (i < 7) && (k.p i).getLsbD l) := by
  rw [BitVec.getLsbD_ofNat, decide_eq_true hi, Bool.true_and]
  exact (testBit_sum_two_pow (fun i => (k.p i).getLsbD l) 7).2 i

theorem execPmov_register {f : RFmt} (h0 : f.flag0 = false) (s : State) : exec (.pmov f) s = rExec s f ⟨1, 0, 0, 0⟩ 0 fun c l _ =>
    BitVec.ofNat 64 (predBits c.k l) := by
  change execPmov f s = _
  rw [execPmov, h0, if_neg Bool.false_ne_true]

/-- The skein with the predicates that `which` names, below `n`, taken in the lanes of `act` from the bits of a register. -/
def Skein.takePreds (k : Skein) (which : BitVec 9) (act : Mask) (bit : Nat → Nat → Bool) (n : Nat) : Skein :=
  (List.range n).foldl (fun k i =>
    if which.getLsbD i then k.setPIn i act (Mask.ofLanes ((Mask.lanes act).filter (bit i))) else k) k

/-- Each named predicate takes its bit in the lanes of `act`, and nothing else changes. -/
theorem Skein.p_takePreds (k : Skein) (which : BitVec 9) (act : Mask) (bit : Nat → Nat → Bool) {n : Nat} (hn : n ≤ 7) :
    k.takePreds which act bit n = { k with preds := (k.takePreds which act bit n).preds }
      ∧ ∀ l, l < 32 → ∀ i, ((k.takePreds which act bit n).p i).getLsbD l =
        if act.getLsbD l = true ∧ i < n ∧ which.getLsbD i = true then bit i l else (k.p i).getLsbD l := by
  induction n with
  | zero => exact ⟨rfl, by simp [takePreds]⟩
  | succ n ih =>
    obtain ⟨rest, bits⟩ := ih (by omega)
    have last : k.takePreds which act bit (n + 1) = if which.getLsbD n then (k.takePreds which act bit n).setPIn n act
        (Mask.ofLanes ((Mask.lanes act).filter (bit n))) else k.takePreds which act bit n := by
      rw [takePreds, List.range_succ, List.foldl_append]
      rfl
    rw [last]
    by_cases h : which.getLsbD n = true
    · obtain ⟨rest', bits'⟩ := (k.takePreds which act bit n).predWritten_setPIn n act (bit n)
      rw [if_pos h]
      refine ⟨by rw [rest', rest], fun l hl i => ?_⟩
      rw [bits' l hl, bits l hl]
      by_cases hi : i = n
      · subst hi
        simp [h, show i ≠ 7 by omega]
      · simp [hi, show i < n + 1 ↔ i < n by omega]
    · rw [if_neg h]
      refine ⟨rest, fun l hl i => ?_⟩
      rw [bits l hl]
      by_cases hi : i = n
      · subst hi
        simp [h]
      · simp [show i < n + 1 ↔ i < n by omega]

theorem execPmov_predicates {f : RFmt} {s : State} {c : Ctx} (h0 : f.flag0 = true) (hi : Issuing s c)
    (hr : vregOk (s.vlimit c.k) f.a.toNat 1 = true) : exec (.pmov f) s =
      .next (c.completed s (c.k.takePreds f.c (c.active f.g f.gn) (fun i l => (c.k.v f.a.toNat l).getLsbD i) 7)) := by
  change execPmov f s = _
  rw [execPmov, h0, if_pos rfl, withStrand_of_issuing hi, hr]
  rfl

/-! ### Masks under a test and in a half (R79) -/

/-- The lanes of a mask where the predicate of A holds, inverted by F[2]. -/
theorem getLsbD_testMask (f : RFmt) (k : Skein) (m : Mask) {j : Nat} (hj : j < 32) : (testMask f k m).getLsbD j =
    (m.getLsbD j && xor ((k.p (f.a.toNat % 8)).getLsbD j) f.negA) := by
  rw [testMask, BitVec.getLsbD_and]
  cases f.negA <;> simp [hj]

/-- A mask as a lane sees it: under H16 its own half's bits in [15:0]. -/
theorem getLsbD_halfBits (h : Bool) {l : Nat} (hl : l < 32) (m : Mask) {i : Nat} (hi : i < 32) : (halfBits h l m).getLsbD i =
    ((!h || decide (i < 16)) && m.getLsbD (if h then l / 16 * 16 + i else i)) := by
  cases h
  · simp [halfBits]
  · have mask : (0xFFFF : Mask).getLsbD i = decide (i < 16) := by interval_cases i <;> rfl
    by_cases h16 : l < 16
    · have : l / 16 = 0 := by omega
      simp only [halfBits, h16, this, Bool.not_true, Bool.false_eq_true, if_false, if_true, BitVec.getLsbD_and, mask, zero_mul, zero_add,
        Bool.false_or]
      exact Bool.and_comm ..
    · have : l / 16 = 1 := by omega
      simp only [halfBits, h16, this, Bool.not_true, Bool.false_eq_true, if_false, if_true, BitVec.getLsbD_ushiftRight, one_mul, Bool.false_or]
      by_cases hi16 : i < 16
      · simp [hi16]
      · simp [hi16, BitVec.getLsbD_of_ge m (16 + i) (by omega)]

/-- The lanes of a lane's own half. -/
theorem getLsbD_halfMask (h : Bool) {l : Nat} (hl : l < 32) {j : Nat} (hj : j < 32) :
    (halfMask h l).getLsbD j = true ↔ h = false ∨ l / 16 = j / 16 := by
  have ones : (0xFFFFFFFF : Mask).getLsbD j = true := by interval_cases j <;> rfl
  have low : (0xFFFF : Mask).getLsbD j = decide (j < 16) := by interval_cases j <;> rfl
  have high : (0xFFFF0000 : Mask).getLsbD j = decide (16 ≤ j) := by interval_cases j <;> rfl
  cases h
  · simpa [halfMask] using ones
  · by_cases h16 : l < 16
    · simp only [halfMask, h16, Bool.not_true, Bool.false_eq_true, if_false, if_true, low, decide_eq_true_eq, Bool.true_eq_false, false_or]
      omega
    · simp only [halfMask, h16, Bool.not_true, Bool.false_eq_true, if_false, high, decide_eq_true_eq, Bool.true_eq_false, false_or]
      omega

/-! ### BALLOT (R305) -/

theorem execBallot_vector {f : RFmt} {s : State} {c : Ctx} (hi : Issuing s c) (hr : f.regsOk ⟨1, 0, 0, 0⟩ (s.vlimit c.k) = true)
    (hu : f.u = false) : exec (.ballot f) s = .next (c.completed s ((Mask.lanes (c.active f.g f.gn)).foldl (fun k l => k.putD false 1 f.d.toNat l
      ((halfBits (s.h16 c.k) l (testMask f c.k (c.active f.g f.gn))).zeroExtend 64)) c.k)) := by
  change execBallot f s = _
  have put (k : Skein) (r l : Nat) (x : W32) : k.setV r l x = k.putD false 1 r l (x.zeroExtend 64) := by
    simp [Skein.putD, Skein.setVw]
  rw [execBallot, withStrand_of_issuing hi, hr, hu]
  simp only [put]
  rfl

theorem execBallot_uniform {f : RFmt} {s : State} {c : Ctx} (hi : Issuing s c) (hr : f.regsOk ⟨1, 0, 0, 0⟩ (s.vlimit c.k) = true)
    (hu : f.u = true) : exec (.ballot f) s = .next (c.completed s
      (if c.acts f.g f.gn then c.k.setS f.d.toNat ((testMask f c.k c.x.mask).zeroExtend 64) else c.k)) := by
  change execBallot f s = _
  rw [execBallot, withStrand_of_issuing hi, hr, hu]
  by_cases h : c.acts f.g f.gn = true
  · simp only [h]
    rfl
  · simp only [h]
    exact Ctx.skip_eq hi

/-! ### VCHK (R390) -/

/-- What VCHK's mode says of the lanes of `src`. -/
def VchkHolds (mode : Nat) (holds : Nat → Bool) (src : Nat → Prop) : Prop :=
  match mode with
  | 0 => ∀ j, j < 32 → src j → holds j = true
  | 1 => ∃ j, j < 32 ∧ src j ∧ holds j = true
  | 2 => (∀ j, j < 32 → src j → holds j = true) ∨ (∀ j, j < 32 → src j → holds j = false)
  | _ => ∀ j, j < 32 → src j → holds j = false

section
variable {f : RFmt} {k : Skein} {src : Mask} {P : Nat → Prop} (hP : ∀ j, j < 32 → (src.getLsbD j = true ↔ P j))
include hP

theorem testMask_eq_self_iff : testMask f k src = src ↔ ∀ j, j < 32 → P j → xor ((k.p (f.a.toNat % 8)).getLsbD j) f.negA = true := by
  constructor
  · intro h j hj hp
    have bit := getLsbD_testMask f k src hj
    rw [h, (hP j hj).2 hp, Bool.true_and] at bit
    exact bit.symm
  · intro h
    apply BitVec.eq_of_getLsbD_eq
    intro j hj
    rw [getLsbD_testMask f k src hj]
    cases hs : src.getLsbD j
    · rfl
    · rw [h j hj ((hP j hj).1 hs), Bool.true_and]

theorem testMask_eq_zero_iff : testMask f k src = 0 ↔ ∀ j, j < 32 → P j → xor ((k.p (f.a.toNat % 8)).getLsbD j) f.negA = false := by
  constructor
  · intro h j hj hp
    have bit := getLsbD_testMask f k src hj
    rw [h, (hP j hj).2 hp, Bool.true_and] at bit
    exact bit.symm.trans BitVec.getLsbD_zero
  · intro h
    apply BitVec.eq_of_getLsbD_eq
    intro j hj
    rw [getLsbD_testMask f k src hj]
    cases hs : src.getLsbD j
    · exact BitVec.getLsbD_zero.symm
    · rw [h j hj ((hP j hj).1 hs)]
      exact BitVec.getLsbD_zero.symm

theorem vchkMode_iff {mode : Nat} :
    vchkMode mode src (testMask f k src) = true ↔ VchkHolds mode (fun j => xor ((k.p (f.a.toNat % 8)).getLsbD j) f.negA) P := by
  match mode with
  | 0 => simpa [vchkMode, VchkHolds] using testMask_eq_self_iff hP
  | 1 => simpa [vchkMode, VchkHolds] using (testMask_eq_zero_iff (f := f) (k := k) hP).not
  | 2 => simpa [vchkMode, VchkHolds] using or_congr (testMask_eq_self_iff hP) (testMask_eq_zero_iff (f := f) (k := k) hP)
  | n + 3 => simpa [vchkMode, VchkHolds] using testMask_eq_zero_iff hP

end

theorem execVchk_vector {f : RFmt} {s : State} {c : Ctx} (hi : Issuing s c) (hu : f.u = false) :
    exec (.vchk f) s = .next (c.completed s (c.k.setPIn (f.d.toNat % 8) (c.active f.g f.gn)
      (Mask.ofLanes ((Mask.lanes (c.active f.g f.gn)).filter fun l => vchkMode f.c.toNat (c.active f.g f.gn &&& halfMask (s.h16 c.k) l)
        (testMask f c.k (c.active f.g f.gn &&& halfMask (s.h16 c.k) l)))))) := by
  change execVchk f s = _
  rw [execVchk, withStrand_of_issuing hi, hu]
  rfl

theorem execVchk_uniform {f : RFmt} {s : State} {c : Ctx} (hi : Issuing s c) (hu : f.u = true) (hd : f.d.toNat < 64) :
    exec (.vchk f) s = .next (c.completed s (if c.acts f.g f.gn then
      c.k.setS f.d.toNat (if vchkMode f.c.toNat c.x.mask (testMask f c.k c.x.mask) then 1 else 0) else c.k)) := by
  change execVchk f s = _
  rw [execVchk, withStrand_of_issuing hi, hu, decide_eq_false (by omega)]
  by_cases h : c.acts f.g f.gn = true
  · simp only [h]
    rfl
  · simp only [h]
    exact Ctx.skip_eq hi

/-! ### The statement -/

/-- Settles O6: PLOP and PMOV by the bits that they read, BALLOT and VCHK by the lanes of the mask that they test. -/
theorem predicateWordResults : Obligations.PredicateWordResults := by
  refine ⟨fun f => ⟨pRule_of_pExec (execPlop_eq f) fun _ _ _ _ => rfl, fun h0 => ?register, fun h0 hwf s c hi hr => ?predicates⟩,
    fun f s c hi => ⟨fun hwf hr => ⟨fun hu => ?vector, fun hu => ?uniform⟩, fun hwf hd => ⟨fun hu => ?vote, fun hu => ?once⟩⟩⟩
  case register =>
    refine rRule_of_rExec (.inl rfl) (execPmov_register h0) fun _ c l o => ?_
    exact fun i hi => getLsbD_predBits c.k l hi
  case predicates =>
    obtain ⟨rest, bits⟩ := c.k.p_takePreds f.c (c.active f.g f.gn) (fun i l => (c.k.v f.a.toNat l).getLsbD i) le_rfl
    refine ⟨_, rest, fun l hl i hi => ?_, execPmov_predicates h0 hi hr⟩
    rw [bits l hl]
    simp [hi]
  case vector =>
    refine ⟨_, _, Skein.lanesWritten_putD c.k 1 f.d.toNat (.inl rfl) _ _, execBallot_vector hi hr hu, fun l hl i hi => ?_⟩
    rw [BitVec.getLsbD_setWidth, decide_eq_true (by omega), Bool.true_and, getLsbD_halfBits _ hl _ hi]
    dsimp only
    rw [Bool.and_assoc, Bool.eq_iff_iff, Bool.and_eq_true, Bool.and_eq_true]
    refine and_congr_right fun own => ?_
    rw [getLsbD_testMask]
    rw [Bool.or_eq_true, Bool.not_eq_true', decide_eq_true_eq] at own
    rcases own with own | own
    · rw [own]
      exact hi
    · split <;> omega
  case uniform =>
    refine ⟨_, fun i hi => ?_, execBallot_uniform hi hr hu⟩
    rw [BitVec.getLsbD_setWidth, decide_eq_true hi, Bool.true_and]
    by_cases h : i < 32
    · rw [getLsbD_testMask _ _ _ h, decide_eq_true h, Bool.true_and]
    · rw [decide_eq_false h, Bool.false_and, Bool.false_and, BitVec.getLsbD_of_ge _ _ (by omega)]
  case vote =>
    refine ⟨_, _, Skein.predWritten_setPIn _ _ _ _, execVchk_vector hi hu, fun l hl => vchkMode_iff fun j hj => ?_⟩
    rw [BitVec.getLsbD_and, Bool.and_eq_true, getLsbD_halfMask _ hl hj]
  case once =>
    exact ⟨_, vchkMode_iff fun j _ => Iff.rfl, execVchk_uniform hi hu (hd hu)⟩

end Sys2Proof.Machine
end

section
/-! PROOFS. Floating-point arithmetic, comparison, class, minimum and maximum (R91, R96, R295, R329 to R331, R333). -/

namespace Sys2Proof.Machine
open Arith

/-! ### One rounding (R96, R329, R333) -/

theorem fpBinary_eq (s : State) (f : RFmt) (g : FVal → FVal → FVal) :
    fpBinary s f g = rExec s f ⟨pairOf f.t, pairOf f.t, pairOf f.t, 0⟩ (f.immF f.t.toNat) fun _ _ o =>
      BitVec.ofNat 64 (roundT f.t.toNat f.mode f.sat (g (fopnd f.t.toNat f.negA o.a) (fopnd f.t.toNat f.negB o.b))) := rfl
theorem fpDot_eq (s : State) (f : RFmt) (cnt : Nat) :
    fpDot s f cnt = rExec s f ⟨1, 1, 1, 1⟩ 0 fun _ _ o => BitVec.ofNat 64 (roundT 8 f.mode f.sat (exactSum f.mode
      ((List.range cnt).map (fun i => Arith.mul (fopnd f.t.toNat f.negA (elem f.t.toNat i o.a)) (fopnd f.t.toNat f.negB (elem f.t.toNat i o.b)))
        ++ [fopnd 8 f.flag0 o.c]))) := rfl

/-- A two-operand floating-point word with one rounding. -/
theorem rRule_fpBinary {i : Instr} {f : RFmt} (g : FVal → FVal → FVal) (he : ∀ s, exec i s = fpBinary s f g) :
    RRule i f ⟨pairOf f.t, pairOf f.t, pairOf f.t, 0⟩ (f.immF f.t.toNat) fun _ _ o x => x =
      BitVec.ofNat 64 (roundT f.t.toNat f.mode f.sat (g (fopnd f.t.toNat f.negA o.a) (fopnd f.t.toNat f.negB o.b))) :=
  rRule_of_rExec (pairOf_cases f.t) (fun s => (he s).trans (fpBinary_eq s f g)) fun _ _ _ _ => rfl

/-- A dot product of packed elements, rounded once to F32. -/
theorem rRule_fpDot {i : Instr} {f : RFmt} (cnt : Nat) (he : ∀ s, exec i s = fpDot s f cnt) :
    RRule i f ⟨1, 1, 1, 1⟩ 0 fun _ _ o x => x = BitVec.ofNat 64 (roundT 8 f.mode f.sat (exactSum f.mode
      ((List.range cnt).map (fun i => Arith.mul (fopnd f.t.toNat f.negA (elem f.t.toNat i o.a)) (fopnd f.t.toNat f.negB (elem f.t.toNat i o.b)))
        ++ [fopnd 8 f.flag0 o.c]))) :=
  rRule_of_rExec (.inl rfl) (fun s => (he s).trans (fpDot_eq s f cnt)) fun _ _ _ _ => rfl

theorem execFfma_eq (f : RFmt) (s : State) : execFfma f s =
    rExec s f ⟨pairOf f.t, pairOf f.t, pairOf f.t, pairOf f.t⟩ (f.immF f.t.toNat) fun _ _ o => BitVec.ofNat 64 (roundT f.t.toNat f.mode f.sat
      (exactSum f.mode [Arith.mul (fopnd f.t.toNat f.negA o.a) (fopnd f.t.toNat f.negB o.b), fopnd f.t.toNat f.flag0 o.c])) := rfl

/-- Settles O7: each word by its common form. -/
theorem floatArithmeticResults : Obligations.FloatArithmeticResults := fun f =>
  ⟨rRule_fpBinary (fun a b => exactSum f.mode [a, b]) fun _ => rfl, rRule_fpBinary (fun a b => exactSum f.mode [a, b.negate]) fun _ => rfl,
    rRule_fpBinary Arith.mul fun _ => rfl, rRule_of_rExec (pairOf_cases f.t) (execFfma_eq f) fun _ _ _ _ => rfl,
    rRule_fpDot 2 fun _ => rfl, rRule_fpDot 4 fun _ => rfl⟩

/-! ### The order of values (R91, R295) -/

theorem ltVal_fin (n n' : Bool) (m m' : Nat) (e e' : Int) :
    ltVal (.fin n m e) (.fin n' m' e') = decide (atExp (min e e') (.fin n m e) < atExp (min e e') (.fin n' m' e')) := rfl

theorem ltVal_asymm {a b : FVal} (ha : a.isNan = false) (hb : b.isNan = false) (h : ltVal a b = true) : ltVal b a = false := by
  match a, b with
  | .inf true, .inf true | .inf false, .inf false | .inf true, .inf false => rfl
  | .inf true, .fin .. | .fin .., .inf false => rfl
  | .inf false, .inf true | .inf false, .fin .. | .fin .., .inf true => cases h
  | .fin n m e, .fin n' m' e' =>
    rw [ltVal_fin, decide_eq_true_eq] at h
    rw [ltVal_fin, min_comm, decide_eq_false_iff_not]
    exact h.not_gt

theorem ltVal_zeros (n n' : Bool) (e e' : Int) : ltVal (.fin n 0 e) (.fin n' 0 e') = false := by
  simp [ltVal_fin, atExp]

theorem FVal.eq_of_isZero {a : FVal} (h : a.isZero = true) : ∃ n e, a = .fin n 0 e := by
  match a with
  | .fin n 0 e => exact ⟨n, e, rfl⟩

theorem ltMin_asymm {a b : FVal} (ha : a.isNan = false) (hb : b.isNan = false) (h : ltMin a b = true) : ltMin b a = false := by
  by_cases hz : a.isZero = true ∧ b.isZero = true
  · obtain ⟨⟨n, e, rfl⟩, n', e', rfl⟩ := hz.imp FVal.eq_of_isZero FVal.eq_of_isZero
    cases n <;> cases n' <;> simp_all [ltMin, ltVal_zeros, FVal.isZero, FVal.isNeg]
  · have zeros : (a.isZero && b.isZero) = false := by simpa using hz
    rw [ltMin, zeros, Bool.false_and, Bool.false_and, Bool.or_false] at h
    rw [ltMin, ltVal_asymm ha hb h, Bool.and_comm b.isZero, zeros]
    rfl

theorem ltMin_irrefl {a : FVal} (ha : a.isNan = false) : ltMin a a = false :=
  Bool.eq_false_iff.2 fun h => by simp [ltMin_asymm ha ha h] at h

/-! ### FCMP (R295, R330) -/

theorem execFcmp_eq (f : RFmt) (s : State) : execFcmp f s = pExec s f ⟨0, pairOf f.t, pairOf f.t, 0⟩ (f.immF f.t.toNat) (f.d.toNat % 8)
    fun _ _ o => cmpFloat f.m.toNat (fopnd f.t.toNat f.negA o.a) (fopnd f.t.toNat f.negB o.b) := rfl

/-- Of two values that are numbers, one that is not above the other is below it or equal to it. -/
theorem not_ltVal_iff {a b : FVal} (ha : a.isNan = false) (hb : b.isNan = false) : (!ltVal b a) = (ltVal a b || eqVal a b) := by
  rw [eqVal]
  cases h : ltVal a b
  · simp
  · simp [ltVal_asymm ha hb h]

/-- R295's codes: every one but the last and "not equal" holds of two numbers only. -/
theorem cmpFloat_eq (code : Nat) (a b : FVal) : cmpFloat code a b =
    let ordered := !a.isNan && !b.isNan
    match code with
    | 0 => ordered && eqVal a b
    | 1 => !(ordered && eqVal a b)
    | 2 => ordered && ltVal a b
    | 3 => ordered && (ltVal a b || eqVal a b)
    | 4 => ordered && ltVal b a
    | 5 => ordered && (ltVal b a || eqVal a b)
    | 6 => ordered
    | _ => !ordered := by
  have comm : eqVal a b = eqVal b a := Bool.and_comm ..
  unfold cmpFloat
  by_cases hn : a.isNan = false ∧ b.isNan = false
  · obtain ⟨ha, hb⟩ := hn
    rw [ha, hb, ← not_ltVal_iff ha hb, comm, ← not_ltVal_iff hb ha]
    rfl
  · have nan : (a.isNan || b.isNan) = true := by
      rw [not_and_or, Bool.not_eq_false, Bool.not_eq_false] at hn
      rwa [Bool.or_eq_true]
    have ord : (!a.isNan && !b.isNan) = false := by rw [← Bool.not_or, nan]; rfl
    rw [nan, ord]
    rfl

/-! ### FCLASS (R331) -/

/-- The number of the class bit of a code whose fields are `e` and `m`, with its sign. -/
def classIndex (v : FVal) (neg : Bool) (e m : Nat) : Nat :=
  if v.isNan then 8 else if v.isInf then (if neg then 0 else 7)
  else if e ≠ 0 then (if neg then 1 else 6) else if m ≠ 0 then (if neg then 2 else 5) else if neg then 3 else 4

/-- The class bit of a value whose significand has `mb` bits below the leading one. -/
def valueBit (mb : Nat) : FVal → Nat
  | .nan => 256
  | .inf neg => if neg then 1 else 128
  | .fin neg m _ => if m = 0 then (if neg then 8 else 16) else if m < 2 ^ mb then (if neg then 4 else 32) else if neg then 2 else 64

theorem classBit_eq_valueBit (t x : Nat) : classBit t x = valueBit (fmtOf t).mb (valueOf t x) := by
  unfold classBit
  generalize valueOf t x = v
  match v with
  | .nan | .inf true | .inf false | .fin true 0 _ | .fin false 0 _ => rfl
  | .fin neg (m + 1) e => rfl

/-- The class of a code by its fields: a NaN, an infinity, a normal or a subnormal number, or a zero. -/
theorem classBit_eq {t : Nat} (ht : t ≠ 15) (x : Nat) : classBit t x =
    2 ^ classIndex (valueOf t x) (x / 2 ^ ((fmtOf t).eb + (fmtOf t).mb) % 2 == 1) (x / 2 ^ (fmtOf t).mb % 2 ^ (fmtOf t).eb)
      (x % 2 ^ (fmtOf t).mb) := by
  have hv : valueOf t x = (fmtOf t).value x := if_neg (by simpa using ht)
  rw [classBit_eq_valueBit, hv]
  generalize fmtOf t = f
  have hm := Nat.mod_lt x (show 0 < 2 ^ f.mb by positivity)
  unfold FFmt.value
  generalize x / 2 ^ f.mb % 2 ^ f.eb = e, x % 2 ^ f.mb = m, (x / 2 ^ (f.eb + f.mb) % 2 == 1) = neg at *
  dsimp only
  split_ifs with hinf hz hnan he
  · cases neg <;> rfl
  · rfl
  · rfl
  · rw [beq_iff_eq] at he
    by_cases h0 : m = 0
    · cases neg <;> simp [valueBit, classIndex, FVal.isNan, FVal.isInf, he, h0]
    · cases neg <;> simp [valueBit, classIndex, FVal.isNan, FVal.isInf, he, h0, hm]
  · rw [beq_iff_eq] at he
    cases neg <;> simp [valueBit, classIndex, FVal.isNan, FVal.isInf, he]

theorem ofNat_two_pow (n : Nat) : BitVec.ofNat 64 (2 ^ n) = (1 : W64) <<< n := by
  apply BitVec.eq_of_toNat_eq
  rw [BitVec.toNat_shiftLeft, BitVec.toNat_ofNat, Nat.shiftLeft_eq]
  exact congrArg (· % 2 ^ 64) (one_mul _).symm

theorem execFclass_eq (f : RFmt) (s : State) : execFclass f s = rExec s f ⟨1, pairOf f.t, 0, 0⟩ 0 fun _ _ o =>
    BitVec.ofNat 64 (classBit f.t.toNat (o.a.toNat % 2 ^ tBits f.t.toNat)) := rfl

/-- In the formats that FCLASS reads, the sign is the highest bit. -/
theorem signBit_eq_msb {t : Nat} (ht : t ∈ [14, 8, 9, 10, 11, 12]) (y : BitVec (tBits t)) :
    (y.toNat / 2 ^ ((fmtOf t).eb + (fmtOf t).mb) % 2 == 1) = y.msb := by
  have width : (fmtOf t).eb + (fmtOf t).mb = tBits t - 1 := by
    simp only [List.mem_cons, List.not_mem_nil, or_false] at ht
    rcases ht with rfl | rfl | rfl | rfl | rfl | rfl <;> rfl
  rw [width, BitVec.msb_eq_getLsbD_last, ← BitVec.testBit_toNat, Nat.testBit_eq_decide_div_mod_eq]
  rfl

/-! ### FMIN and FMAX (R91, R329) -/

/-- Flipping the highest of n + 1 bits. -/
theorem xor_two_pow {x n : Nat} (hx : x < 2 ^ (n + 1)) : x ^^^ 2 ^ n = if 2 ^ n ≤ x then x - 2 ^ n else x + 2 ^ n := by
  have high : (x ^^^ 2 ^ n) / 2 ^ n = x / 2 ^ n ^^^ 1 := by rw [Nat.xor_div_two_pow, Nat.div_self (by positivity)]
  have low : (x ^^^ 2 ^ n) % 2 ^ n = x % 2 ^ n := by rw [Nat.xor_mod_two_pow, Nat.mod_self, Nat.xor_zero]
  have whole := Nat.div_add_mod (x ^^^ 2 ^ n) (2 ^ n)
  rw [high, low] at whole
  split
  · next h =>
    have hq : x / 2 ^ n = 1 := Nat.div_eq_of_lt_le (by omega) (by rw [pow_succ] at hx; omega)
    rw [hq, Nat.mod_eq_sub_mod h, Nat.mod_eq_of_lt (by rw [pow_succ] at hx; omega)] at whole
    simpa using whole.symm
  · next h =>
    rw [Nat.div_eq_of_lt (by omega), Nat.mod_eq_of_lt (by omega)] at whole
    simp at whole
    omega

/-- Negation of an operand's bits flips the highest one (R272). -/
theorem fbits_eq (t : Nat) (neg : Bool) (x : W64) : fbits t neg x = (lowBits t x ^^^ (if neg then BitVec.intMin _ else 0)).toNat := by
  have hw := tBits_pos t
  rw [BitVec.toNat_xor, toNat_lowBits, fbits]
  cases neg
  · simp
  · have hx := Nat.mod_lt x.toNat (show 0 < 2 ^ tBits t by positivity)
    have sign : (BitVec.intMin (tBits t)).toNat = 2 ^ (tBits t - 1) := by
      rw [BitVec.toNat_intMin, Nat.mod_eq_of_lt (Nat.pow_lt_pow_right one_lt_two (by omega))]
    rw [if_pos rfl, if_pos rfl, sign, xor_two_pow (by rwa [Nat.sub_add_cancel hw])]

/-- With a NaN operand: the other one, or the canonical NaN. -/
theorem minMaxBits_nan {t a b : Nat} (mx prop : Bool) (h : (valueOf t a).isNan = true ∨ (valueOf t b).isNan = true) :
    minMaxBits t mx prop a b = if ((valueOf t a).isNan = true ∧ (valueOf t b).isNan = true) ∨ prop = true then (fmtOf t).nanCode
      else if (valueOf t a).isNan = true then b else a := by
  unfold minMaxBits
  cases ha : (valueOf t a).isNan <;> cases hb : (valueOf t b).isNan <;> simp_all

/-- The one of two that is picked because the other is not before it has none of the two before it. -/
theorem picked_spec {lt : FVal → FVal → Bool} (v : Nat → FVal) (a b : Nat) (ha : lt (v a) (v a) = false) (hb : lt (v b) (v b) = false)
    (asymm : lt (v b) (v a) = true → lt (v a) (v b) = false) {r : Nat} (hr : r = if lt (v b) (v a) then b else a) :
    (r = a ∨ r = b) ∧ lt (v a) (v r) = false ∧ lt (v b) (v r) = false := by
  subst hr
  split
  · next h => exact ⟨.inr rfl, asymm h, hb⟩
  · next h => exact ⟨.inl rfl, ha, Bool.eq_false_iff.2 h⟩

/-- The order of FMIN, or of FMAX. -/
def beforeIn (mx : Bool) (u v : FVal) : Bool := if mx then ltMin v u else ltMin u v

/-- Of two numbers one is given, and neither is before it. -/
theorem minMaxBits_number {t a b : Nat} (mx prop : Bool) (ha : (valueOf t a).isNan = false) (hb : (valueOf t b).isNan = false) :
    (minMaxBits t mx prop a b = a ∨ minMaxBits t mx prop a b = b)
      ∧ beforeIn mx (valueOf t a) (valueOf t (minMaxBits t mx prop a b)) = false
      ∧ beforeIn mx (valueOf t b) (valueOf t (minMaxBits t mx prop a b)) = false := by
  refine picked_spec (lt := beforeIn mx) (valueOf t) a b ?_ ?_ (fun h => ?_) ?_
  · cases mx <;> exact ltMin_irrefl ha
  · cases mx <;> exact ltMin_irrefl hb
  · cases mx
    · exact ltMin_asymm hb ha h
    · exact ltMin_asymm ha hb h
  · simp only [minMaxBits, ha, hb]
    cases mx <;> rfl

/-- What FMIN and FMAX give fits a register. -/
theorem minMaxBits_lt {t : Nat} (ht : t ∈ floatTs) (mx prop : Bool) {a b : Nat} (ha : a < 2 ^ 64) (hb : b < 2 ^ 64) :
    minMaxBits t mx prop a b < 2 ^ 64 := by
  have nan : (fmtOf t).nanCode < 2 ^ 64 := by
    simp only [floatTs, List.mem_cons, List.not_mem_nil, or_false] at ht
    rcases ht with rfl | rfl | rfl | rfl <;> decide
  unfold minMaxBits
  dsimp only
  split_ifs <;> assumption

theorem fpMinMax_eq (s : State) (f : RFmt) (mx : Bool) : fpMinMax s f mx =
    rExec s f ⟨pairOf f.t, pairOf f.t, pairOf f.t, 0⟩ (f.immF f.t.toNat) fun _ _ o =>
      BitVec.ofNat 64 (minMaxBits f.t.toNat mx (f.m == 1) (fbits f.t.toNat f.negA o.a) (fbits f.t.toNat f.negB o.b)) := rfl

theorem fbits_lt (t : Nat) (neg : Bool) (x : W64) : fbits t neg x < 2 ^ 64 := by
  rw [fbits_eq]
  exact (BitVec.isLt _).trans_le (Nat.pow_le_pow_right two_pos (tBits_le t))

/-- FMIN or FMAX: NaN operands by R91, else one of the two with none before it. -/
theorem rRule_fpMinMax {i : Instr} {f : RFmt} (mx : Bool) (he : ∀ s, exec i s = fpMinMax s f mx) (hwf : WellFormed i = RSpec.fpMinMax.ok f) :
    RRule i f ⟨pairOf f.t, pairOf f.t, pairOf f.t, 0⟩ (f.immF f.t.toNat) fun _ _ o x =>
      let a := fbits f.t.toNat f.negA o.a
      let b := fbits f.t.toNat f.negB o.b
      let va := valueOf f.t.toNat a
      let vb := valueOf f.t.toNat b
      if va.isNan ∨ vb.isNan then
        x.toNat = if (va.isNan ∧ vb.isNan) ∨ f.m = 1 then (fmtOf f.t.toNat).nanCode else if va.isNan then b else a
      else (x.toNat = a ∨ x.toNat = b) ∧ beforeIn mx va (valueOf f.t.toNat x.toNat) = false
        ∧ beforeIn mx vb (valueOf f.t.toNat x.toNat) = false := by
  refine rRule_of_rExec (pairOf_cases f.t) (fun s => (he s).trans (fpMinMax_eq s f mx)) fun hok _ _ o => ?_
  dsimp only
  rw [BitVec.toNat_ofNat, Nat.mod_eq_of_lt (minMaxBits_lt (RSpec.t_of_ok (hwf ▸ hok)) mx _ (fbits_lt ..) (fbits_lt ..))]
  split
  · next h => simp only [minMaxBits_nan mx _ h, beq_iff_eq]
  · next h =>
    rw [not_or, Bool.not_eq_true, Bool.not_eq_true] at h
    exact minMaxBits_number mx _ h.1 h.2

/-! ### The statement -/

/-- Settles O8: FCMP by the order of numbers, FCLASS by the fields of the code, FMIN and FMAX by what the one picked has before it. -/
theorem floatCompareResults : Obligations.FloatCompareResults := by
  refine ⟨fun f => ⟨pRule_of_pExec (execFcmp_eq f) fun _ _ _ _ => cmpFloat_eq .., ?cls⟩, fun f => ⟨?min, ?max⟩⟩
  case cls =>
    refine rRule_of_rExec (.inl rfl) (execFclass_eq f) fun hwf _ _ o => ?_
    have ht : f.t.toNat ∈ [14, 8, 9, 10, 11, 12] := RSpec.t_of_ok hwf
    have ht15 : f.t.toNat ≠ 15 := by rintro h; rw [h] at ht; exact absurd ht (by decide)
    rw [← toNat_lowBits, classBit_eq ht15, signBit_eq_msb ht]
    exact ofNat_two_pow _
  case min =>
    refine (rRule_fpMinMax false (fun _ => rfl) rfl).imp fun _ _ _ o x hx => ?_
    rw [fbits_eq, fbits_eq] at hx
    exact hx
  case max =>
    refine (rRule_fpMinMax true (fun _ => rfl) rfl).imp fun _ _ _ o x hx => ?_
    rw [fbits_eq, fbits_eq] at hx
    exact hx

end Sys2Proof.Machine
end

section
/-! PROOFS. The one rounding of R90: a value that the format holds comes back as its own code, and every result is a code of the format. -/

namespace Sys2Proof.Arith

variable (f : FFmt)

/-! ### Codes by their fields (R88) -/

/-- The fields of a code: exponent, mantissa, sign. -/
def FFmt.expField (x : Nat) : Nat := x / 2 ^ f.mb % 2 ^ f.eb
def FFmt.manField (x : Nat) : Nat := x % 2 ^ f.mb
def FFmt.negField (x : Nat) : Bool := x / 2 ^ (f.eb + f.mb) % 2 == 1

theorem FFmt.emax_add_one : f.emax + 1 = 2 ^ f.eb := Nat.sub_add_cancel Nat.one_le_two_pow

theorem FFmt.manField_lt (x : Nat) : f.manField x < 2 ^ f.mb := Nat.mod_lt _ (by positivity)

theorem FFmt.expField_le (x : Nat) : f.expField x ≤ f.emax := by
  rw [← Nat.lt_succ_iff, Nat.succ_eq_add_one, f.emax_add_one]
  exact Nat.mod_lt _ (by positivity)

/-- A code is made of its fields. -/
theorem FFmt.fields {x : Nat} (hx : x < 2 ^ (1 + f.eb + f.mb)) : f.signBit (f.negField x) + (f.expField x * 2 ^ f.mb + f.manField x) = x := by
  have low : x % 2 ^ (f.eb + f.mb) = f.expField x * 2 ^ f.mb + f.manField x := by
    rw [expField, manField, add_comm f.eb, pow_add, Nat.mod_mul, mul_comm, add_comm]
  have top : x / 2 ^ (f.eb + f.mb) < 2 := by
    rw [Nat.div_lt_iff_lt_mul (by positivity), ← pow_succ']
    exact hx.trans_eq (congrArg _ (by omega))
  have sign : 2 ^ (f.eb + f.mb) * (x / 2 ^ (f.eb + f.mb)) = f.signBit (f.negField x) := by
    rw [negField, signBit]
    interval_cases x / 2 ^ (f.eb + f.mb) <;> simp
  rw [← low, ← sign, Nat.div_add_mod]

/-- The value of a code that is a finite number: in a format with infinities the highest exponent names none, in one with NaN codes and
no infinity its highest code is none. -/
theorem FFmt.value_finite {x : Nat} (hn : (f.value x).isNan = false) (hi : (f.value x).isInf = false) :
    (f.expField x = f.emax → f.hasInf = false ∧ (f.hasNan = true → f.manField x ≠ 2 ^ f.mb - 1))
      ∧ f.value x = if f.expField x = 0 then .fin (f.negField x) (f.manField x) (1 - f.bias - f.mb)
        else .fin (f.negField x) (f.manField x + 2 ^ f.mb) (f.expField x - f.bias - f.mb) := by
  have hv : f.value x = if f.expField x == f.emax && f.hasInf then (if f.manField x == 0 then .inf (f.negField x) else .nan)
      else if f.expField x == f.emax && f.hasNan && f.manField x == 2 ^ f.mb - 1 then .nan
      else if f.expField x == 0 then .fin (f.negField x) (f.manField x) (1 - f.bias - f.mb)
      else .fin (f.negField x) (f.manField x + 2 ^ f.mb) (f.expField x - f.bias - f.mb) := rfl
  rw [hv] at hn hi ⊢
  by_cases hinf : (f.expField x == f.emax && f.hasInf) = true
  · rw [if_pos hinf] at hn hi
    split at hn
    · next h =>
      rw [if_pos h] at hi
      cases hi
    · cases hn
  · rw [if_neg hinf] at hn ⊢
    by_cases hnan : (f.expField x == f.emax && f.hasNan && f.manField x == 2 ^ f.mb - 1) = true
    · rw [if_pos hnan] at hn
      cases hn
    · rw [if_neg hnan]
      refine ⟨fun hmax => ?_, by simp only [beq_iff_eq]⟩
      rw [hmax] at hinf hnan
      simpa using And.intro hinf hnan

/-! ### The code of a rounded significand -/

/-- The code that a rounded significand takes, or where it is above the largest finite value the code of an overflow. -/
def FFmt.encode (mode : Mode) (sat neg : Bool) (r : Nat) (q : Int) : Nat :=
  if magLt f.maxFin.1 f.maxFin.2 r q then if sat || overflowToMax mode neg then f.maxCode neg else f.infCode neg
  else if r < 2 ^ f.mb then f.signBit neg + r
  else f.signBit neg + (q + f.mb + f.bias).toNat * 2 ^ f.mb + (r - 2 ^ f.mb)

/-- The exponent at which a value is rounded: that of its leading bit or of the subnormal numbers, less the mantissa's width. -/
def FFmt.ulpExp (m : Nat) (e : Int) : Int := max (e + Nat.log2 m) (1 - f.bias) - f.mb

/-- A significand at that exponent, before it is rounded: whole part, rest, and the width of the rest. -/
def FFmt.aligned (m : Nat) (e : Int) : Nat := if f.ulpExp m e < e then m * 2 ^ (e - f.ulpExp m e).toNat else m
def FFmt.rounded (mode : Mode) (neg : Bool) (m : Nat) (e : Int) (u : Nat) : Nat :=
  let s := (f.ulpExp m e - e).toNat
  if roundsUp mode neg (f.aligned m e / 2 ^ s) (f.aligned m e % 2 ^ s) s false u then f.aligned m e / 2 ^ s + 1 else f.aligned m e / 2 ^ s

/-- Rounding a value other than 0: its significand at its exponent, where a carry out of it takes the next exponent. -/
theorem roundFin_of_ne_zero {m : Nat} (hm : m ≠ 0) (mode : Mode) (sat neg : Bool) (e : Int) (u : Nat) :
    roundFin f mode sat neg m e false u =
      if f.rounded mode neg m e u = 2 ^ (f.mb + 1) then f.encode mode sat neg (2 ^ f.mb) (f.ulpExp m e + 1)
      else f.encode mode sat neg (f.rounded mode neg m e u) (f.ulpExp m e) := by
  unfold roundFin
  rw [if_neg (by simpa using hm)]
  by_cases h : f.rounded mode neg m e u = 2 ^ (f.mb + 1)
  · rw [if_pos h]
    have h' := beq_iff_eq.2 h
    unfold FFmt.rounded FFmt.aligned FFmt.ulpExp at h'
    dsimp only at h' ⊢
    rw [if_pos h']
    rfl
  · rw [if_neg h]
    have h' := mt beq_iff_eq.1 h
    unfold FFmt.rounded FFmt.aligned FFmt.ulpExp at h'
    dsimp only at h' ⊢
    rw [if_neg h']
    rfl

theorem roundFin_zero (mode : Mode) (sat neg : Bool) (e : Int) (u : Nat) : roundFin f mode sat neg 0 e false u = f.signBit neg := rfl

/-! ### Values that the format holds -/

/-- A value that is whole at its exponent is not rounded up, in any mode (R90, R94). -/
theorem roundsUp_whole {mode : Mode} {neg : Bool} {hi u : Nat} (hu : u < 2 ^ 32) : roundsUp mode neg hi 0 0 false u = false := by
  cases mode
  case sr => simpa [roundsUp] using hu
  all_goals simp [roundsUp]

/-- A significand that fits, at an exponent that is its own or the least of the format, is its own rounding. -/
theorem FFmt.encode_of_fits {m : Nat} {e : Int} (hm : m ≠ 0) (hlt : m < 2 ^ (f.mb + 1)) (he : 1 - f.bias - f.mb ≤ e)
    (own : 2 ^ f.mb ≤ m ∨ e = 1 - f.bias - f.mb) (mode : Mode) (sat neg : Bool) {u : Nat} (hu : u < 2 ^ 32) :
    roundFin f mode sat neg m e false u = f.encode mode sat neg m e := by
  have log : m.log2 < f.mb + 1 := (Nat.log2_lt hm).2 hlt
  have exp : f.ulpExp m e = e := by
    rw [ulpExp]
    rcases own with h | h
    · have : f.mb ≤ m.log2 := (Nat.le_log2 hm).2 h
      rw [max_eq_left (by omega)]
      omega
    · rw [max_eq_right (by omega)]
      omega
  have whole : f.rounded mode neg m e u = m := by
    simp [rounded, aligned, exp, Nat.mod_one, roundsUp_whole hu]
  rw [roundFin_of_ne_zero f hm, whole, exp, if_neg hlt.ne]

theorem magLt_eq_false {m m' : Nat} {e e' : Int} (he : e' ≤ e) (h : m' ≤ m * 2 ^ (e - e').toNat) : magLt m e m' e' = false := by
  rw [magLt]
  split
  · have : e = e' := by omega
    subst this
    simpa using h
  · exact decide_eq_false h.not_gt

/-- The largest finite value is at its exponent the greatest significand but for the NaN code, and twice it covers every other. -/
theorem FFmt.maxFin_fst (hmb : 1 ≤ f.mb) : f.maxFin.1 = 2 ^ (f.mb + 1) - (if f.hasInf = false ∧ f.hasNan = true then 2 else 1)
    ∧ 2 ^ (f.mb + 1) ≤ 2 * f.maxFin.1 := by
  have : 2 ≤ 2 ^ f.mb := Nat.le_self_pow (by omega) 2
  rw [maxFin, pow_succ]
  cases f.hasInf <;> cases f.hasNan <;> simp <;> omega

theorem FFmt.maxFin_snd : f.maxFin.2 = f.emax - (if f.hasInf then 1 else 0) - f.bias - f.mb := by
  rw [maxFin]
  cases f.hasInf <;> cases f.hasNan <;> simp

/-- The largest finite value is no less than the value of any code that is a finite number. -/
theorem FFmt.not_above_max (hmb : 1 ≤ f.mb) {m : Nat} {e : Int} (hlt : m < 2 ^ (f.mb + 1)) (he : e ≤ f.emax - f.bias - f.mb)
    (top : e = f.emax - f.bias - f.mb → f.hasInf = false ∧ (f.hasNan = true → m ≠ 2 ^ (f.mb + 1) - 1)) :
    magLt f.maxFin.1 f.maxFin.2 m e = false := by
  obtain ⟨fst, double⟩ := f.maxFin_fst hmb
  have snd := f.maxFin_snd
  have below : e ≤ f.maxFin.2 := by
    rw [snd]
    by_cases h : e = f.emax - f.bias - f.mb
    · rw [(top h).1]
      simpa using he
    · split <;> omega
  refine magLt_eq_false below ?_
  rcases below.eq_or_lt with h | h
  · rw [h, sub_self, Int.toNat_zero, pow_zero, mul_one, fst]
    by_cases nan : f.hasInf = false ∧ f.hasNan = true
    · rw [if_pos nan]
      rw [nan.1, if_neg Bool.false_ne_true] at snd
      have := (top (by omega)).2 nan.2
      omega
    · rw [if_neg nan]
      omega
  · have grows : 2 ≤ 2 ^ (f.maxFin.2 - e).toNat := Nat.le_self_pow (by omega) 2
    have := Nat.mul_le_mul_left f.maxFin.1 grows
    omega

/-- What a significand that is not above the largest value is coded as. -/
theorem FFmt.encode_of_not_above (mode : Mode) (sat neg : Bool) {r : Nat} {q : Int} (h : magLt f.maxFin.1 f.maxFin.2 r q = false) :
    f.encode mode sat neg r q = if r < 2 ^ f.mb then f.signBit neg + r
      else f.signBit neg + (q + f.mb + f.bias).toNat * 2 ^ f.mb + (r - 2 ^ f.mb) := by
  rw [encode, h, if_neg Bool.false_ne_true]

theorem FFmt.two_le_emax (heb : 2 ≤ f.eb) : 2 ≤ f.emax := by
  have := f.emax_add_one
  have : 2 ^ 2 ≤ 2 ^ f.eb := Nat.pow_le_pow_right two_pos heb
  omega

/-- Rounding gives the value of a code back as the code. -/
theorem FFmt.roundTo_value (hmb : 1 ≤ f.mb) (heb : 2 ≤ f.eb) {x : Nat} (hx : x < 2 ^ (1 + f.eb + f.mb)) (hn : (f.value x).isNan = false)
    (hi : (f.value x).isInf = false) (mode : Mode) (sat : Bool) {u : Nat} (hu : u < 2 ^ 32) : roundTo f mode sat (f.value x) u = x := by
  obtain ⟨top, value⟩ := f.value_finite hn hi
  have hm := f.manField_lt x
  have he := f.expField_le x
  have hmax := f.two_le_emax heb
  have half := pow_succ 2 f.mb
  rw [value]
  refine Eq.trans ?_ (f.fields hx)
  by_cases h0 : f.expField x = 0
  · rw [if_pos h0, roundTo, h0, zero_mul, zero_add]
    by_cases hz : f.manField x = 0
    · rw [hz, roundFin_zero, add_zero]
    · rw [f.encode_of_fits hz (by omega) le_rfl (.inr rfl) mode sat _ hu,
        f.encode_of_not_above mode sat _ (f.not_above_max hmb (by omega) (by omega) (by omega)), if_pos hm]
  · rw [if_neg h0, roundTo, f.encode_of_fits (by omega) (by omega) (by omega) (.inl (by omega)) mode sat _ hu,
      f.encode_of_not_above mode sat _ (f.not_above_max hmb (by omega) (by omega) fun h => ?_), if_neg (by omega), Nat.add_sub_cancel,
      show ((f.expField x : Int) - f.bias - f.mb + f.mb + f.bias).toNat = f.expField x by omega, add_assoc]
    obtain ⟨inf, nan⟩ := top (by omega)
    exact ⟨inf, fun hnan => by have := nan hnan; omega⟩

/-! ### Every result is a code -/

theorem FFmt.codes : f.emax * 2 ^ f.mb + 2 ^ f.mb = 2 ^ (f.eb + f.mb) := by
  rw [← add_one_mul, f.emax_add_one, pow_add]

theorem FFmt.signBit_le (neg : Bool) : f.signBit neg ≤ 2 ^ (f.eb + f.mb) := by
  cases neg
  · exact Nat.zero_le _
  · exact le_rfl

theorem FFmt.two_signs : 2 ^ (1 + f.eb + f.mb) = 2 ^ (f.eb + f.mb) + 2 ^ (f.eb + f.mb) := by
  rw [add_assoc, add_comm 1, pow_succ, mul_two]

theorem FFmt.maxCode_lt (neg : Bool) : f.maxCode neg < 2 ^ (1 + f.eb + f.mb) := by
  have := f.codes
  have := f.signBit_le neg
  have : 0 < 2 ^ f.mb := by positivity
  rw [maxCode, f.two_signs]
  split_ifs <;> omega

theorem FFmt.nanCode_lt (hmb : 1 ≤ f.mb) : f.nanCode < 2 ^ (1 + f.eb + f.mb) := by
  have := f.codes
  have : 2 ^ (f.mb - 1) < 2 ^ f.mb := Nat.pow_lt_pow_right one_lt_two (by omega)
  have : 0 < 2 ^ f.mb := by positivity
  rw [nanCode, f.two_signs]
  split_ifs <;> omega

theorem FFmt.infCode_lt (hmb : 1 ≤ f.mb) (neg : Bool) : f.infCode neg < 2 ^ (1 + f.eb + f.mb) := by
  have := f.codes
  have := f.signBit_le neg
  have : 0 < 2 ^ f.mb := by positivity
  rw [infCode]
  split_ifs
  · rw [f.two_signs]
    omega
  · exact f.nanCode_lt hmb
  · exact f.maxCode_lt neg

/-- A normal significand that is not above the largest finite value has an exponent that the format has. -/
theorem FFmt.exp_le_of_not_above {r : Nat} {q : Int} (hr : 2 ^ f.mb ≤ r) (h : magLt f.maxFin.1 f.maxFin.2 r q = false) :
    q ≤ f.emax - f.bias - f.mb := by
  have snd := f.maxFin_snd
  have fst : f.maxFin.1 < 2 ^ (f.mb + 1) := by
    have : 0 < 2 ^ (f.mb + 1) := by positivity
    rw [maxFin]
    split_ifs <;> exact Nat.sub_lt this (by decide)
  by_contra hq
  have lt : f.maxFin.2 < q := by
    rw [snd]
    split <;> omega
  rw [magLt, if_pos lt.le, decide_eq_false_iff_not, not_lt] at h
  have grows : 2 ≤ 2 ^ (q - f.maxFin.2).toNat := Nat.le_self_pow (by omega) 2
  have := Nat.mul_le_mul hr grows
  have := pow_succ 2 f.mb
  omega

theorem FFmt.encode_lt (hmb : 1 ≤ f.mb) (mode : Mode) (sat neg : Bool) {r : Nat} (q : Int) (hr : r < 2 ^ (f.mb + 1)) :
    f.encode mode sat neg r q < 2 ^ (1 + f.eb + f.mb) := by
  cases h : magLt f.maxFin.1 f.maxFin.2 r q
  · have := f.codes
    have := f.signBit_le neg
    have := pow_succ 2 f.mb
    rw [f.encode_of_not_above mode sat neg h, f.two_signs]
    split
    · omega
    · next hnormal =>
      have hq := f.exp_le_of_not_above (by omega) h
      have := Nat.mul_le_mul_right (2 ^ f.mb) (show (q + f.mb + f.bias).toNat ≤ f.emax by omega)
      omega
  · rw [encode, if_pos h]
    split
    · exact f.maxCode_lt neg
    · exact f.infCode_lt hmb neg

/-- A significand at its exponent has one bit more than the mantissa at most, so a carry out of it leaves a power of two. -/
theorem FFmt.rounded_le (mode : Mode) (neg : Bool) (m : Nat) (e : Int) (u : Nat) : f.rounded mode neg m e u ≤ 2 ^ (f.mb + 1) := by
  have whole : f.aligned m e / 2 ^ (f.ulpExp m e - e).toNat < 2 ^ (f.mb + 1) := by
    have hm := Nat.lt_log2_self (n := m)
    have hq : e + m.log2 - f.mb ≤ f.ulpExp m e := by
      rw [ulpExp]
      omega
    rw [Nat.div_lt_iff_lt_mul (by positivity), ← pow_add, aligned]
    split
    · next h =>
      calc m * 2 ^ (e - f.ulpExp m e).toNat
          < 2 ^ (m.log2 + 1) * 2 ^ (e - f.ulpExp m e).toNat := Nat.mul_lt_mul_of_pos_right hm (by positivity)
        _ ≤ 2 ^ (f.mb + 1 + (f.ulpExp m e - e).toNat) := by
          rw [← pow_add]
          exact Nat.pow_le_pow_right two_pos (by omega)
    · exact hm.trans_le (Nat.pow_le_pow_right two_pos (by omega))
  rw [rounded]
  split <;> omega

/-- Rounding gives a code of the format. -/
theorem FFmt.roundTo_lt (hmb : 1 ≤ f.mb) (mode : Mode) (sat : Bool) (v : FVal) (u : Nat) : roundTo f mode sat v u < 2 ^ (1 + f.eb + f.mb) := by
  match v with
  | .nan => exact f.nanCode_lt hmb
  | .inf neg =>
    rw [roundTo]
    split
    · exact f.maxCode_lt neg
    · exact f.infCode_lt hmb neg
  | .fin neg m e =>
    rw [roundTo]
    by_cases hm : m = 0
    · have := f.signBit_le neg
      have : 0 < 2 ^ (f.eb + f.mb) := by positivity
      rw [hm, roundFin_zero, f.two_signs]
      omega
    · rw [roundFin_of_ne_zero f hm]
      split
      · exact f.encode_lt hmb mode sat neg _ (Nat.pow_lt_pow_right one_lt_two (by omega))
      · next h => exact f.encode_lt hmb mode sat neg _ (lt_of_le_of_ne (f.rounded_le ..) h)

end Sys2Proof.Arith

namespace Sys2Proof.Machine
open Arith

/-- Settles O11: each format has a mantissa and at least two exponent bits, which is what `FFmt.roundTo_value` asks. -/
theorem roundingKeepsRepresentable : Obligations.RoundingKeepsRepresentable := by
  intro t ht mode sat u hu f
  have widths : 1 ≤ f.mb ∧ 2 ≤ f.eb := by
    have all : ∀ t ∈ [8, 9, 10, 11, 12, 13, 14, 16, 17], 1 ≤ (fmtOf t).mb ∧ 2 ≤ (fmtOf t).eb := by decide
    exact all t ht
  exact ⟨fun x hx hn hi => f.roundTo_value widths.1 widths.2 hx hn hi mode sat hu, rfl⟩

end Sys2Proof.Machine
end

section
/-! PROOFS. Conversions, packed halves and stochastic rounding (R93, R94, R324 to R328, R338, R343). -/

namespace Sys2Proof.Machine
open Arith

/-! ### Conversions of one value (R325, R327, R328, R343) -/

theorem execF2i_eq (f : RFmt) (s : State) : execF2i f s = rExec s f ⟨pairOf f.t, pairOfCode f.c.toNat, 0, 0⟩ 0 fun _ _ o =>
    intResult f.t.toNat false (toIntClamped f.t.toNat f.mode (fopnd f.c.toNat f.negA o.a)) := by
  simp only [execF2i, fitInt_eq]
theorem execI2f_eq (f : RFmt) (s : State) : execI2f f s = rExec s f ⟨pairOf f.t, pairOfCode f.c.toNat, 0, 0⟩ 0 fun _ _ o =>
    BitVec.ofNat 64 (roundT f.t.toNat f.mode f.sat (.ofInt (operand f.c.toNat false o.a))) := by
  simp only [execI2f, intOf_eq]
  rfl
theorem execFrnd_eq (f : RFmt) (s : State) : execFrnd f s = rExec s f ⟨pairOf f.t, pairOf f.t, 0, 0⟩ 0 fun _ _ o =>
    BitVec.ofNat 64 (roundIntegral f.t.toNat f.mode (fopnd f.t.toNat f.negA o.a)) := rfl

theorem toNat_elem (t i : Nat) (x : W64) : (elem t i x).toNat = x.toNat / 2 ^ (tBits t * i) % 2 ^ tBits t := by
  rw [elem, toNat_ofNat_lt t _ (Nat.mod_lt _ (by positivity)), mul_comm]

theorem execFunpk_eq (f : RFmt) (s : State) : execFunpk f s = rExec s f ⟨1, 1, 0, 0⟩ 0 fun _ _ o =>
    BitVec.ofNat 64 (roundT 8 .rne false (valueOf (f.c.toNat % 16)
      (o.a.toNat / 2 ^ (tBits (f.c.toNat % 16) * (f.c.toNat / 16)) % 2 ^ tBits (f.c.toNat % 16)))) := by
  simp only [execFunpk, toNat_elem]
  rfl

/-! ### Packed halves (R338) -/

theorem fopnd_elem (t : Nat) (neg : Bool) (i : Nat) (x : W64) : fopnd t neg (elem t i x) = fopnd t neg (x >>> (tBits t * i)) := by
  rw [fopnd, fopnd, toNat_elem, Nat.mod_mod, BitVec.toNat_ushiftRight, Nat.shiftRight_eq_div_pow]

/-- The two 16-bit formats. -/
theorem half_format {t : Nat} (ht : t ∈ [9, 10]) : tBits t = 16 ∧ t ≠ 15 ∧ 1 ≤ (fmtOf t).mb ∧ 1 + (fmtOf t).eb + (fmtOf t).mb = 16 := by
  rcases List.mem_pair.1 ht with rfl | rfl <;> decide

/-- A result in a 16-bit format is a code of 16 bits. -/
theorem roundT_half_lt {t : Nat} (ht : t ∈ [9, 10]) (mode : Mode) (sat : Bool) (v : FVal) : roundT t mode sat v < 2 ^ 16 := by
  obtain ⟨-, h15, hmb, hw⟩ := half_format ht
  rw [roundT, if_neg (by simpa using h15), ← hw]
  exact (fmtOf t).roundTo_lt hmb mode sat v 0

/-- Two halves in a register. -/
theorem halves_packed {x y : Nat} (hx : x < 2 ^ 16) (hy : y < 2 ^ 16) : (BitVec.ofNat 64 (x + 2 ^ 16 * y)).toNat < 2 ^ 32
    ∧ (BitVec.ofNat 64 (x + 2 ^ 16 * y)).toNat / 2 ^ (16 * 0) % 2 ^ 16 = x
    ∧ (BitVec.ofNat 64 (x + 2 ^ 16 * y)).toNat / 2 ^ (16 * 1) % 2 ^ 16 = y := by
  rw [BitVec.toNat_ofNat, Nat.mod_eq_of_lt (by omega)]
  omega

/-- What a packed-half word gives element `e`. -/
def halfElem (f : RFmt) (g : FVal → FVal → FVal → FVal) (o : Opnds) (e : Nat) : Nat :=
  roundT f.t.toNat f.mode f.sat (g (fopnd f.t.toNat f.negA (o.a >>> (16 * e))) (fopnd f.t.toNat f.negB (o.b >>> (16 * e)))
    (fopnd f.t.toNat f.flag0 (o.c >>> (16 * e))))

theorem halfWord_eq {f : RFmt} (ht : f.t.toNat ∈ [9, 10]) (s : State) (cUsed : Bool) (g : FVal → FVal → FVal → FVal) : halfWord s f cUsed g =
    rExec s f ⟨1, 1, 1, if cUsed then 1 else 0⟩ (f.immF f.t.toNat ||| (f.immF f.t.toNat <<< 16)) fun _ _ o =>
      BitVec.ofNat 64 (halfElem f g o 0 + 2 ^ 16 * halfElem f g o 1) := by
  simp only [halfWord, fopnd_elem, (half_format ht).1]
  rfl

/-- A packed-half word: each element by itself, rounded once. -/
theorem rRule_halfWord {i : Instr} {f : RFmt} (cUsed : Bool) (g : FVal → FVal → FVal → FVal) (he : ∀ s, exec i s = halfWord s f cUsed g)
    (ht : WellFormed i = true → f.t.toNat ∈ [9, 10]) :
    RRule i f ⟨1, 1, 1, if cUsed then 1 else 0⟩ (f.immF f.t.toNat ||| (f.immF f.t.toNat <<< 16)) fun _ _ o x =>
      x.toNat < 2 ^ 32 ∧ ∀ e, e < 2 → (x.toNat / 2 ^ (16 * e)) % 2 ^ 16 = halfElem f g o e := by
  refine .of_wellFormed fun hwf => rRule_of_rExec (.inl rfl) (fun s => (he s).trans (halfWord_eq (ht hwf) s cUsed g)) fun _ _ _ o => ?_
  obtain ⟨lt, low, high⟩ := halves_packed (roundT_half_lt (ht hwf) f.mode f.sat _) (roundT_half_lt (ht hwf) f.mode f.sat _)
  refine ⟨lt, fun e he => ?_⟩
  interval_cases e
  · exact low
  · exact high

/-! ### Streams (R94) -/

/-- A stream state after `j` draws, where the mode draws at all. -/
def streamAfter (sr : Bool) (j : Nat) (x : W32) : W32 := if sr then advanceStream^[j] x else x
/-- The skein after `j` draws of lane `l`. -/
def Skein.drawn (k : Skein) (sr : Bool) (j l : Nat) : Skein := if sr then (fun k => (k.drawStream l).1)^[j] k else k

theorem Skein.stream_drawStream (k : Skein) (l m : Nat) : (k.drawStream l).1.stream m = if m = l then advanceStream (k.stream l) else k.stream m :=
  getD_setAt 1 k.streams l m _

theorem Skein.drawn_succ (k : Skein) (j l : Nat) : k.drawn true (j + 1) l = ((k.drawn true j l).drawStream l).1 :=
  Function.iterate_succ_apply' ..

/-- `k'` is `k` but for the streams. -/
def Skein.OnlyStreams (k k' : Skein) : Prop := k' = { k with streams := k'.streams }

theorem Skein.OnlyStreams.refl (k : Skein) : k.OnlyStreams k := rfl
theorem Skein.OnlyStreams.trans {k k' k'' : Skein} (h : k.OnlyStreams k') (h' : k'.OnlyStreams k'') : k.OnlyStreams k'' :=
  Eq.trans h' (congrArg (fun x : Skein => { x with streams := k''.streams }) h)

theorem Skein.drawn_onlyStreams (k : Skein) (sr : Bool) (j l : Nat) : k.OnlyStreams (k.drawn sr j l) := by
  cases sr
  · exact .refl k
  · induction j with
    | zero => exact .refl k
    | succ j ih => exact ih.trans (drawn_succ k j l ▸ rfl)

theorem Skein.stream_drawn (k : Skein) (sr : Bool) (j l m : Nat) :
    (k.drawn sr j l).stream m = if m = l then streamAfter sr j (k.stream l) else k.stream m := by
  cases sr
  · exact (ite_eq_right_iff.2 fun h => h ▸ rfl).symm
  · induction j generalizing m with
    | zero => exact (ite_eq_right_iff.2 fun h => h ▸ rfl).symm
    | succ j ih =>
      rw [drawn_succ, stream_drawStream, ih m, ih l, if_pos rfl]
      by_cases h : m = l
      · rw [if_pos h, if_pos h]
        exact (Function.iterate_succ_apply' ..).symm
      · rw [if_neg h, if_neg h, if_neg h]

theorem Skein.drawStream_putD (k : Skein) (l : Nat) (u : Bool) (n r m : Nat) (x : W64) :
    ((k.putD u n r m x).drawStream l).1 = ((k.drawStream l).1).putD u n r m x := by
  cases u
  · show ((k.setVw (n == 2) r m x).drawStream l).1 = ((k.drawStream l).1).setVw (n == 2) r m x
    cases n == 2 <;> rfl
  · show ((k.setS r x).drawStream l).1 = ((k.drawStream l).1).setS r x
    unfold Skein.setS
    cases r == 0 <;> rfl

/-- Draws and a register write do not meet. -/
theorem Skein.drawn_putD (k : Skein) (sr : Bool) (j l : Nat) (u : Bool) (n r m : Nat) (x : W64) :
    (k.putD u n r m x).drawn sr j l = (k.drawn sr j l).putD u n r m x := by
  cases sr
  · rfl
  · induction j with
    | zero => rfl
    | succ j ih => rw [drawn_succ, drawn_succ, ih, drawStream_putD]

section
variable (sr : Bool) (j n r : Nat)

/-- Lanes drawn for one after the other. -/
def Skein.drawnAll (k : Skein) (ls : List Nat) : Skein := ls.foldl (fun k l => k.drawn sr j l) k

theorem Skein.drawnAll_onlyStreams (ls : List Nat) (k : Skein) : k.OnlyStreams (k.drawnAll sr j ls) := by
  induction ls generalizing k with
  | nil => exact .refl k
  | cons l ls ih => exact (k.drawn_onlyStreams sr j l).trans (ih _)

theorem Skein.stream_drawnAll {ls : List Nat} (hls : ls.Nodup) (k : Skein) (m : Nat) :
    (k.drawnAll sr j ls).stream m = if m ∈ ls then streamAfter sr j (k.stream m) else k.stream m := by
  induction ls generalizing k with
  | nil => rfl
  | cons l ls ih =>
    obtain ⟨hl, hls⟩ := List.nodup_cons.1 hls
    change ((k.drawn sr j l).drawnAll sr j ls).stream m = _
    rw [ih hls, stream_drawn]
    by_cases h : m = l
    · subst h
      simp [hl]
    · simp [h]

/-- One lane after the other drawn for and written, as one skein. -/
def Skein.drawAndPut (val : W32 → Nat → W64) (k : Skein) (l : Nat) : Skein := (k.drawn sr j l).putD false n r l (val (k.stream l) l)

theorem Skein.foldl_putD_drawn (v : Nat → W64) (ls : List Nat) (k : Skein) (l : Nat) :
    ls.foldl (fun k m => k.putD false n r m (v m)) (k.drawn sr j l) = (ls.foldl (fun k m => k.putD false n r m (v m)) k).drawn sr j l := by
  induction ls generalizing k with
  | nil => rfl
  | cons m ms ih => rw [List.foldl_cons, List.foldl_cons, ← drawn_putD, ih]

/-- Lanes that draw and write in turn leave what all the writes leave, each with the stream value its lane began with, and then all the
draws. -/
theorem Skein.foldl_drawAndPut (val : W32 → Nat → W64) {ls : List Nat} (hls : ls.Nodup) (k0 k : Skein)
    (same : ∀ l ∈ ls, k.stream l = k0.stream l) : ls.foldl (drawAndPut sr j n r val) k =
      (ls.foldl (fun k l => k.putD false n r l (val (k0.stream l) l)) k).drawnAll sr j ls := by
  induction ls generalizing k with
  | nil => rfl
  | cons l ls ih =>
    obtain ⟨hl, hls⟩ := List.nodup_cons.1 hls
    have others : ∀ m ∈ ls, (drawAndPut sr j n r val k l).stream m = k0.stream m := by
      intro m hm
      have put : ((k.drawn sr j l).putD false n r l (val (k.stream l) l)).stream m = (k.drawn sr j l).stream m := by
        unfold Skein.putD Skein.setVw
        cases n == 2 <;> rfl
      rw [drawAndPut, put, stream_drawn, if_neg (by rintro rfl; exact hl hm), same m (List.mem_cons_of_mem _ hm)]
    rw [List.foldl_cons, List.foldl_cons, ih hls _ others, drawAndPut, ← drawn_putD, foldl_putD_drawn, same l List.mem_cons_self]
    rfl

theorem Mask.nodup_lanes (m : Mask) : (Mask.lanes m).Nodup := List.nodup_range.filter _

/-- Every lane of a mask draws and writes: the registers written with the stream values as they were, then the streams advanced. -/
theorem Skein.lanes_drawAndPut (hn : n = 1 ∨ n = 2) (val : W32 → Nat → W64) (act : Mask) (k : Skein) : ∃ k1 k' : Skein,
    LanesWritten k k1 act r n (fun l => val (k.stream l) l)
      ∧ (k1.OnlyStreams k' ∧ ∀ l, l < 32 → k'.stream l = if act.getLsbD l = true then streamAfter sr j (k1.stream l) else k1.stream l)
      ∧ (Mask.lanes act).foldl (drawAndPut sr j n r val) k = k' := by
  refine ⟨_, _, Skein.lanesWritten_putD k n r hn (fun l => val (k.stream l) l) act,
    ⟨Skein.drawnAll_onlyStreams sr j (Mask.lanes act) _, fun l hl => ?_⟩, Skein.foldl_drawAndPut sr j n r val (Mask.nodup_lanes act) k k fun _ _ => rfl⟩
  rw [Skein.stream_drawnAll sr j (Mask.nodup_lanes act)]
  simp only [Mask.mem_lanes, hl, true_and]

end

/-! ### FCVT (R324) -/

/-- What FCVT gives a lane whose stream stands at `x`. -/
def fcvtVal (f : RFmt) (k : Skein) (x : W32) (l : Nat) : W64 :=
  cvtVal f (k.opnd f.u (pairOfCode f.c.toNat) f.a.toNat l) (if f.m == 5 then x.toNat else 0)

theorem execFcvt_vector {f : RFmt} {s : State} {c : Ctx} (hi : Issuing s c)
    (hr : f.regsOk ⟨pairOf f.t, pairOfCode f.c.toNat, 0, 0⟩ (s.vlimit c.k) = true) (hu : f.u = false) :
    exec (.fcvt f) s = .next (c.completed s ((Mask.lanes (c.active f.g f.gn)).foldl
      (Skein.drawAndPut (f.m == 5) 1 (pairOf f.t) f.d.toNat (fcvtVal f c.k)) c.k)) := by
  change execFcvt f s = _
  rw [execFcvt, withStrand_of_issuing hi]
  unfold Skein.drawAndPut fcvtVal
  simp only [hr, hu, Bool.not_true, Bool.false_eq_true, if_false]
  cases f.m == 5 <;> rfl

theorem execFcvt_uniform {f : RFmt} {s : State} {c : Ctx} (hi : Issuing s c)
    (hr : f.regsOk ⟨pairOf f.t, pairOfCode f.c.toNat, 0, 0⟩ (s.vlimit c.k) = true) (hu : f.u = true) :
    exec (.fcvt f) s = .next (c.completed s (if c.acts f.g f.gn then
      (c.k.setS f.d.toNat (fcvtVal f c.k (c.k.stream c.low) c.low)).drawn (f.m == 5) 1 c.low else c.k)) := by
  change execFcvt f s = _
  have put := c.k.drawn_putD (f.m == 5) 1 c.low true 0 f.d.toNat 0 (fcvtVal f c.k (c.k.stream c.low) c.low)
  simp only [Skein.putD, if_true] at put
  rw [execFcvt, withStrand_of_issuing hi, put]
  unfold fcvtVal
  simp only [hr, hu, Bool.not_true, Bool.false_eq_true, if_false, if_true]
  split
  · cases f.m == 5 <;> rfl
  · exact Ctx.skip_eq hi

/-! ### FPACK (R326) -/

theorem getLsbD_putElem {w e : Nat} (hw : 0 < w) (r : W32) (x : Nat) {i : Nat} (hi : i < 32) :
    (putElem w e r x).getLsbD i = if i / w = e then x.testBit (i % w) else r.getLsbD i := by
  have here : (w * e ≤ i ∧ i < w * e + w) ↔ i / w = e := by
    rw [Nat.div_eq_iff hw, mul_comm e w]
    omega
  rw [putElem, BitVec.getLsbD_or, BitVec.getLsbD_and, BitVec.getLsbD_and, BitVec.getLsbD_not, getLsbD_fieldMask hi, BitVec.getLsbD_ofNat,
    Nat.testBit_mul_two_pow, decide_eq_decide.2 here]
  by_cases h : i / w = e
  · rw [if_pos h, decide_eq_true h, decide_eq_true hi, decide_eq_true (here.2 h).1, show i % w = i - w * e by rw [← h, Nat.mod_eq_sub]]
    simp
  · simp [h, hi]

/-- What FPACK gives a lane whose stream stands at `x`. -/
def fpackVal (f : RFmt) (k : Skein) (x : W32) (l : Nat) : W64 :=
  let o := f.opnds ⟨1, 1, 1, 0⟩ (f.immF 8) k l
  let e0 := roundT f.t.toNat f.mode f.sat (fopnd 8 f.negA o.a) (if f.m == 5 then x.toNat else 0)
  let e1 := roundT f.t.toNat f.mode f.sat (fopnd 8 f.negB o.b) (if f.m == 5 then (advanceStream x).toNat else 0)
  (putElem (tBits f.t.toNat) (2 * (f.c.toNat / 16) + 1) (putElem (tBits f.t.toNat) (2 * (f.c.toNat / 16)) (k.v f.d.toNat l) e0) e1).zeroExtend 64

theorem execFpack_eq {f : RFmt} {s : State} {c : Ctx} (hi : Issuing s c) (hr : f.regsOk ⟨1, 1, 1, 0⟩ (s.vlimit c.k) = true) :
    exec (.fpack f) s = .next (c.completed s ((Mask.lanes (c.active f.g f.gn)).foldl
      (Skein.drawAndPut (f.m == 5) 2 1 f.d.toNat (fpackVal f c.k)) c.k)) := by
  change execFpack f s = _
  have put (k : Skein) (r l : Nat) (x : W32) : k.setV r l x = k.putD false 1 r l (x.zeroExtend 64) := by
    simp [Skein.putD, Skein.setVw]
  have next (k : Skein) (l : Nat) : ((k.drawStream l).1.drawStream l).2 = (advanceStream (k.stream l)).toNat := by
    change ((k.drawStream l).1.stream l).toNat = _
    rw [Skein.stream_drawStream, if_pos rfl]
  rw [execFpack, withStrand_of_issuing hi]
  unfold Skein.drawAndPut fpackVal
  simp only [hr, Bool.not_true, Bool.false_eq_true, if_false, put]
  cases f.m == 5
  · rfl
  · simp only [← next]
    rfl

theorem getLsbD_fpackVal (f : RFmt) (k : Skein) (x : W32) (l : Nat) {i : Nat} (hi : i < 32) : (fpackVal f k x l).getLsbD i =
    let o := f.opnds ⟨1, 1, 1, 0⟩ (f.immF 8) k l
    if i / tBits f.t.toNat = 2 * (f.c.toNat / 16) then
      (roundT f.t.toNat f.mode f.sat (fopnd 8 f.negA o.a) (if f.m == 5 then x.toNat else 0)).testBit (i % tBits f.t.toNat)
    else if i / tBits f.t.toNat = 2 * (f.c.toNat / 16) + 1 then
      (roundT f.t.toNat f.mode f.sat (fopnd 8 f.negB o.b) (if f.m == 5 then (advanceStream x).toNat else 0)).testBit (i % tBits f.t.toNat)
    else (k.v f.d.toNat l).getLsbD i := by
  rw [fpackVal, BitVec.getLsbD_setWidth, decide_eq_true (by omega), Bool.true_and, getLsbD_putElem (tBits_pos _) _ _ hi,
    getLsbD_putElem (tBits_pos _) _ _ hi]
  dsimp only
  by_cases h : i / tBits f.t.toNat = 2 * (f.c.toNat / 16)
  · rw [if_neg (by omega), if_pos h, if_pos h]
  · rw [if_neg h, if_neg h]

/-! ### The statement -/

/-- The draw that rounds an element: the stream's value after `j` draws, where the mode draws at all. -/
theorem draw_eq (f : RFmt) (j : Nat) (x : W32) : (if f.m = 5 then (if f.m = 5 then advanceStream^[j] x else x).toNat else 0) =
    if f.m == 5 then (advanceStream^[j] x).toNat else 0 := by
  simp only [beq_iff_eq]
  by_cases h : f.m = 5
  · simp only [if_pos h]
  · simp only [if_neg h]

theorem fcvtVal_eq (f : RFmt) (k : Skein) (x : W32) (l : Nat) : fcvtVal f k x l = BitVec.ofNat 64 (roundT f.t.toNat f.mode f.sat
    (fopnd f.c.toNat f.negA (k.opnd f.u (pairOfCode f.c.toNat) f.a.toNat l))
      (if f.m = 5 then (if f.m = 5 then advanceStream^[0] x else x).toNat else 0)) := by
  rw [draw_eq]
  rfl

/-- Streams advanced as FCVT and FPACK are to advance them. -/
theorem streams_advanced {f : RFmt} {j : Nat} {k k' : Skein} {p : Prop} [Decidable p] {l : Nat}
    (h : k'.stream l = if p then streamAfter (f.m == 5) j (k.stream l) else k.stream l) :
    (p → k'.stream l = if f.m = 5 then advanceStream^[j] (k.stream l) else k.stream l) ∧ (¬ p → k'.stream l = k.stream l) := by
  simp only [streamAfter, beq_iff_eq] at h
  exact ⟨fun hp => h.trans (if_pos hp), fun hp => h.trans (if_neg hp)⟩

theorem intResult_zero (t : Nat) : intResult t false 0 = 0 := by
  rw [intResult, extended]
  split <;> simp [BitVec.signExtend]

/-- Settles O10: each word by its common form; under M = 101 the lanes' writes and their draws do not meet. -/
theorem floatConversionResults : Obligations.FloatConversionResults := by
  refine ⟨fun f => ⟨?f2i, rRule_of_rExec (pairOf_cases f.t) (execI2f_eq f) fun _ _ _ _ => rfl,
    rRule_of_rExec (.inl rfl) (execFunpk_eq f) fun _ _ _ _ => rfl, ?frnd,
    rRule_halfWord false (fun a b _ => exactSum f.mode [a, b]) (fun _ => rfl) ?_,
    rRule_halfWord false (fun a b _ => Arith.mul a b) (fun _ => rfl) ?_,
    rRule_halfWord true (fun a b c => exactSum f.mode [Arith.mul a b, c]) (fun _ => rfl) ?_⟩,
    fun f s c hi => ⟨fun hwf hr => ⟨fun hu => ?vector, fun hu hacts => ?once, fun hu hacts => ?off⟩, fun hwf hr => ?pack⟩⟩
  case f2i =>
    refine rRule_of_rExec (pairOf_cases f.t) (execF2i_eq f) fun _ _ _ o => ?_
    match fopnd f.c.toNat f.negA o.a with
    | .nan => exact intResult_zero _
    | .inf _ | .fin .. => rfl
  case frnd =>
    refine rRule_of_rExec (pairOf_cases f.t) (execFrnd_eq f) fun _ _ _ o => ?_
    match fopnd f.t.toNat f.negA o.a with
    | .nan | .inf _ | .fin .. => rfl
  case vector =>
    obtain ⟨k1, k', written, ⟨only, streams⟩, fold⟩ :=
      Skein.lanes_drawAndPut (f.m == 5) 1 (pairOf f.t) f.d.toNat (pairOf_cases f.t) (fcvtVal f c.k) (c.active f.g f.gn) c.k
    simp only [fcvtVal_eq] at written
    exact ⟨k1, k', written, ⟨only, fun l hl => streams_advanced (streams l hl)⟩, fold ▸ execFcvt_vector hi hr hu⟩
  case once =>
    refine ⟨(c.k.setS f.d.toNat (fcvtVal f c.k (c.k.stream c.low) c.low)).drawn (f.m == 5) 1 c.low, ?_, ?_⟩
    · rw [fcvtVal_eq]
      refine ⟨Skein.drawn_onlyStreams .., fun l hl => streams_advanced ?_⟩
      rw [Skein.stream_drawn]
      split
      · next h => rw [h]
      · rfl
    · rw [execFcvt_uniform hi hr hu, hacts, if_pos rfl]
  case off =>
    rw [execFcvt_uniform hi hr hu, hacts, if_neg Bool.false_ne_true]
  case pack =>
    obtain ⟨k1, k', written, ⟨only, streams⟩, fold⟩ :=
      Skein.lanes_drawAndPut (f.m == 5) 2 1 f.d.toNat (.inl rfl) (fpackVal f c.k) (c.active f.g f.gn) c.k
    refine ⟨_, k1, k', fun l i hi' => ?_, written, ⟨only, fun l hl => streams_advanced (streams l hl)⟩, fold ▸ execFpack_eq hi hr⟩
    rw [getLsbD_fpackVal f c.k _ l hi']
    dsimp only
    rw [draw_eq, draw_eq]
    rfl
  all_goals exact fun hwf => RSpec.t_of_ok hwf

end Sys2Proof.Machine
end

section
/-! PROOFS. Special registers that WRSR writes (R85, R86, R94, R374). -/

namespace Sys2Proof.Machine
open Arith

/-- Whether WRSR acts: in the uniform form by R265, else where a lane takes part. -/
def wrsrOn (f : RFmt) (c : Ctx) : Bool := if f.u then c.acts f.g f.gn else c.active f.g f.gn != 0
/-- The value that WRSR writes: an s-register, or B in the lowest active lane. -/
def wrsrVal (f : RFmt) (c : Ctx) : W64 :=
  if f.u then c.k.s f.b.toNat else (c.k.v f.b.toNat (Mask.lowest (c.active f.g f.gn))).zeroExtend 64

theorem wellFormed_wrsr (f : RFmt) : WellFormed (.wrsr f) =
    (RSpec.ok ⟨true, [0], [0], 0, .any, true⟩ f && f.bk == 0 && decide (f.a.toNat < 64) && f.d == 0) := rfl

section
variable {f : RFmt} {s : State} {c : Ctx} (hwf : WellFormed (.wrsr f) = true) (hi : Issuing s c)
  (hr : f.regsOk ⟨0, 0, 1, 0⟩ (s.vlimit c.k) = true)
include hwf hi hr

theorem execWrsr_eq : exec (.wrsr f) s =
    if !wrsrOn f c then c.skip s else if !srWritable f.a.toNat then c.trap s 0x14 (c.active f.g f.gn)
    else c.done s (c.k.writeSr f.a.toNat (wrsrVal f c)) := by
  change execWrsr f s = _
  have fields : f.a.toNat < 64 ∧ f.d = 0 := by
    simp only [wellFormed_wrsr, Bool.and_eq_true, decide_eq_true_eq, beq_iff_eq] at hwf
    obtain ⟨⟨-, ha⟩, hd⟩ := hwf
    exact ⟨ha, hd⟩
  obtain ⟨ha, hd⟩ := fields
  rw [execWrsr, withStrand_of_issuing hi, hr, hd, decide_eq_false (by omega)]
  rfl

theorem execWrsr_off (h : wrsrOn f c = false) : exec (.wrsr f) s = .next (c.completed s c.k) := by
  rw [execWrsr_eq hwf hi hr, h]
  exact Ctx.skip_eq hi

theorem execWrsr_writes (h : wrsrOn f c = true) (hn : srWritable f.a.toNat = true) :
    exec (.wrsr f) s = .next (c.completed s (c.k.writeSr f.a.toNat (wrsrVal f c))) := by
  rw [execWrsr_eq hwf hi hr, h, hn]
  rfl

theorem execWrsr_traps (h : wrsrOn f c = true) (hn : srWritable f.a.toNat = false) (hm : s.unperformed c.id c.st = []) :
    exec (.wrsr f) s = .next (c.trapped s 0x14 (c.active f.g f.gn) 0 0) := by
  rw [execWrsr_eq hwf hi hr, h, hn]
  exact c.trap_eq hm ..

end

theorem wrsrOn_iff (f : RFmt) (c : Ctx) :
    wrsrOn f c = true ↔ if f.u then c.acts f.g f.gn = true else c.active f.g f.gn ≠ 0 := by
  rw [wrsrOn]
  split <;> simp

/-- A write of SR_JOINLOST clears it by a 0 in bit 0 and never sets it (R86). -/
theorem Skein.writeSr_joinLost (k : Skein) (x : W64) : k.writeSr 16 x = { k with joinLost := k.joinLost && x.getLsbD 0 } := by
  rw [writeSr]
  split
  · next h => rw [h, Bool.and_true]
  · next h => rw [Bool.eq_false_iff.2 h, Bool.and_false]

/-- A write of SR_SEED seeds every lane's stream (R94). -/
theorem Skein.stream_reseed (k : Skein) (seed : W32) {l : Nat} (hl : l < 32) : (k.reseed seed).stream l = seedLane seed l := by
  rw [stream, reseed]
  simp [lanes32, hl]

/-- Settles O15: by whether the word acts and by the number that it names. -/
theorem wrsrResults : Obligations.WrsrResults := by
  intro f hwf s c hi hr
  have on := wrsrOn_iff f c
  refine ⟨fun h => ?off, fun h hn => ?joinLost, fun h hn => ?race, fun h hn => ?seed, fun h hn hm => ?trap⟩
  case off => exact execWrsr_off hwf hi hr (Bool.eq_false_iff.2 (mt on.1 h))
  case joinLost =>
    rw [execWrsr_writes hwf hi hr (on.2 h) (by rw [hn]; rfl), hn, Skein.writeSr_joinLost]
    rfl
  case race =>
    rw [execWrsr_writes hwf hi hr (on.2 h) (by rw [hn]; rfl), hn]
    rfl
  case seed =>
    refine ⟨c.k.reseed ((wrsrVal f c).truncate 32), rfl, fun l hl => ?_, ?_⟩
    · rw [Skein.stream_reseed _ _ hl, seedLane]
      simp only [beq_iff_eq]
      rfl
    · rw [execWrsr_writes hwf hi hr (on.2 h) (by rw [hn]; rfl), hn]
      rfl
  case trap =>
    refine execWrsr_traps hwf hi hr (on.2 h) ?_ hm
    rw [srWritable, Bool.eq_false_iff]
    exact mt List.contains_iff_mem.1 hn

end Sys2Proof.Machine
end

section
/-! PROOFS. The register files of a skein (R82) and the trap of a register field out of place (R83, R235, R294). -/

namespace Sys2Proof.Machine
open Arith

/-- A word whose register fields do not fit takes trap 0x01 with no effect (R83, R235, R294). -/
def Refuses (i : Instr) (f : RFmt) (sh : RShape) : Prop :=
  ∀ (s : State) (c : Ctx), Issuing s c → f.regsOk sh (s.vlimit c.k) = false → s.unperformed c.id c.st = [] →
    exec i s = .next (c.trapped s 0x01 c.guarded 0 0)

/-! ### The common forms -/

section
variable {i : Instr} {f : RFmt} {sh : RShape}

theorem Refuses.of_rExec {imm : W64} {op : Ctx → Nat → Opnds → W64} (he : ∀ s, exec i s = rExec s f sh imm op) : Refuses i f sh :=
  fun s _ hi hr hm => (he s).trans (rExec_illegal hi hr hm imm op)
theorem Refuses.of_pExec {imm : W64} {dst : Nat} {op : Ctx → Nat → Opnds → Bool} (he : ∀ s, exec i s = pExec s f sh imm dst op) :
    Refuses i f sh :=
  fun s _ hi hr hm => (he s).trans (pExec_illegal hi hr hm imm dst op)

theorem Refuses.of_intBinary {r : Int → Int → Int} (he : ∀ s, exec i s = intBinary s f r) :
    Refuses i f ⟨pairOf f.t, pairOf f.t, pairOf f.t, 0⟩ := .of_rExec fun s => (he s).trans (intBinary_eq s f r)
theorem Refuses.of_intTernary {r : Int → Int → Int → Int} (he : ∀ s, exec i s = intTernary s f r) :
    Refuses i f ⟨pairOf f.t, pairOf f.t, pairOf f.t, pairOf f.t⟩ := .of_rExec fun s => (he s).trans (intTernary_eq s f r)
theorem Refuses.of_bitBinary {g : W64 → W64 → W64} (he : ∀ s, exec i s = bitBinary s f g) :
    Refuses i f ⟨pairOf f.t, pairOf f.t, pairOf f.t, 0⟩ := .of_rExec fun s => (he s).trans (bitBinary_eq s f g)
theorem Refuses.of_shiftWord {g : Nat → Int → Nat → Nat → Nat} (he : ∀ s, exec i s = shiftWord s f g) :
    Refuses i f ⟨pairOf f.t, pairOf f.t, 1, 0⟩ := .of_rExec fun s => (he s).trans (shiftWord_eq s f g)
theorem Refuses.of_fpBinary {g : FVal → FVal → FVal} (he : ∀ s, exec i s = fpBinary s f g) :
    Refuses i f ⟨pairOf f.t, pairOf f.t, pairOf f.t, 0⟩ := .of_rExec fun s => (he s).trans (fpBinary_eq s f g)
theorem Refuses.of_fpMinMax {mx : Bool} (he : ∀ s, exec i s = fpMinMax s f mx) :
    Refuses i f ⟨pairOf f.t, pairOf f.t, pairOf f.t, 0⟩ := .of_rExec fun s => (he s).trans (fpMinMax_eq s f mx)
theorem fpSpecial_eq (s : State) (f : RFmt) (g : FFmt → FVal → Nat) : fpSpecial s f g =
    rExec s f ⟨pairOf f.t, pairOf f.t, 0, 0⟩ 0 fun _ _ o => fres (g (fmtOf f.t.toNat) (fopnd f.t.toNat f.negA o.a)) := rfl
theorem Refuses.of_fpSpecial {g : FFmt → FVal → Nat} (he : ∀ s, exec i s = fpSpecial s f g) :
    Refuses i f ⟨pairOf f.t, pairOf f.t, 0, 0⟩ := .of_rExec fun s => (he s).trans (fpSpecial_eq s f g)
theorem Refuses.of_fpDot {cnt : Nat} (he : ∀ s, exec i s = fpDot s f cnt) : Refuses i f ⟨1, 1, 1, 1⟩ :=
  .of_rExec fun s => (he s).trans (fpDot_eq s f cnt)

theorem Refuses.of_halfWord {cUsed : Bool} {g : FVal → FVal → FVal → FVal} (he : ∀ s, exec i s = halfWord s f cUsed g) :
    Refuses i f ⟨1, 1, 1, if cUsed then 1 else 0⟩ := by
  intro s c hi hr hm
  rw [he, halfWord]
  exact rExec_illegal hi hr hm ..

theorem Refuses.of_collect {a : Nat} {sd : Bool} {g : Ctx → Nat → List Nat → W64} (he : ∀ s, exec i s = collect s f a sd g) :
    Refuses i f (redShape f a sd) := by
  intro s c hi hr hm
  rw [he, collect, withStrand_of_issuing hi, hr]
  exact c.illegal_eq hm 1

end

/-! ### Words with a form of their own -/

theorem refuses_rdsr (f : RFmt) : Refuses (.rdsr f) f ⟨srRegs f.a.toNat, 0, 0, 0⟩ := by
  intro s c hi hr hm
  change execRdsr f s = _
  rw [execRdsr, withStrand_of_issuing hi, hr, Bool.not_false, Bool.or_true, if_pos rfl]
  exact c.illegal_eq hm 1

theorem refuses_wrsr (f : RFmt) : Refuses (.wrsr f) f ⟨0, 0, 1, 0⟩ := by
  intro s c hi hr hm
  change execWrsr f s = _
  rw [execWrsr, withStrand_of_issuing hi, hr, Bool.not_false, Bool.or_true, if_pos rfl]
  exact c.illegal_eq hm 1

theorem refuses_iaddc (f : RFmt) : Refuses (.iaddc f) f ⟨pairOf f.t, pairOf f.t, pairOf f.t, 0⟩ := by
  intro s c hi hr hm
  change execIaddc f s = _
  rw [execIaddc, withStrand_of_issuing hi, hr]
  exact c.illegal_eq hm 1

theorem refuses_ballot (f : RFmt) : Refuses (.ballot f) f ⟨1, 0, 0, 0⟩ := by
  intro s c hi hr hm
  change execBallot f s = _
  rw [execBallot, withStrand_of_issuing hi, hr]
  exact c.illegal_eq hm 1

theorem refuses_fcvt (f : RFmt) : Refuses (.fcvt f) f ⟨pairOf f.t, pairOfCode f.c.toNat, 0, 0⟩ := by
  intro s c hi hr hm
  change execFcvt f s = _
  rw [execFcvt, withStrand_of_issuing hi, hr]
  exact c.illegal_eq hm 1

theorem refuses_fpack (f : RFmt) : Refuses (.fpack f) f ⟨1, 1, 1, 0⟩ := by
  intro s c hi hr hm
  change execFpack f s = _
  rw [execFpack, withStrand_of_issuing hi, hr]
  exact c.illegal_eq hm 1

theorem execSel_eq (f : RFmt) (s : State) : execSel f s =
    rExec s f ⟨pairOf f.t, pairOf f.t, pairOf f.t, 0⟩ (if [8, 14].contains f.t.toNat then f.immF f.t.toNat else f.immI) fun c l o =>
      moveBits f.t.toNat (if (c.k.p (f.c.toNat % 8)).getLsbD l != f.flag0 then o.a else o.b) := rfl
theorem execMov_eq (f : RFmt) (s : State) : execMov f s = rExec s f ⟨pairOf f.t, 0, pairOf f.t, 0⟩ f.immI fun _ _ o =>
    moveBits f.t.toNat o.b := rfl
theorem execLea_eq (f : RFmt) (s : State) : execLea f s = rExec s f ⟨2, 2, pairOf f.t, 0⟩ f.immI fun _ _ o =>
    o.a + (if f.bk == 2 then o.b else BitVec.ofInt 64 (intOf f.t.toNat o.b)) <<< f.c.toNat := rfl
theorem execIcmp_eq (f : RFmt) (s : State) : execIcmp f s = pExec s f ⟨0, pairOf f.t, pairOf f.t, 0⟩ f.immI (f.d.toNat % 8) fun _ _ o =>
    cmpInt f.m.toNat (intOf f.t.toNat o.a) (intOf f.t.toNat o.b) := rfl

/-- SLX's source lane depends on the state, by H16. -/
theorem refuses_slx (f : RFmt) : Refuses (.slx f) f ⟨1, 1, 1, 0⟩ := by
  intro s c hi hr hm
  change execSlx f s = _
  rw [execSlx]
  exact rExec_illegal hi hr hm ..

/-- VCHK names a register in its uniform form alone. -/
theorem refuses_vchk (f : RFmt) : Refuses (.vchk f) f ⟨if f.u then 1 else 0, 0, 0, 0⟩ := by
  intro s c hi hr hm
  have out : (f.u && decide (f.d.toNat ≥ 64)) = true := by
    cases hu : f.u
    · simp [RFmt.regsOk, hu, vregOk, sregOk] at hr
    · simpa [RFmt.regsOk, hu, sregOk] using hr
  change execVchk f s = _
  rw [execVchk, withStrand_of_issuing hi, if_pos out]
  exact c.illegal_eq hm 1

theorem wellFormed_pmov (f : RFmt) : WellFormed (.pmov f) = (RSpec.ok ⟨false, [0], [0], 1, .unused, false⟩ f
    && (if f.f == 0 then f.a == 0 && f.c == 0 else f.d == 0 && decide (f.c.toNat < 128))) := rfl
theorem wellFormed_lcnt (f : RFmt) : WellFormed (.lcnt f) = (RSpec.ok ⟨false, [0], [0], 5, .unused, true⟩ f && predField f.a
    && (!f.f.getLsbD 0 || decide (f.d.toNat < 64))) := rfl

/-- PMOV reads a register or writes one. -/
theorem refuses_pmov (f : RFmt) (hwf : WellFormed (.pmov f) = true) :
    Refuses (.pmov f) f (if f.flag0 then ⟨0, 1, 0, 0⟩ else ⟨1, 0, 0, 0⟩) := by
  cases h0 : f.flag0
  · exact .of_rExec (execPmov_register h0)
  · intro s c hi hr hm
    have hu : f.u = false := by
      rw [wellFormed_pmov, Bool.and_eq_true] at hwf
      exact RSpec.u_of_ok hwf.1 rfl
    have out : vregOk (s.vlimit c.k) f.a.toNat 1 = false := by
      simpa [RFmt.regsOk, hu, vregOk, sregOk] using hr
    change execPmov f s = _
    rw [execPmov, h0, if_pos rfl, withStrand_of_issuing hi, out]
    exact c.illegal_eq hm 1

/-- LCNT's result is a single register (R351). -/
theorem refuses_lcnt (f : RFmt) (hwf : WellFormed (.lcnt f) = true) : Refuses (.lcnt f) f ⟨if f.flag0 then 0 else 1, 0, 0, 0⟩ := by
  have single : pairOf f.t = 1 := by
    rw [wellFormed_lcnt, Bool.and_eq_true, Bool.and_eq_true] at hwf
    obtain ⟨⟨hok, -⟩, -⟩ := hwf
    rw [pairOf, List.mem_singleton.1 (RSpec.t_of_ok hok)]
    rfl
  have shape : redShape f 0 f.flag0 = ⟨if f.flag0 then 0 else 1, 0, 0, 0⟩ := by rw [redShape, single]
  exact shape ▸ .of_collect fun s => (rfl : _ = execLcnt f s)

/-- Every R-format word refuses registers out of place. -/
theorem refuses_of_rForm {i : Instr} {f : RFmt} {sh : RShape} (h : rForm i = some (f, sh)) (hwf : WellFormed i = true) : Refuses i f sh := by
  cases i <;> cases h
  case iadd.refl => exact .of_intBinary fun s => (rfl : _ = execIadd f s)
  case isub.refl => exact .of_intBinary fun s => (rfl : _ = execIsub f s)
  case imin.refl => exact .of_intBinary fun s => (rfl : _ = execImin f s)
  case imax.refl => exact .of_intBinary fun s => (rfl : _ = execImax f s)
  case imul.refl => exact .of_intBinary fun s => (rfl : _ = execImul f s)
  case imulh.refl => exact .of_intBinary fun s => (rfl : _ = execImulh f s)
  case isad.refl => exact .of_intTernary fun s => (rfl : _ = execIsad f s)
  case imad.refl => exact .of_intTernary fun s => (rfl : _ = execImad f s)
  case andOp.refl => exact .of_bitBinary fun s => (rfl : _ = execAnd f s)
  case orOp.refl => exact .of_bitBinary fun s => (rfl : _ = execOr f s)
  case xorOp.refl => exact .of_bitBinary fun s => (rfl : _ = execXor f s)
  case andn.refl => exact .of_bitBinary fun s => (rfl : _ = execAndn f s)
  case shl.refl => exact .of_shiftWord fun s => (rfl : _ = execShl f s)
  case shr.refl => exact .of_shiftWord fun s => (rfl : _ = execShr f s)
  case sar.refl => exact .of_shiftWord fun s => (rfl : _ = execSar f s)
  case rot.refl => exact .of_shiftWord fun s => (rfl : _ = execRot f s)
  case fadd.refl => exact .of_fpBinary fun s => (rfl : _ = execFadd f s)
  case fsub.refl => exact .of_fpBinary fun s => (rfl : _ = execFsub f s)
  case fmul.refl => exact .of_fpBinary fun s => (rfl : _ = execFmul f s)
  case fmin.refl => exact .of_fpMinMax fun s => (rfl : _ = execFmin f s)
  case fmax.refl => exact .of_fpMinMax fun s => (rfl : _ = execFmax f s)
  case frcp.refl => exact .of_fpSpecial fun s => (rfl : _ = execFrcp f s)
  case frsq.refl => exact .of_fpSpecial fun s => (rfl : _ = execFrsq f s)
  case fsqrt.refl => exact .of_fpSpecial fun s => (rfl : _ = execFsqrt f s)
  case fexp2.refl => exact .of_fpSpecial fun s => (rfl : _ = execFexp2 f s)
  case flog2.refl => exact .of_fpSpecial fun s => (rfl : _ = execFlog2 f s)
  case fsin.refl => exact .of_fpSpecial fun s => (rfl : _ = execFsin f s)
  case fcos.refl => exact .of_fpSpecial fun s => (rfl : _ = execFcos f s)
  case ftanh.refl => exact .of_fpSpecial fun s => (rfl : _ = execFtanh f s)
  case fdot2.refl => exact .of_fpDot fun s => (rfl : _ = execFdot2 f s)
  case fdot4.refl => exact .of_fpDot fun s => (rfl : _ = execFdot4 f s)
  case hadd2.refl => exact .of_halfWord (cUsed := false) fun s => (rfl : _ = execHadd2 f s)
  case hmul2.refl => exact .of_halfWord (cUsed := false) fun s => (rfl : _ = execHmul2 f s)
  case hfma2.refl => exact .of_halfWord (cUsed := true) fun s => (rfl : _ = execHfma2 f s)
  case iabs.refl => exact .of_rExec (execIabs_eq f)
  case imadw.refl => exact .of_rExec (execImadw_eq f)
  case notOp.refl => exact .of_rExec (execNot_eq f)
  case lmix.refl => exact .of_rExec (execLmix_eq f)
  case fshl.refl => exact .of_rExec (execFshl_eq hwf)
  case bfe.refl => exact .of_rExec (execBfe_eq f)
  case bfi.refl => exact .of_rExec (execBfi_eq f)
  case popc.refl => exact .of_rExec (execPopc_eq f)
  case clz.refl => exact .of_rExec (execClz_eq f)
  case brev.refl => exact .of_rExec (execBrev_eq f)
  case rbyte.refl => exact .of_rExec (execRbyte_eq f)
  case sel.refl => exact .of_rExec (execSel_eq f)
  case mov.refl => exact .of_rExec (execMov_eq f)
  case lea.refl => exact .of_rExec (execLea_eq f)
  case ffma.refl => exact .of_rExec (execFfma_eq f)
  case fclass.refl => exact .of_rExec (execFclass_eq f)
  case f2i.refl => exact .of_rExec (execF2i_eq f)
  case i2f.refl => exact .of_rExec (execI2f_eq f)
  case funpk.refl => exact .of_rExec (execFunpk_eq f)
  case frnd.refl => exact .of_rExec (execFrnd_eq f)
  case slx.refl => exact refuses_slx f
  case icmp.refl => exact .of_pExec (execIcmp_eq f)
  case fcmp.refl => exact .of_pExec (execFcmp_eq f)
  case plop.refl => exact .of_pExec (execPlop_eq f)
  case rdsr.refl => exact refuses_rdsr f
  case wrsr.refl => exact refuses_wrsr f
  case iaddc.refl => exact refuses_iaddc f
  case pmov.refl => exact refuses_pmov f hwf
  case ballot.refl => exact refuses_ballot f
  case vchk.refl => exact refuses_vchk f
  case fcvt.refl => exact refuses_fcvt f
  case fpack.refl => exact refuses_fpack f
  case lred.refl => exact .of_collect (a := pairOf f.t) (sd := f.flag0) fun s => (rfl : _ = execLred f s)
  case lscan.refl => exact .of_collect (a := pairOf f.t) (sd := false) fun s => (rfl : _ = execLscan f s)
  case lcnt.refl => exact refuses_lcnt f hwf

/-! ### The statement -/

/-- Settles O16: the register files by what reads after a write, the trap by the form of each word. -/
theorem registerFileRules : Obligations.RegisterFileRules := by
  refine ⟨fun k i j => ⟨rfl, rfl, fun _ => rfl, fun _ => rfl, fun x h => ?_, fun m h => ?_, fun m => getD_setAt 0 k.rj i j m,
    fun h => getD_setAt HReg.none k.handles i j h, fun x r q l m hl hm => k.raw_setV r q l m x hl hm⟩,
    fun i f sh h hwf s c => refuses_of_rForm h hwf s c⟩
  · simp [Skein.s_setS, h]
  · simp [Skein.p_setP, h.ne]

end Sys2Proof.Machine
end
